-- ==== Sys2Proof/Word.lean ====
section
/-! DEFINITION. Sys2Proof/Word.lean: the word types of the block and nothing else. -/
namespace Sys2Proof

/-- One byte of memory (R5: byte 0 of a value holds bits [7:0]). -/
abbrev Byte := BitVec 8

/-- A 4-byte register or word. -/
abbrev Word32 := BitVec 32

/-- An 8-byte register or quadword. -/
abbrev Word64 := BitVec 64

end Sys2Proof
end

