-- ==== Sys2Proof/Syntax.lean ====
section
/-! DEFINITION. Sys2Proof/Syntax.lean: the commands and events of the block, one constructor for each row of
spec/opcode_table.json, and the plain data their operands carry (requests, replies, flits). -/
namespace Sys2Proof

/-- A sequencer (R32, Table 2.6): `tile t s` is SEQ[t][s]; `die d q` is the sequencer of die-level engine page
pair `q` (in Table 2.5 order) of die `d` (0 West, 1 East). -/
inductive SeqId where
  | tile (t : Fin 160) (s : Fin 6)
  | die (d : Fin 2) (q : Fin 22)
  deriving DecidableEq, Repr

/-- The BLK_IDENT instance number of a sequencer page (R32, Table 2.6). -/
def SeqId.inst : SeqId → Nat
  | .tile t s => 8 * t.val + s.val
  | .die d q => 0x8000 + 256 * d.val + q.val

/-- The tag of an atomic in the replay filter, with its issue time (R200, R202), and the channel it came in (R196). -/
structure Tag where
  src : Nat
  ctx : Nat
  seq : Nat
  issueTime : Nat
  vc : Nat := 0
  deriving DecidableEq, Repr

/-- A request (R195, Table 9.4; `last` is the LAST bit of Table 10.4). `data` holds the store data or the atomic's
operand bytes, `cmp` the CAS compare value, and `more` the tags of the further constituents of a combined atomic (R207). -/
structure Request where
  op : Nat
  addr : Nat
  size : Nat
  src : Nat
  ctx : Nat
  part : Nat
  vc : Nat
  isolated : Bool
  det : Bool := false
  comb : Bool := false
  seq : Nat
  retry : Bool := false
  issueTime : Nat := 0
  epv : Bool := false
  epoch : Nat := 0
  last : Bool := true
  data : List Byte := []
  cmp : Nat := 0
  more : List Tag := []
  deriving DecidableEq, Repr

/-- A reply (R195, Table 9.5). `dst` is the request's SRC; `more` holds the status of each further constituent of a
combined atomic, in the order of the request's `more` (R207); `base` is the placement entry's BASE, which R217 needs and
Table 9.5 does not list; `router` says that a router, not the destination, answered (R209, R292). Log entry 197 places them in
the packet. -/
structure Reply where
  status : Nat
  dst : Nat
  ctx : Nat
  seq : Nat
  data : List Byte := []
  newOwner : Nat := 0
  newBase : Nat := 0
  newEpoch : Nat := 0
  base : Nat := 0
  router : Bool := false
  more : List Nat := []
  deriving DecidableEq, Repr

/-- A packet on its way through a router (R224), with its dateline subclass (R232) and the port it came in by; a reply
with the partition of its request, 4,096 where this device does not know it. -/
inductive Packet where
  | req (r : Request) (sub : Nat) (inPort : Nat)
  | rep (r : Reply) (part sub : Nat) (inPort : Nat)
  deriving DecidableEq, Repr

/-- A flit slot as it arrives (R223, R225, R229): its 256 bytes, the lane that carried it, whether its codeword pair had an
uncorrectable codeword, the uncorrectable codewords and corrected symbols that decoding counts with it, and the lanes' eye heights
where they are measured as it arrives (R318). -/
structure Flit where
  bytes : List Byte
  lane : Fin 9 := 0
  pairBad : Bool := false
  uncorr : Nat := 0
  corrected : Nat := 0
  eyes : List Nat := []
  deriving DecidableEq, Repr

/-- What training found of a port's lanes (R228, R229, R318): those received inverted, those that did not train, and the eye heights
as trained. -/
structure LanesFound where
  inverted : List (Fin 9) := []
  failed : List (Fin 9) := []
  eyes : List Nat := []
  deriving DecidableEq, Repr

/-- The power state of the PCIe function (Table 10.9). -/
inductive PciePower where
  | d0 | d3hot
  deriving DecidableEq, Repr

/-- What the host has set in the configuration space of the PCIe function (R237, Table 10.9): max payload size and max read request
size in bytes, the enable and the function mask of its MSI-X capability, and its power state. -/
structure PcieCfg where
  maxPayload : Nat := 128
  maxRead : Nat := 512
  msixEnable : Bool := false
  msixMask : Bool := false
  power : PciePower := .d0
  deriving DecidableEq, Repr

/-- The rest of what HST.LINK and the function show as the PCIe link changes (R237, R246): its LTSSM state and the host's settings. -/
structure PcieShown where
  ltssm : Nat
  cfg : PcieCfg := {}
  deriving DecidableEq, Repr

/-- What comes of a read issued to HBM (R287, R296): the symbols of its burst that have come to be in error, and, once the read eye's
centre has moved, what the shadow samplers show: the move since boot, the narrowest eye and its pin. -/
structure BurstFound where
  errs : List (Nat × Nat) := []
  eye : Option (Byte × Byte × Fin 36) := none
  deriving DecidableEq, Repr

/-- An access of a traffic generator (R297, R298): its time in 10 ns, and the symbols of its burst that have come to be in error. -/
structure TestSlot where
  t : Nat
  errs : List (Nat × Nat) := []
  deriving DecidableEq, Repr

/-- A refresh slot (R287): the pseudo-channel, the time in 10 ns, the reports its on-die ECC has made, the bank, and whether it is
refresh management against row hammer and not the bank's refresh. -/
structure RefreshSlot where
  pc : Fin 512
  t : Nat
  reports : Nat
  bank : Fin 16 := 0
  manage : Bool := false
  deriving DecidableEq, Repr

/-- A unit that fails (R347, R357) and, for a MESH_LINK unit, the physical tiles at its ends; for an HBM_ROW unit whose test failed, the
parts that did, pins and 64 + rows. -/
structure FailedUnit where
  unit : Nat
  ends : List Nat := []
  deriving DecidableEq, Repr

/-- A scrub's read-back (R338): the bursts that read non-zero or uncorrectable, and those that fail after their repair. -/
structure ReadBack where
  bad : List Nat := []
  still : List Nat := []
  deriving DecidableEq, Repr

/-- Who sends a request to HBM, as far as its class depends on it (R294): an embedding engine, a collective engine that reads an
ALL_GATHER source, an optimiser's COPY with its PRIO, a Tile Control Core or Barista core, a remote request in its VC, others. -/
inductive HbmSender where
  | embedding | gatherSource | copy (prio : Bool) | core | remote (vc : Nat) | other
  deriving DecidableEq, Repr

/-- A request to one 32-byte burst of a pseudo-channel (R292–R295): its sender, pseudo-channel offset and length inside
the burst, the bytes of a write, the partition it is counted to, and when it arrived, in units of 10 ns; `own` marks an access of this
device's own agents, which performs itself once its turn has come. -/
structure HbmReq where
  sender : HbmSender
  off : Nat
  len : Nat := 32
  data : Option (List Byte) := none
  part : Nat := 0
  since : Nat := 0
  own : Bool := false
  deriving DecidableEq, Repr

/-- The PCIe AtomicOps the host function completes (R237, R239). -/
inductive HostAtomic where
  | fetchAdd | swap | cas
  deriving DecidableEq, Repr

/-- What the comparison of the rails shows (R371): RAIL_STAT, bit g for Kettle group g in tolerance, and whether a rail that is out has
been so for 10 µs. -/
structure RailsShown where
  stat : Nat := 15
  long : Bool := true
  deriving DecidableEq, Repr

/-- A READ32 or WRITE32 of the management target (R374): the local offset, and in legacy I2C mode the address on the bus. -/
structure I3cAccess where
  off : Nat
  addr : Option Nat := none
  deriving DecidableEq, Repr

/-- A transfer of the management target that begins with another command byte (R374): 0x10 RECOVERY with its image bytes, or one that no
command has. -/
structure I3cTransfer where
  data : List Byte
  cmd : Nat := 0x10
  addr : Option Nat := none
  deriving DecidableEq, Repr

/-- What the device meets at the release of RESET_N (R327, R376): straps, the rail groups in tolerance (RAIL_STAT, R371), the reference
clock, the cells of the PUF array found flipped (R332), calibration
and self-test results, the time each of steps 1 to 8 takes in µs, and the step that does not end, 0 for none. -/
structure BootEnv where
  stall : Nat := 0
  times : List Nat := []
  boardPos : Fin 8 := 0
  hostMode : Bool := false
  rails : Nat := 15
  clockOk : Bool := true
  pufCells : Nat := 0
  cores : Nat := 15
  vf : List (List Nat) := []
  badTiles : List Nat := []
  badSeqs : List Nat := []
  lostStacks : List Nat := []
  pprOk : Bool := true
  pcieClock : Bool := false
  deriving DecidableEq, Repr

/-- What a binding record names (Table 3.11): a logical tile, or the die-level engine sequencer i = 22d + q. -/
inductive LoadUnit where
  | tile (t : Fin 160)
  | engine (i : Fin 44)
  deriving DecidableEq, Repr

/-- A binding record (Table 3.11), whose bytes no table of the spec lays out: for each sequencer of the unit its schedules,
each a list of table indices; for each thread its entry point as a code offset. -/
structure LoadBind where
  unit : LoadUnit
  scheds : List (List (List Nat))
  entries : List (Option Nat)
  deriving DecidableEq, Repr

/-- The commands and events, one constructor for each row of spec/opcode_table.json. `p` is the requester's
partition ID where a command is a register access (R28). -/
inductive Instr where
  /-- REGISTER_WRITE (R7). -/
  | registerWrite (p : Nat) (off size : Nat) (val : Word64)
  /-- SOFT_RESET (R34). -/
  | softReset (p off : Nat) (val : Word32)
  /-- ENABLE (R387). -/
  | enable (p off : Nat) (val : Word32)
  /-- DRAIN (R59). -/
  | drain (p off : Nat) (val : Word32)
  /-- LOCK (R33). -/
  | lock (p off : Nat) (val : Word32)
  /-- SEG_DATA (R24). -/
  | segData (p : Nat) (val : Word32)
  /-- TILE_OWNER (R24). -/
  | tileOwner (p : Nat) (t : Fin 160) (val : Word32)
  /-- ENG_OWNER (R24). -/
  | engOwner (p : Nat) (i : Fin 44) (val : Word32)
  /-- REPUBLISH (R38). -/
  | republish
  /-- CMD_NOP (R42). -/
  | cmdNop (q : SeqId)
  /-- CMD_RUN (R48). -/
  | cmdRun (q : SeqId)
  /-- CREDIT_GRANT (R311). -/
  | creditGrant (q : SeqId)
  /-- STEP_WAIT_MET (R51). -/
  | stepWaitMet (q : SeqId)
  /-- EMIT_AFTER_QUEUE_SPACE (R51). -/
  | emitAfterQueueSpace (q : SeqId)
  /-- TOKEN_ARRIVE (R51). -/
  | tokenArrive (q : SeqId)
  /-- TABLE_COMPLETE (R42). -/
  | tableComplete (q : SeqId)
  /-- SEQ_WAIT_TIMEOUT (R52). -/
  | seqWaitTimeout (q : SeqId)
  /-- TCC_INSTRUCTION (R56). -/
  | tccInstruction (t : Fin 160)
  /-- WAITA (R57). -/
  | waita (t : Fin 160)
  /-- WAITA_WAKE (R57). -/
  | waitaWake (t : Fin 160) (n : Fin 8)
  /-- WAITA_TIMEOUT (R57). -/
  | waitaTimeout (t : Fin 160) (n : Fin 8)
  /-- ECALL (R58). -/
  | ecall (t : Fin 160)
  /-- EBREAK (R362). -/
  | ebreak (t : Fin 160)
  /-- AMO (R194). -/
  | amo (t : Fin 160)
  /-- RAMO (R194). -/
  | ramo (t : Fin 160)
  /-- FSTORE (R194). -/
  | fstore (t : Fin 160)
  /-- RFENCE (R194). -/
  | rfence (t : Fin 160)
  /-- RFENCE_RESUME (R194). -/
  | rfenceResume (t : Fin 160) (n : Fin 8)
  /-- SEQ_GO (R58). -/
  | seqGo (p : Nat) (t : Fin 160) (val : Word32)
  /-- THR_START (R58). -/
  | thrStart (p : Nat) (t : Fin 160) (val : Word32)
  /-- LOADER_LOAD (R60). -/
  | loaderLoad (k : Fin 16) (block : List Byte) (binds : List LoadBind)
  /-- LOADER_UNLOAD (R60). -/
  | loaderUnload (k : Fin 16) (block : List Byte)
  /-- MXA_CONFIG (R71). -/
  | mxaConfig (t : Fin 160) (a : Fin 2)
  /-- MXA_LOAD (R81). -/
  | mxaLoad (t : Fin 160) (a : Fin 2)
  /-- MXA_PASS (R73). -/
  | mxaPass (t : Fin 160) (a : Fin 2)
  /-- DRAIN_VERDICT (R90). -/
  | drainVerdict (t : Fin 160) (a : Fin 2)
  /-- LATE_TOKEN_LEAVE (R77). -/
  | lateTokenLeave (q : SeqId)
  /-- LAY_CONFIG (R126). -/
  | layConfig (t : Fin 160)
  /-- COPY (R126). -/
  | copy (t : Fin 160)
  /-- TRANSPOSE (R126). -/
  | transpose (t : Fin 160)
  /-- SKEW_STREAM (R390). -/
  | skewStream (t : Fin 160)
  /-- SKEW_STAT (R390). -/
  | skewStat (t : Fin 160)
  /-- PACK24 (R129). -/
  | pack24 (t : Fin 160)
  /-- QUANT (R130). -/
  | quant (t : Fin 160)
  /-- DEQUANT (R130). -/
  | dequant (t : Fin 160)
  /-- ROWQUANT (R130). -/
  | rowquant (t : Fin 160)
  /-- TILE_PACK (R131). -/
  | tilePack (t : Fin 160)
  /-- TILE_UNPACK (R132). -/
  | tileUnpack (t : Fin 160)
  /-- BLOCKLIST (R133). -/
  | blocklist (t : Fin 160)
  /-- LAY_INFLIGHT_RELEASE (R128). -/
  | layInflightRelease (t : Fin 160)
  /-- PTW_ADD (R134). -/
  | ptwAdd (t : Fin 160)
  /-- PTW_SUB (R134). -/
  | ptwSub (t : Fin 160)
  /-- PTW_MUL (R134). -/
  | ptwMul (t : Fin 160)
  /-- PTW_FMA (R134). -/
  | ptwFma (t : Fin 160)
  /-- PTW_MAX (R134). -/
  | ptwMax (t : Fin 160)
  /-- PTW_MIN (R134). -/
  | ptwMin (t : Fin 160)
  /-- PTW_FUNC (R135). -/
  | ptwFunc (t : Fin 160)
  /-- ROWSUM (R136). -/
  | rowsum (t : Fin 160)
  /-- ROWSUMSQ (R136). -/
  | rowsumsq (t : Fin 160)
  /-- ROWMAX (R134). -/
  | rowmax (t : Fin 160)
  /-- SOFTMAX (R137). -/
  | softmax (t : Fin 160)
  /-- BPM_ALLOC_READ (R139). -/
  | bpmAllocRead (p : Nat) (d : Fin 2) (k : Fin 4)
  /-- ALLOC_SZ (R139). -/
  | allocSz (p : Nat) (d : Fin 2) (k : Fin 65)
  /-- BPM_FREE_WRITE (R140). -/
  | bpmFreeWrite (p : Nat) (d : Fin 2) (val : Word32)
  /-- POOL_CONFIG_WRITE (R138). -/
  | poolConfigWrite (p : Nat) (d : Fin 2) (off size : Nat) (val : Word64)
  /-- BPM_ALLOC_OP (R141). -/
  | bpmAllocOp (d : Fin 2)
  /-- BPM_FREE_OP (R141). -/
  | bpmFreeOp (d : Fin 2)
  /-- BPM_PORT_REQUEST (R142). -/
  | bpmPortRequest (d : Fin 2) (src : SeqId) (word : Word64)
  /-- BPM_WAITER_SERVED (R139). -/
  | bpmWaiterServed (d : Fin 2) (k : Fin 4)
  /-- RTE_CONFIG (R145). -/
  | rteConfig (d : Fin 2) (j : Fin 2)
  /-- ROUTE (R146). -/
  | route (d : Fin 2) (j : Fin 2)
  /-- XCH_CONFIG (R152). -/
  | xchConfig (d : Fin 2) (j : Fin 2)
  /-- COUNTS (R157). -/
  | counts (d : Fin 2) (j : Fin 2)
  /-- XCH_COUNTS_RECEIVED (R157). -/
  | xchCountsReceived (d : Fin 2) (j : Fin 2)
  /-- XCH_GRANTS_RECEIVED (R157). -/
  | xchGrantsReceived (d : Fin 2) (j : Fin 2)
  /-- DISPATCH (R159). -/
  | dispatch (d : Fin 2) (j : Fin 2)
  /-- DISPATCH_BWD (R162). -/
  | dispatchBwd (d : Fin 2) (j : Fin 2)
  /-- XCH_DATA_ITER_COMPLETE (R159). -/
  | xchDataIterComplete (d : Fin 2) (j : Fin 2)
  /-- RETURN (R160). -/
  | returnRows (d : Fin 2) (j : Fin 2)
  /-- RETURN_BWD (R162). -/
  | returnBwd (d : Fin 2) (j : Fin 2)
  /-- COMBINE (R161). -/
  | combine (d : Fin 2) (j : Fin 2)
  /-- COMBINE_BWD (R162). -/
  | combineBwd (d : Fin 2) (j : Fin 2)
  /-- XCH_RETURNS_RECEIVED (R161). -/
  | xchReturnsReceived (d : Fin 2) (j : Fin 2)
  /-- STEP_CLEAR (R151). -/
  | stepClear (d : Fin 2) (j : Fin 2)
  /-- XCH_HEADER_ARRIVE (R155). -/
  | xchHeaderArrive (d : Fin 2) (j : Fin 2) (off : Nat)
  /-- XCH_PHASE_TIMEOUT (R164). -/
  | xchPhaseTimeout (d : Fin 2) (j : Fin 2)
  /-- XSEQ_WRITE (R164). -/
  | xseqWrite (p : Nat) (d : Fin 2) (j : Fin 2) (val : Word32)
  /-- EMB_CONFIG (R170). -/
  | embConfig (d : Fin 2) (j : Fin 4)
  /-- PREP (R171). -/
  | prep (d : Fin 2) (j : Fin 4)
  /-- SORT (R173). -/
  | sort (d : Fin 2) (j : Fin 4)
  /-- GATHER (R174). -/
  | gather (d : Fin 2) (j : Fin 4)
  /-- EMB_HOT_HEADERS_RECEIVED (R185). -/
  | embHotHeadersReceived (d : Fin 2) (j : Fin 4)
  /-- POOL (R177). -/
  | pool (d : Fin 2) (j : Fin 4)
  /-- SCATTER (R178). -/
  | scatter (d : Fin 2) (j : Fin 4)
  /-- PUSH (R179). -/
  | push (d : Fin 2) (j : Fin 4)
  /-- PUSH_REPLIES_DONE (R180). -/
  | pushRepliesDone (d : Fin 2) (j : Fin 4)
  /-- EMB_HEADER_ARRIVE (R179). -/
  | embHeaderArrive (d : Fin 2) (j : Fin 4) (m : Nat)
  /-- APPLY (R181). -/
  | apply (d : Fin 2) (j : Fin 4)
  /-- EMB_UPDATE_HEADERS_RECEIVED (R181). -/
  | embUpdateHeadersReceived (d : Fin 2) (j : Fin 4)
  /-- EMB_PHASE_TIMEOUT (R181). -/
  | embPhaseTimeout (d : Fin 2) (j : Fin 4)
  /-- REFRESH (R184). -/
  | refresh (d : Fin 2) (j : Fin 4)
  /-- HOT_HEADER_ARRIVE (R184). -/
  | hotHeaderArrive (d : Fin 2) (j : Fin 4) (m : Nat)
  /-- REMOTE_LOAD (R192). -/
  | remoteLoad (port : Fin 34) (r : Request)
  /-- REMOTE_STORE (R192). -/
  | remoteStore (port : Fin 34) (r : Request)
  /-- FLAGGED_STORE (R198). -/
  | flaggedStore (port : Fin 34) (r : Request)
  /-- FLAG_DEVICE_PERFORM (R198). -/
  | flagDevicePerform
  /-- FLAG_ALL_RELEASE (R199). -/
  | flagAllRelease (ctx : Nat)
  /-- ATOMIC_ADD (R191). -/
  | atomicAdd (port : Fin 34) (r : Request)
  /-- ATOMIC_MIN (R191). -/
  | atomicMin (port : Fin 34) (r : Request)
  /-- ATOMIC_MAX (R191). -/
  | atomicMax (port : Fin 34) (r : Request)
  /-- ATOMIC_SWAP (R191). -/
  | atomicSwap (port : Fin 34) (r : Request)
  /-- ATOMIC_CAS (R191). -/
  | atomicCas (port : Fin 34) (r : Request)
  /-- ATOMIC_AND (R191). -/
  | atomicAnd (port : Fin 34) (r : Request)
  /-- ATOMIC_OR (R191). -/
  | atomicOr (port : Fin 34) (r : Request)
  /-- ATOMIC_XOR (R191). -/
  | atomicXor (port : Fin 34) (r : Request)
  /-- REPLY_ARRIVE (R203). -/
  | replyArrive (port : Fin 34) (r : Reply)
  /-- REQUEST_REISSUE (R201). -/
  | requestReissue (id : Nat)
  /-- WAIT_REISSUE (R216). -/
  | waitReissue (id : Nat)
  /-- FILTER_BUSY_REISSUE (R202). -/
  | filterBusyReissue (id : Nat)
  /-- SEQ_HOLD_RELEASE (R200). -/
  | seqHoldRelease (ctx : Nat)
  /-- GANG_LOST (R210). -/
  | gangLost (id : Nat)
  /-- ISO_TIMEOUT (R211). -/
  | isoTimeout (id : Nat)
  /-- COMB_WINDOW_CLOSE (R206). -/
  | combWindowClose (i : Nat)
  /-- FILTER_ENTRY_EXPIRE (R202). -/
  | filterEntryExpire (set : Fin 4096)
  /-- PART_ENTRY_VALID_SET (R219). -/
  | partEntryValidSet (p : Nat) (k : Fin 16) (val : Word64)
  /-- PARTITION_TEARDOWN (R214). -/
  | partitionTeardown (p : Nat) (k : Fin 16) (val : Word64)
  /-- MIG_DRAIN (R218). -/
  | migDrain (p : Nat) (val : Word32)
  /-- MIG_HANDOVER (R218). -/
  | migHandover (p : Nat) (val : Word32)
  /-- MIG_TRANSFER (R218). -/
  | migTransfer
  /-- MIG_FREE (R218). -/
  | migFree (p : Nat) (val : Word32)
  /-- REPLAY_WINDOW_WRITE (R220). -/
  | replayWindowWrite (p : Nat) (val : Word32)
  /-- REPLAY_WINDOW_LOWER_DONE (R220). -/
  | replayWindowLowerDone
  /-- DATA_FLIT_RECEIVE (R225). -/
  | dataFlitReceive (p : Fin 32) (f : Flit)
  /-- CONTROL_FLIT_RECEIVE (R223). -/
  | controlFlitReceive (p : Fin 32) (f : Flit)
  /-- REPLAY_STORM (R227). -/
  | replayStorm (p : Fin 32)
  /-- LINK_UP (R228). -/
  | linkUp (p : Fin 32) (reversed : Bool) (lanes : LanesFound)
  /-- LINK_TRAIN_TIMEOUT (R228). -/
  | linkTrainTimeout (p : Fin 32)
  /-- TRAIN_RETRY_TIMER (R228). -/
  | trainRetryTimer (p : Fin 32)
  /-- LANE_FAIL (R229). -/
  | laneFail (p : Fin 32) (lane : Fin 9)
  /-- LINK_IDENT (R230). -/
  | linkIdent (p : Fin 32) (peer : Word64) (delay : Nat)
  /-- LNK_RETRAIN (R244). -/
  | lnkRetrain (q : Nat) (p : Fin 32) (val : Word32)
  /-- LNK_SPARE (R229). -/
  | lnkSpare (q : Nat) (p : Fin 32) (val : Word32)
  /-- LNK_RETRY (R229). -/
  | lnkRetry (q : Nat) (p : Fin 32) (val : Word32)
  /-- LNK_CFG_WRITE (R244). -/
  | lnkCfgWrite (q : Nat) (p : Fin 32) (val : Word32)
  /-- CREDIT_WRITE (R244). -/
  | creditWrite (q : Nat) (p : Fin 32) (val : Word32)
  /-- ROUTE_PACKET (R235). -/
  | routePacket (port : Fin 34)
  /-- PACKET_SEND (R233). -/
  | packetSend (port : Fin 34)
  /-- CREDIT_TIMEOUT (R231). -/
  | creditTimeout (port : Fin 34) (vc : Fin 8)
  /-- RT_DATA_WRITE (R243). -/
  | rtDataWrite (p : Nat) (val : Word32)
  /-- PSET_DATA_WRITE (R243). -/
  | psetDataWrite (p : Nat) (val : Word64)
  /-- WEIGHTS_WRITE (R233). -/
  | weightsWrite (p : Nat) (port : Fin 34) (val : Word64)
  /-- HOST_BAR0_ACCESS (R238). -/
  | hostBar0Access (write : Bool) (off size : Nat) (val : Word64)
  /-- HOST_BAR2_READ (R239). -/
  | hostBar2Read (off size tag : Nat)
  /-- HOST_BAR2_WRITE (R239). -/
  | hostBar2Write (off : Nat) (data : List Byte)
  /-- HOST_BAR2_ATOMIC (R239). -/
  | hostBar2Atomic (kind : HostAtomic) (off size : Nat) (val cmp : Word64) (tag : Nat)
  /-- HOST_READ_RELEASE (R239). -/
  | hostReadRelease (slot : Fin 64)
  /-- HOST_UR (R237). -/
  | hostUr (off : Option Nat)
  /-- DEVICE_TO_HOST_REQUEST (R241). -/
  | deviceToHostRequest
  /-- MSIX_HOLDOFF_EXPIRE (R242). -/
  | msixHoldoffExpire (v : Fin 64)
  /-- PCIE_LINK_CHANGE (R241). -/
  | pcieLinkChange (up : Bool) (rate width : Nat) (shown : PcieShown)
  /-- COL_CONFIG (R252). -/
  | colConfig (d : Fin 2) (j : Fin 4)
  /-- CONTRIB (R253). -/
  | contrib (d : Fin 2) (j : Fin 4)
  /-- FINISH (R254). -/
  | finish (d : Fin 2) (j : Fin 4)
  /-- COL_PIECE_ARRIVE (R260). -/
  | colPieceArrive (d : Fin 2) (j : Fin 4) (off src : Nat)
  /-- COL_READY (R256). -/
  | colReady (d : Fin 2) (j : Fin 4) (off : Nat)
  /-- COL_ACK (R260). -/
  | colAck (d : Fin 2) (j : Fin 4) (off : Nat)
  /-- COL_NAK (R260). -/
  | colNak (d : Fin 2) (j : Fin 4) (off : Nat)
  /-- COL_EXCLUDE (R259). -/
  | colExclude (d : Fin 2) (j : Fin 4) (off : Nat)
  /-- COL_RETARGET (R258). -/
  | colRetarget (d : Fin 2) (j : Fin 4) (off : Nat)
  /-- COL_RACK (R258). -/
  | colRack (d : Fin 2) (j : Fin 4) (off : Nat)
  /-- COL_DEADLINE (R257). -/
  | colDeadline (d : Fin 2) (j : Fin 4)
  /-- COL_PHASE_TIMEOUT (R269). -/
  | colPhaseTimeout (d : Fin 2) (j : Fin 4)
  /-- STA_AMAX (R268). -/
  | staAmax (d : Fin 2)
  /-- OPT_CONFIG (R273). -/
  | optConfig (d : Fin 2) (j : Fin 4)
  /-- UPDATE (R275). -/
  | update (d : Fin 2) (j : Fin 4)
  /-- CAST (R280). -/
  | cast (d : Fin 2) (j : Fin 4)
  /-- OPT_COPY (R282). -/
  | optCopy (d : Fin 2) (j : Fin 4)
  /-- HBM_ISSUE (R295). -/
  | hbmIssue (pc : Fin 512) (t : Nat) (arrivals : List HbmReq) (found : BurstFound)
  /-- BULK_AGE_EXPIRE (R295). -/
  | bulkAgeExpire (pc : Fin 512) (t : Nat)
  /-- HBM_REFRESH (R287). -/
  | hbmRefresh (r : RefreshSlot)
  /-- HBM_WRITE_TRAINING (R296). -/
  | hbmWriteTraining (pc : Fin 512) (t hold : Nat) (drift eye : Byte) (pin : Fin 36)
  /-- HBM_PATROL_READ (R298). -/
  | hbmPatrolRead (pc : Fin 512) (x : TestSlot)
  /-- TGC_TEST_ACCESS (R297). -/
  | tgcTestAccess (c : Fin 256) (x : TestSlot)
  /-- TGC_MODE_OFF (R297). -/
  | tgcModeOff (p : Nat) (c : Fin 256) (val : Word32)
  /-- TGC_MODE_BRINGUP (R297). -/
  | tgcModeBringup (p : Nat) (c : Fin 256) (val : Word32)
  /-- TGC_MODE_IDLE_FILL (R297). -/
  | tgcModeIdleFill (p : Nat) (c : Fin 256) (val : Word32)
  /-- TGC_MODE_PATROL (R298). -/
  | tgcModePatrol (p : Nat) (c : Fin 256) (val : Word32)
  /-- HBM_REPAIR (R300). -/
  | hbmRepair (pc : Fin 512)
  /-- HBM_CMD_LANE_REPAIR (R302). -/
  | hbmCmdLaneRepair (p : Nat) (i : Fin 32) (val : Word32)
  /-- HBM_CMD_REMAP_ROW (R302). -/
  | hbmCmdRemapRow (p : Nat) (i : Fin 32) (val : Word32)
  /-- HBM_CMD_MARK_ERASURE (R302). -/
  | hbmCmdMarkErasure (p : Nat) (i : Fin 32) (val : Word32)
  /-- HBM_CMD_RETRAIN (R302). -/
  | hbmCmdRetrain (p : Nat) (i : Fin 32) (val : Word32)
  /-- KETTLE_BIN (R308). -/
  | kettleBin
  /-- HOLD_LIMIT_EXPIRE (R314). -/
  | holdLimitExpire (q : SeqId)
  /-- RAISE_DELAY_EXPIRE (R314). -/
  | raiseDelayExpire (n : Fin 20)
  /-- DTARGET_WRITE (R314). -/
  | dtargetWrite (p : Nat) (n : Fin 20) (val : Word32)
  /-- FREQ_CHANGE (R315). -/
  | freqChange (n : Fin 20)
  /-- VOLT_TRIM_DOWN (R316). -/
  | voltTrimDown (i : Fin 164) (slackSeen : Nat)
  /-- VOLT_TRIM_UP (R316). -/
  | voltTrimUp (i : Fin 164) (slackSeen : Nat)
  /-- GAIN_UPDATE (R317). -/
  | gainUpdate (sensed : List Nat)
  /-- FLOOR_UPDATE (R317). -/
  | floorUpdate (sensed : List Nat)
  /-- MARK (R321). -/
  | mark (p : Nat) (k : Fin 16) (val : Word32)
  /-- VDD_AON_RISE (R381). -/
  | vddAonRise
  /-- RESET_N_ASSERT (R326). -/
  | resetNAssert
  /-- PWRGD_FALL (R326). -/
  | pwrgdFall
  /-- RESET_CMD (R326). -/
  | resetCmd (p : Nat) (val : Word32)
  /-- THERMTRIP (R326). -/
  | thermtrip
  /-- WATCHDOG_EXPIRE (R326). -/
  | watchdogExpire
  /-- RESET_N_RELEASE (R327). -/
  | resetNRelease (env : BootEnv)
  /-- BOOT_FABRIC_JOIN (R327). -/
  | bootFabricJoin (p : Nat) (val : Word32)
  /-- BOOT_STEP_TIMEOUT (R327). -/
  | bootStepTimeout
  /-- STAGE_GO (R334). -/
  | stageGo (p : Nat) (val : Word32)
  /-- BOOT_SLOT_WRITE (R334). -/
  | bootSlotWrite (p : Nat) (val : Word32)
  /-- OPEN_SESSION (R337). -/
  | openSession (p : Nat) (val : Word32)
  /-- INSTALL_OWNER (R336). -/
  | installOwner (p : Nat) (val : Word32)
  /-- TRANSFER_OWNER (R336). -/
  | transferOwner (p : Nat) (val : Word32)
  /-- INSTALL_OPERATOR (R336). -/
  | installOperator (p : Nat) (val : Word32)
  /-- END_LEASE (R336). -/
  | endLease (p : Nat) (val : Word32)
  /-- RECLAIM (R336). -/
  | reclaim (p : Nat) (val : Word32)
  /-- SESSION_CLOSE (R337). -/
  | sessionClose (p : Nat) (val : Word32)
  /-- SESSION_TIMEOUT (R337). -/
  | sessionTimeout
  /-- QUOTE_GO (R339). -/
  | quoteGo (p : Nat) (val : Word32)
  /-- WEAR_CONDEMN (R346). -/
  | wearCondemn (cls unit : Nat) (slackSeen : Nat) (trim : Bool) (ends parts : List Nat)
  /-- SPARE_BRING_IN (R346). -/
  | spareBringIn (cls unit : Nat) (bad : List Nat)
  /-- UNIT_FAIL (R347). -/
  | unitFail (cls : Nat) (u : FailedUnit)
  /-- CCACHE_BANK_FAIL (R342). -/
  | ccacheBankFail (bank : Nat)
  /-- STATUS_RECORD (R354). -/
  | statusRecord
  /-- SPR_REPLACE (R356). -/
  | sprReplace (p : Nat) (val : Word32)
  /-- LANE_CLEAR (R357). -/
  | laneClear (p : Nat) (val : Word32)
  /-- REGRADE (R357). -/
  | regrade (p : Nat) (val : Word32) (tests : Nat) (failed : List (Nat × FailedUnit))
  /-- SNAP (R359). -/
  | snap (p : Nat) (off : Nat) (val : Word32)
  /-- HALT_REQ (R363). -/
  | haltReq (p : Nat) (t : Fin 160) (val : Word32)
  /-- RESUME (R363). -/
  | resume (p : Nat) (t : Fin 160) (val : Word32)
  /-- DBG_STEP (R363). -/
  | dbgStep (p : Nat) (t : Fin 160) (val : Word32)
  /-- DBG_HALTED (R363). -/
  | dbgHalted (t : Fin 160)
  /-- PART_HALT (R364). -/
  | partHalt (p : Nat) (val : Word32)
  /-- PART_RESUME (R364). -/
  | partResume (p : Nat) (val : Word32)
  /-- REG_DATA_ACCESS (R363). -/
  | regDataAccess (p : Nat) (t : Fin 160) (write : Bool) (val : Word64)
  /-- TAG_DATA_WRITE (R363). -/
  | tagDataWrite (p : Nat) (t : Fin 160) (val : Word32)
  /-- JTAG_EXTEST (R365). -/
  | jtagExtest (bits : List Bool)
  /-- JTAG_SAMPLE_PRELOAD (R365). -/
  | jtagSamplePreload (bits : List Bool)
  /-- JTAG_IDCODE (R365). -/
  | jtagIdcode
  /-- JTAG_DBGACC (R365). -/
  | jtagDbgacc (write : Bool) (off size : Nat) (val : Word64)
  /-- JTAG_BYPASS (R365). -/
  | jtagBypass (code : Nat) (bit : Bool)
  /-- TPULSE_EDGE (R373). -/
  | tpulseEdge
  /-- TPULSE_LOST (R373). -/
  | tpulseLost
  /-- I3C_READ32 (R374). -/
  | i3cRead32 (a : I3cAccess)
  /-- I3C_WRITE32 (R374). -/
  | i3cWrite32 (a : I3cAccess) (val : Word32)
  /-- I3C_RECOVERY (R329). -/
  | i3cRecovery (x : I3cTransfer)
  /-- RAIL_FAULT (R371). -/
  | railFault (r : RailsShown)
  /-- THERMAL_THRESHOLD (R377). -/
  | thermalThreshold (sensor : Nat) (temp : Nat)
  /-- THERMAL_THROTTLE (R378). -/
  | thermalThrottle (n : Fin 20)
  /-- VOLTAGE_RAMP_END (R315). -/
  | voltageRampEnd (n : Fin 20)
  /-- VIN_IVR_REMOVED (R326). -/
  | vinIvrRemoved
  /-- CMD_DONE (R336). -/
  | cmdDone (scrubUs : Nat) (back : ReadBack)
  /-- QUOTE_DONE (R339). -/
  | quoteDone
  /-- STAGE_DONE (R334). -/
  | stageDone (ok : Bool)
  deriving DecidableEq, Repr

end Sys2Proof
end

