-- ==== Sys2Proof/Config.lean ====
section
/-! DEFINITION. Sys2Proof/Config.lean: the values the spec leaves open, as constants with no body, and the constants one
implementation fixes. A claim about an opaque constant holds whatever its value is. -/
namespace Sys2Proof.Config

/-- A fresh value for a result the spec leaves open: applied to the counter `State.freeCtr`, which each use advances. -/
opaque freeValue : Nat → Nat

/-- A district's share of the floor of rail group 0, which the spec does not give (R309): of the district and FLOOR_0 in W. -/
opaque districtFloor : Nat → Nat → Nat

/-- Where within 2^−16 of its value the projection factor (1 − 1/N)^H of R311 is taken: of N and H. -/
opaque factorError : Nat → Nat → Nat

/-- The boot voltage in mV of a district at a frequency that is no multiple of 100 MHz (VF gives the others). -/
opaque bootMvBetween : Nat → Nat → Nat

/-- Falcon-1024 (R332–R335, R339, R353): the public key grown from a seed stream. -/
opaque falconPublic : List Byte → List Byte
/-- The signature the key grown from a seed stream makes over a digest. -/
opaque falconSignature : List Byte → List Byte → List Byte
/-- Whether a signature over a digest verifies under a public key. -/
opaque falconVerify : List Byte → List Byte → List Byte → Bool
/-- The 32-byte seed this device's PUF gives with its helper data (R332). -/
opaque pufSeed : List Byte
/-- The digest of the root public key in mask ROM (R333), 64 bytes. -/
opaque rootDigest : List Byte
/-- Whether the device certificate, given as the flash bytes listed in its region, carries a digest (R332). -/
opaque certificateHolds : List (Nat × Byte) → List Byte → Bool
/-- The interval of a pseudo-channel's refreshes at or below 85 °C, in units of 10 ns, which the spec leaves to the standard
(R287). -/
opaque refreshInterval : Nat
/-- BLK_VERSION[15:0], the register-layout version of a block (R33), by its type code. -/
opaque blkVersion : Nat → Nat
/-- The PCI vendor ID (HST.PCI_ID[15:0], Table 10.12), which the spec does not give. -/
opaque pciVendor : Nat
/-- SEC.MFG_SERIAL (Table 15.12), fixed at manufacture. -/
opaque mfgSerial : Nat

/-- Which of the FP32 values within its bound a FUNC result takes (R135): of FUNC and the input's FP32 code. -/
opaque funcPick : Nat → Nat → Nat
/-- The FP32 code of a FUNC result that the spec does not state, at an infinite input, a pole, or an unlisted FUNC. -/
opaque funcPole : Nat → Nat → Nat

end Sys2Proof.Config
end

