-- ==== Sys2Proof/Machine/Sparse.lean ====
section
/-! DEFINITION. Sys2Proof/Machine/Sparse.lean: finite maps from Nat as plain data, in one canonical form. A map is a
list of key and value pairs, keys strictly rising, listing no value equal to the map's default at that key. Equal
maps are therefore equal lists. Memory is such a map of bytes (Host.Cell). -/
namespace Sys2Proof.Machine

/-- A sparse map: keys strictly rising, no listed value equal to the default at its key (`SMap.wf`). -/
abbrev SMap (α : Type) := List (Nat × α)

/-- The value at `k`; a key that is not listed reads as the default. -/
def SMap.get {α : Type} (dflt : Nat → α) : SMap α → Nat → α
  | [], k => dflt k
  | (k', v) :: m, k => if k = k' then v else if k < k' then dflt k else SMap.get dflt m k

/-- Put `(k, v)` in front of `m`, unless `v` is the default at `k`. -/
def SMap.cons {α : Type} [DecidableEq α] (dflt : Nat → α) (k : Nat) (v : α) (m : SMap α) : SMap α :=
  if v = dflt k then m else (k, v) :: m

/-- The map with `v` at `k`, in canonical form again. -/
def SMap.set {α : Type} [DecidableEq α] (dflt : Nat → α) : SMap α → Nat → α → SMap α
  | [], k, v => SMap.cons dflt k v []
  | (k', v') :: m, k, v =>
    if k < k' then SMap.cons dflt k v ((k', v') :: m)
    else if k = k' then SMap.cons dflt k v m
    else (k', v') :: SMap.set dflt m k v

/-- Every key of the map is at least `lo`, keys rise strictly, and no value is the default at its key. -/
def SMap.wfFrom {α : Type} [DecidableEq α] (dflt : Nat → α) : Nat → SMap α → Bool
  | _, [] => true
  | lo, (k, v) :: m => decide (lo ≤ k) && !(decide (v = dflt k)) && SMap.wfFrom dflt (k + 1) m

/-- The canonical form. -/
def SMap.wf {α : Type} [DecidableEq α] (dflt : Nat → α) (m : SMap α) : Bool := SMap.wfFrom dflt 0 m

/-- The values at `n` consecutive keys from `k`. -/
def SMap.getMany {α : Type} (dflt : Nat → α) (m : SMap α) (k : Nat) : Nat → List α
  | 0 => []
  | n + 1 => SMap.get dflt m k :: SMap.getMany dflt m (k + 1) n

/-- Set consecutive keys from `k`. -/
def SMap.setMany {α : Type} [DecidableEq α] (dflt : Nat → α) (m : SMap α) (k : Nat) : List α → SMap α
  | [] => m
  | v :: vs => SMap.setMany dflt (SMap.set dflt m k v) (k + 1) vs

/-- Return the keys from `lo` up to, but not including, `hi` to their default. -/
def SMap.clear {α : Type} (m : SMap α) (lo hi : Nat) : SMap α :=
  m.filter (fun e => e.1 < lo || hi ≤ e.1)

end Sys2Proof.Machine
end

