-- ==== Sys2Proof/Machine/State.lean ====
section
/-! DEFINITION. Sys2Proof/Machine/State.lean: the state of the block, as plain data, and its value at reset. -/
namespace Sys2Proof.Machine

/-! ### Step tables, tokens and sequencers (chapter 3) -/

/-- A queue entry (Table 3.6). -/
structure QEntry where
  addr : Nat := 0
  length : Nat := 0
  format : Nat := 0
  epoch : Nat := 0
  counter : Nat := 0
  status : Nat := 0
  origin : Nat := 0
  tableId : Nat := 0
  deriving DecidableEq, Repr

/-- An operand descriptor (Table 3.5); strides are signed. -/
structure Operand where
  base : Nat := 0
  stride0 : Int := 0
  stride1 : Int := 0
  stride2 : Int := 0
  kind : Nat := 0
  bsel : Nat := 0
  epochEn : Bool := false
  epoch : Nat := 0
  epochLvl : Nat := 0
  format : Nat := 0
  length : Nat := 0
  deriving DecidableEq, Repr

/-- A table step: control and timing words (Table 3.4) and its three operands. -/
structure Step where
  op : Nat := 0
  mode : Nat := 0
  waitCtr : Nat := 0
  waitEn : Bool := false
  replayable : Bool := false
  waitCount : Nat := 0
  emitLink : Nat := 0
  emitEn : Bool := false
  emitPer : Nat := 0
  countLevel : Nat := 0
  cycles : Nat := 0
  energy : Nat := 0
  l0 : Nat := 0
  l1 : Nat := 0
  l2 : Nat := 0
  countAddr : Nat := 0
  a : Operand := {}
  b : Operand := {}
  d : Operand := {}
  deriving DecidableEq, Repr

/-- A link of a table header (Table 3.3). -/
structure Link where
  dest : Nat := 0
  counter : Nat := 0
  valid : Bool := false
  deriving DecidableEq, Repr

/-- A table as loaded into a slot (R46, Table 3.3). -/
structure Table where
  engine : Nat := 0
  replayAllow : Nat := 0
  tableId : Nat := 0
  completionLinks : Nat := 0
  cyclesMax : Nat := 0
  energyMax : Nat := 0
  links : List Link := []
  steps : List Step := []
  deriving DecidableEq, Repr

/-- A command block (Table 3.1). -/
structure Cmd where
  cmd : Nat := 0
  sched : Nat := 0
  epochAdd : Nat := 0
  user : Nat := 0
  p0 : Nat := 0
  p1 : Nat := 0
  p2 : Nat := 0
  p3 : Nat := 0
  flagAddr : Nat := 0
  flagValue : Nat := 0
  flagEn : Bool := false
  flagAll : Bool := false
  statusInFlag : Bool := false
  deriving DecidableEq, Repr

/-- Where a sequencer stands (R48): no table, waiting for Kettle credit, before a step's wait, running a step's
iterations, in a step whose iterations have all issued but whose work is not complete, or at the table's end. -/
inductive Phase where
  | idle | credit | wait | iter | pendingWork | ended | completing
  deriving DecidableEq, Repr

/-- What keeps a sequencer from taking commands: nothing, a hold that lasts until SOFT_RESET (R43, R44, R387), or a
failed ring check, which the next write of ENABLE repeats (R387). -/
inductive Intake where
  | open | held | ringBad
  deriving DecidableEq, Repr

/-- A late-bound token (R77): its link, its entry, and the numbers between which the requests that the sequencer's engine sent belong
to the writes the token covers: from `first`, below `bound`. -/
structure LateTok where
  link : Nat
  entry : QEntry
  first : Nat
  bound : Nat
  deriving DecidableEq, Repr

/-- A sequencer's state beside its registers. `emits` are tokens waiting to leave (R51), `late` the late-bound tokens
whose writes are not yet all performed (R77, R128, R166), `taken` the entries the current step's wait removed,
`rbuf` bytes of remote operands that have arrived, keyed by global address, `rfail` that a remote operand of the iteration
failed, `flight` the request numbers of the stores
of each Tamper iteration that may still be in flight (R128), `nextPos` the schedule position after the command in progress,
`outFrom` the numbers from which requests belong to the step in force and to its iterations of level 0, 1 and 2 in force,
`loaded` the commands whose tables wait in a table slot, each with the position after it (R48), `vals` old values of atomics that came back (tag, status, value), `scratch` an engine's own step words. -/
structure SeqSt where
  intake : Intake := .open
  phase : Phase := .idle
  cmd : Cmd := {}
  table : Option Table := none
  step : Nat := 0
  i0 : Nat := 0
  i1 : Nat := 0
  i2 : Nat := 0
  b0 : Nat := 0
  b1 : Nat := 0
  b2 : Nat := 0
  status : Nat := 0
  origin : Nat := 0
  refused : Bool := false
  taken : List QEntry := []
  emits : List (Nat × QEntry) := []
  late : List LateTok := []
  queue : List QEntry := []
  inFlight : List QEntry := []
  replaysInTable : Nat := 0
  replaying : Bool := false
  flight : List (Nat × Nat) := []
  cycles : Nat := 0
  waitCycles : Nat := 0
  waitFrom : Nat := 0
  charge : Nat := 0
  liveEnergy : Nat := 0
  surcharge : Nat := 0
  nextPos : Nat := 0
  loaded : List (Cmd × Table × Nat) := []
  outFrom : List Nat := []
  rbuf : List (Nat × Byte) := []
  rfail : Bool := false
  vals : List (Nat × Nat × Nat) := []
  scratch : List (Nat × Nat) := []
  deriving DecidableEq, Repr

/-! ### The Tile Control Core (chapter 3) -/

/-- What a thread is doing (THR_STATUS, and what parks it): `parked` waits for the access of the instruction at its pc, of
`len` bytes; `waita` holds the word's address, condition, destination, width, reference and the cycle it began. -/
inductive ThrPhase where
  | stopped | ready
  | parked (len : Nat)
  | fence
  | waita (addr cond rd : Nat) (wide : Bool) (ref : Nat) (since : Nat)
  deriving DecidableEq, Repr

/-- One hardware thread (R56): registers x0–x31, pc, LR reservation. `x` lists the 32 registers; x0 reads 0. -/
structure Thread where
  phase : ThrPhase := .stopped
  faulted : Bool := false
  pc : Nat := 0
  x : List Nat := List.replicate 32 0
  rsv : Option (Nat × Nat) := none
  deriving DecidableEq, Repr

/-- A tile's control core: its 8 threads and the round-robin position (R56). -/
structure Tcc where
  threads : List Thread := List.replicate 8 {}
  rr : Nat := 0
  deriving DecidableEq, Repr

/-! ### Remote operations (chapter 9) -/

/-- Who waits for a request's final outcome. -/
inductive Waiter where
  | thread (t n rd width : Nat) (signed : Bool)
  | operand (inst fmt : Nat)
  | store (inst : Nat)
  | flag (inst : Nat)
  | value (inst tag : Nat)
  | posted
  | hostRead (slot tag addr total : Nat)
  | hostWrite (slot : Nat)
  | migrate (entry : Nat)
  deriving DecidableEq, Repr

/-- Where an outstanding request stands at its issuer: held at the source (`held` R197, R198, R217; `seqHeld` R200;
`rowHeld` an ALL flag or a host read, R199, R239, which a command of its own releases), sent, or to be
reissued after WAIT or FILTER_BUSY once the time is reached (R203). -/
inductive OutPhase where
  | held | seqHeld | rowHeld | sent
  | waitUntil (at_ : Nat)
  | busyUntil (at_ : Nat)
  deriving DecidableEq, Repr

/-- An outstanding request of this device as the source. Times are in µs of `State.now`; `orig` is the address it was issued
with, which names its flow (R217); `movedFrom` is the device whose MOVED it last met, `alt` that a copy went by the alternate
ports. -/
structure OutReq where
  id : Nat
  req : Request
  orig : Nat
  flagAll : Bool := false
  waiter : Waiter
  phase : OutPhase
  firstIssue : Nat := 0
  lastIssue : Nat := 0
  copies : Nat := 0
  refusedCopies : Nat := 0
  retryPeriod : Nat := 10
  gangTimeout : Nat := 1000
  gangRaised : Bool := false
  movedFrom : Option Nat := none
  alt : Bool := false
  deriving DecidableEq, Repr

/-- A replay filter entry (R202): SINGLE, or RUN with the applied sequences and the issue time of each. -/
inductive FEntry where
  | single (src ctx seq issueTime off old : Nat)
  | run (src ctx seqHi : Nat) (bits : List (Nat × Nat))
  deriving DecidableEq, Repr

/-- A request that has ended while a reply to it may still come (R201, R214): its context and tag, when it ended, and whether a
teardown ended it. -/
structure Spent where
  ctx : Nat
  seq : Nat
  since : Nat
  gone : Bool
  deriving DecidableEq, Repr

/-- A combining-cache entry (R206): the first request, when it opened, the first load's reply once it has passed, the loads still
to be answered, the atomics collected for the combined atomic, with the subclass it goes on in (R232), and its bank. -/
structure CombEntry where
  first : Request
  openedAt : Nat
  reply : Option Reply := none
  followers : List Request := []
  collected : List Request := []
  sub : Nat := 0
  bank : Nat := 0
  deriving DecidableEq, Repr

/-- A request held at its destination by R198. -/
structure HeldFlag where
  req : Request
  port : Nat
  deriving DecidableEq, Repr

/-- A migration under way at the old owner (R218): the entry, the arrivals since DRAIN, and whether HANDOVER has come and the copy has
been sent. -/
structure Mig where
  entry : Nat
  arrivals : Nat := 0
  handover : Bool := false
  sent : Bool := false
  deriving DecidableEq, Repr

/-! ### The Kettle (chapter 14) -/

/-- A credit request waiting in a queue (R310, R312): queue 0–19 is a district, 20 and 21 the dies. Energies are in
units of 2^−20 fJ, rates in that unit per µs, durations in µs bins. `longOn` are the scopes on which it has waited longer than
HOLD_LIMIT as a head (R312), `raised` those on which HOLD_LONG has been raised for it (R314). -/
structure CreditReq where
  inst : Nat
  queue : Nat
  part : Nat
  since : Nat
  charge : Nat
  rate : Nat
  bins : Nat
  scale : Nat
  clamped : Bool
  longOn : List Nat := []
  raised : List Nat := []
  deriving DecidableEq, Repr

/-- A granted table that has not ended (R311). -/
structure Grant where
  inst : Nat
  queue : Nat
  part : Nat
  charge : Nat
  rate : Nat
  endAt : Nat
  scale : Nat
  deriving DecidableEq, Repr

/-- A failing unit of a pseudo-channel (R299): a row, by correctable reads or by an uncorrectable one, or a pin. -/
inductive HbmFail where
  | row (r : Nat) (uncorrectable : Bool)
  | pin (n : Nat)
  deriving DecidableEq, Repr

/-! ### Links and the router (chapter 10) -/

/-- A DATA flit in a replay buffer (R225): its sequence number, its 256 bytes, and how often it has been resent. -/
structure TxFlit where
  seq : Nat
  bytes : List Byte
  resent : Nat := 0
  deriving DecidableEq, Repr

/-- A port's state beside its registers (R223–R233, R318). The replay buffer, the payload stream not yet in a flit, the flits put
on the lanes in the 1 µs in progress, the next DATA sequence; the receiver's expected sequence, whether it discards until that
arrives, a NAK to send, the bytes of a packet not yet whole, flits freed and credits held (index 2v + s); failed lanes, lanes of
inverted polarity, each lane's uncorrectable codewords with their time, eye heights as trained and as last measured; DATELINE as
trained, when training began, when its state began and its work ends, whether the peer's identity has come and what this side has
sent; when the port went DOWN, LANE_LOST, a retrain from UP under way; the output queue with deficit round robin's position,
whether the VC has had its weight, the deficits and the last input port served of each VC and subclass; VCs blocked for want of
credit with since when, and those reported; lanes offered again by LANE_CLEAR, and when their 1 s ends. -/
structure Port where
  txBuf : List TxFlit := []
  fill : List Byte := []
  wire : List (List Byte) := []
  nextSeq : Nat := 0
  expect : Nat := 0
  discarding : Bool := false
  nakPending : Bool := false
  rx : List Byte := []
  freed : List Nat := List.replicate 16 0
  credit : List Nat := List.replicate 16 0
  badLanes : List Nat := []
  inverted : List Nat := []
  laneErr : List (Nat × Nat) := []
  eyeTrained : List Nat := []
  eye : List Nat := []
  dateline : Bool := false
  trainFrom : Option Nat := none
  stageFrom : Nat := 0
  stageEnd : Nat := 0
  met : Bool := false
  ident : Nat := 0
  downSince : Option Nat := none
  laneLost : Bool := false
  retraining : Bool := false
  drrVc : Nat := 0
  drrAdded : Bool := false
  deficit : List Nat := List.replicate 8 0
  rrIn : List Nat := List.replicate 16 0
  outq : List Packet := []
  blockedSince : List (Nat × Nat) := []
  creditRaised : List Nat := []
  clearing : Option (List Nat) := none
  clearEnd : Option Nat := none
  deriving DecidableEq, Repr

/-- What the bridge sends to the host (R241, R242). -/
inductive HostMsg where
  | read (addr size : Nat)
  | write (addr : Nat) (data : List Byte)
  | atomic (op addr : Nat) (data : List Byte) (cmp : Nat)
  | msix (v addr data : Nat)
  | completion (tag : Nat) (data : List Byte)
  | unsupported (tag : Nat)
  deriving DecidableEq, Repr

/-- A packet's part of a host read (R240): the read's tag, its global address, its data, and whether it was performed. -/
structure HostPart where
  tag : Nat
  addr : Nat
  data : List Byte
  ok : Bool
  deriving DecidableEq, Repr

/-- What the last command answers to its sender: a status of Table 9.6 and the data read. -/
structure Answer where
  status : Nat := 0
  data : List Byte := []
  deriving DecidableEq, Repr

/-! ### Buffer pools (chapter 6) -/

/-- An engine request waiting in a pool's queue (R139): the requester's instance, and the number the model gives it. -/
structure PoolWait where
  inst : Nat
  tag : Nat
  deriving DecidableEq, Repr

/-- A pool's answer to a requester (R142): instance, the request's number, the handle word. -/
structure PoolAns where
  inst : Nat
  tag : Nat
  handle : Nat
  deriving DecidableEq, Repr

/-! ### Debug (chapter 17) -/

/-- What the Barista tells the fabric manager in VC0: a GANG request's silent target and its partition (R210), a unit that has
failed in service and its partition (R347), or the device that sent a piece found wrong twice (R260). -/
inductive Report where
  | gangLost (target part : Nat)
  | adderFault (sender : Nat)
  | unitFailed (cls unit part : Nat)
  deriving DecidableEq, Repr

/-- What a tile's debug unit holds beside its registers (R363): the threads told to stop, the sequencers whose DRAIN the
hit set, and the thread that a STEP allows one instruction. -/
structure DbgSt where
  stopReq : List Nat := []
  drainSet : List Nat := []
  stepping : Option Nat := none
  deriving DecidableEq, Repr

/-- The JTAG port (R365): the instruction register, the boundary scan register and what it drives, DBGACC's 128-bit data register, the
bypass bit, and what the last instruction shifted out. -/
structure Jtag where
  ir : Nat := 2
  scan : List Bool := []
  driven : List Bool := []
  dr : Nat := 0
  bypass : Bool := false
  out : Nat := 0
  deriving DecidableEq, Repr

/-! ### Engines (chapters 4, 6–8, 11, 12) -/

/-- A stationary tile as an array's registers hold it (R64, R80): the slot width, whether it was loaded as a diagonal, its
256 rows of slots, slot j of a row in bits [j·ws + ws − 1 : j·ws], and, for 2:4, its rows of 2-bit codes. -/
structure ArrTile where
  ws : Nat
  diag : Bool := false
  rows : List Nat := []
  codes : List Nat := []
  deriving DecidableEq, Repr

/-- A Matrix Array's shadow and active registers (R64, R73). -/
structure Arr where
  shadow : Option ArrTile := none
  active : Option ArrTile := none
  deriving DecidableEq, Repr

/-- An exchange engine beside its registers: the headers it has taken, inbox offset and word (R154, R155), the local experts
whose receive buffer it has freed since the last COUNTS (R162), and whether DISPATCH with BWD began the exchange in force. -/
structure Xch where
  hdrs : List (Nat × Nat) := []
  freed : List Nat := []
  bwd : Bool := false
  deriving DecidableEq, Repr

/-- An embedding engine beside its registers: the update headers taken, member and word (R179); the hot headers, member, Q0 and
Q1 (R184); the bags of the last PREP, table and number (R177); the table directory as it stood when the GATHER and the APPLY
last begun started (R174, R183); the TVERs that GATHER has used and its STEP (R183); the candidates, count and key, and
their STEP (R184). -/
structure Emb where
  hdrs : List (Nat × Nat) := []
  hots : List (Nat × Nat × Nat) := []
  bags : List (Nat × Nat) := []
  gsnap : Option (List (Nat × Byte)) := none
  asnap : Option (List (Nat × Byte)) := none
  gstep : Nat := 0
  gbind : List (Nat × Nat) := []
  cstep : Nat := 0
  cands : List (Nat × Nat) := []
  deriving DecidableEq, Repr

/-- A level of a collective's ring chain (R249): members, this device's position, the members' device IDs in ring order. -/
structure RingLevel where
  n : Nat
  self : Nat
  devs : List Nat
  deriving DecidableEq, Repr

/-- A partial or gathered piece (Table 11.5): its header and its payload; with `null` it has none. -/
structure RingPiece where
  lvl : Nat := 0
  gather : Bool := false
  null : Bool := true
  skip : Bool := false
  attempt : Nat := 0
  bad : Bool := false
  exp : Nat := 0
  piece : Nat := 0
  amax : Nat := 0
  req : Nat := 0
  count : Nat := 0
  excl : Nat := 0
  sat : Bool := false
  nonfinite : Bool := false
  payload : List Byte := []
  deriving DecidableEq, Repr

/-- What a member holds of one piece at one level (R256–R261). `contrib` its contribution is available, with its count and the
carry that joins it (FP32 codes); `kept` it is kept out, `carried` it has gone to the carry; `slot` the receive slot reserved;
`readySent`; `held` the reduce-pass partial it holds, `opened` when it is the null partial it opened as owner; `sent` the held
partial is on its way; `path` the member it sends to, the slot there, and SKIP; `excl` members it stepped round, `exclT` which;
`ready` the last READY: sender and slot; `added` its contribution entered the first attempt; `sq` its squares counted; `result`
its reduce result; `gath` the piece it gathers onward; `mis0`, `mis1` mismatches in the reduce and the gather pass. -/
structure ColPiece where
  contrib : Bool := false
  cnt : Nat := 0
  carry : List Nat := []
  kept : Bool := false
  carried : Bool := false
  slot : Option Nat := none
  readySent : Bool := false
  held : Option RingPiece := none
  opened : Bool := false
  sent : Bool := false
  naked : Bool := false
  path : Option (Nat × Option Nat × Bool) := none
  excl : Nat := 0
  exclT : List Nat := []
  ready : Option (Nat × Nat) := none
  added : Bool := false
  sq : Nat := 0
  result : Option RingPiece := none
  gath : Option RingPiece := none
  gnaked : Bool := false
  mis0 : Nat := 0
  mis1 : Nat := 0
  deriving DecidableEq, Repr

/-- A piece delivered (R254, R267): piece, COUNT, EXCL, flags, AMAX, elements, zero words, underflowing words. -/
structure ColDone where
  piece : Nat
  count : Nat
  excl : Nat
  sat : Bool
  bad : Bool
  nonfinite : Bool
  amax : Nat
  elems : Nat
  zeros : Nat
  under : Nat
  deriving DecidableEq, Repr

/-- A collective engine beside its registers (chapter 11): the ring chain; EXP_REF; the pieces at work, by level and piece; messages
held for the next collective: kind (0 a piece), offset, source; RETARGETs received, RETARGETs sent, RACKs received and members
excluded here, each level and ring position; pieces delivered, in order; what the completion record counts; the own pieces that are
whole and whose gather waits for a lower one's (R263), and how many gathers this member has started. -/
structure ColSt where
  rings : List RingLevel := []
  expRef : Nat := 0
  pieces : List ((Nat × Nat) × ColPiece) := []
  heldMsgs : List (Nat × Nat × Nat) := []
  retFrom : List (Nat × Nat) := []
  retSent : List (Nat × Nat) := []
  racks : List (Nat × Nat) := []
  excluded : List (Nat × Nat) := []
  done : List ColDone := []
  resends : Nat := 0
  skipped : List Nat := []
  firstSkip : Option Nat := none
  carried : List Nat := []
  whole : List RingPiece := []
  gathers : Nat := 0
  selfExcl : Bool := false
  localCount : Nat := 0
  deriving DecidableEq, Repr

/-- A loaded image (Table 3.11): the partition and where its code went; the header's minima; its tile sets, first tile and count;
its tables, bindings, code bytes (where they lie in the image, and how many) and pages; where its result record lies. -/
structure Image where
  part : Nat
  addr : Nat
  result : Nat
  first : Nat
  count : Nat
  minTiles : Nat
  minPorts : Nat
  minEng : Nat
  minHbm : Nat
  sets : List (Nat × Nat)
  tables : List Table
  binds : List LoadBind
  codeSrc : Nat
  codeBytes : Nat
  pages : List Nat
  deriving DecidableEq, Repr

/-! ### The whole block -/

structure State where
  /-- The commands waiting, first in first out. -/
  pending : List Instr
  /-- µs since the model's start; KETTLE_BIN advances it. -/
  now : Nat
  /-- The model's own counter for free values. -/
  freeCtr : Nat
  /-- The model's own record of the answer to the last access command. -/
  answer : Answer
  /-- Registers, keyed by offset from 0x180_0000_0000. -/
  regs : SMap Word64
  /-- HBM and Near Memory bytes, keyed by local offset. -/
  mem : List Host.Cell
  /-- The segment owner table, 2,048 entries (R23). -/
  segOwner : SMap Nat
  /-- Epoch tags, keyed by local offset ÷ 32 (R54). -/
  tags : SMap Nat
  seqs : SMap SeqSt
  tccs : SMap Tcc
  outs : List OutReq
  nextOut : Nat
  seqCtr : SMap Nat
  seqTime : SMap Nat
  /-- Stores and atomics with a bad outcome that an ALL flag may cover: context and request (R199). -/
  ctxFail : List (Nat × Nat)
  movedFlows : List (Nat × Nat × Nat)
  filter : SMap (List FEntry)
  comb : List CombEntry
  heldFlags : List HeldFlag
  migs : List Mig
  winHeld : Option (Nat × Nat)
  routes : SMap Nat
  psets : SMap Nat
  /-- Packets in the router, by input port in arrival order (R235); packets at the die ports and at the HOST port. -/
  toRoute : List Packet
  /-- Requests that left a failed bank of the combining cache and pass uncombined (Table 16.1). -/
  passBy : List Request
  arrived : List Packet
  hostQ : List Packet
  /-- What the bridge has sent to the host, oldest first (R241, R242). -/
  hostOut : List HostMsg
  /-- Parts of host reads that await the rest (R240), by address. -/
  hostParts : List HostPart
  /-- What the host has set in the PCIe function's configuration space (R237). -/
  pcieCfg : PcieCfg
  /-- Requests that have ended while a reply to them may still come (R201, R214). -/
  spent : List Spent
  /-- What the Barista has reported to the fabric manager, oldest first (R210, R347). -/
  reports : List Report
  /-- Combined atomics this router has forwarded and whose reply it splits (R207). -/
  combOut : List Request
  ports : SMap Port
  /-- Credit requests in arrival order (R312). -/
  creditQ : List CreditReq
  /-- Granted tables that have not ended (R311). -/
  grants : List Grant
  /-- Voltages in half millivolts: key n < 20 a district, 160–163 the other islands (R316). -/
  halfMv : SMap Nat
  /-- Energy of each scope in the bin in progress, 2^−20 fJ: key 0 package, 1–20 districts, 21–36 partition slots, 40–43 rail groups. -/
  binE : SMap Nat
  /-- Energy of each scope since reset, 2^−20 fJ, same keys (R308). -/
  totE : SMap Nat
  /-- Live energy of each page, 2^−20 fJ, keyed by the page's offset (R384). -/
  pageE : SMap Nat
  /-- AVG_w of each scope in 2^−20 fJ per µs: key 3 × scope + window (R309). -/
  avg : SMap Nat
  /-- Each partition slot's step report so far (R321): key slot the step number, 32 + slot the planned energy, 64 + slot
  the total at the last mark, 96 + slot the hold time, 128 + slot the grants. -/
  marks : SMap Nat
  /-- A district's frequency change marked PENDING: the new MHz (R315); 0 none. -/
  freqPend : SMap Nat
  /-- A district's voltage ramp: the new MHz, the target in half mV, when it ends (R315). -/
  ramps : SMap (Nat × Nat × Nat)
  /-- When a district last had a long hold or a frequency raise (R314). -/
  lastLong : SMap Nat
  /-- Cycles each district's tile clocks have made since reset. -/
  distCycles : SMap Nat
  /-- The smallest slack each island last reported, plus 1; when that of a district, or of another island, last stood at or below
  GUARD + 2 or its voltage was last lowered, keyed as `halfMv` (R316). -/
  slack : SMap Nat
  slackLow : SMap Nat
  /-- Model energy of each rail group at the last gain update, and at the last floor update (key 8 + g) (R317). -/
  railBase : SMap Nat
  /-- Bits in error of 8-byte words of Near Memory, keyed by local offset ÷ 8 (R125): 1, or 2; 3 is two bits of a word whose row has
  been replaced (log entry 259). -/
  nmErr : SMap Nat
  /-- When a word of Near Memory was corrected within 24 h, in µs, keyed as `nmErr`; and the words whose row is condemned, with the
  reason of Table 16.6 (Table 16.1). -/
  nmCorr : SMap (List Nat)
  nmRows : List (Nat × Nat)
  /-- Symbols in error of stored bursts, keyed by local offset ÷ 32: pin and error mask (R291, R292). -/
  hbmErr : SMap (List (Nat × Nat))
  /-- The 256 MiB flash, keyed by flash offset; an unlisted byte is erased (R330). -/
  flash : SMap Byte
  /-- Flash blocks of 64 KiB that fail to program. -/
  badBlocks : List Nat
  /-- Where the Roast Log's oldest retained record begins, and where the next record goes (R353). -/
  logOldest : Nat
  logNext : Nat
  /-- Seconds powered since manufacture when `now` was 0 (Table 16.4, POWER_ON_S). -/
  powerOnS : Nat
  /-- Physical tiles behind West's and East's logical tiles, in logical order (R27). -/
  west : List Nat
  east : List Nat
  /-- States of units that are not ACTIVE: key 2^24 × class + unit; 1 SPARE, 2 CONDEMNED, 3 REMOVED, 4 FAILED (R356). -/
  units : SMap Nat
  /-- The spare that serves a unit, plus 1 (R356). -/
  unitSpare : SMap Nat
  /-- Condemned units awaiting their drain point or the republish: class, unit and reason (R346, R350, Table 16.6). -/
  waiting : List (Nat × Nat × Nat)
  /-- Lanes of each fabric port: 0 full, 1 on 7 lanes, 2 lost (R349), as the Roast Log records it. -/
  portRec : SMap Nat
  /-- The wear model's measures (R344, Table 16.5): key n < 20 a district's weighted minutes in 2^−16 min,
  1024 + k the minutes stack k has stood above 85 °C. -/
  wear : SMap Nat
  /-- The VF values in mV that the Roast Log's GENESIS and TRIM records hold, key 16 × district + index (R354, Table 16.5). -/
  vfRec : SMap Nat
  /-- The device is held in device reset, or has no VDD_AON; the last recorded reset, when a cause was recorded; and
  THERMTRIP_N is held low until VIN_IVR is removed (R326). -/
  held : Bool
  resetAt : Option Nat
  thermHeld : Bool
  /-- RESET_N is low; PWRGD is high (Table 15.1). -/
  resetLow : Bool
  pwrgd : Bool
  /-- The management target answers in legacy I2C mode, and not in I3C mode (R374). -/
  i2cMode : Bool
  /-- When the Barista watchdog last expired, in µs (Table 16.1). -/
  wdogAt : Option Nat
  /-- What the boot under way meets, while a step of it has not ended (R327). -/
  bootEnv : Option BootEnv
  /-- The endpoint of a bridge device runs on the host's clock, and not with separate reference clocks (R372). -/
  commonClock : Bool
  /-- M_fw and SIGNER_PK of the running image (R333). -/
  mfw : List Byte
  fwSigner : List Byte
  /-- The recovery image received so far (R329). -/
  recov : List Byte
  /-- The signed command in progress: OP, SIGNER, digest of NEW_PK (R336). -/
  secCmd : Option (Nat × Nat × List Byte)
  /-- When the open session times out, in µs (R337). -/
  sessionEnd : Nat
  /-- The quote being formed (R339). -/
  quote : Option (List Byte)
  /-- When the boot step in progress began, in µs. -/
  stepFrom : Nat
  /-- The device has entered, or is draining to, RETIRED (R328, R351); partitions are refused. -/
  retired : Bool
  /-- A scrub failed: partitions are refused until a later one succeeds (R338). -/
  scrubFailed : Bool
  /-- Sensor temperatures in °C: key n < 20 a district, 20 the Junction die, 32 + s a stack (R377). -/
  temps : SMap Nat
  /-- The LAT and BULK queues of a pseudo-channel, oldest first, each with its arrival number (R295). -/
  hbmLat : SMap (List (Nat × HbmReq))
  hbmBulk : SMap (List (Nat × HbmReq))
  /-- LAT requests issued in a row while BULK was not empty (R295). -/
  latRun : SMap Nat
  /-- Requests held upstream of a pseudo-channel whose queue is full, oldest first (R295). -/
  hbmUp : SMap (List HbmReq)
  /-- When a pseudo-channel's hold by a training or a lane repair ends, in units of 10 ns (R296, R300). -/
  hbmHold : SMap Nat
  /-- The row and bank whose requests a row copy holds, and until when, in units of 10 ns (R300). -/
  rowHold : SMap (Nat × Nat)
  /-- When a pseudo-channel's last write training fell due, in units of 10 ns (R296). -/
  hbmTrained : SMap Nat
  /-- When a bank's next refresh falls due, in units of 10 ns, key 16 × pseudo-channel + bank, 0 while it has had none; the row open in
  the bank, plus 1, and its activations since its last refresh; a pseudo-channel's on-die error reports (R287). -/
  refreshDue : SMap Nat
  openRow : SMap Nat
  bankActs : SMap Nat
  hbmOnDie : SMap Nat
  /-- The DRIFT word each pseudo-channel last reported to the calibration controller (R296, R318). -/
  calDrift : SMap Nat
  /-- Corrected reads of a row in this patrol pass: key 2^19 × pseudo-channel + row and bank (R299). -/
  rowFails : SMap Nat
  /-- Corrected reads with a pin in error: time in µs and row, key 64 × pseudo-channel + pin (R299). -/
  pinFails : SMap (List (Nat × Nat))
  /-- Rows that have had an uncorrectable read: key 2^19 × pseudo-channel + row and bank (R299). -/
  rowUnc : SMap Nat
  /-- Failing units awaiting repair: pseudo-channel and unit, oldest first (R299, R300). -/
  hbmFailing : List (Nat × HbmFail)
  /-- Parts that the wear model has condemned and whose drain point has not come (R300); units kept in service unrepaired (R301). -/
  hbmWorn : List (Nat × HbmFail)
  hbmKept : List (Nat × HbmFail)
  /-- The row a device spare row serves, plus 1: key 64 × pseudo-channel + spare (R300). -/
  spareRows : SMap Nat
  /-- The row of a bank pending hard repair, plus 1: key 16 × pseudo-channel + bank (R300). -/
  pprRows : SMap Nat
  /-- A traffic generator's position: twice the next pcoff, plus the pseudo-channel (R297, R298). -/
  tgcPos : SMap Nat
  /-- A traffic generator's PRBS31 register (R297). -/
  tgcPrbs : SMap Nat
  /-- Allocated pool buffers, keyed by handle [20:0] (R138). -/
  poolUsed : SMap Nat
  /-- Engine requests waiting in pool p of die d, key 4d + p, and answers not yet taken by their requesters (R139, R142). -/
  poolQ : SMap (List PoolWait)
  poolAns : List PoolAns
  /-- The quadwords of the record in force of an engine with a CONFIG step, keyed by its page's offset; none listed while
  no valid record is in force (R71, R126). -/
  recs : SMap (List Nat)
  /-- The Matrix Arrays' registers, key 2t + a (R64). -/
  arrs : SMap Arr
  /-- The exchange engines, key 2 × die + engine (R155, R162). -/
  xchs : SMap Xch
  /-- The embedding engines, key 4 × die + engine (R177, R179, R183, R184). -/
  embs : SMap Emb
  /-- The collective engines, key 4 × die + engine (R252–R262). -/
  cols : SMap ColSt
  /-- The Hot Row Directory (R185), by slot: the tag's key and its epoch. -/
  hotDir : SMap (Option (Nat × Nat))
  /-- The images loaded, oldest first (R60, R61). -/
  images : List Image
  /-- The partition for which the loader last wrote a tile's TILE_SET, plus 1 (R361). -/
  tileHeld : SMap Nat
  /-- The debug unit of each tile (R363). -/
  dbg : SMap DbgSt
  /-- The JTAG port (R365). -/
  jtag : Jtag
  /-- The mandatory data byte of the last in-band interrupt raised on I3C, if any (R375). -/
  ibi : Option Nat
  /-- When a vector's last message left, plus 1, and whether stores since wait for the hold-off's end (R242). -/
  msixAt : SMap Nat
  msixHeld : SMap Nat
  /-- When the last TPULSE edge was accepted, in µs (R373). -/
  lastEdge : Nat
  deriving DecidableEq, Repr

/-- The reasons a command can stop with a fault: none is raised by the spec's commands (see NOTES.md, Stops). -/
inductive Fault where
  /-- Raised by no command: the block has no event that stops it. Safe. -/
  | stuck
  deriving DecidableEq, Repr

/-- The reasons a command can be refused. -/
inductive Refusal where
  /-- No meaning yet for the command with this mnemonic. Safe: the command has no next state. -/
  | notModelled (mnemonic : String)
  deriving DecidableEq, Repr

/-- The answer type of every meaning. -/
abbrev Out := Host.Outcome State Fault Refusal

/-- The block at device reset after a cold start: every register at its reset value, memory and flash with nothing
listed, every queue empty, RESET_N still low. -/
def State.reset : State where
  pending := []
  now := 0
  freeCtr := 0
  answer := {}
  regs := []
  mem := []
  segOwner := []
  tags := []
  seqs := []
  tccs := []
  outs := []
  nextOut := 0
  seqCtr := []
  seqTime := []
  ctxFail := []
  movedFlows := []
  filter := []
  comb := []
  heldFlags := []
  migs := []
  winHeld := none
  routes := []
  psets := []
  toRoute := []
  passBy := []
  arrived := []
  hostQ := []
  hostOut := []
  hostParts := []
  pcieCfg := {}
  spent := []
  reports := []
  combOut := []
  ports := []
  creditQ := []
  grants := []
  halfMv := []
  binE := []
  totE := []
  pageE := []
  avg := []
  marks := []
  freqPend := []
  ramps := []
  lastLong := []
  distCycles := []
  slack := []
  slackLow := []
  railBase := []
  temps := []
  hbmLat := []
  hbmBulk := []
  latRun := []
  hbmUp := []
  hbmHold := []
  rowHold := []
  hbmTrained := []
  refreshDue := []
  openRow := []
  bankActs := []
  hbmOnDie := []
  calDrift := []
  rowFails := []
  pinFails := []
  rowUnc := []
  hbmFailing := []
  hbmWorn := []
  hbmKept := []
  spareRows := []
  pprRows := []
  tgcPos := []
  tgcPrbs := []
  poolUsed := []
  poolQ := []
  poolAns := []
  recs := []
  arrs := []
  xchs := []
  embs := []
  cols := []
  hotDir := []
  images := []
  tileHeld := []
  dbg := []
  jtag := {}
  ibi := none
  msixAt := []
  msixHeld := []
  lastEdge := 0
  nmErr := []
  nmCorr := []
  nmRows := []
  hbmErr := []
  flash := []
  badBlocks := []
  logOldest := 0x04100000
  logNext := 0x04100000
  powerOnS := 0
  west := []
  east := []
  units := []
  unitSpare := []
  waiting := []
  portRec := []
  wear := []
  vfRec := []
  held := true
  commonClock := false
  resetAt := none
  thermHeld := false
  resetLow := true
  pwrgd := false
  i2cMode := false
  wdogAt := none
  bootEnv := none
  mfw := []
  fwSigner := []
  recov := []
  secCmd := none
  sessionEnd := 0
  quote := none
  stepFrom := 0
  retired := false
  scrubFailed := false

end Sys2Proof.Machine
end

