-- ==== Sys2Proof/Machine/Regs.lean ====
section
/-! DEFINITION. Sys2Proof/Machine/Regs.lean: the register map. Blocks and their pages (R31, R32, Tables 2.3–2.6), the
common header (R33), and each block's registers with access code, writable bits and reset value (Tables 2.10, 3.2,
3.9, 3.10, 4.13, 4.14, 6.5–6.7, 7.11, 7.12, 8.8, 8.9, 9.13, 10.10–10.12, 11.10, 11.11, 12.6, 13.2, 13.3, 14.4, 14.5,
15.10–15.12, 16.7, 16.8, 17.1–17.3, 18.5). Offsets are counted from 0x180_0000_0000. -/
namespace Sys2Proof.Machine

/-- Access codes (Table 0.4). -/
inductive Acc where
  | ro | rw | wo | w1c | rwl | rc
  deriving DecidableEq, Repr

/-- The blocks that have register pages (Tables 2.4–2.6). `eng d q` is the engine page of page pair `q` of die `d`. -/
inductive Blk where
  | svc | ktl | cal | sec | spr | log | fab | hst
  | lnk (p : Fin 32) | hbm (i : Fin 32) | tgc (c : Fin 256) | cntD | dbgD
  | eng (d : Fin 2) (q : Fin 22)
  | seq (q : SeqId)
  | til (t : Fin 160) | mxa (t : Fin 160) (a : Fin 2) | dqu (t : Fin 160) (a : Fin 2)
  | ptw (t : Fin 160) | lay (t : Fin 160) | cntT (t : Fin 160) | dbgT (t : Fin 160)
  deriving DecidableEq, Repr

/-- The kinds of die-level engine, in Table 2.5 order. -/
inductive EngKind where
  | grd | emb | rte | xch | col | opt | bpm | sta
  deriving DecidableEq, Repr

/-- The kind of die-level engine page pair `q` (Table 2.5). -/
def engKind (q : Nat) : EngKind :=
  if q < 4 then .grd else if q < 8 then .emb else if q < 10 then .rte else if q < 12 then .xch
  else if q < 16 then .col else if q < 20 then .opt else if q < 21 then .bpm else .sta

/-- The first page pair of a kind. -/
def EngKind.first : EngKind → Nat
  | .grd => 0 | .emb => 4 | .rte => 8 | .xch => 10 | .col => 12 | .opt => 16 | .bpm => 20 | .sta => 21

/-- Engines of a kind per die (Table 2.5). -/
def EngKind.perDie : EngKind → Nat
  | .grd => 4 | .emb => 4 | .rte => 2 | .xch => 2 | .col => 4 | .opt => 4 | .bpm => 1 | .sta => 1

/-- The type code of a kind (Table 2.5); its low byte is a table header's ENGINE (Table 3.3). -/
def EngKind.code : EngKind → Nat
  | .grd => 0x20 | .emb => 0x21 | .rte => 0x22 | .xch => 0x23 | .col => 0x24 | .opt => 0x25 | .bpm => 0x26 | .sta => 0x27

/-- Offset of a tile window (Table 2.3). -/
def tileWin (t : Nat) : Nat := 0x10000000 + t * 0x10000

/-- Offset of a die-level engine's page pair. -/
def engBase (d q : Nat) : Nat := (d + 1) * 0x1000000 + q * 0x2000

/-- Offset of a block's first page. -/
def Blk.base : Blk → Nat
  | .svc => 0 | .ktl => 0x4000 | .cal => 0x8000 | .sec => 0xA000 | .spr => 0xC000 | .log => 0xE000
  | .fab => 0x10000 | .hst => 0x20000
  | .lnk p => 0x30000 + p.val * 0x1000
  | .hbm i => 0x50000 + i.val * 0x1000
  | .tgc c => 0x100000 + c.val * 0x1000
  | .cntD => 0x200000 | .dbgD => 0x300000
  | .eng d q => engBase d.val q.val
  | .seq (.die d q) => engBase d.val q.val + 0x1000
  | .seq (.tile t s) => tileWin t.val + (1 + s.val) * 0x1000
  | .til t => tileWin t.val
  | .mxa t a => tileWin t.val + (7 + a.val) * 0x1000
  | .dqu t a => tileWin t.val + (9 + a.val) * 0x1000
  | .ptw t => tileWin t.val + 0xB000
  | .lay t => tileWin t.val + 0xC000
  | .cntT t => tileWin t.val + 0xD000
  | .dbgT t => tileWin t.val + 0xE000

/-- Pages of a block instance (Tables 2.4–2.6); BLK_FEATURE0[7:0] (R33). -/
def Blk.pages : Blk → Nat
  | .svc => 4 | .ktl => 4 | .cal => 2 | .sec => 2 | .spr => 2 | .log => 2 | .fab => 16 | .cntD => 16 | .dbgD => 4
  | _ => 1

/-- Block type code (Tables 2.4–2.6). -/
def Blk.code : Blk → Nat
  | .svc => 1 | .ktl => 2 | .cal => 3 | .sec => 4 | .spr => 5 | .log => 6 | .fab => 7 | .lnk _ => 8 | .hst => 9
  | .hbm _ => 10 | .tgc _ => 11 | .til _ => 0x10 | .seq _ => 0x11 | .mxa _ _ => 0x12 | .dqu _ _ => 0x13
  | .ptw _ => 0x14 | .lay _ => 0x15 | .cntD => 0x30 | .cntT _ => 0x30 | .dbgD => 0x31 | .dbgT _ => 0x31
  | .eng _ q => (engKind q.val).code

/-- Instance number in BLK_IDENT (Tables 2.4–2.6, R32). -/
def Blk.inst : Blk → Nat
  | .lnk p => p.val | .hbm i => i.val | .tgc c => c.val
  | .eng d q => (engKind q.val).perDie * d.val + (q.val - (engKind q.val).first)
  | .seq q => q.inst
  | .til t => t.val | .ptw t => t.val | .lay t => t.val
  | .mxa t a => 2 * t.val + a.val | .dqu t a => 2 * t.val + a.val
  | .cntT t => 0x4000 + t.val | .dbgT t => 0x4000 + t.val
  | _ => 0

/-- BLK_FEATURE1 (R92, R93, R143, R164, R189, R243, R244, R269, R285, R302, R303, R322, R323, Table 17.2). -/
def Blk.feature1 : Blk → Nat
  | .mxa _ _ => 0x00030100 | .dqu _ _ => 0x1000 | .ptw _ => 0x80 | .fab => 0x00202208 | .lnk _ => 9
  | .hbm _ => 0x4010 | .tgc _ => 2 | .ktl => 0x00101403 | .cal => 0xA4 | .cntD => 0x40 | .cntT _ => 0x40
  | .eng _ q =>
    match engKind q.val with
    | .grd => 0x01000000 | .emb => 0x1000 | .rte => 0x00084000 | .xch => 0x4000 | .col => 0x00401000
    | .opt => 0x0F20 | .bpm => 0x00010004 | .sta => 0x00010000
  | _ => 0

/-- The number of block events of a block, bits [16] upward of BLK_EVENT (R92, R93, R143, R164, R189, R221, R243–R245, R269, R285,
R302, R303, R322, R323, Tables 3.9, 3.10, 17.3 and the event tables of chapters 15 and 16); bits above them are reserved. -/
def Blk.events : Blk → Nat
  | .svc => 4 | .ktl => 5 | .cal => 3 | .sec => 5 | .spr => 5 | .log => 3 | .fab => 10 | .hst => 3 | .lnk _ => 7 | .hbm _ => 8
  | .tgc _ => 3 | .seq _ => 9 | .til _ => 2 | .mxa _ _ => 5 | .dqu _ _ => 3 | .ptw _ => 1 | .lay _ => 5 | .dbgT _ => 2
  | .cntD => 0 | .cntT _ => 0 | .dbgD => 0
  | .eng _ q =>
    match engKind q.val with
    | .grd => 1 | .emb => 7 | .rte => 2 | .xch => 7 | .col => 9 | .opt => 5 | .bpm => 4 | .sta => 2

/-- The bits of BLK_EVENT and BLK_EVENT_MASK that are not reserved (R6, Table 2.9). -/
def Blk.eventMask (b : Blk) : Nat := 0xF + (2 ^ b.events - 1) * 2 ^ 16

/-- Privilege classes (Table 2.2). -/
inductive Priv where
  | all | part | mgmt | owner | vendor
  deriving DecidableEq, Repr

/-- The privilege class of a block's page (Tables 2.4–2.6). -/
def Blk.priv : Blk → Nat → Priv
  | .svc, pg => if pg = 1 ∨ pg = 2 then .all else .mgmt
  | .ktl, pg => if pg = 3 then .owner else .mgmt
  | .sec, pg => if pg = 1 then .vendor else .mgmt
  | .cntD, _ => .owner
  | .dbgD, _ => .vendor
  | .dbgT _, _ => .vendor
  | .eng _ _, _ => .part
  | .seq (.die _ _), _ => .part
  | .seq (.tile _ s), _ => if s.val < 4 then .part else .mgmt
  | .til _, _ => .part | .mxa _ _, _ => .part | .dqu _ _, _ => .part | .ptw _, _ => .part
  | .lay _, _ => .part | .cntT _, _ => .part
  | _, _ => .mgmt

/-- Junction die blocks (Table 2.4): those the Barista enables and locks at boot step 11 (R34, R385). -/
def Blk.junction : Blk → Bool
  | .svc => true | .ktl => true | .cal => true | .sec => true | .spr => true | .log => true | .fab => true
  | .hst => true | .lnk _ => true | .hbm _ => true | .tgc _ => true | .cntD => true | .dbgD => true
  | _ => false

/-- The block that page `pg` from 0x180_0000_0000 belongs to, and which of its pages it is; none for an unmapped page (R31,
Tables 2.3–2.6). -/
def blkPage (pg : Nat) : Option (Blk × Nat) :=
  if pg < 0x4 then some (.svc, pg)
  else if pg < 0x8 then some (.ktl, pg - 4)
  else if pg < 0xA then some (.cal, pg - 8)
  else if pg < 0xC then some (.sec, pg - 0xA)
  else if pg < 0xE then some (.spr, pg - 0xC)
  else if pg < 0x10 then some (.log, pg - 0xE)
  else if pg < 0x20 then some (.fab, pg - 0x10)
  else if pg < 0x21 then some (.hst, 0)
  else if h : 0x30 ≤ pg ∧ pg < 0x50 then some (.lnk ⟨pg - 0x30, by omega⟩, 0)
  else if h : 0x50 ≤ pg ∧ pg < 0x70 then some (.hbm ⟨pg - 0x50, by omega⟩, 0)
  else if h : 0x100 ≤ pg ∧ pg < 0x200 then some (.tgc ⟨pg - 0x100, by omega⟩, 0)
  else if 0x200 ≤ pg ∧ pg < 0x210 then some (.cntD, pg - 0x200)
  else if 0x300 ≤ pg ∧ pg < 0x304 then some (.dbgD, pg - 0x300)
  else if h : 0x1000 ≤ pg ∧ pg < 0x102C then
    let q : Fin 22 := ⟨(pg - 0x1000) / 2, by omega⟩
    if pg % 2 = 0 then some (.eng 0 q, 0) else some (.seq (.die 0 q), 0)
  else if h : 0x2000 ≤ pg ∧ pg < 0x202C then
    let q : Fin 22 := ⟨(pg - 0x2000) / 2, by omega⟩
    if pg % 2 = 0 then some (.eng 1 q, 0) else some (.seq (.die 1 q), 0)
  else if h : 0x10000 ≤ pg ∧ pg < 0x10A00 then
    let t : Fin 160 := ⟨(pg - 0x10000) / 16, by omega⟩
    let k := pg % 16
    if k = 0 then some (.til t, 0)
    else if h2 : 1 ≤ k ∧ k < 7 then some (.seq (.tile t ⟨k - 1, by omega⟩), 0)
    else if k = 7 then some (.mxa t 0, 0) else if k = 8 then some (.mxa t 1, 0)
    else if k = 9 then some (.dqu t 0, 0) else if k = 10 then some (.dqu t 1, 0)
    else if k = 11 then some (.ptw t, 0) else if k = 12 then some (.lay t, 0)
    else if k = 13 then some (.cntT t, 0) else if k = 14 then some (.dbgT t, 0)
    else none
  else none

/-- The block and page at offset `o` from 0x180_0000_0000, or none for an unmapped page (R31, Tables 2.3–2.6). -/
def blkAt (o : Nat) : Option (Blk × Nat) := blkPage (o / 0x1000)

/-- One register, or an array of `n` of them `stride` bytes apart: offset from the block's first page, bytes, access
code, the bits that hold state when written, and the reset value. -/
structure RegDesc where
  off : Nat
  size : Nat
  acc : Acc
  mask : Nat
  reset : Nat
  n : Nat
  stride : Nat
  deriving DecidableEq, Repr

/-- Read-only 4-byte registers. -/
def ro4 (off : Nat) (reset : Nat := 0) (n : Nat := 1) (stride : Nat := 4) : RegDesc := ⟨off, 4, .ro, 0, reset, n, stride⟩
/-- Read-only 8-byte registers. -/
def ro8 (off : Nat) (reset : Nat := 0) (n : Nat := 1) (stride : Nat := 8) : RegDesc := ⟨off, 8, .ro, 0, reset, n, stride⟩
/-- Read-write 4-byte registers. -/
def rw4 (off mask : Nat) (reset : Nat := 0) (n : Nat := 1) (stride : Nat := 4) : RegDesc :=
  ⟨off, 4, .rw, mask, reset, n, stride⟩
/-- Read-write 8-byte registers. -/
def rw8 (off mask : Nat) (reset : Nat := 0) (n : Nat := 1) (stride : Nat := 8) : RegDesc :=
  ⟨off, 8, .rw, mask, reset, n, stride⟩
/-- Write-only 4-byte registers. -/
def wo4 (off : Nat) (n : Nat := 1) (stride : Nat := 4) : RegDesc := ⟨off, 4, .wo, 0, 0, n, stride⟩
/-- Read registers whose read acts (RC, 4 bytes). -/
def rc4 (off : Nat) (n : Nat := 1) (stride : Nat := 4) : RegDesc := ⟨off, 4, .rc, 0, 0, n, stride⟩

/-- Bits [40:0]. -/
def m41 : Nat := 0x1FFFFFFFFFF
/-- All 4 bytes. -/
def m32 : Nat := 0xFFFFFFFF
/-- All 8 bytes. -/
def m64 : Nat := 0xFFFFFFFFFFFFFFFF

/-- The common header (R33, Tables 2.7–2.9). BLK_CTRL has its own handling in RegWrite. -/
def headerRegs : List RegDesc :=
  [ro4 0x00, ro4 0x04, ro4 0x08, ro4 0x0C, rw4 0x10 0x5, ro4 0x14, ⟨0x18, 4, .w1c, m32, 0, 1, 4⟩, rw4 0x1C 0xFFFF000F,
   ro4 0x20, ro4 0x24, ro4 0x28, ro4 0x2C]

/-- SVC page 0 (Tables 15.10 and 18.5), page 1 (Table 2.10), page 3 (Table 3.2). -/
def svcRegs : List RegDesc :=
  [ro4 0x40, ro4 0x44, wo4 0x48, ro4 0x4C, ro4 0x50 0 11, ro4 0x80, ro4 0x84, ro4 0x88, ro4 0x8C, rw4 0x90 1,
   rw8 0x98 m41, rw4 0xA0 m32, wo4 0xA4, ro4 0xA8, ro4 0xAC, rw4 0xB0 m32 0x3E8,
   rw4 0xC0 m32, ro4 0xC4, ⟨0xC8, 4, .w1c, 0x3F, 0, 1, 4⟩, rw4 0xCC 0x3E 0x3F, ro4 0xD0, ro4 0xD4, ro4 0xD8,
   ro4 0x1040 0 13, ro4 0x2040 0 13,
   rw4 0x3040 m32 0 64, rw8 0x3140 0x801FFFFFFFFFFFFF 0 16, rw8 0x3200 m41 0 160, rw8 0x3800 m41 0 44,
   rw4 0x3A00 0x107FF, rw4 0x3A04 0xFFF, rw4 0x3A40 0xFFF 0 160, rw4 0x3D00 0xFFF 0 44]

/-- KTL (Table 14.4). -/
def ktlRegs : List RegDesc :=
  [ro8 0x40, ro4 0x48, ro4 0x4C, rw4 0x50 m32 0x14, rw4 0x54 m32 0x3E8, ro8 0x58, ro8 0x60, ro8 0x68, ro4 0x70,
   ro4 0x100 0 20, rw4 0x180 0xFFF 0x640 20, rw8 0x200 0xFFFFFFFFFFFF 0x64005A0050 20, ro8 0x300 0 20, ro4 0x400 0 20,
   ro4 0x1040 0x1F73, ro4 0x1044 0x2D5000, ro4 0x1048 0x802000, ro4 0x104C 0x06ACFC00,
   ro4 0x1050 0x1000 4, ro4 0x1060 0 4, ro4 0x1070 0x1200, ro4 0x1074,
   rw8 0x2040 0xFFFFFFFFFFFF 0 16, rw4 0x20C0 m32 0 16, rw8 0x2100 m41 0 16, wo4 0x2180 16, ro8 0x21C0 0 16,
   ro8 0x2240 0 16, rw8 0x3040 0xFFFFFFFFFFFF 0x0B540A280960]

/-- CAL (Table 14.5). -/
def calRegs : List RegDesc :=
  [rw4 0x40 0xFF, ro4 0x44, rw4 0x48 0xFFFF 0x0F04, ro4 0x4C, ro4 0x50, ro4 0x54, rw4 0x58 0xFF 0x32] ++
  (List.range 20).map (fun n => ro4 (0x1040 + 64 * n) 0 9)

/-- SEC (Tables 15.11, 15.12). -/
def secRegs : List RegDesc :=
  [ro4 0x40, wo4 0x44, rw4 0x48 m32 0x258, rw8 0x50 m41, wo4 0x58, ro4 0x5C, ro8 0x60, ro8 0x68, ro4 0x70, ro4 0x74,
   ro4 0x78, ro8 0x80 0 8, ro8 0xC0 0 8, ro8 0x100 0 8, rw8 0x140 m64 0 8, rw8 0x180 m41, wo4 0x188, ro4 0x18C,
   ro4 0x1040, ro8 0x1048, ro8 0x1080 0 8]

/-- SPR page 0 (Table 16.7) and the map of page 1 (R27). -/
def sprRegs : List RegDesc :=
  [ro4 0x40 0 8, rw4 0x60 0xFFFF 0x3CE0, rw4 0x64 m32 0x1F4, rw4 0x68 0xFFFFFF07, ro4 0x6C, ro4 0x70, ro4 0x74,
   wo4 0x78, ro4 0x7C, rw4 0x80 m32 4, ro4 0x1040 0 80]

/-- LOG page 0 (Table 16.8). -/
def logRegs : List RegDesc :=
  [ro8 0x40, ro4 0x48, ro4 0x4C, ro4 0x50, ro4 0x54, ro8 0x58, ro4 0x60, ro4 0x64, ro8 0x80 0 8]

/-- FAB pages 0 and 1 (Table 10.10) and page 8 (Tables 9.13, 9.14; FLOG and PART are pairs of 8 bytes). DESIGN CHOICE (log entry 251):
low address bits that an alignment fixes and no table calls reserved are stored as 0 in PLACE_BASE, HST.WAKE and POOL_BASE, and as
written in KTL.REPORT_ADDR. -/
def fabRegs : List RegDesc :=
  [⟨0x40, 4, .rwl, 0x8001FFFF, 0, 1, 4⟩, rw4 0x44 m32 0x3E8, ro4 0x48, ro4 0x4C, rw8 0x100 m64 0x1030404040102008 34,
   rw4 0x1040 0x8001FFFF, rw4 0x1044 0xFFFFFF, rw4 0x1048 0x3FF, rw8 0x1050 0x1FFFFFFFF,
   rw4 0x8040 0x3FFF 0x64, rw4 0x8044 0x3FF 0xA, rw4 0x8048 0x1FFFF 0x3E8, ro4 0x804C, ro4 0x8050, ro4 0x8054, ro4 0x8058,
   ro4 0x805C, ro4 0x8060, ro4 0x8064, ro8 0x8068, ro8 0x8070, ro8 0x8078, ro4 0x8080, ro4 0x8084, ro4 0x8088, ro4 0x808C,
   rw8 0x8090 0x1FFFFE00000, wo4 0x8098, ro4 0x809C, ro4 0x80A0, ro4 0x80A4,
   rw8 0x8100 0xFFFFFFFF00077FFF 0 16 16, ro8 0x8108 0 16 16, ro8 0x8200 0 128]

/-- HST (Table 10.12). The vendor ID in PCI_ID is not given: a read adds Config.pciVendor. -/
def hstRegs : List RegDesc :=
  [ro4 0x40 0x7D100000, ro4 0x44, rw4 0x48 0x8001FFFF, rw4 0x4C 0xFFF, rw8 0x50 m64, rw8 0x58 m64, rw4 0x60 0xFFFF,
   ro4 0x64, ro4 0x68, ro8 0x70, ro8 0x78, rw8 0x100 0xB00000000FFFFFFF 0 64, rw8 0x300 0x800001FFFFFFFFFC 0 64,
   rw8 0x800 m64 0 128, ro8 0xC00]

/-- LNK (Table 10.11). -/
def lnkRegs : List RegDesc :=
  [rw4 0x40 0xF, ro4 0x44, ro8 0x48, wo4 0x50, rw4 0x54 m32 0x40, ro8 0x58, ro4 0x60, rw4 0x64 m32 0x44444444,
   ro8 0x68, ro4 0x70, ro4 0x74, ro4 0x78, ro4 0x7C]

/-- HBM (Table 13.2). -/
def hbmRegs : List RegDesc :=
  [rw4 0x40 0x0FFF00FF 0x00140008, rw4 0x44 0xFFFFFF 0x4004, rw4 0x48 0xFF 0x18, rw4 0x4C 0x3FF 0x64, ro4 0x50, ro4 0x54,
   wo4 0x58, rw8 0x60 0x3FFFFFFF, ro4 0x80 0x3F3F 16, ro8 0xC0 0 16, ro4 0x140 0 16, ro4 0x180 0 16, ro4 0x1C0 0 16,
   ro4 0x200 0 16]

/-- TGC (Table 13.3). -/
def tgcRegs : List RegDesc :=
  [rw4 0x40 0xF, rw4 0x44 0x33, rw8 0x48 m64, rw8 0x50 0x3FFFFFFF, rw8 0x58 0x3FFFFFFF, ro8 0x60, ro4 0x68, ro8 0x70,
   ro8 0x78, ro8 0x80, ro4 0x88]

/-- Device counter pages (Table 17.2) and their shadows, 0x800 above (R359). -/
def cntDRegs : List RegDesc :=
  let live : List RegDesc :=
    [ro8 0x80 0 16, ro8 0x100 0 2, ro8 0x200 0 44] ++
    (List.range 34).flatMap (fun p =>
      let b := (1 + p / 4) * 0x1000 + 0x100 + 0x100 * (p % 4)
      [ro8 b 0 8, ro8 (b + 0x40) 0 8, ro8 (b + 0x80) 0 8]) ++
    (List.range 16).flatMap (fun k => [ro8 (0xA100 + 0x40 * k) 0 3])
  live ++ live.map (fun r => { r with off := r.off + 0x800 }) ++ [wo4 0x7FC]

/-- Tile counter page (Table 17.1) and its shadows (R359). -/
def cntTRegs : List RegDesc := [ro8 0x40 0 17, ro8 0x840 0 17, wo4 0x7FC]

/-- Device debug page: PART_HALT (R364). -/
def dbgDRegs : List RegDesc := [wo4 0x40]

/-- Tile debug page (Table 17.3). -/
def dbgTRegs : List RegDesc :=
  [rw8 0x40 0x80FF01FFFFFFFFFE 0 4, rw8 0x60 0x80FF31FFFFFFFFF8 0 2, rw4 0x70 0x770, ro4 0x74, ro8 0x78, rw4 0x80 0x3F07,
   rw8 0x88 m64, rw4 0x90 0x7FFFE0, rw4 0x94 0xF, ro8 0x98]

/-- TIL (Table 3.9). -/
def tilRegs : List RegDesc := [wo4 0x40, wo4 0x44, ro4 0x48, ro4 0x4C, ro8 0x50, rw4 0x58 m32, ro4 0x5C, ro8 0x60]

/-- SEQ (Table 3.10). -/
def seqRegs : List RegDesc :=
  [rw8 0x40 0x1FFFFFFFFC0, rw4 0x48 0xF, ro4 0x4C, rw8 0x50 0x1FFFFFFFFFC, rw8 0x58 0x1FFFFFFFFFC, ro4 0x60, rw4 0x64 m32,
   ro4 0x68, ro4 0x6C, ro8 0x70, ro4 0x78, ro4 0x7C, ro4 0x80, ro4 0x84, ro8 0x88, ro8 0x90, ro4 0x98, ro4 0xA0,
   ro4 0x100 0 32]

/-- MXA (Table 4.13). -/
def mxaRegs : List RegDesc := [ro8 0x40, ro4 0x48, ro8 0x50, ro4 0x58, ro4 0x5C, ro4 0x60, ro4 0x64, ro4 0x68, ro4 0x6C, ro4 0x70]

/-- DQU (Table 4.14). -/
def dquRegs : List RegDesc :=
  [ro4 0x40, ro4 0x44, ro4 0x48, ro4 0x4C, rw4 0x50 0xFF, rw4 0x54 7, rw8 0x58 0x1FFFFFFFFC0, rw4 0x60 0x1FFF, ro4 0x64,
   ro4 0x68]

/-- LAY (Table 6.5). -/
def layRegs : List RegDesc :=
  [ro8 0x40, ro4 0x48, ro4 0x4C, ro4 0x50, ro4 0x54, ro4 0x58, ro4 0x5C, ro4 0x60, ro4 0x64, ro4 0x68, ro8 0x70, ro8 0x78]

/-- PTW (Table 6.6). -/
def ptwRegs : List RegDesc := [ro4 0x40, ro4 0x44, ro4 0x48, ro4 0x4C, ro8 0x50]

/-- Die-level engines (Tables 6.7, 7.11, 7.12, 8.8, 8.9, 11.10, 11.11, 12.6). -/
def engRegs : EngKind → List RegDesc
  | .grd => [ro8 0x40, ro4 0x48, ro4 0x4C, ro4 0x50, ro4 0x54, ro8 0x58, ro4 0x60]
  | .emb => [ro8 0x40, ro4 0x48, ro4 0x4C, ro4 0x50, rw4 0x54 m32, ro8 0x58, ro8 0x60, ro8 0x68, ro4 0x70, ro4 0x74,
      ro4 0x78, ro4 0x7C, ro4 0x80, ro4 0x84, ro8 0x88, ro8 0x90, ro8 0x98]
  | .rte => [ro8 0x40, ro4 0x48, ro4 0x4C, ro8 0x50, ro4 0x58, ro4 0x5C, ro4 0x60, ro4 0x64]
  | .xch => [ro8 0x40, ro4 0x48, rw4 0x4C 0xFFFF, ro4 0x50, ro4 0x54, rw4 0x58 m32, ro4 0x5C, ro8 0x60, ro8 0x68, ro8 0x70,
      ro4 0x78, ro4 0x7C, ro8 0x80, ro8 0x88]
  | .col => [ro8 0x40, ro4 0x48, rw4 0x4C 0xFFFF, rw8 0x50 m41, rw4 0x58 m32, ro4 0x5C, ro4 0x60, ro4 0x64, ro4 0x68,
      ro4 0x6C, ro4 0x70, ro4 0x74, ro4 0x78, ro4 0x7C, ro4 0x80, ro4 0x84, ro8 0x88, ro8 0x90]
  | .opt => [ro8 0x40, ro4 0x48, ro4 0x4C, ro8 0x50, ro4 0x58, ro4 0x5C, ro4 0x60, ro4 0x64, ro4 0x68, ro4 0x6C, ro8 0x70]
  | .bpm => [rw8 0x40 m41 0 4, rw4 0x60 0x1FFF 0 4, ro4 0x70 0 4, ro4 0x80 0 4, ro4 0x90 0 4, wo4 0xA0, ro4 0xA4, ro4 0xA8,
      ro4 0xAC, rc4 0x100 4, rc4 0x200 65]
  | .sta => [rw8 0x40 0x1FFFFFFFFC0, rw4 0x48 0x1FFFF, ro4 0x4C, ro4 0x50, ro4 0x54, ro4 0x58]

/-- The registers of a block above the header. -/
def Blk.regs : Blk → List RegDesc
  | .svc => svcRegs | .ktl => ktlRegs | .cal => calRegs | .sec => secRegs | .spr => sprRegs | .log => logRegs
  | .fab => fabRegs | .hst => hstRegs | .lnk _ => lnkRegs | .hbm _ => hbmRegs | .tgc _ => tgcRegs | .cntD => cntDRegs
  | .dbgD => dbgDRegs | .eng _ q => engRegs (engKind q.val) | .seq _ => seqRegs | .til _ => tilRegs
  | .mxa _ _ => mxaRegs | .dqu _ _ => dquRegs | .ptw _ => ptwRegs | .lay _ => layRegs | .cntT _ => cntTRegs
  | .dbgT _ => dbgTRegs

/-- The register of `l` that holds the byte at block offset `o`: the register and its index in its array. -/
def findReg : List RegDesc → Nat → Option (RegDesc × Nat)
  | [], _ => none
  | r :: rs, o =>
    if r.off ≤ o ∧ o < r.off + r.n * r.stride ∧ (o - r.off) % r.stride < r.size then some (r, (o - r.off) / r.stride)
    else findReg rs o

/-- The register at offset `o` of a block: the header shows through every page (R33). -/
def Blk.find (b : Blk) (o : Nat) : Option (RegDesc × Nat) :=
  if o % 0x1000 < 0x40 then findReg headerRegs (o % 0x1000) else findReg b.regs o

/-- The reset value of the register at offset `o` from 0x180_0000_0000 (the key of `State.regs`). -/
def resetVal (o : Nat) : Word64 :=
  match blkAt o with
  | none => 0
  | some (b, _) =>
    match b.find (o - b.base) with
    | some (r, _) => BitVec.ofNat 64 r.reset
    | none => 0

/-- A register's value, as a number; `o` counts from 0x180_0000_0000. -/
def rd (s : State) (o : Nat) : Nat := (SMap.get resetVal s.regs o).toNat

/-- A register written with no check. -/
def wr (s : State) (o v : Nat) : State := { s with regs := SMap.set resetVal s.regs o (BitVec.ofNat 64 v) }

/-- A block's register, by its offset in the block. -/
def Blk.rd (b : Blk) (s : State) (o : Nat) : Nat := Machine.rd s (b.base + o)

/-- A block's register written with no check. -/
def Blk.wr (b : Blk) (s : State) (o v : Nat) : State := Machine.wr s (b.base + o) v

end Sys2Proof.Machine
end

