-- ==== Sys2Proof/Machine/Flags.lean ====
section
/-! DEFINITION. Sys2Proof/Machine/Flags.lean: bit fields, counters, and the flags every block has: events, errors and their
capture (R35, Tables 2.7 and 2.9), and the board's alert (R375). -/
namespace Sys2Proof.Machine

/-! ### Bits and bytes -/

/-- Bits [lo + len − 1 : lo] of `v`. -/
def bits (v lo len : Nat) : Nat := v / 2 ^ lo % 2 ^ len

/-- Bit `i` of `v`. -/
def bit (v i : Nat) : Bool := v / 2 ^ i % 2 == 1

/-- `v` with bits [lo + len − 1 : lo] replaced by `x`. -/
def putBits (v lo len x : Nat) : Nat := v - bits v lo len * 2 ^ lo + x % 2 ^ len * 2 ^ lo

/-- A Bool as a bit. -/
def b2n (b : Bool) : Nat := if b then 1 else 0

/-- The number whose bytes, least significant first, are the list (R5). -/
def leNat : List Byte → Nat
  | [] => 0
  | b :: bs => b.toNat + 256 * leNat bs

/-- The `n` low bytes of `v`, least significant first (R5). -/
def leBytes : Nat → Nat → List Byte
  | 0, _ => []
  | n + 1, v => BitVec.ofNat 8 v :: leBytes n (v / 256)

/-- The `n`-bit number `v` read as two's complement. -/
def signed (n v : Nat) : Int := if v % 2 ^ n < 2 ^ (n - 1) then (v % 2 ^ n : Nat) else (v % 2 ^ n : Nat) - (2 ^ n : Nat)

/-- The `n`-bit two's complement code of `x`. -/
def unsigned (n : Nat) (x : Int) : Nat := (x % (2 ^ n : Nat)).toNat

/-- Quadword `i` of a byte list (Qn of chapter 3: bytes 8n to 8n + 7). -/
def qw (bs : List Byte) (i : Nat) : Nat := leNat ((bs.drop (8 * i)).take 8)

/-- Element `i` of `n` bytes of a byte list, as a number. -/
def word (n : Nat) (bs : List Byte) (i : Nat) : Nat := leNat ((bs.drop (n * i)).take n)

/-- The quadwords of a record's bytes. -/
def quads (bs : List Byte) : List Nat := (List.range (bs.length / 8)).map (qw bs)

/-- A bit field of quadword `i` of a record. -/
def fld (r : List Nat) (i lo len : Nat) : Nat := bits (r.getD i 0) lo len

/-- Apply `f` for each element, threading the state. -/
def forEach {α : Type} (l : List α) (s : State) (f : State → α → State) : State := l.foldl f s

/-- The mixing function of R104, on 64 bits. -/
def fold64 (y : Nat) : Nat :=
  let m : Nat := 2 ^ 64
  let y := (y ^^^ (y / 2 ^ 31)) * 0x8F3D6A21E4B79C53 % m
  let y := (y ^^^ (y / 2 ^ 27)) * 0x6B9E04D3A5C871F1 % m
  y ^^^ (y / 2 ^ 33)

/-! ### Register arithmetic -/

/-- Add `k` to a saturating 4-byte register. -/
def satAdd (s : State) (o k : Nat) : State := wr s o (min (rd s o + k) 0xFFFFFFFF)

/-- Add `k` to an 8-byte register, modulo 2^64. -/
def cntAdd (s : State) (o k : Nat) : State := wr s o ((rd s o + k) % 2 ^ 64)

/-- Add `k` to a block's saturating counter. -/
def Blk.sat (b : Blk) (s : State) (o : Nat) (k : Nat := 1) : State := satAdd s (b.base + o) k

/-- Add `k` to a block's 8-byte counter. -/
def Blk.add (b : Blk) (s : State) (o k : Nat) : State := cntAdd s (b.base + o) k

/-- Set a bit of a block's register. -/
def Blk.setBit (b : Blk) (s : State) (o i : Nat) : State :=
  let v := b.rd s o
  if bit v i then s else b.wr s o (v + 2 ^ i)

/-- Clear a bit of a block's register. -/
def Blk.clrBit (b : Blk) (s : State) (o i : Nat) : State :=
  let v := b.rd s o
  if bit v i then b.wr s o (v - 2 ^ i) else s

/-- Replace a field of a block's register. -/
def Blk.put (b : Blk) (s : State) (o lo len x : Nat) : State := b.wr s o (putBits (b.rd s o) lo len x)

/-- Set event bit `i` of a block's BLK_EVENT. -/
def Blk.event (b : Blk) (s : State) (i : Nat) : State := b.setBit s 0x18 i

/-- Count an error in BLK_ERR_COUNT, which saturates and then sets COUNT_SAT (R35, Table 2.9). -/
def Blk.countErr (b : Blk) (s : State) : State :=
  let c := b.rd s 0x28
  let s := b.wr s 0x28 (min (c + 1) 0xFFFFFFFF)
  if c + 1 = 0xFFFFFFFF then b.event s 2 else s

/-- An error of block `b` (R35): the pair BLK_ERR_INFO0/1 captures it while ERR is 0, ERR is set, and it is counted. -/
def Blk.raise (b : Blk) (s : State) (code part info : Nat) : State :=
  let s :=
    if bit (b.rd s 0x18) 0 then s
    else b.event (b.wr (b.wr s 0x20 (code % 2 ^ 16 + part % 2 ^ 12 * 2 ^ 16)) 0x24 (info % 2 ^ 32)) 0
  b.countErr s

/-- The enable, drain and lock bits of BLK_CTRL (Table 2.7). -/
def Blk.enabled (b : Blk) (s : State) : Bool := bit (b.rd s 0x10) 0
def Blk.draining (b : Blk) (s : State) : Bool := bit (b.rd s 0x10) 2
def Blk.locked (b : Blk) (s : State) : Bool := bit (b.rd s 0x10) 31

/-- A unit that serves the block has failed (R347). -/
def Blk.faulted (b : Blk) (s : State) : Bool := decide (bits (b.rd s 0x14) 0 4 = 5)

/-- Set bit `i` of ALERT_SRC; a newly set enabled bit raises an in-band interrupt whose mandatory byte is ALERT_SRC[7:0];
bit 0 is always enabled (R375, Table 18.5). -/
def alert (s : State) (i : Nat) : State :=
  let v := Blk.svc.rd s 0xC8
  if bit v i then s
  else
    let s := Blk.svc.wr s 0xC8 (v + 2 ^ i)
    if (i = 0 ∨ bit (Blk.svc.rd s 0xCC) i) ∧ !s.i2cMode then { s with ibi := some ((v + 2 ^ i) % 256) } else s

/-- ALERT_N is driven low (R375). -/
def alertLow (s : State) : Bool :=
  (List.range 6).any (fun i => bit (Blk.svc.rd s 0xC8) i && (i == 0 || bit (Blk.svc.rd s 0xCC) i))

end Sys2Proof.Machine
end

