-- ==== Sys2Proof/Machine/Ops.lean ====
section
/-! DEFINITION. Sys2Proof/Machine/Ops.lean: named operations over registers and memory that every meaning shares. -/
namespace Sys2Proof.Machine

/-! ### Free values -/

/-- A fresh free value: its number, and the state whose counter has moved on. -/
def fresh (s : State) : Nat × State := (Config.freeValue s.freeCtr, { s with freeCtr := s.freeCtr + 1 })

/-- `n` fresh bytes. -/
def freeBytes (s : State) : Nat → List Byte × State
  | 0 => ([], s)
  | n + 1 =>
    let f := fresh s
    let r := freeBytes f.2 n
    (BitVec.ofNat 8 f.1 :: r.1, r.2)

/-! ### The local map and privilege (R19–R29) -/

/-- Final statuses and replies (Table 9.6), and ADDR_FORM, which never travels. -/
def stOk : Nat := 0
def stDuplicate : Nat := 1
def stStaleRetry : Nat := 2
def stNotApplied : Nat := 3
def stUnknown : Nat := 4
def stAccessDenied : Nat := 5
def stUnmapped : Nat := 6
def stMisaligned : Nat := 7
def stBadAtomic : Nat := 8
def stEpochMismatch : Nat := 9
def stPartGone : Nat := 10
def stMoved : Nat := 12
def stWait : Nat := 13
def stFilterBusy : Nat := 14
/-- ADDR_FORM has no code in Table 9.6: 16 stands for it. -/
def stAddrForm : Nat := 16

/-- The device ID and local offset of a global address (R19). -/
def devOf (a : Nat) : Nat := a / 2 ^ 41 % 2 ^ 17
def offOf (a : Nat) : Nat := a % 2 ^ 41
/-- Bits [63:58] of an address field are 0 (R19). -/
def addrOk (a : Nat) : Bool := decide (a < 2 ^ 58)

/-- This device's ID, FAB.SELF_ID (Table 10.10). -/
def selfId (s : State) : Nat := bits (Blk.fab.rd s 0x40) 0 17

/-- The device is a bridge device: HOST_MODE applied (R236, Table 18.5). -/
def isBridge (s : State) : Bool := bit (Blk.svc.rd s 0xC4) 4

/-- The start of register space (R31). -/
def regBase : Nat := 0x18000000000
/-- The start of Near Memory (Table 2.1). -/
def nmBase : Nat := 0x10000000000
/-- The start of Near Memory slot `t`. -/
def slotBase (t : Nat) : Nat := nmBase + t * 0x800000

/-- The bank, the word of the bank and the byte of the word where offset `i` of a Near Memory slot lies (R123). -/
def bankOf (i : Nat) : Nat := 8 * (i / 2 ^ 20) + i / 2 ^ 6 % 8
def bankWord (i : Nat) : Nat := i / 2 ^ 9 % 2048
def bankByte (i : Nat) : Nat := i % 64

/-- The slot offset of a byte of a bank's word: what R123 takes apart. -/
def bankOffset (bank word byte : Nat) : Nat := bank / 8 * 2 ^ 20 + word * 2 ^ 9 + bank % 8 * 2 ^ 6 + byte

/-- What lies at a local offset (R21, R22). -/
inductive Place where
  | hbm (seg : Nat) | nm (slot inSlot : Nat) | reg (o : Nat) | log (o : Nat) | unmapped
  deriving DecidableEq, Repr

/-- The local offset map (Table 2.1). -/
def placeOf (o : Nat) : Place :=
  if o < 0x8000000000 then .hbm (o / 0x10000000)
  else if nmBase ≤ o ∧ o < 0x10050000000 then
    let i := (o - nmBase) % 0x800000
    if i < 0x700000 then .nm ((o - nmBase) / 0x800000) i else .unmapped
  else if regBase ≤ o ∧ o < 0x18040000000 then .reg (o - regBase)
  else if 0x1C000000000 ≤ o ∧ o < 0x1C010000000 then .log (o - 0x1C000000000)
  else .unmapped

/-- The segments of the stacks' reserved slices: the last two of each 256 (R11, R23). -/
def reservedSeg (n : Nat) : Bool := n % 256 ≥ 254

/-- The owner of a segment; reserved slices belong to the management partition (R23). -/
def segOwner (s : State) (n : Nat) : Nat := if reservedSeg n then 0 else SMap.get (fun _ => 0) s.segOwner n

/-- Segment `n` is a CODE segment (CODE_MAP, R44). -/
def codeSeg (s : State) (n : Nat) : Bool := bit (Blk.svc.rd s (0x3040 + 4 * (n / 32))) (n % 32)

/-- A local offset lies in a CODE segment of partition `p` (R44). -/
def isCode (s : State) (o p : Nat) : Bool :=
  match placeOf o with
  | .hbm n => codeSeg s n && (segOwner s n = p || p = 0)
  | _ => false

/-- The owner of logical tile `t` (TILE_OWNER, R24). -/
def tileOwner (s : State) (t : Nat) : Nat := bits (Blk.svc.rd s (0x3A40 + 4 * t)) 0 12

/-- The owner of die-level engine `i` = 22d + q (ENG_OWNER, R24). -/
def engOwner (s : State) (i : Nat) : Nat := bits (Blk.svc.rd s (0x3D00 + 4 * i)) 0 12

/-- Logical tiles (FEAT_TILES[7:0]); 0 before boot publishes the feature page (R37). -/
def logicalTiles (s : State) : Nat := bits (Blk.svc.rd s 0x104C) 0 8

/-- The open session: 0 none, 1 vendor, 2 owner (SEC.SESSION[1:0]). -/
def session (s : State) : Nat := bits (Blk.sec.rd s 0x40) 0 2

/-- Table 2.2: whether class `c`, for a resource of `owner`, grants partition `p` a read or a write. -/
def granted (s : State) (c : Priv) (owner p : Nat) (write : Bool) : Bool :=
  match c with
  | .all => !write
  | .part => p = 0 || p = owner
  | .mgmt => p = 0
  | .owner => p = 0 && session s ≠ 0
  | .vendor => p = 0 && session s = 1

/-- The partition that owns a register page's resource, for PART pages (R24, R32). -/
def Blk.owner (s : State) : Blk → Nat
  | .eng d q => engOwner s (22 * d.val + q.val)
  | .seq (.die d q) => engOwner s (22 * d.val + q.val)
  | .seq (.tile t _) => tileOwner s t.val
  | .til t => tileOwner s t.val | .mxa t _ => tileOwner s t.val | .dqu t _ => tileOwner s t.val
  | .ptw t => tileOwner s t.val | .lay t => tileOwner s t.val | .cntT t => tileOwner s t.val | .dbgT t => tileOwner s t.val
  | _ => 0

/-- The privilege class of a block's page; the windows of unassigned slots are OWNER (R27). -/
def Blk.privNow (s : State) (b : Blk) (pg : Nat) : Priv :=
  let beyond (t : Fin 160) (c : Priv) : Priv := if logicalTiles s ≤ t.val then .owner else c
  match b with
  | .til t => beyond t .part | .mxa t _ => beyond t .part | .dqu t _ => beyond t .part | .ptw t => beyond t .part
  | .lay t => beyond t .part | .cntT t => beyond t .part | .dbgT _ => .vendor
  | .seq (.tile t _) => beyond t (b.priv pg)
  | _ => b.priv pg

/-- Whether partition `p` may read or write at a mapped place (R23, R27, R28). A CODE segment is written by the management
partition alone (R44). -/
def mayAccess (s : State) (pl : Place) (p : Nat) (write : Bool) : Bool :=
  match pl with
  | .hbm n =>
    if reservedSeg n ∨ (write ∧ codeSeg s n) then granted s .mgmt 0 p write else granted s .part (segOwner s n) p write
  | .nm t _ => if t < logicalTiles s then granted s .part (tileOwner s t) p write else granted s .owner 0 p write
  | .reg o =>
    match blkAt o with
    | some (b, pg) => granted s (b.privNow s pg) (b.owner s) p write
    | none => false
  | .log _ => granted s .all 0 p write
  | .unmapped => false

/-- A span of local offsets lies in Near Memory, in one slot. -/
def inNm (o n : Nat) : Bool :=
  match placeOf o, placeOf (o + (n - 1)) with
  | .nm u _, .nm v _ => u = v
  | _, _ => false

/-! ### Bytes of HBM and Near Memory -/

/-- Unlisted bytes read 0: boot zeroes all of memory before anything can read it (R327, R338). -/
def memDefault (_ : Nat) : Byte := 0

/-- The canonical form of a memory: addresses strictly rising, no entry that an unlisted address reads as. -/
abbrev Memory.wf (m : List Host.Cell) : Bool := SMap.wf memDefault m

/-- `n` bytes at a local offset. -/
def readBytes (s : State) (o n : Nat) : List Byte := SMap.getMany memDefault s.mem o n

/-- The number in `n` bytes at a local offset. -/
def readNat (s : State) (o n : Nat) : Nat := leNat (readBytes s o n)

/-- A write into `n` bytes at `o` ends every reservation of a thread over them. -/
def Thread.unreserve (o n : Nat) (h : Thread) : Thread :=
  match h.rsv with
  | some (a, w) => if a < o + n ∧ o < a + w then { h with rsv := none } else h
  | none => h

/-- Store bytes at a local offset of HBM or Near Memory. -/
def writeBytes (s : State) (o : Nat) (bs : List Byte) : State :=
  { s with
    mem := SMap.setMany memDefault s.mem o bs
    tccs := (s.tccs.map (fun e => (e.1, { e.2 with threads := e.2.threads.map (Thread.unreserve o bs.length) }))).filter
      (fun e => !(decide (e.2 = ({} : Tcc)))) }

/-- Store the `n` low bytes of `v`. -/
def writeNat (s : State) (o n v : Nat) : State := writeBytes s o (leBytes n v)

/-- Every byte of `[o, o + n)` is a byte of HBM or Near Memory that partition `p` may access. -/
def spanStatus (s : State) (o n p : Nat) (write : Bool) : Nat :=
  let pl := placeOf o
  let pe := placeOf (o + (n - 1))
  match pl, pe with
  | .hbm a, .hbm b =>
    if (List.range (b - a + 1)).all (fun i => mayAccess s (.hbm (a + i)) p write) then stOk else stAccessDenied
  | .nm a _, .nm b _ => if a = b then (if mayAccess s pl p write then stOk else stAccessDenied) else stUnmapped
  | .unmapped, _ => stUnmapped
  | _, .unmapped => stUnmapped
  | _, _ => stAccessDenied

/-! ### Sparse parts of the state -/

def dSeq (_ : Nat) : SeqSt := {}
def dTcc (_ : Nat) : Tcc := {}
def dPort (_ : Nat) : Port := {}
def d0 (_ : Nat) : Nat := 0

def getSeq (s : State) (q : SeqId) : SeqSt := SMap.get dSeq s.seqs q.inst
def setSeq (s : State) (q : SeqId) (x : SeqSt) : State := { s with seqs := SMap.set dSeq s.seqs q.inst x }
def getTcc (s : State) (t : Nat) : Tcc := SMap.get dTcc s.tccs t
def setTcc (s : State) (t : Nat) (x : Tcc) : State := { s with tccs := SMap.set dTcc s.tccs t x }
def getPort (s : State) (p : Nat) : Port := SMap.get dPort s.ports p
def setPort (s : State) (p : Nat) (x : Port) : State := { s with ports := SMap.set dPort s.ports p x }

def dRec (_ : Nat) : List Nat := []

/-- Quadwords of an engine's record in force, none while no valid record is in force. -/
def recOf (s : State) (b : Blk) : List Nat := SMap.get dRec s.recs b.base
def setRec (s : State) (b : Blk) (l : List Nat) : State := { s with recs := SMap.set dRec s.recs b.base l }

/-- The sequencer's register page. -/
def SeqId.blk (q : SeqId) : Blk := .seq q

/-- The partition a sequencer works for (R23, R32). -/
def seqPart (s : State) (q : SeqId) : Nat := (Blk.seq q).owner s

/-- All tiles and all die-level engines. -/
def allTiles : List (Fin 160) := List.finRange 160
def allEngines : List (Fin 2 × Fin 22) := (List.finRange 2).flatMap (fun d => (List.finRange 22).map (fun q => (d, q)))

/-- Every sequencer that has a table in flight holds one (BLK_STATUS.BUSY of its page). -/
def seqBusy (s : State) (q : SeqId) : Bool := (getSeq s q).phase ≠ .idle

/-- The tile that a district holds runs at DSTATE MHz; a tile's district is that of its physical tile (R26, R27). -/
def physOf (s : State) (t : Nat) : Nat :=
  let v := Blk.spr.rd s (0x1040 + 4 * (t / 2))
  if t % 2 = 0 then bits v 0 8 else bits v 16 8

/-- The district of physical tile `p` = 80d + 8r + c, which is 10d + r (R26). -/
def districtOfPhys (p : Nat) : Nat := p / 80 * 10 + p % 80 / 8

/-- The frequency of a district in MHz (KTL.DSTATE[11:0]). -/
def districtMhz (s : State) (n : Nat) : Nat := bits (Blk.ktl.rd s (0x100 + 4 * n)) 0 12

/-- The clock of logical tile `t` in MHz. -/
def tileMhz (s : State) (t : Nat) : Nat := districtMhz s (districtOfPhys (physOf s t))

end Sys2Proof.Machine
end

