-- ==== Sys2Proof/Machine/SeqCore.lean ====
section
/-! DEFINITION. Sys2Proof/Machine/SeqCore.lean: what every sequencer does that needs no memory beyond the device's own:
tokens and queues (R51, R52, R388), statuses, iterations (R47, R48), credit requests (R310, R312), abandonment (R34). -/
namespace Sys2Proof.Machine

/-! ### Energy (R307, R308, R384) -/

/-- One µJ in the model's energy unit, 2^−20 fJ. -/
def microJ : Nat := 1000000000 * 1048576

/-- The partition slot (Table 9.14) of partition `p`: the first VALID entry that names it. -/
def slotOfPart (s : State) (p : Nat) : Option Nat :=
  (List.range 16).find? (fun k =>
    let v := Blk.fab.rd s (0x8100 + 16 * k)
    bits v 0 12 = p && bit v 12)

/-- The Q0 of partition `p`'s entry, 0 when it has none. -/
def partEntry (s : State) (p : Nat) : Nat :=
  match slotOfPart s p with
  | some k => Blk.fab.rd s (0x8100 + 16 * k)
  | none => 0

/-- The district of a tile sequencer's tile, or 20 + die for a die-level engine: its credit queue (R312). -/
def creditQueueOf (s : State) : SeqId → Nat
  | .tile t _ => districtOfPhys (physOf s t.val)
  | .die d _ => 20 + d.val

/-- GAIN_0 × (V ÷ 0.750 V)² in 1/4,096, V in half millivolts, to the nearest unit (R317). -/
def scaleAt (gain halfMv : Nat) : Nat := (gain * halfMv * halfMv + 1125000) / 2250000

/-- SCALE of a sequencer's island (R310, R317): DSCALE of its district, or that of its Mesh island. -/
def seqScale (s : State) : SeqId → Nat
  | .tile t _ => bits (Blk.ktl.rd s (0x400 + 4 * districtOfPhys (physOf s t.val))) 0 16
  | .die d _ => scaleAt (bits (Blk.ktl.rd s 0x1050) 0 16) (SMap.get d0 s.halfMv (160 + d.val))

/-- The clock of a sequencer's island in MHz: its tile's, or the Mesh's 2.0 GHz (R305). -/
def seqMhz (s : State) : SeqId → Nat
  | .tile t _ => tileMhz s t.val
  | .die _ _ => 2000

/-- Add live energy to a page; BLK_ENERGY holds its low 32 bits in µJ, and a wrap is an event (R384, Table 2.9). -/
def pageEnergy (s : State) (b : Blk) (e : Nat) : State :=
  if e = 0 then s else
  let old := SMap.get d0 s.pageE b.base
  let s := b.wr { s with pageE := SMap.set d0 s.pageE b.base (old + e) } 0x2C ((old + e) / microJ % 2 ^ 32)
  if old / microJ / 2 ^ 32 = (old + e) / microJ / 2 ^ 32 then s else b.event s 3

/-- Add live energy to a scope's bin and total. -/
def scopeEnergy (s : State) (k e : Nat) : State :=
  { s with binE := SMap.set d0 s.binE k (SMap.get d0 s.binE k + e), totE := SMap.set d0 s.totE k (SMap.get d0 s.totE k + e) }

/-- The event kinds of Table 14.1. -/
inductive EnergyKind where
  | cell | bank | link | burst
  deriving DecidableEq, Repr

/-- Nominal coefficients in 2^−8 fJ (Table 14.1, NOM_COEF). -/
def EnergyKind.coef : EnergyKind → Nat
  | .cell => 8051 | .bank => 2969600 | .link => 8396800 | .burst => 112000000

/-- The rail group of an event's gain (R317). -/
def EnergyKind.group : EnergyKind → Nat
  | .cell => 0 | .bank => 0 | .link => 1 | .burst => 2

/-- Live energy of `n` events: nominal coefficient × SCALE (R308); links take GAIN_1 and bursts GAIN_2 (R317). -/
def liveEnergy (s : State) (q : SeqId) (k : EnergyKind) (n : Nat) : Nat :=
  let scale := match k with
    | .cell => seqScale s q
    | .bank => seqScale s q
    | .link => bits (Blk.ktl.rd s 0x1054) 0 16
    | .burst => bits (Blk.ktl.rd s 0x1058) 0 16
  n * k.coef * scale

/-- The engine page a sequencer drives. -/
def engineBlk : SeqId → Blk
  | .tile t s => if s.val = 0 then .mxa t 0 else if s.val = 1 then .mxa t 1 else if s.val = 2 then .ptw t else .lay t
  | .die d q => .eng d q

/-- The page of an engine's own accesses: an array's results leave through its drain (R384). -/
def dataPage (q : SeqId) (write : Bool) : Blk :=
  match q with
  | .tile t i => if write ∧ i.val < 2 then .dqu t ⟨i.val % 2, Nat.mod_lt _ (by decide)⟩ else engineBlk q
  | .die _ _ => engineBlk q

/-- Account `n` events that an engine's table causes: to the page whose data path causes them, its sequencer's page, its table,
and its scopes. -/
def seqEnergy (s : State) (q : SeqId) (k : EnergyKind) (n : Nat) (page : Blk := engineBlk q) : State :=
  let e := liveEnergy s q k n
  if e = 0 then s else
  let x := getSeq s q
  let s := setSeq s q { x with liveEnergy := x.liveEnergy + e }
  let s := pageEnergy (pageEnergy s page e) (.seq q) e
  let s := scopeEnergy (scopeEnergy s 0 e) (40 + k.group) e
  let s := match q with
    | .tile t _ => scopeEnergy s (1 + districtOfPhys (physOf s t.val)) e
    | .die _ _ => s
  match slotOfPart s (seqPart s q) with
  | some j => scopeEnergy s (21 + j) e
  | none => s

/-- Energy of events of a tile's threads: to the TIL page and its scopes (R308, R384). -/
def threadEnergy (s : State) (t : Fin 160) (k : EnergyKind) (n : Nat) : State :=
  let e := liveEnergy s (.tile t 0) k n
  if e = 0 then s else
  let s := pageEnergy s (.til t) e
  let s := scopeEnergy (scopeEnergy (scopeEnergy s 0 e) (40 + k.group) e) (1 + districtOfPhys (physOf s t.val)) e
  match slotOfPart s (tileOwner s t.val) with
  | some j => scopeEnergy s (21 + j) e
  | none => s

/-! ### A step's own words -/

/-- Word `k` that the step in force keeps. -/
def scr (s : State) (q : SeqId) (k : Nat) : Option Nat := ((getSeq s q).scratch.find? (fun e => e.1 = k)).map (·.2)

/-- Word `k`, 0 when the step has not set it. -/
def scr0 (s : State) (q : SeqId) (k : Nat) : Nat := (scr s q k).getD 0

/-! ### Tables (Tables 3.1–3.5) -/

/-- An operand descriptor from its four quadwords (Table 3.5). -/
def parseOperand (q0 q1 q2 q3 : Nat) : Operand where
  base := q0
  stride0 := signed 32 (bits q1 0 32)
  stride1 := signed 32 (bits q1 32 32)
  stride2 := signed 32 (bits q2 0 32)
  kind := bits q2 32 4
  bsel := bits q2 36 3
  epochEn := bit q2 39
  epoch := bits q2 40 4
  epochLvl := bits q2 44 2
  format := bits q2 48 8
  length := bits q3 0 32

/-- A step from its 128 bytes (Tables 3.4, 3.5). -/
def parseStep (bs : List Byte) : Step :=
  let q := qw bs
  { op := bits (q 0) 0 8, mode := bits (q 0) 8 8, waitCtr := bits (q 0) 16 5, waitEn := bit (q 0) 21,
    replayable := bit (q 0) 22, waitCount := bits (q 0) 24 16, emitLink := bits (q 0) 40 4, emitEn := bit (q 0) 44,
    emitPer := bits (q 0) 45 2, countLevel := bits (q 0) 48 2,
    cycles := bits (q 1) 0 24, energy := bits (q 1) 24 32,
    l0 := bits (q 2) 0 20, l1 := bits (q 2) 20 20, l2 := bits (q 2) 40 20, countAddr := bits (q 3) 0 41,
    a := parseOperand (q 4) (q 5) (q 6) (q 7), b := parseOperand (q 8) (q 9) (q 10) (q 11),
    d := parseOperand (q 12) (q 13) (q 14) (q 15) }

/-- A link word (Table 3.3). -/
def parseLink (v : Nat) : Link := { dest := bits v 0 16, counter := bits v 16 5, valid := bit v 21 }

/-- A table from its header's 128 bytes and its steps' bytes (Table 3.3). -/
def parseTable (h st : List Byte) : Table :=
  { engine := bits (qw h 0) 32 8, replayAllow := bits (qw h 0) 56 8, tableId := bits (qw h 1) 0 32,
    completionLinks := bits (qw h 1) 32 16, cyclesMax := bits (qw h 2) 0 48, energyMax := bits (qw h 3) 0 48,
    links := (List.range 16).map (fun m => parseLink (leNat ((h.drop (32 + 4 * m)).take 4))),
    steps := (List.range (bits (qw h 0) 48 8)).map (fun i => parseStep ((st.drop (128 * i)).take 128)) }

/-- A command block from its 64 bytes (Table 3.1). -/
def parseCmd (bs : List Byte) : Cmd :=
  let q := qw bs
  { cmd := bits (q 0) 0 8, sched := bits (q 0) 8 2, epochAdd := bits (q 0) 12 4, user := bits (q 0) 32 32,
    p0 := q 1, p1 := q 2, p2 := q 3, p3 := q 4, flagAddr := q 5, flagValue := q 6,
    flagEn := bit (q 7) 0, flagAll := bit (q 7) 1, statusInFlag := bit (q 7) 2 }

/-! ### Status (R52) -/

/-- Token statuses (Table 3.7). -/
def tkOk : Nat := 0
def tkHazard : Nat := 1
def tkAborted : Nat := 2
def tkCountRange : Nat := 3
def tkSaturated : Nat := 4
def tkTimeout : Nat := 5
def tkMemory : Nat := 6

/-- Change a sequencer's state. -/
def modSeq (s : State) (q : SeqId) (f : SeqSt → SeqSt) : State := setSeq s q (f (getSeq s q))

/-- Merge a status into the table's: the first non-OK one stands; ABORTED and TIMEOUT replace any earlier (R52). -/
def noteStatus (s : State) (q : SeqId) (st : Nat) (origin : Nat := q.inst) : State :=
  modSeq s q (fun x =>
    if st = tkOk then x
    else if x.status = tkOk ∨ st = tkAborted ∨ st = tkTimeout then { x with status := st, origin := origin }
    else x)

/-! ### Tokens and queues (R51, R388) -/

/-- The sequencer with a BLK_IDENT instance number. -/
def seqOfInst (n : Nat) : Option SeqId :=
  if h : n < 1280 then (if h2 : n % 8 < 6 then some (.tile ⟨n / 8, by omega⟩ ⟨n % 8, h2⟩) else none)
  else if 0x8000 ≤ n then
    if h : (n - 0x8000) / 256 < 2 ∧ (n - 0x8000) % 256 < 22 then
      some (.die ⟨(n - 0x8000) / 256, h.1⟩ ⟨(n - 0x8000) % 256, h.2⟩) else none
  else none

/-- Show a sequencer's queue in QUEUE_OCC: entries held, and the high-water mark (Table 3.10). -/
def showOcc (s : State) (q : SeqId) : State :=
  let n := (getSeq s q).queue.length
  (Blk.seq q).wr s 0x98 (min n 127 + 256 * max (min n 127) (bits ((Blk.seq q).rd s 0x98) 8 7))

/-- Raise an error of a sequencer: its event bit and its code, with the partition and `info` captured. DESIGN CHOICE (log entry 180):
BLK_ERR_INFO1, for which R35 asks a block-defined value and chapter 3 defines RING_CFG's only, captures the entry's TABLE_ID for
REFUSED, the counter for WAIT_TIMEOUT, the local offset of the granule for HAZARD, the low address bits for ADDR_FORM, and 0 for the
sequencer's other errors. -/
def seqRaise (s : State) (q : SeqId) (ev : Option Nat) (code info : Nat) : State :=
  let s := match ev with
    | some i => (Blk.seq q).event s i
    | none => s
  (Blk.seq q).raise s code (seqPart s q) info

/-- A sequencer that a link may name: not a spare one, which has no binding and is allotted to no partition (R44, R388, Table 2.6). -/
def linkable : SeqId → Bool
  | .tile _ i => i.val < 4
  | .die _ _ => true

/-- The destination of link `m` when a token may leave on it: the link is VALID and names a sequencer allotted to the
producer's partition on this device (R388). -/
def linkDest (s : State) (q : SeqId) (m : Nat) : Option (SeqId × Nat) :=
  match (getSeq s q).table with
  | none => none
  | some t =>
    let l := t.links.getD m {}
    if l.valid then
      match seqOfInst l.dest with
      | some d => if linkable d ∧ seqPart s d = seqPart s q then some (d, l.counter) else none
      | none => none
    else none

/-- A queue with its in-flight entries holds at most 64 (R51). -/
def queueFull (s : State) (d : SeqId) : Bool := 64 ≤ (getSeq s d).queue.length + (getSeq s d).inFlight.length

/-- Send the waiting tokens of `q` in order, up to `n`, stopping at the first whose destination's queue is full. -/
def flushEmits (s : State) (q : SeqId) : Nat → State
  | 0 => s
  | n + 1 =>
    match (getSeq s q).emits with
    | [] => s
    | (di, e) :: rest =>
      match seqOfInst di with
      | none => s
      | some d =>
        if queueFull s d then s
        else
          let s := modSeq s q (fun x => { x with emits := rest })
          flushEmits (modSeq s d (fun x => { x with inFlight := x.inFlight ++ [e] })) q n

/-- Emit a token on link `m` now: status and origin are those of the table at this moment (R52). A link that cannot be
used sends nothing, gives the table status MEMORY and raises LINK_INVALID (R388). -/
def emitToken (s : State) (q : SeqId) (m : Nat) (e : QEntry) : State :=
  match linkDest s q m with
  | none => seqRaise (noteStatus s q tkMemory) q (some 24) 0x010C 0
  | some (d, c) =>
    let x := getSeq s q
    let e := { e with counter := c, status := x.status, origin := if x.status = tkOk then q.inst else x.origin }
    flushEmits (modSeq s q (fun x => { x with emits := x.emits ++ [(d.inst, e)] })) q (x.emits.length + 1)

/-- The register of token counter `m` in a SEQ page. -/
def tokenReg (m : Nat) : Nat := 0x100 + 4 * m

/-- An arriving entry (R51): its counter rises by 1 and it joins the queue; at 0xFFFF it is discarded, TOKEN_OVF. -/
def arriveToken (s : State) (q : SeqId) (e : QEntry) : State :=
  let b := Blk.seq q
  if b.rd s (tokenReg e.counter) = 0xFFFF then seqRaise s q (some 23) 0x0108 0
  else
    let s := b.wr s (tokenReg e.counter) (b.rd s (tokenReg e.counter) + 1)
    showOcc (modSeq s q (fun x => { x with queue := x.queue ++ [e] })) q

/-- Remove the `n` oldest entries of counter `c` from a queue: what is removed, and what stays. -/
def takeEntries (c : Nat) : Nat → List QEntry → List QEntry × List QEntry
  | _, [] => ([], [])
  | 0, l => ([], l)
  | n + 1, e :: l =>
    if e.counter = c then let r := takeEntries c n l; (e :: r.1, r.2)
    else let r := takeEntries c (n + 1) l; (r.1, e :: r.2)

/-! ### Addresses of operands (R47) -/

/-- The value BSEL chooses (Table 3.5); BSEL 5 reads the oldest entry the step's wait removed (R51). -/
def bselValue (x : SeqSt) (o : Operand) : Nat :=
  match o.bsel with
  | 1 => x.cmd.p0 | 2 => x.cmd.p1 | 3 => x.cmd.p2 | 4 => x.cmd.p3
  | 5 => match x.taken with
    | e :: _ => e.addr
    | [] => 0
  | _ => 0

/-- An operand's address at iteration (i0, i1, i2), modulo 2^64 (R47). -/
def operandAddr (x : SeqSt) (o : Operand) (i0 i1 i2 : Nat) : Nat :=
  unsigned 64 ((bselValue x o + o.base : Nat) + i0 * o.stride0 + i1 * o.stride1 + i2 * o.stride2)

/-- An operand's epoch at an iteration (R47). -/
def operandEpoch (x : SeqSt) (o : Operand) (i0 i1 i2 : Nat) : Nat :=
  (o.epoch + x.cmd.epochAdd + (match o.epochLvl with | 1 => i0 | 2 => i1 | 3 => i2 | _ => 0)) % 16

/-- The step in force. -/
def curStep (x : SeqSt) : Step :=
  match x.table with
  | some t => t.steps.getD x.step {}
  | none => {}

/-- The token counter that the step in force waits on has reached WAIT_COUNT (R51). -/
def tokensMet (s : State) (q : SeqId) : Bool :=
  let st := curStep (getSeq s q)
  !st.waitEn || st.waitCount ≤ (Blk.seq q).rd s (tokenReg st.waitCtr)

/-- The tokens that a wait takes (R51): an entry that is not OK refuses the data of this step and of every later one (R53). -/
def takeTokens (s : State) (q : SeqId) : State :=
  let b := Blk.seq q
  let x := getSeq s q
  let st := curStep x
  if st.waitEn then
    let r := takeEntries st.waitCtr st.waitCount x.queue
    let s := b.wr s (tokenReg st.waitCtr) (b.rd s (tokenReg st.waitCtr) - st.waitCount)
    let s := showOcc (modSeq s q (fun x => { x with taken := r.1, queue := r.2 })) q
    match r.1.find? (fun e => e.status ≠ tkOk) with
    | some e => seqRaise (noteStatus (modSeq s q (fun x => { x with refused := true })) q e.status e.origin) q (some 17) 0x0102 e.tableId
    | none => s
  else modSeq s q (fun x => { x with taken := [] })

/-- Cycles waited since the wait began. -/
def waited (s : State) (q : SeqId) : Nat := (s.now - (getSeq s q).waitFrom) * seqMhz s q

/-- A step's wait is over: its cycles are counted (Tables 3.10 and 17.1). -/
def endWait (s : State) (q : SeqId) : State :=
  let w := waited s q
  let s := modSeq s q (fun x => { x with waitCycles := x.waitCycles + w })
  match q with
  | .tile t i => if i.val < 4 then (Blk.cntT t).add s 0x68 w else s
  | .die _ _ => s

/-- The flattened iteration index (Table 3.10, HAZ_ITER). -/
def flatIter (x : SeqSt) : Nat := x.i0 + x.b0 * (x.i1 + x.b1 * x.i2)

/-- An operation whose iterations each wait on the step's tokens: an exchange engine's RETURN (R160), a collective engine's CONTRIB
(R252) and an optimiser engine's UPDATE (R275). -/
def waitsEach (q : SeqId) (op : Nat) : Bool :=
  match q with
  | .die _ e => (engKind e.val = .xch && op = 0x13) || ((engKind e.val = .col || engKind e.val = .opt) && op = 0x11)
  | .tile _ _ => false

/-- The iteration in force still waits on tokens of its own: it is not the first, and has not taken any (word 101). -/
def iterWaits (s : State) (q : SeqId) : Bool :=
  let x := getSeq s q
  x.phase = .iter && waitsEach q (curStep x).op && flatIter x ≠ 0 && scr0 s q 101 < flatIter x

/-! ### Steps and iterations (R48) -/

/-- A token's entry for the step in force: D's address at iteration (i0, i1, i2), `n` iterations covered, the epoch of
the first write covered (Table 3.6). -/
def stepEntry (x : SeqSt) (dAddr n epoch : Nat) : QEntry :=
  let st := curStep x
  { addr := dAddr % 2 ^ 58, length := st.d.length * n % 2 ^ 32, format := st.d.format, epoch := epoch,
    tableId := match x.table with | some t => t.tableId | none => 0 }

/-- The entry of a per-iteration token: an operation may give its own LENGTH, in word 900 (R254). -/
def iterEntry (x : SeqSt) (dAddr n epoch : Nat) : QEntry :=
  let e := stepEntry x dAddr n epoch
  match x.scratch.find? (fun w => w.1 = 900) with
  | some (_, len) => { e with length := len * n % 2 ^ 32 }
  | none => e

/-- Send a token now, or keep it until the writes it covers are performed, those of the step (`k` 0) or of the iteration of level
`k` − 1 in force (R77, R128, R166). -/
def sendToken (s : State) (q : SeqId) (late : Bool) (m k : Nat) (e : QEntry) : State :=
  if late then modSeq s q (fun x => { x with late := x.late ++ [⟨m, e, x.outFrom.getD k 0, s.nextOut⟩] })
  else emitToken s q m e

/-- The operations whose tokens are late-bound: an array's PASS (R77), a routing engine's ROUTE (R146), and every one of the other
engines (R128, R134, R141, R151, R166, R248, R272). -/
def lateBound (q : SeqId) (op : Nat) : Bool :=
  match q with
  | .tile _ i => 2 ≤ i.val || op = 0x12
  | .die _ e => engKind e.val ≠ .rte || op = 0x11

/-- D's address at the step's first iteration (Table 3.6): where that iteration's engine put it, kept in word 902 (a Matrix Array in
BLOCKED mode takes it from the block list, R85), else R47's. -/
def firstAddr (x : SeqSt) : Nat :=
  match x.scratch.find? (fun w => w.1 = 902) with
  | some (_, a) => a
  | none => operandAddr x (curStep x).d 0 0 0

/-- The step has run its iterations: its step-end token leaves and the next step, or the table's end, follows (R48). -/
def retireStep (s : State) (q : SeqId) (late : Bool) : State :=
  let x := getSeq s q
  let st := curStep x
  let s := if st.emitEn ∧ st.emitPer = 0 then
      sendToken s q late st.emitLink 0 (stepEntry x (firstAddr x) (x.b0 * x.b1 * x.b2) (operandEpoch x st.d 0 0 0))
    else s
  let n := match x.table with | some t => t.steps.length | none => 0
  let s := modSeq s q (fun x =>
    { x with step := x.step + 1, i0 := 0, i1 := 0, i2 := 0, replaying := false, scratch := [],
             phase := if x.step + 1 < n then .wait else .ended, waitFrom := s.now })
  if x.step + 1 < n then (Blk.seq q).wr s 0x6C (x.step + 1) else s

/-- A Matrix Array's sequencer. -/
def isArraySeq : SeqId → Bool
  | .tile _ i => i.val < 2
  | .die _ _ => false

/-- After an iteration: its cycles, its EMIT_PER token, and the next iteration or the step's end (R48, Table 3.4).
`dAddr` is D's address at this iteration. -/
def afterIter (s : State) (q : SeqId) (late : Bool) (dAddr : Nat) : State :=
  let x := getSeq s q
  let st := curStep x
  let last0 := x.i0 + 1 = x.b0
  let last1 := last0 ∧ x.i1 + 1 = x.b1
  let last2 := last1 ∧ x.i2 + 1 = x.b2
  let s := modSeq s q (fun x =>
    { x with cycles := x.cycles + st.cycles, replaying := false,
             scratch := if isArraySeq q && flatIter x = 0 then (902, dAddr) :: x.scratch else x.scratch })
  let s :=
    if st.emitEn then
      match st.emitPer with
      | 1 => sendToken s q late st.emitLink 1 (iterEntry x dAddr 1 (operandEpoch x st.d x.i0 x.i1 x.i2))
      | 2 => if last0 then sendToken s q late st.emitLink 2 (iterEntry x dAddr x.b0 (operandEpoch x st.d 0 x.i1 x.i2)) else s
      | 3 => if last1 then sendToken s q late st.emitLink 3 (iterEntry x dAddr (x.b0 * x.b1) (operandEpoch x st.d 0 0 x.i2)) else s
      | _ => s
    else s
  if last2 then retireStep s q late
  else modSeq s q (fun x =>
    { x with waitFrom := s.now, i0 := if last0 then 0 else x.i0 + 1, i1 := if last1 then 0 else if last0 then x.i1 + 1 else x.i1,
             i2 := if last1 then x.i2 + 1 else x.i2,
             outFrom := [x.outFrom.getD 0 0, s.nextOut, if last0 then s.nextOut else x.outFrom.getD 2 0,
                         if last1 then s.nextOut else x.outFrom.getD 3 0] })

/-- The per-iteration tokens of a step that performs no operation (NOP, or refused under R53), all iterations at once. -/
def idleIters (s : State) (q : SeqId) : Nat → State
  | 0 => s
  | n + 1 =>
    let x := getSeq s q
    if x.phase = .iter then
      let st := curStep x
      idleIters (afterIter s q false (operandAddr x st.d x.i0 x.i1 x.i2)) q n
    else s

/-- A step that performs no operation runs its `b0 × b1 × b2` iterations' cycles and emits its tokens (R48, R53). -/
def idleStep (s : State) (q : SeqId) : State :=
  let x := getSeq s q
  let st := curStep x
  let n := x.b0 * x.b1 * x.b2
  if st.emitEn ∧ st.emitPer ≠ 0 then idleIters (modSeq s q (fun x => { x with phase := .iter })) q n
  else retireStep (modSeq s q (fun x => { x with cycles := x.cycles + st.cycles * n })) q false

/-- What one iteration of an engine's operation did: it ran, with D's address; or it could not run yet, and the
sequencer stands where it stood. -/
inductive IterResult where
  | ran (s : State) (dAddr : Nat)
  | hold (s : State)

/-- One iteration of the step in force of `q` under `body`, when the step's OP is `op` and the sequencer is running its
iterations with no token waiting to leave; otherwise nothing happens. -/
def runIter (q : SeqId) (op : Nat) (body : State → Step → IterResult) (s : State) : State :=
  let x := getSeq s q
  let st := curStep x
  if x.phase = .iter ∧ x.emits = [] ∧ st.op = op then
    match body s st with
    | .ran s' d => afterIter (modSeq s' q (fun x => { x with rbuf := [], rfail := false })) q (lateBound q op) d
    | .hold s' => s'
  else s

/-! ### Credit (R310, R312) -/

/-- The Kettle's credit request for a table as it stands now (R310, R313), and the surcharge carried to the following request. -/
def creditRequest (s : State) (q : SeqId) (t : Table) : CreditReq × Nat :=
  let x := getSeq s q
  let maxScale := bits (Blk.ktl.rd s 0x1070) 0 16
  let sc := seqScale s q
  let c0 := t.energyMax * 16000000000 * min sc maxScale / 4096
  let used := min x.surcharge c0
  let mhz := seqMhz s q
  ({ inst := q.inst, queue := creditQueueOf s q, part := seqPart s q, since := s.now, charge := c0 + used,
     rate := if t.cyclesMax = 0 then c0 + used else ((c0 + used) * mhz + t.cyclesMax - 1) / t.cyclesMax,
     bins := if mhz = 0 then 0 else (t.cyclesMax + mhz - 1) / mhz,
     scale := min sc maxScale, clamped := maxScale < sc },
   x.surcharge - used)

/-- Drop a sequencer's request and its grant (R312). -/
def releaseCredit (s : State) (q : SeqId) : State :=
  { s with creditQ := s.creditQ.filter (fun c => c.inst ≠ q.inst), grants := s.grants.filter (fun g => g.inst ≠ q.inst) }

/-- The sequencer that waits for a request's outcome. -/
def Waiter.inst : Waiter → Option Nat
  | .operand n _ => some n
  | .store n => some n
  | .flag n => some n
  | .value n _ => some n
  | _ => none

/-- Iterations of a Tamper some of whose stores are not yet performed (R128). -/
def inFlightIters (s : State) (q : SeqId) : List (Nat × Nat) :=
  (getSeq s q).flight.filter (fun f => s.outs.any (fun o => match o.waiter with
    | .store n => n = q.inst && f.1 ≤ o.id && o.id < f.2
    | _ => false))

/-! ### Abandonment (R34, R51, R312) and drain (R59, R389) -/

/-- Emit the completion tokens of the table in flight (R42). -/
def completionTokens (s : State) (q : SeqId) : State :=
  match (getSeq s q).table with
  | none => s
  | some t =>
    forEach ((List.range 16).filter (fun m => bit t.completionLinks m)) s
      (fun s m => emitToken s q m { tableId := t.tableId })

/-- Drop an engine's waiting pool requests, and the answers it has not taken (R139). -/
def dropPoolWaits (s : State) (inst : Nat) : State :=
  let s := { s with poolAns := s.poolAns.filter (fun a => a.inst ≠ inst) }
  forEach ((List.finRange 2).flatMap (fun d => (List.range 4).map (fun p => (d, p)))) s (fun s e =>
    let k := 4 * e.1.val + e.2
    let l := SMap.get (fun _ => []) s.poolQ k
    let l' := l.filter (fun w => w.inst ≠ inst)
    if l' = l then s
    else (Blk.eng e.1 20).put { s with poolQ := SMap.set (fun _ => []) s.poolQ k l' } (0x90 + 4 * e.2) 0 7 l'.length)

/-- Abandon the table in flight (R34): its completion tokens leave with ABORTED and its credit is released (R312).
Answers its TABLE_ID, none when no table is in flight. DESIGN CHOICE (log entry 241): the command of an abandoned table stores no flag and
RING_HEAD does not advance, so it is taken again; so is a command whose table waits in a table slot, which is discarded without
ABORTED, since it is not in flight (R48). -/
def abandonTable (s : State) (q : SeqId) : Option Nat × State :=
  let x := getSeq s q
  if x.phase = .idle then (none, if x.loaded = [] then s else modSeq s q (fun x => { x with loaded := [] }))
  else
    let s := modSeq s q (fun x => { x with emits := [], late := [] })
    let s := completionTokens (noteStatus s q tkAborted) q
    let s := modSeq (releaseCredit (dropPoolWaits s q.inst) q) q (fun x =>
      { x with phase := .idle, table := none, loaded := [], taken := [], flight := [], rbuf := [], rfail := false, vals := [], scratch := [], late := [] })
    let s := { s with outs := s.outs.map (fun o => if o.waiter.inst = some q.inst then { o with waiter := .posted } else o) }
    (some (match x.table with | some t => t.tableId | none => 0), s)

/-- The effects of SOFT_RESET on a sequencer beside R34's on its page: its table in flight is abandoned, its counters and
its queue are cleared (Table 3.13), and a hold on command intake ends (R43). DESIGN CHOICE (log entry 177): SCHED_STATE's position
returns to 0 and its schedule number stays. -/
def abandon (s : State) (q : SeqId) : Option Nat × State :=
  let r := abandonTable s q
  let s := modSeq r.2 q (fun x => { x with intake := .open, queue := [] })
  let s := forEach (List.range 32) s (fun s m => (Blk.seq q).wr s (tokenReg m) 0)
  (r.1, (Blk.seq q).put (showOcc s q) 0x60 2 6 0)

/-- A write of DRAIN to a sequencer's BLK_CTRL: a credit request still waiting is withdrawn and its command stays
unstarted, its table in its slot (R312); with no table in flight the drain point is reached and DRAIN_DONE raised (R389, Table 2.9). -/
def drainSet (s : State) (q : SeqId) : State :=
  let x := getSeq s q
  let s := if x.phase = .credit then
      modSeq (releaseCredit s q) q (fun x =>
        { x with phase := .idle, table := none, loaded := x.table.toList.map (fun t => (x.cmd, t, x.nextPos)) ++ x.loaded })
    else s
  if !seqBusy s q && (Blk.seq q).enabled s then (Blk.seq q).event s 1 else s

/-- The ring check of a write that sets ENABLE (R387). A hold that lasts until SOFT_RESET stands, whatever the check says. -/
def ringCheck (s : State) (q : SeqId) : State :=
  let b := Blk.seq q
  let n := bits (b.rd s 0x48) 0 4
  let isNm (o : Nat) : Bool := match placeOf o with | .nm _ _ => true | _ => false
  let fail (off : Nat) : State := modSeq (seqRaise s q none 0x0107 off) q (fun x =>
    if x.intake = .held then x else { x with intake := .ringBad })
  if n = 0 ∨ 12 < n then fail 0x48
  else if !isNm (b.rd s 0x50) then fail 0x50
  else if b.rd s 0x58 ≠ 0 ∧ !isNm (b.rd s 0x58) then fail 0x58
  else modSeq s q (fun x => if x.intake = .ringBad then { x with intake := .open } else x)

end Sys2Proof.Machine
end

