-- ==== Sys2Proof/Machine/Kettle.lean ====
section
/-! DEFINITION. Sys2Proof/Machine/Kettle.lean: the Kettle and live calibration (chapter 14): averages and limits (R308,
R309), grants (R311, R312), settlement (R313), frequency and voltage (R314–R317), step reports (R321), throttling (R378). -/
namespace Sys2Proof.Machine

def ktl : Blk := .ktl
def cal : Blk := .cal

/-- Bins per window (R309): 10 µs, 1 ms, 100 ms. -/
def windowBins : Nat → Nat
  | 0 => 10 | 1 => 1000 | _ => 100000

/-- The limit of a scope over window `w` in W, 0 for none (R309, Table 14.2): PKG_LIMIT, DLIMIT[n], PLIMIT[k]. -/
def scopeLimit (s : State) (k w : Nat) : Nat :=
  let v := if k = 0 then ktl.rd s 0x3040 else if k ≤ 20 then ktl.rd s (0x200 + 8 * (k - 1)) else ktl.rd s (0x2040 + 8 * (k - 21))
  bits v (match w with | 0 => 32 | 1 => 16 | _ => 0) 16

/-- FLOOR_g in W. -/
def floorW (s : State) (g : Nat) : Nat := bits (ktl.rd s (0x1060 + 4 * g)) 0 16

/-- A scope's floor per bin (R309): the package has every group's; a partition has none. -/
def scopeFloor (s : State) (k : Nat) : Nat :=
  if k = 0 then (floorW s 0 + floorW s 1 + floorW s 2 + floorW s 3) * microJ
  else if k ≤ 20 then Config.districtFloor (k - 1) (floorW s 0) * microJ
  else 0

/-- AVG_w of a scope. -/
def scopeAvg (s : State) (k w : Nat) : Nat := SMap.get d0 s.avg (3 * k + w)

/-- The scopes of a queue and a partition (R311). -/
def scopesOf (s : State) (queue part : Nat) : List Nat :=
  0 :: (if queue < 20 then [1 + queue] else []) ++ (match slotOfPart s part with | some k => [21 + k] | none => [])

/-- x^n in units of 2^−48, each product rounded down; `fuel` covers the bits of n. -/
def powFix : Nat → Nat → Nat → Nat
  | 0, _, _ => 2 ^ 48
  | fuel + 1, x, n =>
    if n = 0 then 2 ^ 48
    else
      let h := powFix fuel (x * x / 2 ^ 48) (n / 2)
      if n % 2 = 1 then h * x / 2 ^ 48 else h

/-- The factor (1 − 1/N)^H of R311 in units of 2^−48, anywhere within 2^−16 of its value. -/
def projFactor (n h : Nat) : Nat :=
  let f := powFix 40 ((2 ^ 48 * (n - 1)) / n) h
  let e := f / 2 ^ 16
  f - e + Config.factorError n h % (2 * e + 1)

/-- The reservations of a scope, and the longest remaining planned duration among them (R311). -/
def scopeGrants (s : State) (k : Nat) : List Grant := s.grants.filter (fun g => k ∈ scopesOf s g.queue g.part)
def scopeRate (s : State) (k : Nat) : Nat := ((scopeGrants s k).map (·.rate)).foldl (· + ·) 0

/-- A request passes a scope when AVG_w and AVG_w(H) are at or below every non-zero limit (R311). -/
def scopePasses (s : State) (c : CreditReq) (k : Nat) : Bool :=
  let r := scopeRate s k + scopeFloor s k + c.rate
  let h := ((scopeGrants s k).map (fun g => g.endAt - s.now)).foldl max c.bins
  [0, 1, 2].all (fun w =>
    let lim := scopeLimit s k w * microJ
    let a := scopeAvg s k w
    let num : Int := (r : Int) * 281474976710656 + ((a : Int) - (r : Int)) * (projFactor (windowBins w) h : Int)
    let proj : Int := -((-num) / 281474976710656)
    lim = 0 || (decide (a ≤ lim) && decide (proj ≤ (lim : Int))))

/-- The scopes on which a request fails now. -/
def failing (s : State) (c : CreditReq) : List Nat := (scopesOf s c.queue c.part).filter (fun k => !scopePasses s c k)

/-- The head of a queue (R312). -/
def queueHead (s : State) (qi : Nat) : Option CreditReq := s.creditQ.find? (fun c => c.queue = qi)

/-- A waiting request as it stands now: at its island's frequency and SCALE, and with its sequencer's surcharge (R310, R313). -/
def askNow (s : State) (c : CreditReq) : CreditReq :=
  match seqOfInst c.inst with
  | none => c
  | some q =>
    match (getSeq s q).table with
    | none => c
    | some t => let r := (creditRequest s q t).1; { c with charge := r.charge, rate := r.rate, bins := r.bins, scale := r.scale, clamped := r.clamped }

/-- A request has waited longer than HOLD_LIMIT. -/
def pastHold (s : State) (c : CreditReq) : Bool := decide (max 1 (ktl.rd s 0x50) < s.now - c.since)

/-- The scopes on which a head has waited longer than HOLD_LIMIT (R312): those noted, and those it fails now. -/
def longScopes (s : State) (h : CreditReq) : List Nat := h.longOn ++ (if pastHold s h then failing s (askNow s h) else [])

/-- A head of another queue that has waited longer than HOLD_LIMIT on a scope it shares with `c` keeps `c` waiting until it is
granted (R312). DESIGN CHOICE (log entry 196): of two such heads the one that arrived first goes first. -/
def blockedByHead (s : State) (c : CreditReq) : Bool :=
  (List.range 22).any (fun qi =>
    qi ≠ c.queue &&
    match queueHead s qi with
    | none => false
    | some h => (longScopes s h).any (fun k => (scopesOf s c.queue c.part).contains k &&
        !((longScopes s c).contains k && (s.creditQ.takeWhile (fun d => d.inst ≠ h.inst)).any (fun d => d.inst = c.inst))))

/-- No frequency change of a request's district is pending (R315). -/
def freqSettled (s : State) (c : CreditReq) : Bool := 20 ≤ c.queue || SMap.get d0 s.freqPend c.queue = 0

/-- R311, R312: a charge of 0 is granted at once (R310), and the head of its queue when every scope passes and no long-waiting head
of another queue holds a shared scope; neither while a frequency change of its district is pending (R315). -/
def canGrant (s : State) (c : CreditReq) : Bool :=
  freqSettled s c &&
  (c.charge = 0 ||
    ((match queueHead s c.queue with | some h => h.inst = c.inst | none => false) && (failing s c).isEmpty && !blockedByHead s c))

/-- Add to a partition slot's step report. -/
def markAdd (s : State) (key v : Nat) : State := { s with marks := SMap.set d0 s.marks key (SMap.get d0 s.marks key + v) }

/-- Show P_PLANNED of slot k. -/
def showPlanned (s : State) (k : Nat) : State := ktl.wr s (0x21C0 + 8 * k) (SMap.get d0 s.marks (32 + k) / microJ % 2 ^ 64)

/-- Start the table of `q` once its credit stands: the step wait of step 0 begins (R48). -/
def startTable (s : State) (q : SeqId) : State :=
  let s := modSeq s q (fun x =>
    { x with phase := .wait, step := 0, i0 := 0, i1 := 0, i2 := 0, status := tkOk, origin := q.inst, refused := false,
             taken := [], replaysInTable := 0, replaying := false, cycles := 0, waitCycles := 0, waitFrom := s.now,
             liveEnergy := 0, scratch := [], rbuf := [], rfail := false, vals := [] })
  (Blk.seq q).wr s 0x6C 0

/-- The surcharge that a sequencer carries beyond the request it makes now (R313). -/
def carriedOn (s : State) (q : SeqId) : Nat :=
  match (getSeq s q).table with
  | some t => (creditRequest s q t).2
  | none => (getSeq s q).surcharge

/-- The grant (R311): the rate is reserved until the table ends and the SCALE is fixed for it; the part of the surcharge that the
charge holds is spent (R313). A charge of 0 reserves nothing (R310). -/
def grantCredit (s : State) (q : SeqId) (c : CreditReq) : State :=
  let s := modSeq s q (fun x => { x with surcharge := carriedOn s q })
  let s := { s with
    creditQ := s.creditQ.filter (fun d => d.inst ≠ q.inst)
    grants := s.grants ++ [{ inst := c.inst, queue := c.queue, part := c.part, charge := c.charge, rate := if c.charge = 0 then 0 else c.rate,
                             endAt := if c.charge = 0 then s.now else s.now + c.bins, scale := c.scale }] }
  let s := ktl.add s 0x58 1
  let s := if c.clamped then ktl.event (ktl.sat s 0x1074) 18 else s
  let s := match slotOfPart s c.part with
    | some k => showPlanned (markAdd (markAdd s (32 + k) c.charge) (128 + k) 1) k
    | none => s
  startTable (modSeq s q (fun x => { x with charge := c.charge })) q

/-- CREDIT_GRANT (R311). -/
def execCreditGrant (q : SeqId) (s : State) : Out :=
  .next (match s.creditQ.find? (fun c => c.inst = q.inst) with
    | none => s
    | some c =>
      let c := askNow s c
      if (getSeq s q).phase = .credit ∧ canGrant s c then grantCredit s q c else s)

/-- R313 at a table's end: the reservation is released; live energy above the charge goes to the surcharge and OVERRUN. -/
def settle (s : State) (q : SeqId) : State :=
  let x := getSeq s q
  let beyond := x.liveEnergy - x.charge
  let s := modSeq (releaseCredit s q) q (fun x => { x with surcharge := x.surcharge + beyond, charge := 0 })
  if beyond = 0 then s else ktl.add s 0x68 (beyond / microJ)

/-! ### Frequency and voltage -/

/-- Show a district's state: DSTATE, and DSCALE from its voltage and GAIN_0 (R317). -/
def showDistrict (s : State) (n mhz : Nat) : State :=
  let v := SMap.get d0 s.halfMv n
  let s := ktl.wr s (0x100 + 4 * n) (mhz % 4096 + v / 2 % 4096 * 4096 + (if SMap.get d0 s.freqPend n = 0 then 0 else 2 ^ 24))
  ktl.wr s (0x400 + 4 * n) (min 0xFFFF (scaleAt (bits (ktl.rd s 0x1050) 0 16) v))

/-- The boot voltage of a district at a frequency (VF, Table 14.5). -/
def bootMv (s : State) (n mhz : Nat) : Nat :=
  if mhz % 100 = 0 then bits (cal.rd s (0x1040 + 64 * n + 4 * ((mhz - 800) / 100))) 0 12 else Config.bootMvBetween n mhz

/-- A pending frequency change is given up. -/
def dropFreq (s : State) (n : Nat) : State :=
  if SMap.get d0 s.freqPend n = 0 then s else showDistrict { s with freqPend := SMap.set d0 s.freqPend n 0 } n (districtMhz s n)

/-- Mark a frequency change PENDING (R315), in place of one that is pending. -/
def markFreq (s : State) (n mhz : Nat) : State :=
  if mhz = districtMhz s n then dropFreq s n
  else showDistrict { s with freqPend := SMap.set d0 s.freqPend n mhz } n (districtMhz s n)

/-- Lower a district by 100 MHz, to no less than 800 MHz (R314, R378): from its frequency, or from the one that a pending lowering
gives it. -/
def lowerFreq (s : State) (n : Nat) : State :=
  let f := if SMap.get d0 s.freqPend n = 0 then districtMhz s n else min (districtMhz s n) (SMap.get d0 s.freqPend n)
  markFreq s n (max 800 (f - 100))

/-- A sensor of the district, or the Junction die's, has read 100 °C and not yet less than 97 °C again: no raise (R378). -/
def districtHot (s : State) (n : Nat) : Bool := SMap.get d0 s.temps (64 + n) ≠ 0 || SMap.get d0 s.temps 84 ≠ 0

/-- FREQ_CHANGE (R315): at the first instant when no sequencer of the district holds a grant, the switch is made; while
the voltage moves at 10 mV/µs, if it has to, the district runs at the lower of the two frequencies. DESIGN CHOICE (log entry 254): a
raise that is still pending when the district has become hot (R378) is given up. -/
def execFreqChange (n : Fin 20) (s : State) : Out :=
  .next (
    let f := SMap.get d0 s.freqPend n.val
    if f = 0 ∨ s.grants.any (fun g => g.queue = n.val) then s
    else if districtMhz s n.val < f ∧ districtHot s n.val then dropFreq s n.val
    else
      let old := districtMhz s n.val
      let v := SMap.get d0 s.halfMv n.val
      let tgt := 2 * bootMv s n.val f
      let dv := if v ≤ tgt then tgt - v else v - tgt
      let ramp := if dv = 0 then (0, 0, 0) else (f, tgt, s.now + (dv + 19) / 20)
      let s := { s with freqPend := SMap.set d0 s.freqPend n.val 0, ramps := SMap.set (fun _ => (0, 0, 0)) s.ramps n.val ramp }
      ktl.event (showDistrict s n.val (if dv = 0 then f else min old f)) 17)

/-- A ramping voltage moves by 10 mV in a bin (R315). -/
def moveRamps (s : State) : State :=
  forEach s.ramps s (fun s e =>
    let v := SMap.get d0 s.halfMv e.1
    let tgt := e.2.2.1
    if v = tgt then s
    else showDistrict { s with halfMv := SMap.set d0 s.halfMv e.1 (if v < tgt then min tgt (v + 20) else max tgt (v - 20)) } e.1
      (districtMhz s e.1))

/-- VOLTAGE_RAMP_END (R315): the voltage is at its target, and the district leaves the lower frequency; while one of its sequencers
holds a grant, so that no table runs at two frequencies, the change is pending again. -/
def execVoltageRampEnd (n : Fin 20) (s : State) : Out :=
  .next (
    let r := SMap.get (fun _ => (0, 0, 0)) s.ramps n.val
    if r.1 = 0 ∨ s.now < r.2.2 then s
    else
      let s := { s with ramps := SMap.set (fun _ => (0, 0, 0)) s.ramps n.val (0, 0, 0),
                        halfMv := SMap.set d0 s.halfMv n.val r.2.1 }
      if s.grants.any (fun g => g.queue = n.val) ∧ SMap.get d0 s.freqPend n.val = 0 then
        markFreq (showDistrict s n.val (districtMhz s n.val)) n.val r.1
      else if s.grants.any (fun g => g.queue = n.val) then showDistrict s n.val (districtMhz s n.val)
      else showDistrict s n.val r.1)

/-- A DTARGET write (R314, Table 14.4): 800–1,600 MHz in steps of 25; other values are not applied. A target below the
current frequency lowers it. -/
def dtargetWrite (s : State) (n v : Nat) : State :=
  if v < 800 ∨ 1600 < v ∨ v % 25 ≠ 0 then s
  else
    let s := ktl.wr s (0x180 + 4 * n) v
    if v < districtMhz s n then markFreq s n v else s

/-- HOLD_LIMIT_EXPIRE (R312, R314, R324): a wait past HOLD_LIMIT is reported, once for each scope the request fails; one on a
district or package scope lowers the district's frequency by 100 MHz. -/
def execHoldLimitExpire (q : SeqId) (s : State) : Out :=
  .next (match s.creditQ.find? (fun c => c.inst = q.inst) with
    | none => s
    | some c =>
      let bad := (failing s (askNow s c)).filter (fun k => !c.raised.contains k)
      if !pastHold s c ∨ bad = [] then s
      else
        let s := ktl.event { s with creditQ := s.creditQ.map (fun d =>
          if d.inst = q.inst then { d with raised := d.raised ++ bad } else d) } 16
        if c.queue < 20 then
          let s := { s with lastLong := SMap.set d0 s.lastLong c.queue s.now }
          if bad.any (fun k => k ≤ 20) then lowerFreq s c.queue else s
        else s)

/-- RAISE_DELAY_EXPIRE (R314, R378): with no request of the district past HOLD_LIMIT for RAISE_DELAY, and the district
cool, the frequency rises by 25 MHz, up to DTARGET and the highest frequency in FEAT_CLK (R305). -/
def execRaiseDelayExpire (n : Fin 20) (s : State) : Out :=
  .next (
    let f := districtMhz s n.val
    let top := min (bits (ktl.rd s (0x180 + 4 * n.val)) 0 12) (bits (Blk.svc.rd s 0x1064) 0 12)
    let long := s.creditQ.any (fun c => c.queue = n.val && pastHold s c)
    if long ∨ districtHot s n.val ∨ top ≤ f ∨ f = 0 ∨ SMap.get d0 s.freqPend n.val ≠ 0 ∨
       s.now - SMap.get d0 s.lastLong n.val < ktl.rd s 0x54 then s
    else markFreq { s with lastLong := SMap.set d0 s.lastLong n.val s.now } n.val (min top (f + 25)))

/-- The voltage key of an island: its district for a tile, itself for the others. -/
def islandKey (i : Nat) : Nat := if i < 160 then districtOfPhys i else i

/-- After a voltage move of an island, what shows it. -/
def showIsland (s : State) (i : Nat) : State := if i < 160 then showDistrict s (islandKey i) (districtMhz s (islandKey i)) else s

/-- GUARD in steps (CAL.TRIM_CFG). -/
def guardSteps (s : State) : Nat := bits (cal.rd s 0x48) 0 8

/-- The smallest slack that the islands of one voltage last reported. -/
def smallestSlack (s : State) (k : Nat) : Nat :=
  ((s.slack.filter (fun e => islandKey e.1 = k)).map (fun e => e.2 - 1)).foldl min 0xFFFFFFFF

/-- An island reports its smallest slack. -/
def reportSlack (s : State) (i seen : Nat) : State :=
  let s := { s with slack := SMap.set d0 s.slack i (seen + 1) }
  if smallestSlack s (islandKey i) ≤ guardSteps s + 2 then { s with slackLow := SMap.set d0 s.slackLow (islandKey i) s.now } else s

/-- VOLT_TRIM_DOWN (R316): when the smallest slack of the district, or of the island's own voltage, has stayed above GUARD + 2 for
100 µs, 2.5 mV less. -/
def execVoltTrimDown (i : Fin 164) (slackSeen : Nat) (s : State) : Out :=
  .next (
    let s := reportSlack s i.val slackSeen
    let k := islandKey i.val
    if smallestSlack s k ≤ guardSteps s + 2 ∨ s.now - SMap.get d0 s.slackLow k < 100 then s
    else showIsland { s with slackLow := SMap.set d0 s.slackLow k s.now,
                             halfMv := SMap.set d0 s.halfMv k (SMap.get d0 s.halfMv k - 5) } i.val)

/-- The drift report of R319: a district's voltage above its boot value at the frequency by more than DRIFT_LIMIT. -/
def driftCheck (s : State) (n : Nat) : State :=
  if 2 * (bootMv s n (districtMhz s n) + bits (cal.rd s 0x48) 8 8) < SMap.get d0 s.halfMv n then cal.event (cal.sat s 0x4C) 16
  else s

/-- VOLT_TRIM_UP (R316, R319): slack below GUARD raises the voltage by 2.5 mV; at 0.850 V the frequency is lowered and
TRIM_LIMIT raised. -/
def execVoltTrimUp (i : Fin 164) (slackSeen : Nat) (s : State) : Out :=
  .next (
    let s := reportSlack s i.val slackSeen
    let k := islandKey i.val
    if guardSteps s ≤ slackSeen then s
    else if 1700 ≤ SMap.get d0 s.halfMv k then
      let s := if i.val < 160 then lowerFreq s k else s
      cal.raise (cal.event (cal.sat s 0x50) 17) 0x0101 0 i.val
    else
      let s := showIsland { s with halfMv := SMap.set d0 s.halfMv k (SMap.get d0 s.halfMv k + 5) } i.val
      if i.val < 160 then driftCheck s k else s)

/-- A group's gain after one update (R317): GAIN + (ratio − GAIN) ÷ 16 in 1/4,096, clamped to 0.5–2.0; unchanged when the modelled
dynamic energy is below 1 % of the sensor's. `sensor` in µJ, `dyn` in 2^−20 fJ. DESIGN CHOICE (log entry 212): both divisions round
down, and where both energies are 0 the ratio, and the gain within its clamp, is the free value `any`. -/
def gainNext (gain sensor floorUJ dyn any : Nat) : Nat :=
  if dyn * 100 < sensor * microJ then gain
  else if dyn = 0 then min 0x2000 (max 0x800 any)
  else
    let ratio : Int := (((sensor : Int) - floorUJ) * microJ * 4096) / dyn
    ((gain : Int) + (ratio - gain) / 16).toNat |> max 0x800 |> min 0x2000

/-- Recompute every district's SCALE after a change of GAIN_0. -/
def rescale (s : State) : State := forEach (List.range 20) s (fun s n => showDistrict s n (districtMhz s n))

/-- GAIN_UPDATE (R317): `sensed` lists the sensor energies of groups 0–3 over the last 1 ms, in µJ. -/
def execGainUpdate (sensed : List Nat) (s : State) : Out :=
  .next (rescale (forEach (List.range 4) s (fun s g =>
    let tot := SMap.get d0 s.totE (40 + g)
    let dyn := tot - SMap.get d0 s.railBase g
    let f := fresh s
    let gain := gainNext (bits (ktl.rd s (0x1050 + 4 * g)) 0 16) (sensed.getD g 0) (floorW s g * 1000) dyn f.1
    ktl.wr { f.2 with railBase := SMap.set d0 s.railBase g tot } (0x1050 + 4 * g) gain)))

/-- FLOOR_UPDATE (R317): `sensed` lists the sensor energies of groups 0–3 over the last 100 ms, in µJ; FLOOR_g is the
sensor power less the modelled dynamic power. -/
def execFloorUpdate (sensed : List Nat) (s : State) : Out :=
  .next (forEach (List.range 4) s (fun s g =>
    let tot := SMap.get d0 s.totE (40 + g)
    let dyn := (tot - SMap.get d0 s.railBase (8 + g)) / microJ
    ktl.wr { s with railBase := SMap.set d0 s.railBase (8 + g) tot } (0x1060 + 4 * g)
      (min 0xFFFF ((sensed.getD g 0 - dyn) / 100000))))

/-! ### Bins (R308, R309) -/

/-- One bin's energy of a scope. -/
def scopeBin (s : State) (k : Nat) : Nat := SMap.get d0 s.binE k + scopeFloor s k

/-- AVG + (p − AVG) ÷ N, rounded down (R309). -/
def avgNext (a p n : Nat) : Nat := ((a : Int) + ((p : Int) - a) / n).toNat

/-- Close a scope's bin: its averages move, and an average that rises above its limit raises OVER_LIMIT (R309, R320). -/
def closeScope (s : State) (k : Nat) : State :=
  let p := scopeBin s k
  let s := { s with totE := SMap.set d0 s.totE k (SMap.get d0 s.totE k + scopeFloor s k) }
  forEach [0, 1, 2] s (fun s w =>
    let a := scopeAvg s k w
    let a' := avgNext a p (windowBins w)
    let lim := scopeLimit s k w * microJ
    let s := { s with avg := SMap.set d0 s.avg (3 * k + w) a' }
    if lim ≠ 0 ∧ a ≤ lim ∧ lim < a' then ktl.raise (ktl.event s 19) 0x0101 0 k else s)

/-- An average in 1/16 W, in 16 bits. -/
def sixteenths (v : Nat) : Nat := min 0xFFFF (16 * v / microJ)

/-- R of a scope as it is shown: its reservations and its floor (R311). -/
def scopeR (s : State) (k : Nat) : Nat := scopeRate s k + scopeFloor s k

/-- Show the averages and the energy counters (Table 14.4). DESIGN CHOICE (log entry 255): FABRIC_W is the power of the bin's packets in
transit, which FLOOR_1 holds. -/
def showAverages (s : State) : State :=
  let s := ktl.wr s 0x40 (SMap.get d0 s.totE 0 / microJ % 2 ^ 64)
  let s := ktl.wr s 0x48 (sixteenths (scopeAvg s 0 0) + 65536 * sixteenths (scopeAvg s 0 1))
  let s := ktl.wr s 0x4C (sixteenths (scopeAvg s 0 2) + 65536 * sixteenths (scopeR s 0))
  let s := ktl.wr s 0x70 (sixteenths (SMap.get d0 s.binE 50))
  let s := forEach (List.range 20) s (fun s n =>
    ktl.wr s (0x300 + 8 * n) (sixteenths (scopeAvg s (1 + n) 0) + 2 ^ 16 * sixteenths (scopeAvg s (1 + n) 1) +
      2 ^ 32 * sixteenths (scopeAvg s (1 + n) 2) + 2 ^ 48 * sixteenths (scopeR s (1 + n))))
  forEach (List.range 16) s (fun s k =>
    ktl.wr s (0x2240 + 8 * k) ((SMap.get d0 s.totE (21 + k) - SMap.get d0 s.marks (64 + k)) / microJ % 2 ^ 64))

/-- A request for credit has waited another 1 µs: its partition's hold time (R321) and its tile's CREDIT_WAIT (Table 17.1). -/
def holdTick (s : State) (c : CreditReq) : State :=
  let s := match slotOfPart s c.part with
    | some k => markAdd s (96 + k) 1
    | none => s
  match seqOfInst c.inst with
  | some (.tile t i) => if i.val < 4 then (Blk.cntT t).add s 0x70 (tileMhz s t.val) else s
  | _ => s

/-- The counters that time moves: district cycles, credit holds, ENG_BUSY, HALT_CYCLES (Tables 14.4, 17.1, 17.2, 17.3). -/
def tickCounters (s : State) : State :=
  let s := forEach (List.range 20) s (fun s n =>
    { s with distCycles := SMap.set d0 s.distCycles n ((SMap.get d0 s.distCycles n + districtMhz s n) % 2 ^ 64) })
  let s := if s.creditQ.isEmpty then s else forEach s.creditQ (ktl.add s 0x60 s.creditQ.length) holdTick
  let s := forEach allEngines s (fun s e =>
    match (getSeq s (.die e.1 e.2)).phase with
    | .idle => s
    | .credit => s
    | _ => Blk.cntD.add s (0x200 + 8 * (22 * e.1.val + e.2.val)) 2000)
  forEach allTiles s (fun s t =>
    if bits ((Blk.dbgT t).rd s 0x74) 0 2 = 2 then (Blk.dbgT t).add s 0x98 (tileMhz s t.val) else s)

/-- Heads that have waited longer than HOLD_LIMIT note the scopes they fail, and their districts that such a wait stands (R312,
R314). -/
def noteLong (s : State) : State :=
  let long := s.creditQ.filter (fun c => pastHold s c)
  let s := forEach (long.filter (fun c => c.queue < 20)) s (fun s c => { s with lastLong := SMap.set d0 s.lastLong c.queue s.now })
  { s with creditQ := s.creditQ.map (fun c =>
      if pastHold s c ∧ (queueHead s c.queue).map (·.inst) = some c.inst then { c with longOn := (c.longOn ++ failing s (askNow s c)).eraseDups } else c) }

/-- The Kettle's part of the 1 µs tick (R308, R309, R373): the bin closes, the averages move, and the model's time and FAB.SYSTIME
advance by 1 µs. -/
def closeBin (s : State) : State :=
  let s := noteLong (moveRamps (tickCounters s))
  let s := showAverages (forEach (List.range 37) s closeScope)
  let s := { s with binE := [], now := s.now + 1 }
  Blk.fab.wr s 0x804C ((Blk.fab.rd s 0x804C + 1) % 2 ^ 20)

/-! ### Step reports (R321) -/

/-- MARK[k]: the report of the step goes to REPORT_ADDR[k] in the partition's own memory, Q1 to Q3 and then Q0; an
address of 0, or one the partition does not own, writes nothing and raises REPORT_ERR. -/
def markWrite (s : State) (k : Nat) : State :=
  let part := bits (Blk.fab.rd s (0x8100 + 16 * k)) 0 12
  let a := ktl.rd s (0x2100 + 8 * k)
  let n := SMap.get d0 s.marks k + 1
  let planned := SMap.get d0 s.marks (32 + k) / microJ
  let actual := (SMap.get d0 s.totE (21 + k) - SMap.get d0 s.marks (64 + k)) / microJ
  let hold := SMap.get d0 s.marks (96 + k) % 2 ^ 32
  let grants := SMap.get d0 s.marks (128 + k) % 2 ^ 32
  let owned := match placeOf a with
    | .hbm g => segOwner s g = part
    | .nm t _ => tileOwner s t = part && t < logicalTiles s
    | _ => false
  let s :=
    if a = 0 ∨ a % 32 ≠ 0 ∨ !owned then ktl.raise (ktl.event s 20) 0x0102 part a
    else writeNat (writeNat (writeNat (writeNat s (a + 8) 8 planned) (a + 16) 8 actual) (a + 24) 8 (hold + 2 ^ 32 * grants))
      a 8 (n % 2 ^ 32)
  let s := { s with marks := SMap.set d0 (SMap.set d0 (SMap.set d0 (SMap.set d0 (SMap.set d0 s.marks k n) (32 + k) 0)
    (64 + k) (SMap.get d0 s.totE (21 + k))) (96 + k) 0) (128 + k) 0 }
  ktl.wr (ktl.wr s (0x21C0 + 8 * k) 0) (0x2240 + 8 * k) 0

/-- THERMAL_THROTTLE (R378): every 1 ms at or above 100 °C the district is lowered by 100 MHz, to no less than 800 MHz; one
that still reads 105 °C at 800 MHz sets THERM_WARN. A Junction die at 100 °C throttles every district (Table 18.4). -/
def execThermalThrottle (n : Fin 20) (s : State) : Out :=
  .next (
    let hot := 100 ≤ SMap.get d0 s.temps n.val ∨ 100 ≤ SMap.get d0 s.temps 20
    if hot ∧ districtMhz s n.val ≠ 0 then
      let s := lowerFreq s n.val
      if districtMhz s n.val = 800 ∧ 105 ≤ SMap.get d0 s.temps n.val then alert s 1 else s
    else s)

end Sys2Proof.Machine
end

