-- ==== Sys2Proof/Machine/Packet.lean ====
section
/-! DEFINITION. Sys2Proof/Machine/Packet.lean: Torem Link's packets and flits as bytes (R223, R224, Tables 10.2 to 10.5). -/
namespace Sys2Proof.Machine

/-! ### Packets (R224) -/

def pad8Len (n : Nat) : Nat := (n + 7) / 8 * 8

/-- `n` bytes, cut or filled with 0. -/
def sized (n : Nat) (l : List Byte) : List Byte := l.take n ++ List.replicate (n - l.length) 0

/-- Bytes of the data of a request with this OP and SIZE: store data or atomic operands; CAS carries two (Table 9.4). -/
def opDataLen (op size : Nat) : Nat :=
  let kind := op % 16
  if kind = 0 then (if bits op 4 3 = 0 then 0 else size) else if kind = 5 then 2 * size else size

def reqDataLen (r : Request) : Nat := opDataLen r.op r.size

/-- Packet bytes, header included; 16 for each further constituent of a combined atomic (R207, log entry 197). -/
def pktSize : Packet → Nat
  | .req r _ _ => 32 + pad8Len (reqDataLen r) + 16 * r.more.length
  | .rep r _ _ _ => 16 + pad8Len r.data.length + (if r.status = stMoved then 16 else 0)

/-- The VC, subclass, input port, destination device, partition of a packet. -/
def pktVc : Packet → Nat
  | .req r _ _ => r.vc % 8
  | .rep _ _ _ _ => 3
def pktSub : Packet → Nat
  | .req _ s _ => s
  | .rep _ _ s _ => s
def pktInPort : Packet → Nat
  | .req _ _ p => p
  | .rep _ _ _ p => p
def pktDest : Packet → Nat
  | .req r _ _ => devOf r.addr
  | .rep r _ _ _ => r.dst
def pktPart : Packet → Nat
  | .req r _ _ => r.part
  | .rep _ p _ _ => p

/-- A packet entering by a port, or changing its subclass. -/
def pktMoved (p : Packet) (sub port : Nat) : Packet :=
  match p with
  | .req r _ _ => .req r sub port
  | .rep r q _ _ => .rep r q sub port

/-- Flits of a receive buffer that a packet takes: 248 payload bytes each (Table 10.2). -/
def pktFlits (p : Packet) : Nat := ((pktSize p) + 247) / 248

/-- A tag as 16 bytes (log entry 197): SRC, CTX and SEQ as in Q2 [28:0] and above it, ISSUE_TIME and VC in the second quadword. -/
def encodeTag (t : Tag) : List Byte :=
  leBytes 8 (t.src % 2 ^ 17 + t.ctx % 2 ^ 12 * 2 ^ 17 + t.seq % 2 ^ 16 * 2 ^ 29) ++ leBytes 8 (t.issueTime % 2 ^ 20 + t.vc % 8 * 2 ^ 20)
def decodeTag (l : List Byte) : Tag :=
  { src := bits (qw l 0) 0 17, ctx := bits (qw l 0) 17 12, seq := bits (qw l 0) 29 16, issueTime := bits (qw l 1) 0 20,
    vc := bits (qw l 1) 20 3 }

/-- A request packet (Table 10.4). CAS carries its compare value first (Table 9.4). The number of further tags of a combined
atomic stands in Q3 [22:20], and they follow the operand (R207, log entry 197). -/
def encodeReq (r : Request) (sub : Nat) : List Byte :=
  let q0 := 4 * (sub % 2) + 8 * (r.vc % 8) + 64 * b2n r.isolated + 128 * b2n r.det + 2 ^ 8 * (r.op % 256) + 2 ^ 16 * (r.seq % 65536) +
    2 ^ 32 * (r.epoch % 2 ^ 32)
  let q1 := r.addr % 2 ^ 58 + 2 ^ 58 * b2n r.epv + 2 ^ 59 * b2n r.comb + 2 ^ 60 * b2n r.retry + 2 ^ 61 * b2n r.last
  let q2 := r.src % 2 ^ 17 + 2 ^ 17 * (r.ctx % 2 ^ 12) + 2 ^ 29 * (r.part % 2 ^ 12) + 2 ^ 41 * (r.size % 2 ^ 13)
  let q3 := r.issueTime % 2 ^ 20 + 2 ^ 20 * (r.more.length % 8)
  let data := sized (reqDataLen r) ((if r.op % 16 = 5 then leBytes r.size r.cmp else []) ++ r.data)
  leBytes 8 q0 ++ leBytes 8 q1 ++ leBytes 8 q2 ++ leBytes 8 q3 ++ sized (pad8Len (reqDataLen r)) data ++ (r.more.map encodeTag).flatten

/-- The bytes of the request packet that a header begins. -/
def reqBytes (l : List Byte) : Nat := 32 + pad8Len (opDataLen (bits (qw l 0) 8 8) (bits (qw l 2) 41 13)) + 16 * bits (qw l 3) 20 3

def decodeReq (l : List Byte) : Request :=
  let op := bits (qw l 0) 8 8
  let size := bits (qw l 2) 41 13
  let cas := op % 16 = 5
  let ops := l.drop 32
  let tags := ops.drop (pad8Len (opDataLen op size))
  { op := op, addr := bits (qw l 1) 0 58, size := size, src := bits (qw l 2) 0 17, ctx := bits (qw l 2) 17 12, part := bits (qw l 2) 29 12,
    vc := bits (qw l 0) 3 3, isolated := bit (qw l 0) 6, det := bit (qw l 0) 7, comb := bit (qw l 1) 59, seq := bits (qw l 0) 16 16,
    retry := bit (qw l 1) 60, issueTime := bits (qw l 3) 0 20, epv := bit (qw l 1) 58, epoch := bits (qw l 0) 32 32,
    last := bit (qw l 1) 61,
    data := if cas then (ops.drop size).take size else ops.take (opDataLen op size),
    cmp := if cas then leNat (ops.take size) else 0,
    more := (List.range (bits (qw l 3) 20 3)).map (fun i => decodeTag (tags.drop (16 * i))) }

/-- A reply packet (Table 10.5), with the further 16 bytes of a MOVED one (R224). Log entry 197: Q0 [10] says that a router
answered; Q1 [49:22] and [52:50] hold the statuses and the number of a combined atomic's further constituents; Q1 [60:41] of the
further 16 bytes BASE in units of 2 MiB. -/
def encodeRep (r : Reply) (sub : Nat) : List Byte :=
  let q0 := 1 + 4 * (sub % 2) + 8 * 3 + 64 * (r.status % 16) + 1024 * b2n r.router + 2 ^ 16 * (r.seq % 65536) + 2 ^ 32 * (r.dst % 2 ^ 17)
  let sts := ((List.range r.more.length).foldl (fun v i => v + r.more.getD i 0 % 16 * 16 ^ i) 0) % 2 ^ 28
  let q1 := r.ctx % 2 ^ 12 + 2 ^ 12 * (r.data.length % 2 ^ 10) + 2 ^ 22 * sts + 2 ^ 50 * (r.more.length % 8)
  leBytes 8 q0 ++ leBytes 8 q1 ++
    (if r.status = stMoved then leBytes 8 (r.newOwner % 2 ^ 17 + 2 ^ 32 * (r.newEpoch % 2 ^ 32)) ++
      leBytes 8 (r.newBase % 2 ^ 41 + 2 ^ 41 * (r.base / 2 ^ 21 % 2 ^ 20)) else []) ++
    sized (pad8Len r.data.length) r.data

/-- The bytes of the reply packet that a header begins. -/
def repBytes (l : List Byte) : Nat := 16 + pad8Len (bits (qw l 1) 12 10) + (if bits (qw l 0) 6 4 = stMoved then 16 else 0)

def decodeRep (l : List Byte) : Reply :=
  let moved := bits (qw l 0) 6 4 = stMoved
  { status := bits (qw l 0) 6 4, dst := bits (qw l 0) 32 17, ctx := bits (qw l 1) 0 12, seq := bits (qw l 0) 16 16,
    data := (l.drop (if moved then 32 else 16)).take (bits (qw l 1) 12 10),
    newOwner := if moved then bits (qw l 2) 0 17 else 0, newEpoch := if moved then bits (qw l 2) 32 32 else 0,
    newBase := if moved then bits (qw l 3) 0 41 else 0, base := if moved then bits (qw l 3) 41 20 * 2 ^ 21 else 0,
    router := bit (qw l 0) 10, more := (List.range (bits (qw l 1) 50 3)).map (fun i => bits (qw l 1) (22 + 4 * i) 4) }

/-- A packet as bytes. -/
def encodePacket : Packet → List Byte
  | .req r sub _ => encodeReq r sub
  | .rep r _ sub _ => encodeRep r sub

/-- The packets that stand whole at the front of a payload stream, as received by a port, and the bytes after them. Quadwords
whose PTYPE is neither 0 nor 1 are fill (log entry 198). -/
def takePackets (port : Nat) : Nat → List Byte → List Packet × List Byte
  | 0, l => ([], l)
  | n + 1, l =>
    let put (len : Nat) (k : Packet) : List Packet × List Byte :=
      if l.length < len then ([], l) else let r := takePackets port n (l.drop len); (k :: r.1, r.2)
    if l.length < 8 then ([], l)
    else match qw l 0 % 4 with
      | 0 => if l.length < 32 then ([], l) else put (reqBytes l) (.req (decodeReq l) (bits (qw l 0) 2 1) port)
      | 1 => if l.length < 16 then ([], l) else put (repBytes l) (.rep (decodeRep l) 4096 (bits (qw l 0) 2 1) port)
      | _ => takePackets port n (l.drop 8)

/-! ### Flits (R223) -/

/-- One bit of CRC-32C, polynomial 0x1EDC_6F41 in reflected form. -/
def crcBit (c : Nat) : Nat := if c % 2 = 1 then c / 2 ^^^ 0x82F63B78 else c / 2

/-- CRC-32C: initial value and final XOR 0xFFFF_FFFF. -/
def crc32c (l : List Byte) : Nat :=
  (l.foldl (fun c b => (List.range 8).foldl (fun c _ => crcBit c) (c ^^^ b.toNat)) 0xFFFFFFFF) ^^^ 0xFFFFFFFF

/-- A flit's kinds (Table 10.2). -/
def flitIdle : Nat := 0
def flitData : Nat := 1
def flitControl : Nat := 2

/-- The 256 bytes of a flit: header, payload, CRC of bytes 0–251. -/
def flitBytes (kind seq : Nat) (payload : List Byte) : List Byte :=
  let l := leBytes 4 (seq % 4096 + 4096 * kind) ++ sized 248 payload
  l ++ leBytes 4 (crc32c l)

/-- What a slot carries that carries neither data nor control (R223). -/
def idleFlit : List Byte := flitBytes flitIdle 0 []

/-- The SEQ, the KIND and the payload of a flit, and whether its CRC checks. -/
def flitSeq (l : List Byte) : Nat := bits (leNat (l.take 4)) 0 12
def flitKind (l : List Byte) : Nat := bits (leNat (l.take 4)) 12 2
def flitPayload (l : List Byte) : List Byte := (l.drop 4).take 248
def flitCrcOk (l : List Byte) : Bool := crc32c (l.take 252) = leNat ((l.drop 252).take 4)

/-- A control flit's payload (Table 10.3). -/
def controlPayload (ack : Nat) (nak : Bool) (credits : List Nat) (msg : List Byte) : List Byte :=
  leBytes 8 (ack % 4096 + 4096 * b2n nak) ++
    leBytes 24 ((List.range 16).foldl (fun v i => v + credits.getD i 0 % 4096 * 2 ^ (12 * i)) 0) ++ sized 216 msg

/-- The ACK, the NAK and the credits of a control flit's payload. -/
def ctlAck (l : List Byte) : Nat := bits (qw l 0) 0 12
def ctlNak (l : List Byte) : Bool := bit (qw l 0) 12
def ctlCredits (l : List Byte) : List Nat := (List.range 16).map (fun i => bits (leNat ((l.drop 8).take 24)) (12 * i) 12)

/-! ### Ports -/

def modPort (s : State) (p : Nat) (f : Port → Port) : State := setPort s p (f (getPort s p))

/-- Element-wise sum of credits. -/
def addCredits (a b : List Nat) : List Nat := (List.range 16).map (fun i => a.getD i 0 + b.getD i 0)

/-- A packet leaves an input port's receive buffer, whose flits the next control flit returns as credits (R231). -/
def freeInput (s : State) (k : Packet) : State :=
  if pktInPort k < 32 then
    modPort s (pktInPort k) (fun x =>
      { x with freed := addCredits x.freed ((List.range 16).map (fun i => if i = 2 * pktVc k + pktSub k then pktFlits k else 0)) })
  else s

/-- The router's own input, from which the replies it forms leave (R235). -/
def routerPort : Nat := 32

/-- The offset of TX[p][v] in the device counter pages (Table 17.2). -/
def txReg (p v : Nat) : Nat := (1 + p / 4) * 0x1000 + 0x100 + 0x100 * (p % 4) + 8 * v

/-- Count `n` bytes that leave die `d` through the Junction die (MESH_X[d], Table 17.2). -/
def crossCount (s : State) (d n : Nat) : State := Blk.cntD.add s (0x100 + 8 * (d % 2)) n

/-- A packet of this device enters the router; by a die port it counts in RX of the port, and in MESH_X of the die (Table 17.2). The
Barista's and the host's come from the Junction die itself. -/
def enterRouter (s : State) (k : Packet) : State :=
  let p := pktInPort k
  let s := { s with toRoute := s.toRoute ++ [k] }
  let ofDie : Bool := match k with
    | .req r _ _ => r.ctx < 0x7B0
    | .rep _ _ _ _ => true
  if ofDie ∧ (p = 32 ∨ p = 33) then crossCount (Blk.cntD.add s (txReg p (pktVc k) + 0x40) (pktSize k)) p (pktSize k) else s

/-- The combining entries, and COMB_OCC, which counts them. -/
def setComb (s : State) (l : List CombEntry) : State := Blk.fab.wr { s with comb := l } 0x8058 l.length

end Sys2Proof.Machine
end

