-- ==== Sys2Proof/Machine/BlkCtrl.lean ====
section
/-! DEFINITION. Sys2Proof/Machine/BlkCtrl.lean: the common header's control and status (R33, R34, R385, R389): SOFT_RESET,
ENABLE, DRAIN, LOCK, BLK_STATUS. -/
namespace Sys2Proof.Machine

/-- The sequencer that drives a block's engine, if any: its table is the block's work. -/
def Blk.driver : Blk → Option SeqId
  | .mxa t a => some (.tile t (if a.val = 0 then 0 else 1))
  | .dqu t a => some (.tile t (if a.val = 0 then 0 else 1))
  | .ptw t => some (.tile t 2)
  | .lay t => some (.tile t 3)
  | .eng d q => some (.die d q)
  | .seq q => some q
  | _ => none

/-- An RW register that SOFT_RESET leaves as it is: the VDD_AON registers (R381) and the allotment and loader registers of
SVC page 3 (R24). -/
def keptReg (b : Blk) (r : RegDesc) : Bool :=
  match b with
  | .svc => r.off == 0xC0 || r.off == 0xCC || 0x3000 ≤ r.off
  | _ => false

/-- Return the RW registers of a block to their reset values (R34). -/
def resetRegs (s : State) (b : Blk) : State :=
  forEach (b.regs.filter (fun r => r.acc = .rw && !keptReg b r)) s (fun s r =>
    forEach (List.range r.n) s (fun s i => b.wr s (r.off + i * r.stride) r.reset))

/-- A BPM's reset: its pools are unconfigured, so no buffer stays allocated and no request waits (DEDUCED from R34, log entry 18). -/
def resetPools (s : State) (d : Fin 2) : State :=
  let b : Blk := .eng d 20
  forEach (List.range 4)
    { s with poolUsed := SMap.clear s.poolUsed (d.val * 2 ^ 20) ((d.val + 1) * 2 ^ 20),
             poolQ := SMap.clear s.poolQ (4 * d.val) (4 * d.val + 4) }
    (fun s p => b.put (b.wr (b.wr s (0x70 + 4 * p) 0) (0x80 + 4 * p) 0) (0x90 + 4 * p) 0 7 0)

/-! ### Transfers of the Junction die's blocks (R33, R34) -/

/-- The pseudo-channels of an HBM page. -/
def pagePcs (i : Fin 32) : List Nat := (List.range 16).map (fun k => 16 * i.val + k)

/-- A host request waits for the outcome. -/
def hostWaits (o : OutReq) : Bool :=
  match o.waiter with
  | .hostRead _ _ _ _ => true
  | .hostWrite _ => true
  | _ => false

/-- A block of the Junction die has a transfer in flight (R33, R385): requests of or to the host, packets in a port or in the router,
requests in a stack's queues, a staging transfer, a signed command or a quote. DESIGN CHOICE (log entry 242): a traffic generator has one
while its MODE is not OFF. -/
def Blk.moving (s : State) (b : Blk) : Bool :=
  match b with
  | .hst => s.outs.any hostWaits || !s.hostQ.isEmpty
  | .lnk p => let x := getPort s p.val; !x.txBuf.isEmpty || !x.fill.isEmpty || !x.outq.isEmpty || !x.rx.isEmpty
  | .hbm i => (pagePcs i).any (fun k =>
      !(SMap.get (fun _ => []) s.hbmLat k).isEmpty || !(SMap.get (fun _ => []) s.hbmBulk k).isEmpty || !(SMap.get (fun _ => []) s.hbmUp k).isEmpty)
  | .fab => !s.toRoute.isEmpty || !s.arrived.isEmpty || !s.heldFlags.isEmpty || !s.comb.isEmpty ||
      !(getPort s 32).outq.isEmpty || !(getPort s 33).outq.isEmpty
  | .svc => bits (Blk.svc.rd s 0xA8) 0 2 = 1
  | .sec => s.quote.isSome || s.secCmd.isSome
  | .tgc _ => bits (b.rd s 0x40) 0 2 ≠ 0
  | _ => false

/-- The router's transfers are abandoned (R34), the credits of the packets it held returned; the table's entries, the port sets
and a held lowering of the window go with the registers that show them. -/
def resetFabric (s : State) : State :=
  let s := forEach s.toRoute s freeInput
  let s := forEach [32, 33] s (fun s p => if (getPort s p).outq.isEmpty then s else modPort s p (fun x => { x with outq := [] }))
  setComb { s with toRoute := [], passBy := [], arrived := [], heldFlags := [], combOut := [], routes := [], psets := [], winHeld := none } []

/-- Drop what a block holds between steps beside its registers. A host request whose bridge is reset runs to its outcome, which is
discarded (Table 9.15). DESIGN CHOICE (log entry 243): a staging transfer, a signed command or a quote that is abandoned leaves its status
register idle, and the record of such a command is appended at the next boot, as one that a reset interrupts (R336). -/
def clearEngine (s : State) (b : Blk) : State :=
  match b with
  | .eng d q => if q.val = 20 then resetPools s d else s
  | .hst => { s with outs := s.outs.map (fun o => if hostWaits o then { o with waiter := .posted } else o), hostQ := [], hostParts := [] }
  | .lnk p => modPort s p.val (fun x => { x with txBuf := [], fill := [], outq := [], rx := [] })
  | .svc => if bits (b.rd s 0xA8) 0 2 = 1 then b.wr s 0xA8 0 else s
  | .sec =>
    let s := if s.quote.isSome then b.wr { s with quote := none } 0x18C 0 else s
    if s.secCmd.isSome then b.wr { s with secCmd := none } 0x5C 0 else s
  | .hbm i => { s with hbmLat := SMap.clear s.hbmLat (16 * i.val) (16 * i.val + 16), hbmBulk := SMap.clear s.hbmBulk (16 * i.val) (16 * i.val + 16),
                       hbmUp := SMap.clear s.hbmUp (16 * i.val) (16 * i.val + 16) }
  | .fab => resetFabric s
  | _ => s

/-- SOFT_RESET of a block (R34), written by partition `p`: a table or transfer in flight is abandoned and ABORTED captured, RW
fields return to their reset values, RWL fields, LOCK, BLK_ERR_COUNT and BLK_ENERGY keep theirs, BLK_EVENT is cleared. -/
def softReset (s : State) (b : Blk) (p : Nat) : State :=
  let r := match b with
    | .seq q => abandon s q
    | _ => match b.driver with
      | some q => abandonTable s q
      | none => (if b.moving s then some 0 else none, s)
  let s := clearEngine (resetRegs r.2 b) b
  let s := b.wr (b.wr (b.wr s 0x18 0) 0x1C 0) 0x10 (if b.locked s then 2 ^ 31 else 0)
  match r.1 with
  | some tid => b.raise s 0x0006 p tid
  | none => s

/-- A write to BLK_CTRL (Table 2.7). DEDUCED (log entry 257): a block that a failed unit serves stays disabled (R345, R347). -/
def blkCtrlWrite (s : State) (b : Blk) (p v : Nat) : State :=
  let lock := if bit v 31 ∨ b.locked s then 2 ^ 31 else 0
  if b.faulted s then s
  else if bit v 1 then softReset (b.wr s 0x10 lock) b p
  else
    let drained := b.draining s
    let s := b.wr s 0x10 (b2n (bit v 0) + 4 * b2n (bit v 2) + lock)
    match b with
    | .seq q =>
      let s := if bit v 0 then ringCheck s q else s
      if bit v 2 ∧ !drained then drainSet s q else s
    | _ => if bit v 2 ∧ !drained ∧ bit v 0 ∧ !(match b.driver with | some q => seqBusy s q | none => false) then b.event s 1 else s

/-- A block works on a table or a transfer now. -/
def Blk.busy (s : State) (b : Blk) : Bool :=
  match b.driver with
  | some q => seqBusy s q
  | none => b.moving s

/-- BLK_STATUS as it reads (Table 2.8, R31, R385): HST reads OFF but on a bridge device, whose LNK[30] and LNK[31] do. A stored
state 5 FAULTED or 6 RETIRED stands (R347). -/
def Blk.status (b : Blk) (s : State) : Nat :=
  let kept := bits (b.rd s 0x14) 0 4
  let busy := b.busy s
  let off : Bool := match b with
    | .hst => !isBridge s
    | .lnk p => isBridge s && 30 ≤ p.val
    | _ => false
  let st := if kept = 5 ∨ kept = 6 then kept
    else if off then 0
    else if b.junction then (if b.enabled s then 1 else 0)
    else if busy then (if b.draining s then 3 else 2)
    else if !b.enabled s then 0
    else if b.draining s then 4 else 1
  st + 16 * b2n busy + 32 * b2n (decide (st = 4)) + 64 * b2n (bit (b.rd s 0x18) 0)

/-- A sequencer is at its drain point: it reads BLK_STATUS.DRAINED, or it is disabled with no table in flight (R389). -/
def seqAtDrain (s : State) (q : SeqId) : Bool :=
  bit ((Blk.seq q).status s) 5 || (!(Blk.seq q).enabled s && !seqBusy s q)

/-- A tile, a die-level engine, a partition at its drain point (R389). -/
def tileAtDrain (s : State) (t : Fin 160) : Bool :=
  (List.finRange 4).all (fun i => seqAtDrain s (.tile t ⟨i.val, by omega⟩))
def partAtDrain (s : State) (p : Nat) : Bool :=
  allTiles.all (fun t => tileOwner s t.val ≠ p || tileAtDrain s t) &&
  allEngines.all (fun e => engOwner s (22 * e.1.val + e.2.val) ≠ p || seqAtDrain s (.die e.1 e.2))

/-- Every tile and die-level engine block (R338 step 1, R214). -/
def tileBlocks (t : Fin 160) : List Blk :=
  [.til t, .mxa t 0, .mxa t 1, .dqu t 0, .dqu t 1, .ptw t, .lay t, .cntT t, .dbgT t] ++
    (List.finRange 6).map (fun i => .seq (.tile t i))
def engineBlocks (e : Fin 2 × Fin 22) : List Blk := [.eng e.1 e.2, .seq (.die e.1 e.2)]

/-- The blocks of the Junction die (Table 2.4). -/
def junctionBlocks : List Blk :=
  [.svc, .ktl, .cal, .sec, .spr, .log, .fab, .hst] ++ (List.finRange 32).map .lnk ++ (List.finRange 32).map .hbm ++
    (List.finRange 256).map .tgc ++ [.cntD, .dbgD]

end Sys2Proof.Machine
end

