-- ==== Sys2Proof/Machine/Crypto.lean ====
section
/-! DEFINITION. Sys2Proof/Machine/Crypto.lean: SHAKE256, which the spec names and FIPS 202 defines, and the Falcon-1024
operations at their lengths (R332–R339, R353). -/
namespace Sys2Proof.Machine

/-- A 64-bit lane rotated left. -/
def rotl64 (v k : Nat) : Nat := (v * 2 ^ (k % 64) + v / 2 ^ (64 - k % 64)) % 2 ^ 64

/-- The 24 round constants. -/
def keccakRC : List Nat :=
  [0x0000000000000001, 0x0000000000008082, 0x800000000000808A, 0x8000000080008000, 0x000000000000808B, 0x0000000080000001,
   0x8000000080008081, 0x8000000000008009, 0x000000000000008A, 0x0000000000000088, 0x0000000080008009, 0x000000008000000A] ++
  [0x000000008000808B, 0x800000000000008B, 0x8000000000008089, 0x8000000000008003, 0x8000000000008002, 0x8000000000000080,
   0x000000000000800A, 0x800000008000000A, 0x8000000080008081, 0x8000000000008080, 0x0000000080000001, 0x8000000080008008]

/-- Rotation offsets of lanes x + 5y. -/
def keccakRot : List Nat :=
  [0, 1, 62, 28, 27, 36, 44, 6, 55, 20, 3, 10, 43] ++ [25, 39, 41, 45, 15, 21, 8, 18, 2, 61, 56, 14]

/-- One round of the permutation on 25 lanes. -/
def keccakRound (a : List Nat) (rc : Nat) : List Nat :=
  let g (l : List Nat) (i : Nat) : Nat := l.getD i 0
  let c := (List.range 5).map (fun x => g a x ^^^ g a (x + 5) ^^^ g a (x + 10) ^^^ g a (x + 15) ^^^ g a (x + 20))
  let d := (List.range 5).map (fun x => g c ((x + 4) % 5) ^^^ rotl64 (g c ((x + 1) % 5)) 1)
  let t := (List.range 25).map (fun i => g a i ^^^ g d (i % 5))
  -- ρ and π: lane (x, y) moves to (y, 2x + 3y)
  let b := (List.range 25).map (fun i =>
    let x' := i % 5
    let y' := i / 5
    let x := (x' + 3 * y') % 5
    let j := x + 5 * x'
    rotl64 (g t j) (keccakRot.getD j 0))
  let e := (List.range 25).map (fun i =>
    let y := i / 5 * 5
    g b i ^^^ ((0xFFFFFFFFFFFFFFFF - g b (y + (i + 1) % 5)) &&& g b (y + (i % 5 + 2) % 5)))
  e.mapIdx (fun i v => if i = 0 then v ^^^ rc else v)

/-- The permutation. -/
def keccakF (a : List Nat) : List Nat := keccakRC.foldl keccakRound a

/-- XOR one 136-byte block into the state and permute. -/
def absorb (a : List Nat) (blk : List Byte) : List Nat :=
  keccakF (a.mapIdx (fun i v => v ^^^ (if i < 17 then qw blk i else 0)))

/-- Absorb `n` blocks. -/
def absorbAll : Nat → List Nat → List Byte → List Nat
  | 0, a, _ => a
  | n + 1, a, bs => absorbAll n (absorb a (bs.take 136)) (bs.drop 136)

/-- The message padded to whole blocks. -/
def shakePad (m : List Byte) : List Byte :=
  let k := 136 - m.length % 136
  m ++ (if k = 1 then [0x9F] else (0x1F : Byte) :: (List.replicate (k - 2) 0 ++ [0x80]))

/-- The first `n` bytes of SHAKE256, `n` at most 136. -/
def shake256 (n : Nat) (m : List Byte) : List Byte :=
  let p := shakePad m
  let a := absorbAll (p.length / 136) (List.replicate 25 0) p
  ((a.take 17).flatMap (fun v => leBytes 8 v)).take n

/-- A byte list at a fixed length. -/
def padTo (n : Nat) (l : List Byte) : List Byte := l.take n ++ List.replicate (n - l.length) 0

/-- ASCII bytes. -/
def ascii (l : List Nat) : List Byte := l.map (BitVec.ofNat 8)

/-- K_mac: the first 32 bytes of SHAKE256("TDL1 MAC" ‖ K_puf) (R332). -/
def kMac : List Byte := shake256 32 (ascii [0x54, 0x44, 0x4C, 0x31, 0x20, 0x4D, 0x41, 0x43] ++ Config.pufSeed)

/-- The random stream of the identity key (R332); key generation reads it from its first 136 bytes. -/
def identStream : List Byte :=
  shake256 136 (ascii [0x54, 0x44, 0x4C, 0x31, 0x20, 0x49, 0x44, 0x45, 0x4E, 0x54] ++ Config.pufSeed)

/-- The identity public key and its digest ID_DIGEST (R332). -/
def identPublic : List Byte := padTo 1793 (Config.falconPublic identStream)
def idDigest : List Byte := shake256 64 identPublic

/-- A Falcon-1024 signature by the identity key over a digest, 1,280 bytes (R339, R353). -/
def identSign (digest : List Byte) : List Byte := padTo 1280 (Config.falconSignature identStream digest)

end Sys2Proof.Machine
end

