-- ==== Sys2Proof/Machine/RoastLog.lean ====
section
/-! DEFINITION. Sys2Proof/Machine/RoastLog.lean: the flash (R330) and the signed service record (R345, R353–R355). -/
namespace Sys2Proof.Machine

def svc : Blk := .svc
def sec : Blk := .sec
def spr : Blk := .spr
def logB : Blk := .log
def fab : Blk := .fab

/-- Erased flash reads 0xFF (R353). -/
def flashDefault (_ : Nat) : Byte := 0xFF
def readFlash (s : State) (o n : Nat) : List Byte := SMap.getMany flashDefault s.flash o n
def writeFlash (s : State) (o : Nat) (bs : List Byte) : State := { s with flash := SMap.setMany flashDefault s.flash o bs }
def eraseFlash (s : State) (lo hi : Nat) : State := { s with flash := SMap.clear s.flash lo hi }

/-- The Roast Log region: 3,056 blocks of 64 KiB (R330, R355). -/
def logBase : Nat := 0x04100000
def logTop : Nat := 0x10000000
def blockOf (o : Nat) : Nat := o / 65536

/-- Several registers of 8 bytes in a row, as bytes. -/
def regBytes8 (s : State) (b : Blk) (o n : Nat) : List Byte := (List.range n).flatMap (fun i => leBytes 8 (b.rd s (o + 8 * i)))
/-- Write bytes into 8-byte registers in a row. -/
def setRegBytes8 (s : State) (b : Blk) (o n : Nat) (bs : List Byte) : State :=
  forEach (List.range n) s (fun s i => b.wr s (o + 8 * i) (qw bs i))

/-- Seconds powered since manufacture. -/
def poweredSeconds (s : State) : Nat := s.powerOnS + s.now / 1000000

/-- A record without its signature (Table 16.4). -/
def recordBody (s : State) (type : Nat) (payload : List Byte) : List Byte :=
  leBytes 4 0x524C4F47 ++ leBytes 2 type ++ leBytes 2 payload.length ++ leBytes 8 (logB.rd s 0x40) ++ leBytes 4 (svc.rd s 0x4C) ++
    leBytes 4 0 ++ leBytes 8 (poweredSeconds s) ++ regBytes8 s logB 0x80 8 ++ payload

/-- A payload padded to a multiple of 8 bytes. -/
def pad8 (l : List Byte) : List Byte := l ++ List.replicate ((8 - l.length % 8) % 8) 0

/-- The first offset at or after `o` where `len` bytes fit with no failing block, trying one block after another (R352);
the region wraps. Answers the blocks that failed. -/
def placeRecord (s : State) : Nat → Nat → Nat → Nat × Nat
  | 0, o, _ => (o, 0)
  | fuel + 1, o, len =>
    let o := if logTop < o + len then logBase else o
    if (List.range (blockOf (o + len - 1) - blockOf o + 1)).any (fun i => s.badBlocks.contains (blockOf o + i)) then
      let r := placeRecord s fuel ((blockOf o + 1) * 65536) len
      (r.1, r.2 + 1)
    else (o, 0)

/-- Erased blocks of the region. -/
def freeBlocks (s : State) : Nat :=
  let used := if s.logOldest ≤ s.logNext then (s.logNext - s.logOldest + 65535 + s.logOldest % 65536) / 65536
    else (logTop - s.logOldest) / 65536 + 1 + (s.logNext - logBase + 65535) / 65536
  3056 - min 3056 used

/-- Append one record to the Roast Log (R345, R353): written, signed, chained; a failing block is skipped and counted. -/
def appendOne (s : State) (type : Nat) (payload : List Byte) : State :=
  let body := recordBody s type (pad8 payload)
  let rec_ := body ++ identSign (shake256 64 body)
  let pl := placeRecord s 3056 s.logNext rec_.length
  let s := if pl.2 = 0 then s else logB.raise (logB.event (logB.sat s 0x64 pl.2) 18) 0x0101 0 s.logNext
  let s := writeFlash s pl.1 rec_
  let s := { s with logNext := pl.1 + rec_.length }
  let s := logB.wr (logB.add s 0x40 1) 0x48 pl.1
  let s := setRegBytes8 s logB 0x80 8 (shake256 64 rec_)
  let s := logB.wr (logB.wr s 0x50 (freeBlocks s)) 0x4C s.logOldest
  logB.event s 16

/-- A record read back: offset, type, payload length, sequence. -/
structure LogRec where
  off : Nat
  type : Nat
  len : Nat
  seq : Nat
  deriving DecidableEq, Repr

/-- MAGIC and SEQ of what lies at an offset (Table 16.4). -/
def magicAt (s : State) (o : Nat) : Nat := leNat (readFlash s o 4)
def seqAt (s : State) (o : Nat) : Nat := leNat (readFlash s (o + 8) 8)

/-- The record's MAGIC. -/
def recordMagic : Nat := 0x524C4F47
def LogRec.marked (s : State) (r : LogRec) : Bool := decide (magicAt s r.off = recordMagic)

/-- Where the record after SEQ `prev` begins when `o`, the end of that one, is erased: past the gap that a failing block (R352) or the
region's end left, at the start of a later block, the region wrapping. DESIGN CHOICE (log entry 256): the spec does not say how a reader
passes such a gap. -/
def gapEnd (s : State) (o prev : Nat) : Option Nat :=
  ((List.range 3056).map (fun i => logBase + (blockOf (o - logBase) + 1 + i) % 3056 * 65536)).find? (fun o =>
    decide (magicAt s o = recordMagic) && decide (seqAt s o = prev + 1))

/-- The records from `o` on, at most `fuel`, `prev` the SEQ of the one before; the log ends at erased flash, MAGIC 0xFFFF_FFFF (R353). -/
def walkLog (s : State) : Nat → Option Nat → Nat → List LogRec
  | 0, _, _ => []
  | fuel + 1, prev, o =>
    match (if o + 96 ≤ logTop ∧ magicAt s o ≠ 0xFFFFFFFF then some o else prev.bind (gapEnd s o)) with
    | none => []
    | some o =>
      let h := readFlash s o 96
      let len := leNat ((h.drop 6).take 2)
      ⟨o, leNat ((h.drop 4).take 2), len, qw h 1⟩ :: walkLog s fuel (some (qw h 1)) (o + 96 + len + 1280)

/-- The retained records, oldest first. -/
def logRecords (s : State) : List LogRec := walkLog s (logB.rd s 0x40) none s.logOldest

/-- The payload, the bytes before the signature, and the whole of a record. -/
def LogRec.payload (s : State) (r : LogRec) : List Byte := readFlash s (r.off + 96) r.len
def LogRec.body (s : State) (r : LogRec) : List Byte := readFlash s r.off (96 + r.len)
def LogRec.whole (s : State) (r : LogRec) : List Byte := readFlash s r.off (96 + r.len + 1280)
def LogRec.digest (s : State) (r : LogRec) : List Byte := shake256 64 (r.whole s)

/-- The record's signature verifies under the identity key. -/
def LogRec.signed (s : State) (r : LogRec) : Bool :=
  Config.falconVerify identPublic (shake256 64 (r.body s)) (readFlash s (r.off + 96 + r.len) 1280)

/-- SEQ is consecutive and PREV chains over a list of records (R354). -/
def chained (s : State) : List LogRec → Bool
  | a :: b :: l => decide (b.seq = a.seq + 1) && decide ((readFlash s (b.off + 0x20) 64) = a.digest s) && chained s (b :: l)
  | _ => true

/-- A unit's key in `State.units`. -/
def unitKey (cls unit : Nat) : Nat := cls * 2 ^ 24 + unit

/-- A map as bytes: its length, then keys and values of 4 bytes each. -/
def mapBytes (m : SMap Nat) : List Byte := leBytes 8 m.length ++ m.flatMap (fun e => leBytes 4 e.1 ++ leBytes 4 e.2)

/-- PC_REPAIR of every pseudo-channel whose value is not the reset value. -/
def repairMap (s : State) : SMap Nat :=
  ((List.finRange 32).flatMap (fun i => (List.range 16).map (fun k => (16 * i.val + k, (Blk.hbm i).rd s (0x80 + 4 * k))))).filter
    (fun e => e.2 ≠ 0x3F3F)

/-- The units kept in service unrepaired (R301), as keys: 2^20 × pseudo-channel + the pin, or 64 + the row and bank. -/
def keptMap (s : State) : SMap Nat :=
  s.hbmKept.map (fun e => (2 ^ 20 * e.1 + (match e.2 with | .pin n => n | .row r _ => 64 + r), 1))

/-- The complete current state a SUMMARY carries: NW, NE and LMAP, whether the device is RETIRED and its FEAT_GRADE, the unit states,
the HBM repair lists, and the VF values that TRIM records would be held against (R355). -/
def summaryState (s : State) : List Byte :=
  leBytes 4 s.west.length ++ leBytes 4 s.east.length ++
    (List.range 80).flatMap (fun k => leBytes 4 (spr.rd s (0x1040 + 4 * k))) ++
    leBytes 4 (b2n s.retired) ++ leBytes 4 (svc.rd s 0x1044) ++ mapBytes s.units ++ mapBytes s.unitSpare ++
    mapBytes s.portRec ++ mapBytes (repairMap s) ++ mapBytes s.spareRows ++ mapBytes s.pprRows ++ mapBytes (keptMap s) ++ mapBytes s.vfRec

/-- The records of each type, 1 to 12, written since manufacture: those the latest SUMMARY counts, and those since. -/
def typeCounts (s : State) : List Nat :=
  let recs := logRecords s
  let base := match recs.reverse.find? (fun r => r.type = 10) with
    | some r => (r.seq, (List.range 12).map (fun t => qw (((r.payload s).drop 72)) t))
    | none => (0, List.replicate 12 0)
  (List.range 12).map (fun t => base.2.getD t 0 + (recs.filter (fun r => base.1 ≤ r.seq && r.type = t + 1)).length)

/-- The digest of the GENESIS record: itself while retained, else as the latest SUMMARY carries it. -/
def genesisDigest (s : State) : List Byte :=
  let recs := logRecords s
  match recs.find? (fun r => r.type = 1) with
  | some r => r.digest s
  | none => match recs.reverse.find? (fun r => r.type = 10) with
    | some r => ((r.payload s).drop 8).take 64
    | none => List.replicate 64 0

/-- Cut bytes into parts of at most 65,000. -/
def parts : Nat → List Byte → List (List Byte)
  | 0, l => [l]
  | n + 1, l => if l.length ≤ 65000 then [l] else l.take 65000 :: parts n (l.drop 65000)

/-- Erase the oldest blocks whose records all precede the record at `keep`, until 256 blocks are free (R355). -/
def eraseOld (s : State) (keep : Nat) : Nat → State
  | 0 => s
  | fuel + 1 =>
    let b := blockOf s.logOldest
    if 256 ≤ freeBlocks s ∨ b = blockOf keep then s
    else
      match (logRecords s).find? (fun r => blockOf r.off ≠ b) with
      | none => s
      | some r => eraseOld { eraseFlash s (b * 65536) ((b + 1) * 65536) with logOldest := r.off } keep fuel

/-- Append a record; when fewer than 64 blocks are free, write a complete SUMMARY and erase old blocks (R355). -/
def appendRecord (s : State) (type : Nat) (payload : List Byte) : State :=
  let s := appendOne s type payload
  if 64 ≤ freeBlocks s then s
  else
    let counts := (typeCounts s).flatMap (leBytes 8)
    let genesis := genesisDigest s
    let ps := parts 16 (summaryState s)
    let first := s.logNext
    let s := forEach (ps.mapIdx (fun i p => (i, p))) s (fun s e =>
      logB.event (appendOne s 0x000A (leBytes 4 e.1 ++ leBytes 4 ps.length ++ genesis ++ counts ++ e.2)) 17)
    let s := eraseOld s first 3056
    logB.wr (logB.wr s 0x50 (freeBlocks s)) 0x4C s.logOldest

/-- ENERGY_J and POWER_ON_H as they read (Table 16.8): the energy the Roast Log held at boot with the package's since reset, and the
hours since manufacture. -/
def energyJ (s : State) : Nat := (logB.rd s 0x58 + SMap.get d0 s.totE 0 / (10 ^ 15 * 2 ^ 20)) % 2 ^ 64
def powerOnHours (s : State) : Nat := poweredSeconds s / 3600 % 2 ^ 32

/-- H_w of a district in 1/16 h (R344). -/
def weightedHours (s : State) (n : Nat) : Nat := SMap.get d0 s.wear n / 245760

/-- The weighted minutes, in 2^−16 min, that a minute at `t` °C adds (R344): 2^((t − 85) ÷ 10) min, or 1/16 min below 45 °C. DESIGN
CHOICE (log entry 203): rounded down to 2^−16 min, as the largest m with m^10 ≤ 2^(160 + t − 85). -/
def weightedMinute (t : Nat) : Nat :=
  if t < 45 then 4096
  else (List.range 32).reverse.foldl (fun m i => if (m + 2 ^ i) ^ 10 ≤ 2 ^ (75 + t) then m + 2 ^ i else m) 0

/-- A minute of power-on time has passed: each district's weighted hours grow at the temperature of its hottest tile (R344), and the
hours of each stack above 85 °C (Table 16.5). -/
def wearMinute (s : State) : State :=
  let s := forEach (List.range 20) s (fun s n =>
    { s with wear := SMap.set d0 s.wear n (SMap.get d0 s.wear n + weightedMinute (SMap.get d0 s.temps n)) })
  forEach ((List.range 8).filter (fun k => 85 < SMap.get d0 s.temps (32 + k))) s (fun s k =>
    { s with wear := SMap.set d0 s.wear (1024 + k) (SMap.get d0 s.wear (1024 + k) + 1) })

/-- A STATUS record is due (R354): STATUS_HOURS of power-on time have passed since the last one, by its POWER_ON_S. -/
def statusDue (s : State) : Bool :=
  let last := match (logRecords s).reverse.find? (fun r => r.type = 7) with
    | some r => leNat (readFlash s (r.off + 0x18) 8)
    | none => 0
  decide (last + 3600 * spr.rd s 0x80 ≤ poweredSeconds s)

/-- STATUS_RECORD (R354, Table 16.5): energy since manufacture, weighted hours of the 20 districts, hours of each stack
above 85 °C; due every STATUS_HOURS of power-on time. -/
def execStatusRecord (s : State) : Out :=
  .next (if !statusDue s then s else appendRecord s 0x0007 (leBytes 8 (energyJ s) ++
    (List.range 20).flatMap (fun n => leBytes 4 (weightedHours s n)) ++
    (List.range 8).flatMap (fun k => leBytes 4 (SMap.get d0 s.wear (1024 + k) / 60))))

end Sys2Proof.Machine
end

