-- ==== Sys2Proof/Machine/Grade.lean ====
section
/-! DEFINITION. Sys2Proof/Machine/Grade.lean: the spare map (R26, R27), counts and grade (R37, R38, R348–R351), publishing. -/
namespace Sys2Proof.Machine

/-! ### The spare map -/

/-- The physical tile of every slot: West's, East's, then the unassigned ones in ascending physical number (R27). -/
def slotMap (s : State) : List Nat :=
  s.west ++ s.east ++ (List.range 160).filter (fun p => !(s.west.contains p) && !(s.east.contains p))

/-- Write SPR.LMAP from the map (R27): every slot names a physical tile, so both valid bits are set. -/
def showLmap (s : State) : State :=
  let m := slotMap s
  forEach (List.range 80) s (fun s k =>
    spr.wr s (0x1040 + 4 * k) (m.getD (2 * k) 0 + 2 ^ 8 + m.getD (2 * k + 1) 0 * 2 ^ 16 + 2 ^ 24))

/-- Zero a Near Memory slot, tags 0 (R338, R347). -/
def zeroSlot (s : State) (t : Nat) : State :=
  { s with mem := SMap.clear s.mem (slotBase t) (slotBase t + 0x800000),
           tags := SMap.clear s.tags (slotBase t / 32) ((slotBase t + 0x800000) / 32),
           nmErr := SMap.clear s.nmErr (slotBase t / 8) ((slotBase t + 0x800000) / 8) }

/-- The slot of a Near Memory key, counted in units of `u` bytes. -/
def slotOfKey (u k : Nat) : Option Nat :=
  if nmBase / u ≤ k ∧ k < (nmBase + 160 * 0x800000) / u then some ((k - nmBase / u) / (0x800000 / u)) else none

/-- Move the content of every slot: what lay in slot t lies in slot f t afterwards, with its epoch tags. -/
def permuteSlots (s : State) (f : Nat → Nat) : State :=
  let key (u k : Nat) : Nat := match slotOfKey u k with
    | some t => k - t * (0x800000 / u) + f t * (0x800000 / u)
    | none => k
  { s with mem := s.mem.foldl (fun m e => SMap.set memDefault m (key 1 e.1) e.2) [],
           tags := s.tags.foldl (fun m e => SMap.set d0 m (key 32 e.1) e.2) [],
           nmErr := s.nmErr.foldl (fun m e => SMap.set d0 m (key 8 e.1) e.2) [] }

/-- Copy a Near Memory slot with its epoch tags onto another (R346 step 1). -/
def copySlot (s : State) (a b : Nat) : State :=
  let s := zeroSlot s b
  let inS (u : Nat) (k : Nat) : Bool := slotOfKey u k == some a
  let move (u k : Nat) : Nat := k - a * (0x800000 / u) + b * (0x800000 / u)
  { s with mem := (s.mem.filter (fun e => inS 1 e.1)).foldl (fun m e => SMap.set memDefault m (move 1 e.1) e.2) s.mem,
           tags := (s.tags.filter (fun e => inS 32 e.1)).foldl (fun m e => SMap.set d0 m (move 32 e.1) e.2) s.tags }

/-- The spare map has changed from `old`: the content of every slot follows its physical tile, and LMAP shows the map. -/
def remap (s : State) (old : List Nat) : State :=
  let new := slotMap s
  showLmap (permuteSlots s (fun t => match old[t]? with
    | some p => (new.idxOf? p).getD t
    | none => t))

/-! ### Counts and grade -/

/-- A fabric port of this device: all 32, or P0–P29 on a bridge device (R18). -/
def fabricPorts (s : State) : List Nat := List.range (if isBridge s then 30 else 32)

/-- Usable, full and degraded ports as the Roast Log records them (R349). -/
def usablePorts (s : State) : List Nat := (fabricPorts s).filter (fun p => SMap.get d0 s.portRec p ≠ 2)
def degradedPorts (s : State) : List Nat := (fabricPorts s).filter (fun p => SMap.get d0 s.portRec p = 1)
def fullPorts (s : State) : List Nat := (fabricPorts s).filter (fun p => SMap.get d0 s.portRec p = 0)

/-- A mask of ports. -/
def portMask (l : List Nat) : Nat := l.foldl (fun m p => m + 2 ^ p) 0

/-- Working Barista cores (SVC.CORE_MAP[3:0]). -/
def coreCount (s : State) : Nat := ((List.range 4).filter (fun n => bit (svc.rd s 0xAC) n)).length

/-- Any stack LOST (R301). -/
def stackLost (s : State) : Bool := (List.range 8).any (fun k => bits ((Blk.hbm ⟨4 * (k % 8), by omega⟩).rd s 0x50) 0 2 = 2)

/-- The grade of given counts (R348): 0 A, 1 B, 2 C, 3 RETIRED. -/
def gradeOf (tiles usable full degraded cores : Nat) (bridge lostStack : Bool) : Nat :=
  let full := full + (if bridge then 2 else 0)
  let lost := (if bridge then 30 else 32) - usable
  if lostStack ∨ cores < 3 then 3
  else if tiles = 144 ∧ full = 32 then 0
  else if 140 ≤ tiles ∧ degraded ≤ 2 ∧ lost = 0 then 1
  else if 128 ≤ tiles ∧ 28 ≤ full then 2
  else 3

/-- Tiles that leave at the next republish: condemned or failed ones that wait with no spare (R350). -/
def leaving (s : State) : List Nat :=
  (s.waiting.filter (fun w => w.1 = 0 && w.2.2 / 256 = 1)).map (fun w => w.2.1)

/-- A unit is kept in service although condemned, since its removal would retire the device (R350), or unrepaired (R301). -/
def anyKept (s : State) : Bool := s.waiting.any (fun w => w.2.2 / 256 = 2) || !s.hbmKept.isEmpty

/-- The grade the live state gives, with `gone` further tiles out. -/
def liveGrade (s : State) (gone : Nat) : Nat :=
  gradeOf (s.west.length + s.east.length - gone) (usablePorts s).length (fullPorts s).length (degradedPorts s).length
    (coreCount s) (isBridge s) (stackLost s)

/-- The published grade (FEAT_GRADE[1:0]). -/
def publishedGrade (s : State) : Nat := bits (svc.rd s 0x1044) 0 2


/-- A GRADE record (Table 16.5): old and new FEAT_GRADE, tiles, ports and degraded ports as Table 2.10 lays them out, and the SEQ of the
causing record, the one before. -/
def gradeChange (s : State) (old new tiles ports degraded : Nat) : State :=
  appendRecord s 0x0005 (leBytes 4 old ++ leBytes 4 new ++ leBytes 4 tiles ++ leBytes 4 ports ++ leBytes 4 degraded ++ leBytes 4 0 ++
    leBytes 8 (logB.rd s 0x40 - 1))

/-- PENDING and PENDING_GRADE change under the odd-even procedure (R38, R350), after the GRADE record (R345). -/
def changePending (s : State) (new : Nat) : State :=
  let s := gradeChange s (svc.rd s 0x1044) new (svc.rd s 0x104C) (svc.rd s 0x1050) (svc.rd s 0x1058)
  let s := svc.wr (svc.wr s 0x1044 new) 0x1040 ((svc.rd s 0x1040 + 2) % 2 ^ 32)
  spr.event (svc.event s 19) 19

/-- Set PENDING and PENDING_GRADE. Before boot step 10 no page is published and nothing is pending (R37). -/
def setPending (s : State) (g : Nat) : State :=
  let new := putBits (putBits (svc.rd s 0x1044) 2 1 1) 4 2 g
  if svc.rd s 0x1040 = 0 ∨ new = svc.rd s 0x1044 then s else alert (changePending s new) 3

/-- Nothing is pending any longer. -/
def clearPending (s : State) : State :=
  let new := putBits (putBits (svc.rd s 0x1044) 2 1 0) 4 2 0
  if new = svc.rd s 0x1044 then s else changePending s new

/-- FEAT_TILES and FEAT_PORTS of the live counts (Table 2.10). -/
def featTiles (s : State) : Nat := s.west.length + s.east.length + s.west.length * 2 ^ 8 + s.east.length * 2 ^ 16
def featPorts (s : State) : Nat := (usablePorts s).length + (fullPorts s).length * 2 ^ 8

/-- The published counts of the units that can be lost, or the grade, differ from the live ones: a republish would change them. -/
def pageStale (s : State) : Bool :=
  !(featTiles s = svc.rd s 0x104C && featPorts s = svc.rd s 0x1050 && portMask (usablePorts s) = svc.rd s 0x1054 &&
    portMask (degradedPorts s) = svc.rd s 0x1058 && liveGrade s 0 = publishedGrade s)

/-- Reconsider PENDING_GRADE: the grade the next republish will publish, 3 while a unit is kept whose removal would
retire the device (R350). -/
def reviewPending (s : State) : State :=
  if svc.rd s 0x1040 = 0 then s
  else if anyKept s then setPending s 3
  else if !s.retired && (leaving s).isEmpty && !pageStale s then clearPending s
  else setPending s (if s.retired then 3 else liveGrade s (leaving s).length)

/-- The device becomes RETIRED (R328, R351): new partitions are refused at once; the RETIRE record (cause 0 grade below C, 1 stack lost,
2 cores) precedes the change (R345). -/
def recordRetired (s : State) (cause : Nat) : State :=
  if s.retired then s else { appendRecord s 0x0009 (leBytes 8 cause) with retired := true }

/-- The device reaches RETIRED in service (R351, R328): PENDING_GRADE is 3 and BOOT_STATE reads 14; before boot step 10 the boot goes on
along the RETIRED path. DEDUCED (log entry 235): the running
partitions are drained by their own software, as under R346. -/
def retireInService (s : State) (cause : Nat) : State :=
  if s.retired then s
  else if svc.rd s 0x1040 = 0 then recordRetired s cause
  else
    let s := setPending (recordRetired s cause) 3
    alert (spr.event (svc.put s 0x40 0 4 14) 20) 3

/-- The counts of the feature page, written in its fields (Table 2.10). -/
def writeFeatures (s : State) (grade : Nat) : State :=
  let s := svc.wr s 0x1044 (grade + (if isBridge s then 2 ^ 8 else 0))
  let s := svc.wr s 0x1048 (fab.rd s 0x40)
  let s := svc.wr s 0x104C (featTiles s)
  let s := svc.wr s 0x1050 (featPorts s)
  let s := svc.wr s 0x1054 (portMask (usablePorts s))
  let s := svc.wr s 0x1058 (portMask (degradedPorts s))
  let s := svc.wr s 0x105C (8 + 1016 * 2 ^ 16)
  let s := svc.wr s 0x1060 (7168 + 56 * 2 ^ 16)
  let s := svc.wr s 0x1064 (1600 + 800 * 2 ^ 16)
  let s := svc.wr s 0x1068 0x0A884488
  let s := svc.wr s 0x106C (16 + 64 * 2 ^ 8)
  svc.wr s 0x1070 ((List.range 160).filter (fun p => SMap.get d0 s.units (unitKey 0 p) = 1)).length

/-- The GRADE record of a grade about to be published (R345), with the live counts. -/
def gradeRecord (s : State) (old grade : Nat) : State :=
  gradeChange s old (grade + (if isBridge s then 2 ^ 8 else 0)) (featTiles s) (featPorts s) (portMask (degradedPorts s))

/-- One publication (R38): FEAT_GEN goes odd, the fields are written, FEAT_GEN goes even. -/
def publish (s : State) (grade : Nat) : State :=
  let s := writeFeatures (svc.wr s 0x1040 ((svc.rd s 0x1040 + 1) % 2 ^ 32)) grade
  svc.wr s 0x1040 ((svc.rd s 0x1040 + 1) % 2 ^ 32)

/-- Take physical tile `p` out of a die's list: the highest-numbered survivor takes its number (R27). -/
def dropTile (l : List Nat) (p : Nat) : List Nat :=
  match l.getLast? with
  | none => l
  | some z => if z = p then l.dropLast else l.dropLast.map (fun x => if x = p then z else x)

/-- The partitions other than 0x000 whose entry here is VALID (Table 9.14). -/
def validParts (s : State) : List Nat :=
  ((List.range 16).filter (fun k => bit (fab.rd s (0x8100 + 16 * k)) 12)).map (fun k => bits (fab.rd s (0x8100 + 16 * k)) 0 12)
    |>.filter (fun p => p ≠ 0)

end Sys2Proof.Machine
end

