-- ==== Sys2Proof/Machine/Hbm.lean ====
section
/-! DEFINITION. Sys2Proof/Machine/Hbm.lean: HBM (chapter 13): the address map (R288, R289), the symbol code (R291–R293),
queues and classes (R294, R295), training (R296), the traffic generators (R297, R298), repair (R299–R302), and the local
accesses of Near Memory and HBM with their codes (R125, R292, R293). -/
namespace Sys2Proof.Machine

/-! ### The address map -/

/-- The pseudo-channel, 64 × stack + its number, of a local offset (R288). -/
def pcOf (a : Nat) : Nat := a / 2 ^ 36 * 64 + (bits a 8 6 ^^^ bits a 14 6 ^^^ bits a 20 6)

/-- The pseudo-channel offset of a local offset (R288). -/
def pcoffOf (a : Nat) : Nat := bits a 14 22 * 256 + bits a 0 8

/-- The local offset at an offset of a pseudo-channel: the inverse of R288. -/
def hbmAddr (pc pcoff : Nat) : Nat :=
  let hi := pcoff / 256 % 2 ^ 22 * 2 ^ 14
  pc / 64 * 2 ^ 36 + hi + (pc % 64 ^^^ bits hi 14 6 ^^^ bits hi 20 6) * 256 + pcoff % 256

/-- The row and bank of a pcoff: pcoff[29:11] (R289). -/
def rowBank (pcoff : Nat) : Nat := pcoff % 2 ^ 30 / 2048

/-- The HBM page and the traffic generator page of a pseudo-channel, and its index k there (R302). -/
def hbmPage (pc : Nat) : Blk := .hbm ⟨pc / 16 % 32, Nat.mod_lt _ (by decide)⟩
def tgcPage (c : Nat) : Blk := .tgc ⟨c % 256, Nat.mod_lt _ (by decide)⟩
def hbmK (pc : Nat) : Nat := pc % 16

/-- PC_REPAIR[k] of a pseudo-channel. -/
def pcRepair (s : State) (pc : Nat) : Nat := (hbmPage pc).rd s (0x80 + 4 * hbmK pc)

/-- Marked pins of a pseudo-channel (Table 13.2). -/
def markedPins (s : State) (pc : Nat) : List Nat := [bits (pcRepair s pc) 0 6, bits (pcRepair s pc) 8 6].filter (· ≠ 0x3F)

/-! ### The symbol code (R291) -/

/-- Multiply by α in GF(2^8) over 0x11D. -/
def gfDouble (a : Nat) : Nat := if a < 128 then 2 * a else (2 * a) ^^^ 0x11D

/-- The product, over the low `n` bits of the second factor. -/
def gfMulN : Nat → Nat → Nat → Nat
  | 0, _, _ => 0
  | n + 1, a, b => (if b % 2 = 1 then a else 0) ^^^ gfMulN n (gfDouble a) (b / 2)

def gfMul (a b : Nat) : Nat := gfMulN 8 a b

/-- a^n. -/
def gfPow (a : Nat) : Nat → Nat
  | 0 => 1
  | n + 1 => gfMul a (gfPow a n)

/-- The inverse, a^254. -/
def gfInv (a : Nat) : Nat :=
  let a2 := gfMul a a
  let a4 := gfMul a2 a2
  let a8 := gfMul a4 a4
  let a16 := gfMul a8 a8
  let a32 := gfMul a16 a16
  let a64 := gfMul a32 a32
  let a128 := gfMul a64 a64
  gfMul a128 (gfMul a64 (gfMul a32 (gfMul a16 (gfMul a8 (gfMul a4 a2)))))

/-- The locator of pin i: α^(35 − i). -/
def locator (i : Nat) : Nat := gfPow 2 (35 - i)

/-- Syndromes S_0 to S_3 of symbols listed as (pin, value). -/
def syndromes (sym : List (Nat × Nat)) : List Nat :=
  (List.range 4).map (fun j => sym.foldl (fun acc e => acc ^^^ gfMul e.2 (gfPow (locator e.1) j)) 0)

/-- Differences S_{j+1} + x S_j: the syndromes with locator x taken out. -/
def annihilate (x : Nat) : List Nat → List Nat
  | a :: b :: l => (b ^^^ gfMul x a) :: annihilate x (b :: l)
  | _ => []

/-- Symbol values at the locators, in their order, that give these syndromes; none when no values do. -/
def solve : List Nat → List Nat → Option (List Nat)
  | s, [] => if s.all (· = 0) then some [] else none
  | s, x :: xs =>
    match solve (annihilate x s) xs with
    | none => none
    | some fs =>
      let es := (fs.zip xs).map (fun p => gfMul p.1 (gfInv (p.2 ^^^ x)))
      some ((es.foldl (· ^^^ ·) (s.headD 0)) :: es)

/-- The symbols of 32 data bytes: byte j is carried in beat j div 4 on pins 8(j mod 4) to 8(j mod 4) + 7 (R291). -/
def dataSymbols (bs : List Byte) : List Nat :=
  (List.range 32).map (fun pin =>
    (List.range 8).foldl (fun acc beat => acc + b2n (bit ((bs.getD (4 * beat + pin / 8) 0).toNat) (pin % 8)) * 2 ^ beat) 0)

/-- The bytes that symbols of the data pins carry. -/
def symbolBytes (sym : List Nat) : List Byte :=
  (List.range 32).map (fun j =>
    BitVec.ofNat 8 ((List.range 8).foldl (fun acc k => acc + b2n (bit (sym.getD (8 * (j % 4) + k) 0) (j / 4)) * 2 ^ k) 0))

/-- Symbols with their pins, the zero ones left out. -/
def tagPins (sym : List Nat) : List (Nat × Nat) := (sym.mapIdx (fun i v => (i, v))).filter (fun e => e.2 ≠ 0)

/-- The 36 symbols of a codeword (R291). -/
def encodeBurst (bs : List Byte) : List Nat :=
  let d := dataSymbols bs
  d ++ ((solve (syndromes (tagPins d)) ([32, 33, 34, 35].map locator)).getD [0, 0, 0, 0])

/-- Add an error pattern to another, pin by pin. -/
def addErr (a b : List (Nat × Nat)) : List (Nat × Nat) :=
  ((List.range 36).map (fun i =>
    (i, ((a ++ b).filter (fun e => e.1 = i)).foldl (fun acc e => acc ^^^ e.2 % 256) 0))).filter (fun e => e.2 ≠ 0)

/-- What the decoder makes of a read (R292): clean; corrected by a pattern; uncorrectable. -/
inductive Decoded where
  | clean
  | corrected (pattern : List (Nat × Nat))
  | uncorrectable
  deriving DecidableEq, Repr

/-- The sets of further pins the decoder tries: one pin, and two when no pin is marked (2e + f ≤ 4). -/
def candidates (marked : List Nat) : List (List Nat) :=
  let free := (List.range 36).filter (fun i => !marked.contains i)
  [[]] ++ free.map (fun i => [i]) ++
    (if marked.isEmpty then free.flatMap (fun i => (free.filter (fun j => i < j)).map (fun j => [i, j])) else [])

/-- Decode a burst from its error pattern under marked pins (R292). The code is linear: the data drops out. A burst with marked
pins alone is a corrected one (Table 13.4). -/
def decodeErr (marked : List Nat) (err : List (Nat × Nat)) : Decoded :=
  let s := syndromes err
  if s.all (· = 0) then (if marked.isEmpty then .clean else .corrected [])
  else
    match (candidates marked).findSome? (fun c =>
      let pins := c ++ marked
      (solve s (pins.map locator)).map (fun vs => (pins.zip vs).filter (fun e => e.2 ≠ 0))) with
    | some p => .corrected p
    | none => .uncorrectable

/-- Bytes with an error pattern over them. -/
def xorErr (bs : List Byte) (err : List (Nat × Nat)) : List Byte :=
  let e := symbolBytes ((List.range 32).map (fun i => ((err.filter (fun p => p.1 = i)).map (·.2)).headD 0))
  (bs.zip e).map (fun p => p.1 ^^^ p.2)

/-! ### Failing units and the loss of a stack (R299, R301) -/

/-- Put a unit among those awaiting repair, unless it waits already or is kept unrepaired (R301); a row that has failed on an
uncorrectable read waits as that alone. -/
def noteFailing (s : State) (pc : Nat) (u : HbmFail) : State :=
  if s.hbmFailing.contains (pc, u) ∨ s.hbmKept.contains (pc, u) then s
  else
    match u with
    | .row r true => { s with hbmFailing := s.hbmFailing.filter (fun e => !(decide (e = (pc, .row r false)))) ++ [(pc, u)] }
    | .row r false => if s.hbmFailing.contains (pc, .row r true) then s else { s with hbmFailing := s.hbmFailing ++ [(pc, u)] }
    | .pin _ => { s with hbmFailing := s.hbmFailing ++ [(pc, u)] }

/-- The energy of `k` bursts, on the page of their pseudo-channel (R384). -/
def burstEnergy (s : State) (pc k : Nat) : State :=
  pageEnergy s (hbmPage pc) (k * EnergyKind.burst.coef * bits (Blk.ktl.rd s 0x1058) 0 16)

/-- The 32 bytes at the start of row `row`, bank 0, where a map or a record of a pseudo-channel lies, take values of their own:
rows 0x7F04–0x7FBF hold the repair map, the erasure map and training records in a form the spec does not give (R289, R296).
DESIGN CHOICE (log entry 192): 0x7F04 the repair map, 0x7F05 the erasure map, 0x7F06 training records. -/
def mapStore (s : State) (pc row : Nat) : State :=
  let f := freeBytes (burstEnergy s pc 1) 32
  writeBytes f.2 (hbmAddr pc (row * 2 ^ 15)) f.1

/-- Where the burst at a pcoff is kept: a device spare row in use holds the row that it serves (R289, R300). -/
def servedOff (s : State) (pc pcoff : Nat) : Nat :=
  let row := rowBank pcoff / 16
  if 0x7F00 ≤ row ∧ row < 0x7F04 then
    match SMap.get d0 s.spareRows (64 * pc + (4 * (rowBank pcoff % 16) + (row - 0x7F00))) with
    | 0 => pcoff
    | r + 1 => if r < 2 ^ 19 then r * 2048 + pcoff % 2048 else pcoff
  else pcoff

/-- The local offset where the burst at local offset `a` is kept. -/
def servedAddr (s : State) (a : Nat) : Nat :=
  let at_ := servedOff s (pcOf a) (pcoffOf a)
  if at_ = pcoffOf a then a else hbmAddr (pcOf a) at_

/-- STACK_STATE of a stack, the same on its four pages (Table 13.2). -/
def setStackState (s : State) (stack : Nat) (f : Nat → Nat) : State :=
  forEach [0, 1, 2, 3] s (fun s i => let b := hbmPage (64 * stack + 16 * i); b.wr s 0x50 (f (b.rd s 0x50)))

/-- DEGRADED while any pin is marked or any pseudo-channel is over budget; LOST stays. -/
def reviewStack (s : State) (stack : Nat) : State :=
  let bad := (List.range 64).any (fun p => !(markedPins s (64 * stack + p)).isEmpty || bit (pcRepair s (64 * stack + p)) 31)
  setStackState s stack (fun v => if bits v 0 2 = 2 then v else putBits v 0 2 (b2n bad))

/-- The stack of a pseudo-channel is lost (R301): STACK_LOST, and the device goes to RETIRED. -/
def loseStack (s : State) (pc : Nat) : State :=
  if bits ((hbmPage pc).rd s 0x50) 0 2 = 2 then s
  else
    let s := setStackState s (pc / 64) (fun v => putBits v 0 2 2)
    let b := hbmPage pc
    retireInService (b.raise (b.event s 21) 0x0102 0 (hbmK pc)) 1

/-- An uncorrectable read for partition `part` (R292, R299, R301): counted, captured, its row failing when it is the row's first,
and the stack lost when the pseudo-channel is over budget. -/
def uncorrectable (s : State) (part pc pcoff : Nat) : State :=
  let b := hbmPage pc
  let s := b.raise (b.event (b.sat s (0x140 + 4 * hbmK pc)) 17) 0x0101 part pcoff
  let row := 2 ^ 19 * pc + rowBank pcoff
  let s := if SMap.get d0 s.rowUnc row ≠ 0 then s
    else noteFailing { s with rowUnc := SMap.set d0 s.rowUnc row 1 } pc (.row (rowBank pcoff) true)
  if bit (pcRepair s pc) 31 then loseStack s pc else s

/-- Corrected reads of a pin within 1 s (R299). -/
def recentPin (s : State) (pc pin : Nat) : List (Nat × Nat) :=
  (SMap.get (fun _ => []) s.pinFails (64 * pc + pin)).filter (fun e => s.now - e.1 < 1000000)

/-- A corrected read: counted, and the symbols in error noted (R292, R299). DEDUCED (log entry 191): a read counts towards its
row's ROW_FAIL_LIMIT when an unmarked pin was in error, since with a marked pin every read of the pseudo-channel is a corrected one. -/
def corrected (s : State) (pc pcoff : Nat) (pattern : List (Nat × Nat)) : State :=
  let b := hbmPage pc
  let s := b.event (b.add s (0xC0 + 8 * hbmK pc) 1) 16
  let pattern := pattern.filter (fun e => !(markedPins s pc).contains e.1)
  if pattern.isEmpty then s
  else
  let row := 2 ^ 19 * pc + rowBank pcoff
  let n := SMap.get d0 s.rowFails row + 1
  let s := { s with rowFails := SMap.set d0 s.rowFails row n }
  let s := if max 1 (bits (b.rd s 0x44) 0 8) ≤ n then noteFailing s pc (.row (rowBank pcoff) false) else s
  forEach pattern s (fun s e =>
    let l := recentPin s pc e.1 ++ [(s.now, rowBank pcoff)]
    let s := { s with pinFails := SMap.set (fun _ => []) s.pinFails (64 * pc + e.1) l }
    if max 1 (bits (b.rd s 0x44) 8 16) ≤ l.length ∧ 2 ≤ ((l.map (fun e => e.2)).eraseDups).length then noteFailing s pc (.pin e.1) else s)

/-! ### Bursts and words -/

def dReq (_ : Nat) : List (Nat × HbmReq) := []
def latQ (s : State) (pc : Nat) : List (Nat × HbmReq) := SMap.get dReq s.hbmLat pc
def bulkQ (s : State) (pc : Nat) : List (Nat × HbmReq) := SMap.get dReq s.hbmBulk pc

/-- A request queued to the burst at local offset `a`. -/
def toBurst (a : Nat) (r : HbmReq) : Bool := decide (r.off / 32 = pcoffOf a / 32)

/-- A newer write to the burst at local offset `a` is queued. -/
def writeQueued (s : State) (a : Nat) : Bool :=
  (latQ s (pcOf a) ++ bulkQ s (pcOf a)).any (fun e => toBurst a e.2 && e.2.data.isSome)

/-- Decode the burst at local offset `a` (a multiple of 32) for partition `part`: its bytes, none when uncorrectable (R292). -/
def decodeBurst (s : State) (part a : Nat) : Option (List Byte) × State :=
  let err := SMap.get (fun _ => []) s.hbmErr (a / 32)
  let bs := readBytes s a 32
  match decodeErr (markedPins s (pcOf a)) err with
  | .clean => (some (xorErr bs err), s)
  | .corrected p => (some (xorErr bs (addErr err p)), corrected s (pcOf a) (pcoffOf a) p)
  | .uncorrectable => (none, uncorrectable s part (pcOf a) (pcoffOf a))

/-- A burst written back as it decodes: no error stands in it. It is no store to its bytes, so no reservation ends. -/
def healBurst (s : State) (a : Nat) (bs : List Byte) : State :=
  { s with mem := SMap.setMany memDefault s.mem a bs, hbmErr := SMap.set (fun _ => []) s.hbmErr (a / 32) [] }

/-- Read the burst at local offset `a`: a correction of errors is written back, unless a newer write to the burst is queued (R292). -/
def readBurst (s : State) (part a : Nat) : Option (List Byte) × State :=
  let found := SMap.get (fun _ => []) s.hbmErr (a / 32)
  let r := decodeBurst s part a
  match r.1 with
  | some bs => (some bs, if found.isEmpty ∨ writeQueued r.2 a then r.2 else burstEnergy (healBurst r.2 a bs) (pcOf a) 1)
  | none => r

/-- Write `bs` at local offset `a` inside one burst (R293): a whole burst is written directly and heals; a part is merged
after a read, and is not performed when that read is uncorrectable. Answers whether it was performed. -/
def writeBurst (s : State) (part a : Nat) (bs : List Byte) : Bool × State :=
  let burst := a / 32 * 32
  if bs.length = 32 then (true, writeBytes { s with hbmErr := SMap.set (fun _ => []) s.hbmErr (burst / 32) [] } a bs)
  else
    let r := decodeBurst s part burst
    match r.1 with
    | none => (false, r.2)
    | some old => (true, writeBytes (healBurst r.2 burst old) a bs)

/-- The pieces of [o, o + n) inside units of `u` bytes: offset and length, at most `fuel`. -/
def pieces (u : Nat) : Nat → Nat → Nat → List (Nat × Nat)
  | 0, _, _ => []
  | fuel + 1, o, n =>
    if n = 0 then []
    else
      let k := min n (u - o % u)
      (o, k) :: pieces u fuel (o + k) (n - k)

/-- Pieces of a span in 32-byte bursts. -/
def bursts (o n : Nat) : List (Nat × Nat) := pieces 32 (n / 32 + 2) o n

/-- Bursts a span reads when it is written: those covered in part (R293). -/
def partialBursts (o n : Nat) : Nat := ((bursts o n).filter (fun p => p.2 ≠ 32)).length

/-- Bursts that a span moves: one each, and one more for a burst written in part (R293). -/
def spanBursts (o n : Nat) (write : Bool) : Nat := (bursts o n).length + (if write then partialBursts o n else 0)

/-- Note that the bursts of a span open their rows (R287): a row other than the one open in its bank is activated, which refresh
management counts. Each 256 bytes lie in one row of one bank (R288). -/
def openRows (s : State) (o n : Nat) : State :=
  forEach (pieces 256 (n / 256 + 2) o n) s (fun s p =>
    let rb := rowBank (pcoffOf p.1)
    let k := 16 * pcOf p.1 + rb % 16
    if SMap.get d0 s.openRow k = rb / 16 + 1 then s
    else { s with openRow := SMap.set d0 s.openRow k (rb / 16 + 1), bankActs := SMap.set d0 s.bankActs k (SMap.get d0 s.bankActs k + 1) })

/-- Count the bursts of a span read or written: in the device's pages and the partition's slot (R358, Table 17.2), and as energy
of each pseudo-channel's page (R384); their rows are opened (R287). -/
def countBursts (s : State) (part o n : Nat) (write : Bool) : State :=
  let rd := if write then partialBursts o n else (bursts o n).length
  let wr := if write then (bursts o n).length else 0
  let stack := o / 2 ^ 36
  let s := if rd = 0 then s else Blk.cntD.add s (0x80 + 16 * (stack % 8)) (32 * rd)
  let s := if wr = 0 then s else Blk.cntD.add s (0x88 + 16 * (stack % 8)) (32 * wr)
  let s := match slotOfPart s part with
    | some k => Blk.cntD.add s (0xA110 + 0x40 * k) (32 * (rd + wr))
    | none => s
  forEach (pieces 256 (n / 256 + 2) o n) (openRows s o n) (fun s p => burstEnergy s (pcOf p.1) (spanBursts p.1 p.2 write))

/-- Read a span of bursts, each decoded where it is kept (R289, R292); none when one is uncorrectable. -/
def readSpan (s : State) (part o n : Nat) : Option (List Byte) × State :=
  (bursts o n).foldl (fun r p =>
    let x := readBurst r.2 part (servedAddr r.2 (p.1 / 32 * 32))
    (match r.1, x.1 with
     | some acc, some bs => some (acc ++ (bs.drop (p.1 % 32)).take p.2)
     | _, _ => none, x.2)) (some [], s)

/-- Write a span burst by burst, where each is kept (R289, R293); false when a burst could not be written. -/
def writeSpan (s : State) (part o : Nat) (bs : List Byte) : Bool × State :=
  (bursts o bs.length).foldl (fun r p =>
    let x := writeBurst r.2 part (servedAddr r.2 p.1) ((bs.drop (p.1 - o)).take p.2)
    (r.1 && x.1, x.2)) (true, s)

/-! ### Queues (R294, R295) -/

/-- A request is of the latency class (R294). -/
def isLat (r : HbmReq) : Bool :=
  match r.sender with
  | .embedding => r.data.isNone
  | .gatherSource => r.data.isNone
  | .copy prio => prio
  | .core => true
  | .remote vc => vc = 1 || vc = 6
  | .other => false

def setQ (s : State) (pc : Nat) (l b : List (Nat × HbmReq)) : State :=
  { s with hbmLat := SMap.set dReq s.hbmLat pc l, hbmBulk := SMap.set dReq s.hbmBulk pc b }

/-- Two requests touch one burst. -/
def sameBurst (a b : HbmReq) : Bool := a.off / 32 == b.off / 32

/-- A request joins its class's queue while that has room, 32 LAT and 64 BULK entries; a LAT request raises BULK requests queued to
its burst to LAT (R295). -/
def joinQueue (s : State) (pc : Nat) (r : HbmReq) : Option State :=
  let l := latQ s pc
  let b := bulkQ s pc
  let n := ((l ++ b).map (·.1)).foldl max 0 + 1
  if isLat r then
    let up := b.filter (fun e => sameBurst e.2 r)
    if 32 < l.length + up.length + 1 then none else some (setQ s pc (l ++ up ++ [(n, r)]) (b.filter (fun e => !sameBurst e.2 r)))
  else if 64 < b.length + 1 then none else some (setQ s pc l (b ++ [(n, r)]))

/-- Requests enter their queues in their order; those of a class whose queue is full are held upstream, never refused (R295). -/
def enqueueAll (s : State) (pc : Nat) (rs : List HbmReq) : State :=
  let x := rs.foldl (fun (a : List HbmReq × State) r =>
    if a.1.any (fun h => isLat h == isLat r) then (a.1 ++ [r], a.2)
    else match joinQueue a.2 pc r with
      | some s => (a.1, s)
      | none => (a.1 ++ [r], a.2)) ([], s)
  { x.2 with hbmUp := SMap.set (fun _ => []) x.2.hbmUp pc x.1 }

/-- Requests arrive behind those held upstream (R295). -/
def enqueue (s : State) (pc : Nat) (rs : List HbmReq) : State := enqueueAll s pc (SMap.get (fun _ => []) s.hbmUp pc ++ rs)

/-- BULK_AGE in 10 ns, and LAT_BURST (ARB). -/
def bulkAge (s : State) (pc : Nat) : Nat := 10 * max 1 (bits ((hbmPage pc).rd s 0x40) 16 12)
def latBurst (s : State) (pc : Nat) : Nat := max 1 (bits ((hbmPage pc).rd s 0x40) 0 8)

/-- A row copy holds a request at time `t` (R300). -/
def rowHeld (s : State) (pc t : Nat) (r : HbmReq) : Bool :=
  let h := SMap.get (fun _ => (0, 0)) s.rowHold pc
  t < h.2 && rowBank r.off = h.1

/-- The request issued in place of `e`: the oldest one queued to its burst (R295). -/
def firstToBurst (s : State) (pc : Nat) (e : Nat × HbmReq) : Nat × HbmReq :=
  ((latQ s pc ++ bulkQ s pc).filter (fun f => sameBurst f.2 e.2)).foldl (fun m f => if f.1 < m.1 then f else m) e

/-- A refresh of one of its banks has fallen due by time `t`: it takes the slot (R295 step 1). DESIGN CHOICE (log entry 213): a bank's
refreshes run from its first HBM_REFRESH on. -/
def refreshWaits (s : State) (pc t : Nat) : Bool :=
  (List.range 16).any (fun k => let d := SMap.get d0 s.refreshDue (16 * pc + k); decide (d ≠ 0) && decide (d ≤ t))

/-- No hold and no refresh due keeps an issue slot of a pseudo-channel from being used at time `t` (R295 step 1). -/
def openSlot (s : State) (pc t : Nat) : Bool := decide (SMap.get d0 s.hbmHold pc ≤ t) && !refreshWaits s pc t

/-- The request the controller chooses at time `t` (R295): none under a hold or where a refresh is due, and none of a row under its
copy. -/
def chooseReq (s : State) (pc t : Nat) : Option (Nat × HbmReq) :=
  if !openSlot s pc t then none
  else
    match (bulkQ s pc).filter (fun e => !rowHeld s pc t e.2), (latQ s pc).filter (fun e => !rowHeld s pc t e.2) with
    | b :: _, l :: _ =>
      some (firstToBurst s pc (if bulkAge s pc < t - b.2.since ∨ latBurst s pc ≤ SMap.get d0 s.latRun pc then b else l))
    | b :: _, [] => some b
    | [], l :: _ => some (firstToBurst s pc l)
    | [], [] => none

/-- Perform a request where its burst is kept (R289, R292, R293): its answer is the data read, or NOT_APPLIED. -/
def performReq (s : State) (pc : Nat) (r : HbmReq) : State :=
  let a := hbmAddr pc r.off
  let n := min r.len (32 - a % 32)
  let s := countBursts s r.part a n r.data.isSome
  match r.data with
  | none =>
    let x := readSpan s r.part a n
    match x.1 with
    | some bs => { x.2 with answer := { status := stOk, data := bs } }
    | none => { x.2 with answer := { status := stNotApplied } }
  | some bs =>
    let x := writeSpan s r.part a (bs.take n)
    { x.2 with answer := { status := if x.1 then stOk else stNotApplied } }

/-- An issue of either class moves the count of LAT requests issued in a row while BULK was not empty. -/
def runOn (s : State) (pc : Nat) (lat : Bool) : State :=
  let run := if !lat ∨ (bulkQ s pc).isEmpty then 0 else SMap.get d0 s.latRun pc + 1
  { s with latRun := SMap.set d0 s.latRun pc run }

/-- A chosen request leaves its queue, requests held upstream follow, and the wait of a BULK request is recorded. -/
def leaveQueue (s : State) (pc t : Nat) (e : Nat × HbmReq) : State :=
  let l := (latQ s pc).filter (fun f => f.1 ≠ e.1)
  let b := (bulkQ s pc).filter (fun f => f.1 ≠ e.1)
  let fromBulk := (bulkQ s pc).any (fun f => f.1 = e.1)
  let s := enqueue (runOn (setQ s pc l b) pc (!fromBulk)) pc []
  let g := hbmPage pc
  if isLat e.2 then s
  else g.wr s (0x180 + 4 * hbmK pc) (max (g.rd s (0x180 + 4 * hbmK pc)) (min 0xFFFF (t - e.2.since)))

/-- Issue a chosen request: it leaves its queue and is performed. -/
def issueReq (s : State) (pc t : Nat) (e : Nat × HbmReq) : State := performReq (leaveQueue s pc t e) pc e.2

/-! ### Accesses of this device's own agents -/

/-- The interval of refreshes, halved above 85 °C stack temperature (R287). -/
def refreshEvery (s : State) (pc : Nat) : Nat :=
  if 85 < bits ((hbmPage pc).rd s 0x54) 0 8 then Config.refreshInterval / 2 else Config.refreshInterval

/-- Refresh a bank at time `t`: the next one falls due after the interval, and refresh management counts the bank's activations
anew (R287). -/
def refreshBank (s : State) (pc k t : Nat) : State :=
  { s with refreshDue := SMap.set d0 s.refreshDue (16 * pc + k) (t + refreshEvery s pc),
           bankActs := SMap.set d0 s.bankActs (16 * pc + k) 0, openRow := SMap.set d0 s.openRow (16 * pc + k) 0 }

/-- The refreshes of a pseudo-channel that have fallen due by time `t`. -/
def refreshDueNow (s : State) (pc t : Nat) : State :=
  forEach (List.range 16) s (fun s k =>
    let d := SMap.get d0 s.refreshDue (16 * pc + k)
    if d ≠ 0 ∧ d ≤ t then refreshBank s pc k t else s)

/-- From when a pseudo-channel can issue an access that arrives now: its training hold is over, and a row copy, where that concerns the
access or requests queued before it (R296, R300). -/
def slotTime (s : State) (pc a : Nat) : Nat :=
  let t := max (100 * s.now) (SMap.get d0 s.hbmHold pc)
  let h := SMap.get (fun _ => (0, 0)) s.rowHold pc
  if rowBank (pcoffOf a) = h.1 ∨ !(latQ s pc).isEmpty ∨ !(bulkQ s pc).isEmpty then max t h.2 else t

/-- Issue in the order of R295 until the access of this device's own agents has its turn. -/
def runSlots (pc t : Nat) : Nat → State → State
  | 0, s => s
  | n + 1, s =>
    match chooseReq s pc t with
    | none => s
    | some e => if e.2.own then leaveQueue s pc t e else runSlots pc t n (issueReq s pc t e)

/-- An access of class LAT or BULK to the burst at `a` joins its queue and waits for its issue slot in the order of R295, after the
refreshes due, the holds, and the requests that go before it. -/
def takeSlot (s : State) (lat : Bool) (a : Nat) : State :=
  let pc := pcOf a
  let t := slotTime s pc a
  let s := enqueue (refreshDueNow s pc t) pc
    [{ sender := if lat then .core else .other, off := pcoffOf a, since := 100 * s.now, own := true }]
  runSlots pc t ((latQ s pc).length + (bulkQ s pc).length + (SMap.get (fun _ => []) s.hbmUp pc).length) s

/-- Nothing of a stack calls for a burst-by-burst access to a span: no error stored, no pin marked (Table 13.2), no request queued or
counted, no hold and no refresh due, no spare row in the span (R289, R295). -/
def hbmQuiet (s : State) (o n : Nat) : Bool :=
  s.hbmErr.isEmpty && s.hbmLat.isEmpty && s.hbmBulk.isEmpty && s.hbmUp.isEmpty && s.latRun.isEmpty &&
    bits ((hbmPage (64 * (o / 2 ^ 36))).rd s 0x50) 0 2 = 0 &&
    s.hbmHold.all (fun e => decide (e.2 ≤ 100 * s.now)) && s.rowHold.all (fun e => decide (e.2.2 ≤ 100 * s.now)) &&
    s.refreshDue.all (fun e => decide (100 * s.now < e.2)) &&
    (s.spareRows.isEmpty || !(reservedSeg (o / 0x10000000) || reservedSeg ((o + n) / 0x10000000)))

/-- Read a span of HBM, in issue slots of class LAT or BULK (R292, R294, R295); none when a burst is uncorrectable. -/
def readHbm (s : State) (part o n : Nat) (lat : Bool) : Option (List Byte) × State :=
  let s := countBursts s part o n false
  if hbmQuiet s o n then (some (readBytes s o n), s)
  else readSpan (forEach (bursts o n) s (fun s p => takeSlot s lat p.1)) part o n

/-- Write a span of HBM (R293, R294, R295); false when a burst could not be written. -/
def writeHbm (s : State) (part o : Nat) (bs : List Byte) (lat : Bool) : Bool × State :=
  let s := countBursts s part o bs.length true
  if hbmQuiet s o bs.length then (true, writeBytes s o bs)
  else writeSpan (forEach (bursts o bs.length) s (fun s p => takeSlot s lat p.1)) part o bs

/-- The read-modify-write of an atomic inside one burst (R293): the burst is read and decoded once, the bytes at `o` take what `f` makes
of them, if it stores at all, and the burst is written back; none when its read is uncorrectable. -/
def rmwHbm (s : State) (part o n : Nat) (f : List Byte → Option (List Byte)) (lat : Bool) : Option (List Byte) × State :=
  let s := countBursts s part o n true
  let s := if hbmQuiet s o n then s else takeSlot s lat o
  let a := servedAddr s o
  let r := decodeBurst s part (a / 32 * 32)
  match r.1 with
  | none => (none, r.2)
  | some burst =>
    let old := (burst.drop (a % 32)).take n
    let s := healBurst r.2 (a / 32 * 32) burst
    (some old, match f old with
      | some bs => writeBytes s a bs
      | none => s)

/-! ### Near Memory, and both -/

/-- A tile's count of corrected Near Memory bits (Table 17.1). -/
def nmCorrected (s : State) (slot n : Nat) : State :=
  if h : slot < 160 then (Blk.cntT ⟨slot, h⟩).add s 0xC0 n else s

/-- A row of Near Memory is condemned (Table 16.1), once for each word; the Barista replaces it at its next tick (log entry 259). -/
def condemnRow (s : State) (w reason : Nat) : State :=
  if s.nmRows.any (fun e => e.1 = w) then s else { s with nmRows := s.nmRows ++ [(w, reason)] }

/-- A word of Near Memory is corrected: the sixteenth time in 24 h condemns its row (Table 16.1). -/
def noteCorrected (s : State) (w : Nat) : State :=
  let l := s.now :: (SMap.get (fun _ => []) s.nmCorr w).filter (fun t => s.now < t + 86400000000)
  if l.length < 16 then { s with nmCorr := SMap.set (fun _ => []) s.nmCorr w l }
  else condemnRow { s with nmCorr := SMap.set (fun _ => []) s.nmCorr w [] } w 0

/-- Read a span of Near Memory under its SEC-DED code (R125): a single bit in error in 8 bytes is corrected and counted,
two fail the access; either counts towards the verdict on the row (Table 16.1). -/
def readNm (s : State) (o n : Nat) : Option (List Byte) × State :=
  if s.nmErr.isEmpty then (some (readBytes s o n), s)
  else
    let ws := (List.range ((o + n + 7) / 8 - o / 8)).map (fun i => o / 8 + i)
    let one := ws.filter (fun w => SMap.get d0 s.nmErr w = 1)
    let s' := forEach one (nmCorrected s ((o - nmBase) / 0x800000) one.length) noteCorrected
    let s' := forEach (ws.filter (fun w => SMap.get d0 s.nmErr w = 2)) s' (fun s w => condemnRow s w 1)
    if ws.any (fun w => 2 ≤ SMap.get d0 s.nmErr w) then (none, s') else (some (readBytes s o n), s')

/-- Write a span of Near Memory: an 8-byte word written whole is sound again (DEDUCED from R125, log entry 230: its code is formed anew). -/
def writeNm (s : State) (o : Nat) (bs : List Byte) : State :=
  let s := writeBytes s o bs
  if s.nmErr.isEmpty then s
  else { s with nmErr := SMap.clear s.nmErr ((o + 7) / 8) ((o + bs.length) / 8) }

/-- A double-bit error fails an access to a slot: it is counted in the tile's BLK_ERR_COUNT (Table 6.8). -/
def nmFailed (s : State) (slot : Nat) : State :=
  if h : slot < 160 then (Blk.til ⟨slot, h⟩).countErr s else s

/-- Read bytes at a local offset of HBM or Near Memory for partition `part`; none when the read fails (R125, R292). `lat`: the access
is of HBM's latency class (R294). -/
def readLocal (s : State) (part o n : Nat) (lat : Bool := false) : Option (List Byte) × State :=
  match placeOf o with
  | .hbm _ => readHbm s part o n lat
  | _ =>
    let r := readNm s o n
    (r.1, if r.1.isNone then nmFailed r.2 ((o - nmBase) / 0x800000) else r.2)

/-- Write bytes at a local offset of HBM or Near Memory; false when the write is not performed (R293). -/
def writeLocal (s : State) (part o : Nat) (bs : List Byte) (lat : Bool := false) : Bool × State :=
  match placeOf o with
  | .hbm _ => writeHbm s part o bs lat
  | _ => (true, writeNm s o bs)

/-- The read-modify-write of an atomic at a local offset of HBM or Near Memory (R191, R293): the old bytes, none when their read fails. -/
def rmwLocal (s : State) (part o n : Nat) (f : List Byte → Option (List Byte)) (lat : Bool := false) : Option (List Byte) × State :=
  match placeOf o with
  | .hbm _ => rmwHbm s part o n f lat
  | _ =>
    let r := readLocal s part o n
    match r.1 with
    | none => (none, r.2)
    | some old => (some old, match f old with
      | some bs => writeNm r.2 o bs
      | none => r.2)

/-! ### Issue slots, refresh and training (R287, R295, R296) -/

/-- Add symbols in error to a stored burst. -/
def addStoredErr (s : State) (a : Nat) (errs : List (Nat × Nat)) : State :=
  if errs.isEmpty then s
  else { s with hbmErr := SMap.set (fun _ => []) s.hbmErr (a / 32) (addErr (SMap.get (fun _ => []) s.hbmErr (a / 32)) errs) }

/-- A read-eye move and the narrowest eye, `eye` at `pin`, go to DRIFT[k] and to the calibration controller (R296, R318); an eye
below 16/64 UI makes its pin failing (R299). -/
def recordEye (s : State) (pc : Nat) (drift eye : Byte) (pin : Fin 36) : State :=
  let b := hbmPage pc
  let o := 0x200 + 4 * hbmK pc
  let was := bits (b.rd s o) 8 8
  let v := drift.toNat + 256 * (if was = 0 then eye.toNat else min was eye.toNat)
  let s := b.wr { s with calDrift := SMap.set d0 s.calDrift pc v } o v
  if eye.toNat < 16 ∧ !(markedPins s pc).contains pin.val then noteFailing s pc (.pin pin.val) else s

/-- HBM_ISSUE (R295): at time `t` in 10 ns, `arrivals` join their queues, then the next request is issued by class. `found`
is what comes of it: symbols in error, and the eye that a read's shadow samplers show (R296). -/
def execHbmIssue (pc : Fin 512) (t : Nat) (arrivals : List HbmReq) (found : BurstFound) (s : State) : Out :=
  .next (
    let s := enqueue s pc.val (arrivals.map (fun r => { r with own := false }))
    match chooseReq s pc.val t with
    | none => s
    | some e =>
      let s := issueReq (addStoredErr s (hbmAddr pc.val e.2.off) found.errs) pc.val t e
      match found.eye with
      | some (drift, width, pin) => if e.2.data.isNone then recordEye s pc.val drift width pin else s
      | none => s)

/-- BULK_AGE_EXPIRE (R295): a BULK head that has waited past BULK_AGE is issued next. -/
def execBulkAgeExpire (pc : Fin 512) (t : Nat) (s : State) : Out :=
  .next (match (bulkQ s pc.val).filter (fun e => !rowHeld s pc.val t e.2) with
    | [] => s
    | b :: _ =>
      if !openSlot s pc.val t ∨ t - b.2.since ≤ bulkAge s pc.val then s
      else issueReq s pc.val t (firstToBurst s pc.val b))

/-- HBM_REFRESH (R287): a bank's refresh that has fallen due by the slot's time is issued and the next one falls due after the
interval; or refresh management refreshes the neighbours of a bank's activated rows, and its activations count anew. The on-die ECC's
reports are read into their counter. -/
def execHbmRefresh (r : RefreshSlot) (s : State) : Out :=
  .next (
    let note (s : State) : State :=
      { s with hbmOnDie := SMap.set d0 s.hbmOnDie r.pc.val (SMap.get d0 s.hbmOnDie r.pc.val + r.reports) }
    let k := 16 * r.pc.val + r.bank.val
    if r.manage then
      (if SMap.get d0 s.bankActs k = 0 then s
       else note { s with bankActs := SMap.set d0 s.bankActs k 0, openRow := SMap.set d0 s.openRow k 0 })
    else if r.t < SMap.get d0 s.refreshDue k then s
    else note (refreshBank s r.pc.val r.bank.val r.t))

/-- A training of a pseudo-channel, from time `t` for `hold`, in 10 ns: it starts once a row copy has ended, is counted, and its
record is kept (R296, R302). -/
def retrain (s : State) (pc t hold : Nat) : State :=
  let from_ := max t (SMap.get (fun _ => (0, 0)) s.rowHold pc).2
  let s := { s with hbmHold := SMap.set d0 s.hbmHold pc (max (SMap.get d0 s.hbmHold pc) (from_ + hold)) }
  let b := hbmPage pc
  mapStore (b.event (b.sat s (0x1C0 + 4 * hbmK pc)) 22) pc 0x7F06

/-- When a write training that falls due at `due` may begin (R296): on a refresh slot that comes within 5 µs of it, where one does. -/
def trainingFrom (s : State) (pc due : Nat) : Nat :=
  let slots := ((List.range 16).map (fun k => SMap.get d0 s.refreshDue (16 * pc + k))).filter (fun r =>
    r ≠ 0 && decide (due ≤ r + 500) && decide (r ≤ due + 500))
  match slots with
  | [] => due
  | r :: rs => rs.foldl min r

/-- HBM_WRITE_TRAINING (R296, R299): once WTRAIN_PERIOD has passed since the last, on a refresh slot near it where one comes, the
pseudo-channel is held from time `t` for `hold`, at most 2 µs, in 10 ns, and the eye is recorded. -/
def execHbmWriteTraining (pc : Fin 512) (t hold : Nat) (drift eye : Byte) (pin : Fin 36) (s : State) : Out :=
  .next (
    let period := 100000 * bits ((hbmPage pc.val).rd s 0x4C) 0 10
    let due := SMap.get d0 s.hbmTrained pc.val + period
    if period = 0 ∨ t < trainingFrom s pc.val due then s
    else recordEye (retrain { s with hbmTrained := SMap.set d0 s.hbmTrained pc.val (max t due) } pc.val t (min hold 200)) pc.val drift eye pin)

/-! ### Repair (R300–R302) -/

/-- HBM_REPAIR record kinds: 0 lane, 1 pending row, 2 remap, 3 hard repair done, 4 erasure, 5 unrepaired (Table 16.5). -/
def repairRecord (s : State) (pc kind v : Nat) : State :=
  appendRecord s 0x0004 (leBytes 4 (pc / 64) ++ leBytes 4 (pc % 64) ++ leBytes 4 kind ++ leBytes 4 v)

/-- Add to a field of PC_REPAIR[k]. -/
def putRepair (s : State) (pc lo len v : Nat) : State := (hbmPage pc).put s (0x80 + 4 * hbmK pc) lo len v

/-- Lane repair of a pin while a redundant lane is free: the record, then the lane, for whose training the pseudo-channel is held
5 µs (R300 step 1, R345). -/
def laneRepair (s : State) (pc pin : Nat) : State :=
  let s := repairRecord s pc 0 pin
  let s := putRepair s pc 16 2 (bits (pcRepair s pc) 16 2 + 1)
  let s := { s with pinFails := SMap.set (fun _ => []) s.pinFails (64 * pc + pin) [],
                    hbmHold := SMap.set d0 s.hbmHold pc (max (SMap.get d0 s.hbmHold pc) (100 * s.now + 500)) }
  (hbmPage pc).event ((hbmPage pc).sat s (0x1C0 + 4 * hbmK pc)) 19

/-- Erasure marking of a pin while fewer than 2 are marked (R300 step 4). -/
def markErasure (s : State) (pc pin : Nat) : State :=
  let s := repairRecord s pc 4 pin
  let s := if bits (pcRepair s pc) 0 6 = 0x3F then putRepair s pc 0 6 pin else putRepair s pc 8 6 pin
  reviewStack ((hbmPage pc).event (mapStore s pc 0x7F05) 20) (pc / 64)

/-- A free device spare row for a row: in its bank when one is free, otherwise in any bank (R300 step 3). Spare 4b + i
lies in bank b. -/
def freeSpare (s : State) (pc row : Nat) : Option Nat :=
  let isFree (n : Nat) : Bool := SMap.get d0 s.spareRows (64 * pc + n) = 0
  match (List.range 4).find? (fun i => isFree (4 * (row % 16) + i)) with
  | some i => some (4 * (row % 16) + i)
  | none => (List.range 64).find? isFree

/-- Every burst of a row read with correction and written to its spare (R300 step 3); an uncorrectable one stays as it is. -/
def copyRow (s : State) (pc row : Nat) : State :=
  let s := burstEnergy s pc 128
  if s.hbmErr.isEmpty ∧ (markedPins s pc).isEmpty then s
  else forEach (List.range 64) s (fun s i =>
    let a := hbmAddr pc (row * 2048 + 32 * i)
    let r := decodeBurst s 0 a
    match r.1 with
    | some bs => healBurst r.2 a bs
    | none => r.2)

/-- A spare serves a row from now on; a spare that served it before is spent (R300). -/
def serveRow (s : State) (pc row spare : Nat) : State :=
  let m := s.spareRows.map (fun e => if e.1 / 64 = pc ∧ e.2 = row + 1 then (e.1, 2 ^ 20) else e)
  putRepair { s with spareRows := SMap.set d0 m (64 * pc + spare) (row + 1) } pc 24 7 (bits (pcRepair s pc) 24 7 + 1)

/-- Free spare rows of a stack class, for CLASS_FREE[6]. -/
def takeRowSpare (s : State) : State := spr.wr s 0x58 (spr.rd s 0x58 - 1)

/-- Remap a row to a spare (R300 step 3): the record; the copy, which holds requests to the row for 200 ns; the map. The row counts
its corrected reads anew, and what the copy itself met does not make it fail. -/
def remapRow (s : State) (pc row spare : Nat) : State :=
  let s := copyRow (repairRecord s pc 2 (row * 2048)) pc row
  let s := { s with rowFails := SMap.set d0 s.rowFails (2 ^ 19 * pc + row) 0,
                    hbmFailing := s.hbmFailing.filter (fun e => !(decide (e = (pc, .row row false)) || decide (e = (pc, .row row true)))),
                    rowHold := SMap.set (fun _ => (0, 0)) s.rowHold pc (row, 100 * s.now + 20) }
  (hbmPage pc).event (mapStore (takeRowSpare (serveRow s pc row spare)) pc 0x7F04) 18

/-- Enter a row as pending hard repair, at most 1 per bank (R300 step 2). -/
def pendRow (s : State) (pc row : Nat) : State :=
  if SMap.get d0 s.pprRows (16 * pc + row % 16) ≠ 0 then s
  else
    let s := repairRecord s pc 1 (row * 2048)
    let s := { s with pprRows := SMap.set d0 s.pprRows (16 * pc + row % 16) (row + 1) }
    let s := putRepair s pc 18 5 (bits (pcRepair s pc) 18 5 + 1)
    setStackState s (pc / 64) (fun v => putBits v 16 11 (bits v 16 11 + 1))

/-- A unit is kept in service unrepaired (R301): a record of kind unrepaired, and PENDING_GRADE 3 while it is kept. -/
def keepUnit (s : State) (pc v : Nat) (u : HbmFail) : State :=
  let s := repairRecord s pc 5 v
  setPending (if s.hbmKept.contains (pc, u) then s else { s with hbmKept := s.hbmKept ++ [(pc, u)] }) 3

/-- A pseudo-channel goes over budget (R301): the bit, SPARE_EXHAUSTED, and what follows a predicted failure (the unit is kept) or a
failed one (the stack is lost). -/
def overBudget (s : State) (pc v : Nat) (u : HbmFail) : State :=
  let b := hbmPage pc
  let s := reviewStack (b.raise (putRepair s pc 31 1 1) 0x0103 0 (hbmK pc)) (pc / 64)
  match u with
  | .row _ true => loseStack s pc
  | _ => keepUnit s pc v u

/-- Repair one failing unit in the order of R300. -/
def repairUnit (s : State) (pc : Nat) : HbmFail → State
  | .pin n =>
    if bits (pcRepair s pc) 16 2 < 2 then laneRepair s pc n
    else if (markedPins s pc).length < 2 then markErasure s pc n
    else overBudget s pc n (.pin n)
  | .row r unc =>
    let s := pendRow s pc r
    match freeSpare s pc r with
    | some n => remapRow s pc r n
    | none => overBudget s pc (r * 2048) (.row r unc)

/-- The part of a pseudo-channel that a verdict names (R300): a pin below 64, else 64 + a row and bank. -/
def wornPart (n : Nat) : HbmFail := if n < 64 then .pin n else .row (n - 64) false

/-- Repair a part that the wear model has condemned (R300 steps 1 and 3): a lane, or a device spare row; a row without a spare is
kept unrepaired (Table 16.1). A pin without a lane stays as it is. Whether the part is settled. -/
def repairWorn (s : State) (pc : Nat) : HbmFail → Bool × State
  | .pin n => if bits (pcRepair s pc) 16 2 < 2 then (true, laneRepair s pc n) else (false, s)
  | .row r unc =>
    match freeSpare s pc r with
    | some n => (true, remapRow s pc r n)
    | none => (true, overBudget s pc (r * 2048) (.row r unc))

/-- HBM_REPAIR (R300, R301): the oldest failing unit of the pseudo-channel is repaired. -/
def execHbmRepair (pc : Fin 512) (s : State) : Out :=
  .next (match s.hbmFailing.find? (fun e => e.1 = pc.val) with
    | none => s
    | some e =>
      if bits ((hbmPage pc.val).rd s 0x50) 0 2 = 2 then s
      else repairUnit { s with hbmFailing := s.hbmFailing.erase e } pc.val e.2)

/-- A CMD beyond a budget (R302). -/
def cmdDenied (s : State) (b : Blk) : State := b.raise s 0x0103 0 0

/-- The commands of HBM.CMD (Table 13.2): 1 LANE_REPAIR, 2 REMAP_ROW, 3 MARK_ERASURE, 4 RETRAIN. DESIGN CHOICE (log entry 237): RETRAIN
holds its pseudo-channel for the whole 2 µs that R296 allows a training. -/
def hbmCmd (s : State) (i : Fin 32) (v : Nat) : State :=
  let b := Blk.hbm i
  let pc := 16 * i.val + bits v 0 4
  let pin := bits v 8 6
  if bits (b.rd s 0x50) 0 2 = 2 then s
  else
    match bits v 4 4 with
    | 1 => if 36 ≤ pin then s else if bits (pcRepair s pc) 16 2 < 2 then laneRepair s pc pin else cmdDenied s b
    | 2 =>
      let row := rowBank (b.rd s 0x60)
      match freeSpare s pc row with
      | some n => remapRow s pc row n
      | none => cmdDenied s b
    | 3 =>
      if 36 ≤ pin ∨ (markedPins s pc).contains pin then s
      else if (markedPins s pc).length < 2 then markErasure s pc pin else cmdDenied s b
    | 4 => retrain s pc (100 * s.now) 200
    | _ => s

/-! ### The traffic generators (R297, R298) -/

/-- The first position of a mode: START in BRINGUP, row 0x7FC0 in IDLE_FILL, PATROL_POS in PATROL; the pseudo-channel is
the lower one selected. -/
def tgcStart (s : State) (c mode : Nat) : Nat :=
  let b := tgcPage c
  let p := match bits mode 0 2 with
    | 1 => bits (b.rd s 0x50) 0 30 / 32 * 32
    | 2 => 0x7FC0 * 2 ^ 15
    | _ => bits (b.rd s 0x80) 0 30
  2 * p + (if bits mode 2 2 = 2 then 1 else 0)

/-- A segment of the stack is allotted to a partition other than 0x000. -/
def stackAllotted (s : State) (stack : Nat) : Bool := (List.range 256).any (fun n => segOwner s (256 * stack + n) ≠ 0)

/-- A write of TGC.MODE (R297): BRINGUP is denied while a segment of the stack is allotted to a partition. -/
def tgcModeWrite (s : State) (c v : Nat) : State :=
  let b := tgcPage c
  if bits v 0 2 = 1 ∧ stackAllotted s (c / 32) then b.countErr (b.event s 18)
  else
    let s := b.wr s 0x40 (v % 16)
    if bits v 0 2 = 0 then s
    else { s with tgcPos := SMap.set d0 s.tgcPos c (tgcStart s c v), tgcPrbs := SMap.set d0 s.tgcPrbs c (b.rd s 0x48 % 2 ^ 31) }

/-- The next position: the other pseudo-channel, or the next burst; past `top` it starts again at `first` (R298). The
flag says that a pass ended. -/
def tgcNext (sel pos first top : Nat) : Nat × Bool :=
  let p := pos / 2
  if sel = 0 ∧ pos % 2 = 0 then (pos + 1, false)
  else
    let base := if sel = 2 then 1 else 0
    if top < p + 32 then (2 * first + base, true) else (2 * (p + 32) + base, false)

/-- A step of the generator of x^31 + x^28 + 1 (R297): its next register; the bit it gives enters at the bottom. -/
def prbsNext (x : Nat) : Nat := (2 * x + (b2n (bit x 30) ^^^ b2n (bit x 27))) % 2 ^ 31

/-- `n` bits of the sequence, the first one lowest, and the register after them. -/
def prbsBits : Nat → Nat → Nat × Nat
  | 0, x => (0, x)
  | n + 1, x => let y := prbsNext x; let r := prbsBits n y; (y % 2 + 2 * r.1, r.2)

/-- Walking ones over the 32 data pins (R297): one pin a beat, the next pin in the next beat. -/
def walkingOnes (pcoff : Nat) : List Byte :=
  (List.range 32).map (fun j =>
    let pin := (8 * (pcoff / 32) + j / 4) % 32
    if pin / 8 = j % 4 then BitVec.ofNat 8 (2 ^ (pin % 8)) else 0)

/-- The data a pattern gives for the burst at pcoff (R297), and the PRBS31 register after it. DESIGN CHOICE (log entry 193): where in
its sequence each burst stands. PRBS31 runs on from burst to burst from SEED[30:0], set at a write of MODE and at the end of a pass;
the walking one stands at pin (pcoff ÷ 4 + beat) mod 32. -/
def tgcData (s : State) (b : Blk) (prbs pcoff : Nat) : List Byte × Nat :=
  let rep (k v : Nat) : List Byte := (List.range (32 / k)).flatMap (fun _ => leBytes k v)
  match bits (b.rd s 0x44) 0 2 with
  | 0 => let r := prbsBits 256 prbs; (leBytes 32 r.1, r.2)
  | 1 => (walkingOnes pcoff, prbs)
  | 2 => (rep 4 pcoff, prbs)
  | _ => (rep 8 (b.rd s 0x48), prbs)

/-- The pins that differ between the stored burst and the expected data (R297). -/
def differing (s : State) (a : Nat) (want : List Byte) : Nat :=
  let err := SMap.get (fun _ => []) s.hbmErr (a / 32)
  let have_ := encodeBurst (readBytes s a 32)
  let exp := encodeBurst want
  (List.range 36).foldl (fun m i =>
    let e := ((err.filter (fun p => p.1 = i)).map (·.2)).headD 0
    if have_.getD i 0 ^^^ e = exp.getD i 0 then m else m + 2 ^ i) 0

/-- An open slot with both queues empty: an IDLE slot (R295). -/
def idleSlot (s : State) (pc t : Nat) : Bool := openSlot s pc t && (latQ s pc).isEmpty && (bulkQ s pc).isEmpty

/-- TGC_TEST_ACCESS (R297): in BRINGUP, or in an idle slot in IDLE_FILL, the burst at the position is written, read and compared as
PATTERN says. -/
def execTgcTestAccess (c : Fin 256) (x : TestSlot) (s : State) : Out :=
  .next (
    let b := Blk.tgc c
    let mode := bits (b.rd s 0x40) 0 2
    let sel := bits (b.rd s 0x40) 2 2
    let pos := SMap.get d0 s.tgcPos c.val
    let pc := 2 * c.val + pos % 2
    let pcoff := pos / 2
    if (mode ≠ 1 ∧ mode ≠ 2) ∨ !openSlot s pc x.t ∨ (mode = 2 ∧ !idleSlot s pc x.t) then s
    else
      let a := hbmAddr pc (servedOff s pc pcoff)
      let data := tgcData s b (SMap.get d0 s.tgcPrbs c.val) pcoff
      let want := data.1
      let how := bits (b.rd s 0x44) 4 2
      let s := if mode = 1 then takeSlot s false a else s
      let s := if how = 1 then s else (writeBurst (burstEnergy s pc 1) 0 a want).2
      let s := addStoredErr s a x.errs
      let nx := tgcNext sel pos (tgcStart s c.val (mode + 4 * sel) / 2) (if mode = 1 then bits (b.rd s 0x58) 0 30 else 0x3FFFFFE0)
      let s := { s with tgcPos := SMap.set d0 s.tgcPos c.val nx.1,
                        tgcPrbs := SMap.set d0 s.tgcPrbs c.val (if nx.2 then b.rd s 0x48 % 2 ^ 31 else data.2) }
      if how = 2 then s
      else
        let s := b.add (burstEnergy s pc 1) 0x60 1
        let d := differing s a want
        if d = 0 then s
        else
          let s := if b.rd s 0x68 = 0 then b.wr (b.wr s 0x70 (pcoff + 2 ^ 30 * (pos % 2))) 0x78 d else s
          b.event (b.sat s 0x68) 16)

/-- HBM_PATROL_READ (R298, R299): in an idle slot of a pseudo-channel under PATROL, the burst at the patrol's position is decoded and a
correction written back. -/
def execHbmPatrolRead (pc : Fin 512) (x : TestSlot) (s : State) : Out :=
  .next (
    let c := pc.val / 2
    let b := tgcPage c
    let pos := SMap.get d0 s.tgcPos c
    if bits (b.rd s 0x40) 0 2 ≠ 3 ∨ bits ((hbmPage pc.val).rd s 0x48) 0 8 = 0 ∨ pos % 2 ≠ pc.val % 2 ∨ !idleSlot s pc.val x.t then s
    else
      let a := hbmAddr pc.val (servedOff s pc.val (pos / 2))
      let s := (readBurst (burstEnergy (addStoredErr s a x.errs) pc.val 1) 0 a).2
      let nx := tgcNext (bits (b.rd s 0x40) 2 2) pos 0 0x3FFFFFE0
      let s := b.wr (b.add { s with tgcPos := SMap.set d0 s.tgcPos c nx.1 } 0x60 1) 0x80 (nx.1 / 2)
      if nx.2 then
        b.event (b.sat { s with rowFails := SMap.clear s.rowFails (2 ^ 20 * c) (2 ^ 20 * (c + 1)) } 0x88) 17
      else s)

end Sys2Proof.Machine
end

