-- ==== Sys2Proof/Machine/Verify.lean ====
section
/-! DEFINITION. Sys2Proof/Machine/Verify.lean: the loader's checks that are run at a load and again after a republish (R61): 2, 3
and 6 to 13 of Table 3.12; and unloading. -/
namespace Sys2Proof.Machine

/-- The partition feature page (R386): what partition `p` has of the counts that are allotted, else the device page. -/
def partFeature (s : State) (p i : Nat) : Nat :=
  let dev := Blk.svc.rd s (0x1040 + 4 * i)
  if p = 0 then dev
  else
    let own := allTiles.filter (fun t => t.val < logicalTiles s && tileOwner s t.val = p)
    let west := (own.filter (fun t => t.val < s.west.length)).length
    let kinds := [(0, 4), (4, 4), (8, 2), (10, 2), (12, 4), (16, 4), (20, 1), (21, 1)]
    let count (k : Nat × Nat) : Nat :=
      (allEngines.filter (fun e => k.1 ≤ e.2.val && e.2.val < k.1 + k.2 && engOwner s (22 * e.1.val + e.2.val) = p)).length
    match i with
    | 3 => own.length + 256 * west + 65536 * (own.length - west)
    | 10 =>
      let c := kinds.map count
      (List.range 6).foldl (fun v j => v + c.getD j 0 % 16 * 16 ^ j) 0 + c.getD 6 0 * 2 ^ 24 + c.getD 7 0 * 2 ^ 26
    | 7 =>
      let segs := (List.range 2048).filter (fun n => segOwner s n = p)
      ((List.range 8).filter (fun k => segs.any (fun n => n / 256 = k))).length + segs.length / 2 * 2 ^ 16
    | _ => dev

/-- A check's verdict: `none` passes; else the code, and the index of the table, set or page at fault where there is one. -/
abbrev Verdict := Option (Nat × Option Nat)

/-- A check that fails with `code` when `bad` finds an index. -/
def failAt (code : Nat) (bad : Option Nat) : Verdict := bad.map (fun i => (code, some i))

/-- A check that fails with `code` and names nothing. -/
def failIf (code : Nat) (bad : Bool) : Verdict := if bad then some (code, none) else none

/-! ### Checks 2 and 3 -/

/-- Check 2, FEATURE: a MIN field exceeds the partition feature page. -/
def checkFeature (s : State) (im : Image) : Verdict :=
  let eng := partFeature s im.part 10
  let fields : List (Nat × Nat) := [(0, 4), (4, 4), (8, 4), (12, 4), (16, 4), (20, 4), (24, 2), (26, 2)]
  failIf 0x0102 (bits (partFeature s im.part 3) 0 8 < im.minTiles || bits (partFeature s im.part 4) 8 6 < im.minPorts ||
    fields.any (fun f => bits eng f.1 f.2 < bits im.minEng f.1 f.2) || bits (partFeature s im.part 7) 16 16 < im.minHbm)

/-- The tiles of a tile set. -/
def setTiles (e : Nat × Nat) : List Nat := (List.range e.2).map (fun i => e.1 + i)

/-- Logical tile `t` is the partition's. -/
def ownsTile (s : State) (p t : Nat) : Bool := t < logicalTiles s && tileOwner s t = p

/-- The partition owns what a binding record names. -/
def ownsUnit (s : State) (p : Nat) : LoadUnit → Bool
  | .tile t => ownsTile s p t.val
  | .engine i => engOwner s i.val = p

/-- Check 3, TILE_SET: sets beyond FEAT_LIMITS, a tile of a set not owned, sets that overlap (R4); a binding's unit not owned. -/
def checkSets (s : State) (im : Image) : Verdict :=
  let lim := bits (partFeature s im.part 11) 0 5
  let bad (i : Nat) : Bool :=
    let e := im.sets.getD i (0, 0)
    lim ≤ i || (setTiles e).any (fun t => !ownsTile s im.part t) ||
      (im.sets.take i).any (fun f => (setTiles f).any (fun t => (setTiles e).contains t))
  (failAt 0x0103 ((List.range im.sets.length).find? bad)).or
    (failIf 0x0103 (im.binds.any (fun b => !ownsUnit s im.part b.unit)))

/-! ### Checks 6 and 7 -/

/-- Every byte of a span of local offsets is allotted to partition `p`. -/
def allotted (s : State) (p o n : Nat) : Bool :=
  match placeOf o with
  | .hbm a => o + n ≤ 0x8000000000 && (List.range ((o + n - 1) / 0x10000000 - a + 1)).all (fun i => segOwner s (a + i) = p)
  | .nm t i => i + n ≤ 0x700000 && ownsTile s p t
  | _ => false

/-- The address of a BSEL 0 operand at an iteration (R47). -/
def staticAddr (o : Operand) (i0 i1 i2 : Nat) : Nat := unsigned 64 ((o.base : Nat) + i0 * o.stride0 + i1 * o.stride1 + i2 * o.stride2)

/-- How the addresses of an array's step go (R47, R85): by the level-0 index; by the entries of a block list, KB and NB; or not known
before the run. -/
inductive Walk where
  | plain
  | blocks (l : List (Nat × Nat))
  | unknown
  deriving DecidableEq, Repr

/-- Whether `f` holds of a BSEL 0 operand's address at every iteration of a step at maximum bounds; with `pp` its level-0 index is
taken modulo 2 (PINGPONG, R74, R85). Of addresses that are not known nothing is asked. -/
def everyAddr (w : Walk) (st : Step) (o : Operand) (pp : Bool) (f : Nat → Bool) : Bool :=
  let plain : Bool := (List.range st.l2).all (fun i2 => (List.range st.l1).all (fun i1 =>
    (List.range (if pp then min 2 st.l0 else st.l0)).all (fun i0 => f (staticAddr o i0 i1 i2))))
  match w with
  | .plain => plain
  | .blocks l => (List.range st.l1).all (fun i1 => l.zipIdx.all (fun e => f (staticAddr o (if pp then e.2 % 2 else e.1.1) i1 e.1.2)))
  | .unknown => if o.stride2 = 0 ∧ (pp = true ∨ o.stride0 = 0) then plain else true

/-- A PASS with PINGPONG (Table 4.4). -/
def pingpong (t : Table) (st : Step) : Bool := t.engine = 0x12 && st.op = 0x12 && bit st.mode 5

/-- An operand in use whose address is fixed before the run. -/
def isStatic (o : Operand) : Bool := o.bsel = 0 && o.kind ≠ 0

/-! ### Records that are static (R86, R130) -/

/-- Where the loader puts an image: its tables from the first segment's start, then its code, then a block for each binding, then
the schedule lists, each part 64-byte aligned. -/
def up64 (n : Nat) : Nat := (n + 63) / 64 * 64
def tablesBytes (im : Image) : Nat := (im.tables.map (fun t => 128 + 128 * t.steps.length)).foldl (· + ·) 0
def codeAt (im : Image) : Nat := im.first * 0x10000000 + up64 (tablesBytes im)

/-- Bytes fixed before the run: those of the image's own code where it will stand, and those of a CODE segment. -/
def staticBytes (s : State) (im : Image) (o n : Nat) : Option (List Byte) :=
  if codeAt im ≤ o ∧ o + n ≤ codeAt im + im.codeBytes ∧ !s.images.contains im then some (readBytes s (im.codeSrc + (o - codeAt im)) n)
  else if isCode s o im.part && isCode s (o + (n - 1)) im.part then some (readBytes s o n)
  else none

/-- The record in force at step `i` when the last CONFIG before it in its table is static. -/
def staticRec (s : State) (im : Image) (t : Table) (i len : Nat) : Option (List Nat) :=
  match ((List.range i).reverse.find? (fun j => (t.steps.getD j {}).op = 0x10)) with
  | none => none
  | some j =>
    let c := t.steps.getD j {}
    if isStatic c.a && c.countLevel = 0 && c.l0 * c.l1 * c.l2 = 1 && addrOk c.a.base && devOf c.a.base = selfId s then
      (staticBytes s im (offOf c.a.base) len).map quads
    else none

/-- How the addresses of step `i` of a table go: a LOAD or PASS under a BLOCKED record walks the block list at BLIST (R85). -/
def walkOf (s : State) (im : Image) (t : Table) (i : Nat) : Walk :=
  let st := t.steps.getD i {}
  if t.engine ≠ 0x12 ∨ !(st.op = 0x11 || st.op = 0x12) then .plain
  else match staticRec s im t i 32 with
    | none => .unknown
    | some r =>
      if fld r 0 18 1 = 0 then .plain
      else if st.countLevel = 1 then .unknown
      else match staticBytes s im (fld r 2 0 41) (8 * st.l0) with
        | some bs => .blocks ((List.range st.l0).map (fun k => (bits (qw bs k) 0 16, bits (qw bs k) 16 16)))
        | none => .unknown

/-- An operand stays in the partition's allocation: an address on another device is checked at its destination. -/
def operandIn (s : State) (p : Nat) (w : Walk) (st : Step) (o : Operand) (pp : Bool) : Bool :=
  !isStatic o || o.length = 0 ||
    everyAddr w st o pp (fun a => addrOk a && (devOf a ≠ selfId s || allotted s p (offOf a) o.length))

/-- Check 6, ADDR_BOUNDS. -/
def checkBounds (s : State) (im : Image) : Verdict :=
  failAt 0x0106 (im.tables.findIdx? (fun t => (List.range t.steps.length).any (fun i =>
    let st := t.steps.getD i {}
    let fits := operandIn s im.part (walkOf s im t i) st
    !(fits st.a false && fits st.b false && fits st.d (pingpong t st)))))

/-- Check 7, PRIVILEGE: a listed page is not PART for the partition. -/
def checkPages (s : State) (im : Image) : Verdict :=
  let part (a : Nat) : Bool :=
    match placeOf (offOf a) with
    | .reg o =>
      match blkAt o with
      | some (b, pg) => b.privNow s pg = .part && b.owner s = im.part
      | none => false
    | _ => false
  failAt 0x0107 (im.pages.findIdx? (fun a => !part a))

/-! ### Checks 8 to 10: the tokens of a schedule (R61) -/

/-- What fires at once: the tokens it waits for, counter and number; the tokens it emits, destination, counter and number; and how
often it fires. -/
structure Firing where
  wait : Option (Nat × Nat) := none
  emits : List (Nat × Nat × Nat) := []
  times : Nat := 1
  deriving DecidableEq, Repr

/-- A token through link `m` of a table, `n` times. -/
def linkEmit (t : Table) (m n : Nat) : List (Nat × Nat × Nat) :=
  if n = 0 then [] else [((t.links.getD m {}).dest, (t.links.getD m {}).counter, n)]

/-- A step that takes its tokens at every iteration: RETURN (R160), CONTRIB (R252) and UPDATE (R273). -/
def perIteration (t : Table) (st : Step) : Bool :=
  ((t.engine = 0x24 || t.engine = 0x25) && st.op = 0x11) || (t.engine = 0x23 && st.op = 0x13)

/-- The firings of a step at maximum bounds: a step-end token once, whatever the bound. -/
def stepFirings (t : Table) (st : Step) : List Firing :=
  let n := st.l0 * st.l1 * st.l2
  let w := if st.waitEn then some (st.waitCtr, st.waitCount) else none
  let sent (k : Nat) : List (Nat × Nat × Nat) := if st.emitEn then linkEmit t st.emitLink k else []
  let all := match st.emitPer with
    | 0 => 1 | 1 => n | 2 => if n = 0 then 0 else st.l1 * st.l2 | _ => if n = 0 then 0 else st.l2
  if perIteration t st && 1 < n then
    if st.emitPer = 1 then [{ wait := w, emits := sent 1, times := n }] else [{ wait := w, times := n }, { emits := sent all }]
  else [{ wait := w, emits := sent all }]

/-- The firings of a table: its steps, then its completion tokens. -/
def tableFirings (t : Table) : List Firing :=
  t.steps.flatMap (stepFirings t) ++
    [{ emits := ((List.range 16).filter (fun m => bit t.completionLinks m)).flatMap (fun m => linkEmit t m 1) }]

/-- The BLK_IDENT instance of sequencer `j` of a binding's unit (R32). -/
def unitInst (j : Nat) : LoadUnit → Nat
  | .tile t => 8 * t.val + j
  | .engine i => 0x8000 + 256 * (i.val / 22) + i.val % 22

/-- The tables of schedule `k` of every bound sequencer. -/
def schedTables (im : Image) (k : Nat) : List (Nat × List Table) :=
  im.binds.flatMap (fun b => (List.range b.scheds.length).map (fun j =>
    (unitInst j b.unit, ((b.scheds.getD j []).getD k []).map (fun i => im.tables.getD i {}))))

/-- The tokens of a schedule as it is run: what each sequencer has still to fire, and the token counters, keyed by
32 × instance + counter. -/
structure TokenRun where
  todo : List (Nat × List Firing)
  ctrs : SMap Nat
  deriving DecidableEq, Repr

def TokenRun.start (im : Image) (k : Nat) : TokenRun :=
  { todo := (schedTables im k).map (fun e => (e.1, e.2.flatMap tableFirings)), ctrs := [] }

/-- A sequencer's next firing has its tokens; with `free` it waits for none. -/
def TokenRun.ready (m : TokenRun) (free : Bool) (e : Nat × List Firing) : Bool :=
  match e.2 with
  | [] => false
  | f :: _ =>
    match f.wait with
    | none => true
    | some (c, n) => !free && n ≤ SMap.get d0 m.ctrs (32 * e.1 + c)

/-- The sequencer that fires next: with `producers`, one that waits for nothing goes first (PRODUCERS_FIRST). -/
def TokenRun.pick (m : TokenRun) (producers : Bool) : Option Nat :=
  (if producers then m.todo.findIdx? (m.ready true) else none).or (m.todo.findIdx? (m.ready false))

/-- Sequencer `i` fires once. -/
def TokenRun.fire (m : TokenRun) (i : Nat) : TokenRun :=
  match m.todo[i]? with
  | some (q, f :: rest) =>
    let c := match f.wait with
      | some (c, n) => SMap.set d0 m.ctrs (32 * q + c) (SMap.get d0 m.ctrs (32 * q + c) - n)
      | none => m.ctrs
    { todo := m.todo.set i (q, if 1 < f.times then { f with times := f.times - 1 } :: rest else rest),
      ctrs := f.emits.foldl (fun c e => SMap.set d0 c (32 * e.1 + e.2.1) (SMap.get d0 c (32 * e.1 + e.2.1) + e.2.2)) c }
  | _ => m

/-- Fire until nothing is ready or `bad` holds. -/
def TokenRun.run (producers : Bool) (bad : TokenRun → Bool) : Nat → TokenRun → TokenRun
  | 0, m => m
  | n + 1, m =>
    match m.pick producers with
    | none => m
    | some i => if bad (m.fire i) then m.fire i else TokenRun.run producers bad n (m.fire i)

/-- How often a run can fire. -/
def TokenRun.size (m : TokenRun) : Nat := (m.todo.flatMap (fun e => e.2.map (fun f => max 1 f.times))).foldl (· + ·) 0

/-- A sequencer's queue holds more than 64 entries. -/
def TokenRun.tooDeep (m : TokenRun) : Bool :=
  m.ctrs.any (fun e => 64 < ((m.ctrs.filter (fun f => f.1 / 32 = e.1 / 32)).map (·.2)).foldl (· + ·) 0)

/-- Check 8, DEADLOCK: a schedule cannot complete. -/
def checkDeadlock (im : Image) : Verdict :=
  failIf 0x0108 ((List.range 4).any (fun k =>
    let m := TokenRun.start im k
    (TokenRun.run false (fun _ => false) m.size m).todo.any (fun e => e.2 ≠ [])))

/-- A schedule run with its producers first. -/
def depthRun (im : Image) (k : Nat) : TokenRun := TokenRun.run true TokenRun.tooDeep (TokenRun.start im k).size (TokenRun.start im k)

/-- Check 9, QUEUE_DEPTH; check 10, TOKEN_BALANCE. -/
def checkDepth (im : Image) : Verdict := failIf 0x0109 ((List.range 4).any (fun k => (depthRun im k).tooDeep))
def checkBalance (im : Image) : Verdict := failIf 0x010A ((List.range 4).any (fun k => (depthRun im k).ctrs ≠ []))

/-! ### Checks 11 to 13 -/

/-- The planned cycles and energy of a table (R61). -/
def planOf (f : Step → Nat) (fetch : Nat) (t : Table) : Nat :=
  (t.steps.map (fun st => f st * (st.l0 * st.l1 * st.l2) + (if st.countLevel = 0 then 0 else fetch))).foldl (· + ·) 0 +
    t.replayAllow * ((t.steps.filter (·.replayable)).map f).foldl max 0
def cyclePlan (t : Table) : Nat := planOf (·.cycles) 32 t
def energyPlan (t : Table) : Nat := planOf (·.energy) 0 t

/-- Check 11, CYCLE_PLAN. -/
def checkCycles (im : Image) : Verdict := failAt 0x010B (im.tables.findIdx? (fun t => t.cyclesMax ≠ cyclePlan t))

/-- Check 12, ENERGY_PLAN: the sum, the partition's CREDIT_MAX in µJ and, for each schedule, the planned power at the highest clock
against the 100 ms field of its PLIMIT in W, both at MAX_SCALE (R320). -/
def checkEnergy (s : State) (im : Image) : Verdict :=
  let ms := bits (ktl.rd s 0x1070) 0 16
  let slot := slotOfPart s im.part
  let credit := match slot with | some k => ktl.rd s (0x20C0 + 4 * k) | none => 0
  let limit := match slot with | some k => scopeLimit s (21 + k) 2 | none => 0
  let mhz := bits (partFeature s im.part 9) 0 12
  let beyond (k : Nat) : Bool :=
    let q := schedTables im k
    let e := (q.flatMap (fun e => e.2.map (·.energyMax))).foldl (· + ·) 0
    let c := (q.map (fun e => (e.2.map (·.cyclesMax)).foldl (· + ·) 0)).foldl max 0
    limit * c * 2 ^ 16 * 4096 < e * mhz * ms
  (failAt 0x010C (im.tables.findIdx? (fun t =>
    t.energyMax ≠ energyPlan t || (credit ≠ 0 && credit * 2 ^ 16 * 4096 < t.energyMax * ms)))).or
    (failIf 0x010C (limit ≠ 0 && (List.range 4).any beyond))

/-- Where a binding's block, and a schedule's list, of an image lie. -/
def blockAt (im : Image) (i : Nat) : Nat := codeAt im + up64 im.codeBytes + 0x140 * i
def listAt (im : Image) (i j k : Nat) : Nat := blockAt im im.binds.length + 8192 * i + 2048 * j + 512 * k

/-- The segments offered. -/
def offered (im : Image) : List Nat := (List.range im.count).map (fun i => im.first + i)

/-- Check 13, CODE_SPACE: the segments offered are too few or not owned. -/
def checkSpace (s : State) (im : Image) : Verdict :=
  failIf 0x010D ((im.first + im.count) * 0x10000000 < listAt im im.binds.length 0 0 ||
    (offered im).any (fun n => 2048 ≤ n || segOwner s n ≠ im.part))

/-- Checks 6 to 13, in order. -/
def checksFrom6 (s : State) (im : Image) : Verdict :=
  (checkBounds s im).or ((checkPages s im).or ((checkDeadlock im).or ((checkDepth im).or ((checkBalance im).or
    ((checkCycles im).or ((checkEnergy s im).or (checkSpace s im)))))))

/-! ### Results and unloading -/

/-- Write a result record (R60): code, index, and the detail, which the spec leaves to each check. A record that is not memory of
this device is not written. -/
def writeResult (s : State) (addr code : Nat) (idx : Option Nat) : State :=
  let i := match idx with
    | some i => (i, s)
    | none => fresh s
  let d := fresh i.2
  if addrOk addr && devOf addr = selfId d.2 && spanStatus d.2 (offOf addr) 16 0 true = stOk then
    writeBytes d.2 (offOf addr) (leBytes 8 (code % 2 ^ 16 + i.1 % 2 ^ 32 * 2 ^ 32) ++ leBytes 8 d.1)
  else d.2

/-- Set or clear the CODE_MAP bits of segments (Table 3.2). -/
def markCode (s : State) (segs : List Nat) (v : Nat) : State :=
  forEach segs s (fun s n => Blk.svc.put s (0x3040 + 4 * (n / 32)) (n % 32) 1 v)

/-- Unload an image (R61): its CODE_MAP bits are cleared. -/
def unloadImage (s : State) (im : Image) : State := markCode { s with images := s.images.filter (fun x => x ≠ im) } (offered im) 0

/-- After a republish (R38, R61): checks 2, 3 and 6 to 13 run again on every loaded image; one that fails is unloaded and its code
written to the result record of its load. -/
def reverify (s : State) : State :=
  forEach s.images s (fun s im =>
    match (checkFeature s im).or ((checkSets s im).or (checksFrom6 s im)) with
    | none => s
    | some (code, idx) => writeResult (Blk.svc.countErr (unloadImage s im)) im.result code idx)

end Sys2Proof.Machine
end

