-- ==== Sys2Proof/Machine/Spares.lean ====
section
/-! DEFINITION. Sys2Proof/Machine/Spares.lean: spare classes, wear verdicts, bringing spares in, failures, and what a
republish changes (chapter 16, R27, R38). -/
namespace Sys2Proof.Machine

/-- The state of a unit (Table 16.7): 0 ACTIVE, 1 SPARE, 2 CONDEMNED, 3 REMOVED, 4 FAILED. -/
def unitState (s : State) (cls u : Nat) : Nat := SMap.get d0 s.units (unitKey cls u)
def setUnit (s : State) (cls u st : Nat) : State := { s with units := SMap.set d0 s.units (unitKey cls u) st }
def setUnitSpare (s : State) (cls u sp : Nat) : State := { s with unitSpare := SMap.set d0 s.unitSpare (unitKey cls u) (sp + 1) }

/-- Whether a class has a unit with this index (R356). CCACHE units 16 and 17 are its spare banks, SEQ units 4 and 5 a
tile's spare sequencers. -/
def unitExists (cls u : Nat) : Bool :=
  match cls with
  | 0 => u < 160
  | 1 => u < 8960
  | 2 => u < 16
  | 3 => u < 32
  | 4 => u / 256 < 160 && u % 256 < 6
  | 5 => u < 4
  | 6 => u < 512
  | 7 => u < 18
  | _ => false

/-- CLASS_FREE[c]. -/
def classFree (s : State) (cls : Nat) : Nat := spr.rd s (0x40 + 4 * cls)
def takeFree (s : State) (cls : Nat) : State := spr.wr s (0x40 + 4 * cls) (classFree s cls - 1)

/-- Show how many units await replacement or removal (SPR.CONDEMNED). -/
def showCondemned (s : State) : State := spr.wr s 0x74 (min 0xFFFF s.waiting.length)

/-- No partition in service that has a segment of a stack is short of its drain point (R300). -/
def stackIdle (s : State) (stack : Nat) : Bool :=
  (List.range 256).all (fun n =>
    let p := segOwner s (256 * stack + n)
    p = 0 || (slotOfPart s p).isNone || partAtDrain s p)

/-- DV_MAX in mV, at least 1. -/
def dvMax (s : State) : Nat := max 1 (bits (spr.rd s 0x60) 8 8)

/-- WEAR of a drift in half mV (R344). -/
def wearValue (s : State) (drift : Nat) : Nat := min 255 (256 * drift / (2 * dvMax s))

/-- FORECAST of a drift in half mV after weighted hours in 1/16 h (R344), to the nearest hour. DEDUCED (log entry 231): the spec's
example reads 15 × 20,000 ÷ 45 as 6,667. -/
def forecastValue (s : State) (drift hours16 : Nat) : Nat :=
  if drift = 0 then 0xFFFFFFFF else ((2 * dvMax s - drift) * hours16 + 8 * drift) / (16 * drift)

/-- A physical tile's drift Δv in half mV (R344), 0 where it is none: its district's voltage over the boot value at the frequency, less
2.5 mV for each step by which the tile's slack exceeds the district's smallest. DESIGN CHOICE (log entry 93): 0 for a tile whose
replicas have reported no slack. -/
def tileDrift (s : State) (u : Nat) : Nat :=
  let n := districtOfPhys u
  match SMap.get d0 s.slack u with
  | 0 => 0
  | v + 1 => SMap.get d0 s.halfMv n - (2 * bootMv s n (districtMhz s n) + 5 * (v - smallestSlack s n))

/-- WEAR and FORECAST of a unit; classes condemned by events read 0 and none (R344, R356). -/
def unitWear (s : State) (cls u : Nat) : Nat := if cls = 0 then wearValue s (tileDrift s u) else 0
def unitForecast (s : State) (cls u : Nat) : Nat :=
  if cls = 0 then forecastValue s (tileDrift s u) (weightedHours s (districtOfPhys u)) else 0xFFFFFFFF

/-- The logical tile a physical tile stands behind. -/
def logicalOf (s : State) (p : Nat) : Option Nat := (s.west ++ s.east).idxOf? p

/-- The sequencer of a tile, 0–3, that SEQ unit `u` serves: its own, or the one whose spare it is, a spare's spare included. -/
def seqServed (s : State) (u : Nat) : Nat :=
  let before (v : Nat) : Nat :=
    (((List.range 6).map (fun i => u / 256 * 256 + i)).find? (fun w => SMap.get d0 s.unitSpare (unitKey 4 w) = v + 1)).getD v
  before (before u) % 8

/-- The logical name a unit serves, for its SPARE record: its logical tile, port or sequencer; else its index. -/
def unitName (s : State) (cls u : Nat) : Nat :=
  match cls with
  | 0 => (logicalOf s u).getD 0xFFFFFFFF
  | 4 => match logicalOf s (u / 256) with
    | some t => 8 * t + seqServed s u
    | none => 0xFFFFFFFF
  | _ => u

/-- The SPARE record (Table 16.6), written before the change (R345). -/
def spareRecord (s : State) (cls reason u : Nat) (sp : Option Nat) (free : Nat) : State :=
  appendRecord s 0x0003 (leBytes 8 (cls + 16 * (reason % 16) + 256 * unitWear s cls u + 2 ^ 32 * unitForecast s cls u) ++
    leBytes 4 u ++ leBytes 4 (sp.getD 0xFFFFFFFF) ++ leBytes 4 (unitName s cls u) ++ leBytes 4 free ++ leBytes 8 0)

/-! ### Tiles (R343, R346, R352) -/

/-- The spare tile that serves physical tile `u` (R343): the nearest row of its die, then the lower row, then the lower
column. -/
def pickTile (s : State) (u : Nat) (used : List Nat) : Option Nat :=
  let free := (List.range 80).map (fun i => u / 80 * 80 + i) |>.filter (fun p => unitState s 0 p = 1 && !used.contains p)
  let dist (p : Nat) : Nat := let a := p % 80 / 8; let b := u % 80 / 8; (max a b - min a b) * 256 + a * 8 + p % 8
  free.foldl (fun m p => match m with
    | none => some p
    | some b => if dist p < dist b then some p else some b) none

/-- Insert by WEAR falling, then unit index (R352). -/
def insertUnit (s : State) (u : Nat) : List Nat → List Nat
  | [] => [u]
  | v :: l => if unitWear s 0 v < unitWear s 0 u ∨ (unitWear s 0 v = unitWear s 0 u ∧ u < v) then u :: v :: l else v :: insertUnit s u l

/-- The tiles that wait for a spare, in the order of R352. -/
def tileQueue (s : State) : List Nat :=
  ((s.waiting.filter (fun w => w.1 = 0 && w.2.2 < 256)).map (fun w => w.2.1)).foldl (fun l u => insertUnit s u l) []

/-- The spare each waiting tile gets (R352). -/
def assignTiles (s : State) : List (Nat × Option Nat) :=
  ((tileQueue s).foldl (fun r u =>
    let p := pickTile s u r.2
    (r.1 ++ [(u, p)], match p with | some x => x :: r.2 | none => r.2)) (([] : List (Nat × Option Nat)), ([] : List Nat))).1

/-- Give a waiting unit a flag: 1 leaves at the next republish, 2 kept (R350). -/
def flagWaiting (s : State) (cls u f : Nat) : State :=
  { s with waiting := s.waiting.map (fun w => if w.1 = cls ∧ w.2.1 = u then (cls, u, w.2.2 % 256 + 256 * f) else w) }

/-- Take a unit off the waiting list. -/
def dropWaiting (s : State) (cls u : Nat) : State :=
  showCondemned { s with waiting := s.waiting.filter (fun w => !(w.1 = cls && w.2.1 = u)) }

/-- A tile for which no spare is left (Table 16.1, Table 16.3, R350): it leaves at the next republish, or stays while its removal
would retire the device, unless it has failed. -/
def tileWithout (s : State) (u : Nat) : State :=
  let retires := decide (liveGrade s ((leaving s).length + 1) = 3)
  if retires ∧ unitState s 0 u ≠ 4 then flagWaiting s 0 u 2
  else
    let s := flagWaiting (spr.event s 18) 0 u 1
    if retires then retireInService s 0 else s

/-- Settle which waiting tiles go without a spare, and the grade that is pending (R350, R352). -/
def settleTiles (s : State) : State :=
  reviewPending (forEach ((assignTiles s).filter (fun a => a.2.isNone)) s (fun s a => tileWithout s a.1))

/-- Put a unit on the waiting list. -/
def addWaiting (s : State) (cls u reason : Nat) : State :=
  if s.waiting.any (fun w => w.1 = cls && w.2.1 = u) then s
  else showCondemned { s with waiting := s.waiting ++ [(cls, u, reason)] }

/-- A verdict condemns an ACTIVE physical tile: it waits for its drain point (R346). -/
def condemnTile (s : State) (u reason : Nat) : State :=
  if unitState s 0 u ≠ 0 ∨ 160 ≤ u then s
  else settleTiles (spr.event (addWaiting (setUnit s 0 u 2) 0 u reason) 16)

/-- A spare fails while it stands in its pool (Table 16.3). -/
def poolFail (s : State) (cls u : Nat) : State :=
  spr.event (takeFree (setUnit (spareRecord s cls 2 u none (classFree s cls - 1)) cls u 4) cls) 17

/-- The CORE class (Table 16.1): the spare core replaces the unit at once; without one, the core goes and fewer than 3
working cores retire the device, though a prediction never does (R350). -/
def loseCore (s : State) (u reason : Nat) (failed : Bool) : State :=
  let v := svc.rd s 0xAC
  match (List.range 4).find? (fun n => unitState s 5 n = 1) with
  | some sp =>
    if sp = u then svc.wr (poolFail s 5 u) 0xAC (putBits v u 1 0)
    else
      let s := spareRecord s 5 reason u (some sp) (classFree s 5 - 1)
      let s := svc.wr s 0xAC (putBits (putBits v u 1 0) 4 3 (u + 4))
      takeFree (setUnitSpare (setUnit (setUnit (spr.event s 17) 5 u (if failed then 4 else 3)) 5 sp 0) 5 u sp) 5
  | none =>
    if failed then
      let s := spareRecord (spr.event s 18) 5 1 u none 0
      let s := dropWaiting (setUnit (svc.wr s 0xAC (putBits v u 1 0)) 5 u 4) 5 u
      if coreCount s < 3 then retireInService s 2 else s
    else reviewPending (flagWaiting (spr.event (addWaiting (setUnit s 5 u 2) 5 u reason) 16) 5 u 2)

/-- The banks of the combining cache in use: 16 of the 16 and the spares that serve (Table 16.1). -/
def combBanks (s : State) : List Nat := ((List.range 18).filter (fun b => unitState s 7 b = 0)).take 16

/-- The combining cache's entries in use, 256 per working bank (R206, Table 16.1). -/
def combEntries (s : State) : Nat := 256 * (combBanks s).length

/-- The bank that a new entry stands in. DESIGN CHOICE (log entry 258): the first in use that has room. -/
def combBank (s : State) : Nat := ((combBanks s).find? (fun b => s.comb.countP (fun e => e.bank = b) < 256)).getD 0

/-- The open entries of a bank pass uncombined (Table 16.1): the loads that wait for the first one's reply, and the atomics collected,
each go on as they came. -/
def closeBank (s : State) (u : Nat) : State :=
  let mine := s.comb.filter (fun e => e.bank = u)
  if mine = [] then s
  else
    let out := mine.flatMap (fun e => (e.followers ++ e.collected).map (fun r => (r, e.sub)))
    setComb { s with toRoute := s.toRoute ++ out.map (fun x => .req x.1 x.2 routerPort), passBy := s.passBy ++ out.map (·.1) }
      (s.comb.filter (fun e => !(decide (e.bank = u))))

/-- A CCACHE bank fails (R342): its open entries pass uncombined, a spare bank takes its place, and without one the cache shrinks by 256
entries; a spare may fail in its pool. -/
def loseBank (s : State) (u reason : Nat) : State :=
  if 18 ≤ u ∨ 2 ≤ unitState s 7 u then s
  else if unitState s 7 u = 1 then poolFail s 7 u
  else
    let s := closeBank s u
    match [16, 17].find? (fun n => unitState s 7 n = 1) with
    | some sp =>
      let s := spareRecord s 7 reason u (some sp) (classFree s 7 - 1)
      takeFree (setUnitSpare (setUnit (setUnit (spr.event s 17) 7 u 3) 7 sp 0) 7 u sp) 7
    | none => setUnit (spareRecord s 7 reason u none 0) 7 u 4

/-- The NM_ROW unit, a bank of a physical tile, that holds the 8-byte word `w` of Near Memory (R123, R356). -/
def bankUnit (s : State) (w : Nat) : Option Nat :=
  match placeOf (8 * w) with
  | .nm t i => some (56 * physOf s t + bankOf i)
  | _ => none

/-- A Near Memory row fails in a bank (R125, Table 16.1): a spare row of the bank takes its place at once, behind unchanged offsets,
and its words are copied with their single-bit errors corrected; with no spare row left the tile is condemned. -/
def loseRow (s : State) (u reason : Nat) : State :=
  let used := SMap.get d0 s.unitSpare (unitKey 1 u)
  if used < 8 then
    let s := spareRecord s 1 reason u (some used) (classFree s 1 - 1)
    let s := { s with nmErr := s.nmErr.filter (fun e => !(e.2 == 1 && bankUnit s e.1 == some u)) }
    takeFree (setUnitSpare (spr.event s 17) 1 u used) 1
  else condemnTile (spr.event s 18) (u / 56) reason

/-- A unit of the classes that wait for a drain point and share spares: MESH_LINK, 2 per column, and SEQ, 2 per tile. -/
def pairFree (s : State) (cls u : Nat) : Option Nat :=
  match cls with
  | 2 => if SMap.get d0 s.unitSpare (unitKey 2 u) < 2 then some (SMap.get d0 s.unitSpare (unitKey 2 u)) else none
  | 4 => [4, 5].find? (fun i => unitState s 4 (u / 256 * 256 + i) = 1) |>.map (fun i => u / 256 * 256 + i)
  | _ => none

/-- A SEQ unit `u` is lost, condemned (state 2) or failed (4): it waits for a spare sequencer of its tile; where more units of the tile
wait than it has spares, the lower unit index is served first (R352), and the tile is condemned for the rest (Table 16.1). -/
def loseSeq (s : State) (u reason st : Nat) : State :=
  let units := (List.range 6).map (fun i => u / 256 * 256 + i)
  let s := setUnit s 4 u st
  let queue := units.filter (fun v => v = u || s.waiting.any (fun w => w.1 = 4 && w.2.1 = v))
  let without := queue.drop (units.countP (fun v => unitState s 4 v = 1))
  let s := if without.contains u then s else addWaiting s 4 u reason
  if without = [] then s
  else condemnTile (forEach without (spr.event s 18) (fun s v => dropWaiting s 4 v)) (u / 256) reason

/-- A verdict on a unit of any class (R342, R346), `reason` as in Table 16.6. `ends` are the physical tiles at the ends of a MESH_LINK
unit, and for HBM_ROW the parts of the pseudo-channel, pins and 64 + rows, that are to be replaced (R300); a LANE unit waits for LNK.CMD
SPARE. DESIGN CHOICE (log entry 195): a verdict on an HBM_ROW unit names its parts so, and the unit is ACTIVE again once they are
replaced. -/
def condemn (s : State) (cls u reason : Nat) (ends : List Nat) : State :=
  if !unitExists cls u ∨ unitState s cls u ≠ 0 then s
  else
    match cls with
    | 0 => condemnTile s u reason
    | 1 => loseRow s u reason
    | 2 =>
      match pairFree s 2 u with
      | some _ => spr.event (addWaiting (setUnit s 2 u 2) 2 u reason) 16
      | none => forEach ends (spr.event (setUnit s 2 u 2) 18) (fun s p => condemnTile s p reason)
    | 3 =>
      let s := spr.event (addWaiting (setUnit s 3 u 2) 3 u reason) 16
      if SMap.get d0 s.unitSpare (unitKey 3 u) = 0 then s else spr.event s 18
    | 4 =>
      let s := loseSeq s u reason 2
      if s.waiting.any (fun w => w.1 = 4 && w.2.1 = u) then spr.event s 16 else s
    | 5 => loseCore s u reason false
    | 6 =>
      let s := { setUnit s 6 u 2 with hbmWorn := s.hbmWorn ++ ends.map (fun n => (u, wornPart n)) }
      spr.event (addWaiting s 6 u reason) 16
    | 7 => loseBank s u reason
    | _ => s

/-- WEAR_CONDEMN (R344, R346): the wear model's verdict on a unit. A tile, whose replicas report `slackSeen`, is condemned under the rule of
Table 16.1 (`trim`: TRIM_LIMIT raised for the tile); the other classes are condemned by their events, a MESH_LINK unit with the tiles at its `ends`, an HBM_ROW unit with the
`parts` to be replaced. -/
def execWearCondemn (cls unit : Nat) (slackSeen : Nat) (trim : Bool) (ends parts : List Nat) (s : State) : Out :=
  .next (
    if cls = 0 then
      if 160 ≤ unit then s
      else
        let s := reportSlack s unit slackSeen
        if bits (spr.rd s 0x60) 0 8 ≤ unitWear s 0 unit ∨ unitForecast s 0 unit < spr.rd s 0x64 ∨ trim then condemn s 0 unit 0 ends
        else s
    else condemn s cls unit 0 (if cls = 6 then parts else ends))

/-! ### Bringing a spare in (R346, R347) -/

/-- The tile blocks of a physical tile, under the logical name it serves. -/
def physBlocks (s : State) (p : Nat) : List Blk :=
  match logicalOf s p with
  | some t => if h : t < 160 then tileBlocks ⟨t, h⟩ else []
  | none => []

/-- A physical tile is free for an exchange: its logical tile belongs to no valid partition, or it is at its drain point
(R346, R389). A failed one must belong to none (R347). -/
def physIdle (s : State) (p : Nat) (failed : Bool) : Bool :=
  match logicalOf s p with
  | none => true
  | some t =>
    let owner := tileOwner s t
    if owner = 0 ∨ (slotOfPart s owner).isNone then true
    else if failed then false
    else if h : t < 160 then tileAtDrain s ⟨t, h⟩ else true

/-- Exchange physical tile `u` for spare `sp` behind its logical name (R346): the record, the slot copy with its tags (a
failed tile's slot is zeroed instead, R347), LMAP, and the release of the drain. The tile's replicas no longer count
(R344). DEDUCED (log entry 234): every register of the tile's pages stays behind its logical name, since R346 names RW and RWL and R358
keeps the counters. -/
def exchangeTile (s : State) (u sp reason : Nat) : State :=
  let failed := unitState s 0 u = 4
  let s := spareRecord s 0 reason u (some sp) (classFree s 0 - 1)
  let old := slotMap s
  let blocks := physBlocks s u
  let to_ := (old.idxOf? sp).getD 0
  let s := match old.idxOf? u with
    | some t => if failed then zeroSlot s to_ else copySlot s t to_
    | none => s
  let put (l : List Nat) : List Nat := l.map (fun x => if x = u then sp else x)
  let s := remap { s with west := put s.west, east := put s.east } old
  let s := takeFree (setUnitSpare (setUnit (setUnit s 0 u (if failed then 4 else 3)) 0 sp 0) 0 u sp) 0
  let s := forEach blocks s (fun s b =>
    if failed then b.wr (softReset s b 0) 0x14 0
    else match b with
      | .seq _ => b.wr s 0x10 (b.rd s 0x10 - (if b.draining s then 4 else 0))
      | _ => s)
  spr.event (dropWaiting { s with slack := SMap.set d0 s.slack u 0 } 0 u) 17

/-- Try spares for a tile in the order of R343: one listed in `bad` fails during the copy, is marked failed and counted,
and the next is tried (R352). -/
def bringTile (s : State) (u reason : Nat) (bad : List Nat) : Nat → State
  | 0 => s
  | n + 1 =>
    match (assignTiles s).find? (fun a => a.1 = u) with
    | some (_, some sp) =>
      if bad.contains sp then
        let s := takeFree (setUnit (spareRecord s 0 2 sp none (classFree s 0 - 1)) 0 sp 4) 0
        bringTile (settleTiles (spr.raise s 0x0103 0 sp)) u reason bad n
      else exchangeTile s u sp reason
    | _ => s

/-- Every logical tile in a Mesh column of a die is at its drain point or belongs to no partition (Table 16.1), for a failed link the latter
(R347). -/
def columnIdle (s : State) (u : Nat) (failed : Bool) : Bool :=
  (List.range 10).all (fun r => physIdle s (u / 8 * 80 + 8 * r + u % 8) failed)

/-- STATE of BLK_STATUS of the sequencer that SEQ unit `u` serves: 5 FAULTED, or 0 as its spare takes its place (R347). -/
def seqFaulted (s : State) (u v : Nat) : State :=
  match logicalOf s (u / 256) with
  | some t => if h : t < 160 then (Blk.seq (.tile ⟨t, h⟩ ⟨seqServed s u % 6, Nat.mod_lt _ (by decide)⟩)).wr s 0x14 v else s
  | none => s

/-- Bring the spare of a waiting unit in, if its drain point is reached. -/
def bringIn (s : State) (cls u : Nat) (bad : List Nat) : State :=
  match s.waiting.find? (fun w => w.1 = cls && w.2.1 = u) with
  | none => s
  | some w =>
    let reason := w.2.2 % 256
    if 256 ≤ w.2.2 then s
    else
      match cls with
      | 0 => if physIdle s u (unitState s 0 u = 4) then bringTile s u reason bad 17 else s
      | 2 =>
        match pairFree s 2 u with
        | some n =>
          if columnIdle s u (unitState s 2 u = 4) then
            let s := setUnitSpare (spr.event (spareRecord s 2 reason u (some n) (classFree s 2 - 1)) 17) 2 u n
            dropWaiting (takeFree (setUnit s 2 u 0) 2) 2 u
          else s
        | none => s
      | 4 =>
        match pairFree s 4 u with
        | some sp =>
          if physIdle s (u / 256) (unitState s 4 u = 4) then
            let failed := unitState s 4 u = 4
            let s := spareRecord s 4 reason u (some sp) (classFree s 4 - 1)
            let s := if failed then seqFaulted s u 0 else s
            dropWaiting (takeFree (setUnitSpare (setUnit (setUnit (spr.event s 17) 4 u (if failed then 4 else 3)) 4 sp 0) 4 u sp) 4) 4 u
          else s
        | none => s
      | 6 =>
        if stackIdle s (u / 64) then
          let parts := s.hbmWorn.filter (fun e => e.1 = u)
          let s := { s with hbmWorn := s.hbmWorn.filter (fun e => e.1 ≠ u) }
          let s := forEach parts s (fun s e =>
            let x := repairWorn s u e.2
            if x.1 then x.2 else { x.2 with hbmWorn := x.2.hbmWorn ++ [e] })
          if s.hbmWorn.any (fun e => e.1 = u) then s else dropWaiting (setUnit s 6 u 0) 6 u
        else s
      | _ => s

/-- SPARE_BRING_IN (R346): at the drain point of a waiting unit the Barista records the change, copies and exchanges.
`bad` lists spares that fail during the copy. -/
def execSpareBringIn (cls unit : Nat) (bad : List Nat) (s : State) : Out := .next (bringIn s cls unit bad)

/-- The Barista reports a unit that has failed, with its partition, to the fabric manager (R347). -/
def reportFailed (s : State) (cls unit part : Nat) : State := { s with reports := s.reports ++ [.unitFailed cls unit part] }

/-- The same of a unit of a tile: the partition is the tile's. -/
def reportUnit (s : State) (cls unit phys : Nat) : State :=
  reportFailed s cls unit (match logicalOf s phys with
    | some t => tileOwner s t
    | none => 0)

/-- The hardware disables a block at once as the unit that serves it fails (R345, R347): its work ends as SOFT_RESET ends it (DEDUCED, log
entry 257), and it reads FAULTED. -/
def failBlock (s : State) (b : Blk) : State := b.wr (softReset s b 0) 0x14 5

/-- A physical tile is disabled: its blocks and its control core's threads. -/
def failTile (s : State) (p : Nat) : State :=
  let s := match logicalOf s p with
    | some t => setTcc s t { getTcc s t with threads := (getTcc s t).threads.map (fun h => { h with phase := .stopped, rsv := none }) }
    | none => s
  forEach (physBlocks s p) s failBlock

/-- The sequencer that SEQ unit `u` serves is disabled. -/
def failSeq (s : State) (u : Nat) : State :=
  match logicalOf s (u / 256) with
  | some t => if h : t < 160 then failBlock s (.seq (.tile ⟨t, h⟩ ⟨seqServed s u % 6, Nat.mod_lt _ (by decide)⟩)) else s
  | none => s

/-- UNIT_FAIL (R347, R352; rows and pins of HBM fail by their reads, R299): a unit that fails outright is disabled at once and its
blocks read FAULTED; the record and the report follow, and its spare comes in once it belongs to no partition. A spare that fails in
its pool is marked failed. DEDUCED (log entry 204): the fault record of R347 is
the SPARE record with reason 1. -/
def execUnitFail (cls : Nat) (u : FailedUnit) (s : State) : Out :=
  .next (
    let unit := u.unit
    let st := unitState s cls unit
    if !unitExists cls unit ∨ st = 3 ∨ st = 4 ∨ cls = 6 then s
    else if st = 1 then
      match cls with
      | 0 => settleTiles (poolFail s 0 unit)
      | 5 => loseCore s unit 1 true
      | _ => poolFail s cls unit
    else
      let s := spr.countErr s
      match cls with
      | 0 =>
        let s := failTile (setUnit s 0 unit 4) unit
        let s := reportUnit (spareRecord s 0 1 unit none (classFree s 0)) 0 unit unit
        settleTiles (addWaiting { s with waiting := s.waiting.filter (fun w => !(w.1 = 0 && w.2.1 = unit)) } 0 unit 1)
      | 1 => loseRow (reportUnit s 1 unit (unit / 56)) unit 1
      | 2 =>
        let s := forEach u.ends (spareRecord (setUnit s 2 unit 4) 2 1 unit none (classFree s 2)) (fun s p => reportUnit s 2 unit p)
        match pairFree s 2 unit with
        | some _ => addWaiting s 2 unit 1
        | none => forEach u.ends (spr.event s 18) (fun s p => condemnTile s p 1)
      | 4 =>
        let s := failSeq (setUnit s 4 unit 4) unit
        loseSeq (reportUnit (spareRecord s 4 1 unit none (classFree s 4)) 4 unit (unit / 256)) unit 1 4
      | 5 => loseCore (reportFailed s 5 unit 0) unit 1 true
      | 7 => loseBank (reportFailed s 7 unit 0) unit 1
      | _ => condemn s cls unit 1 u.ends)

/-- CCACHE_BANK_FAIL (R342): a combining-cache bank with 4 parity errors in 1 h. -/
def execCcacheBankFail (bank : Nat) (s : State) : Out := .next (loseBank s bank 1)

/-! ### SPR commands (R356, R357) -/

/-- CMD_STATUS of SPR: state and code. -/
def sprStatus (s : State) (st code : Nat) : State := spr.wr s 0x7C (st + 2 ^ 16 * code)

/-- What a REPLACE names beside its unit (Table 16.1): the tiles at the ends of a link of a MESH_LINK unit's column, a row and bank of an
HBM_ROW unit's pseudo-channel. DESIGN CHOICE (log entry 195): UNIT_SEL names none, and a fresh value chooses. -/
def replaceParts (s : State) (cls u : Nat) : List Nat × State :=
  let f := fresh s
  match cls with
  | 2 => let p := u / 8 * 80 + 8 * (f.1 % 9) + u % 8; ([p, p + 8], f.2)
  | 6 => ([64 + f.1 % 2 ^ 19], f.2)
  | _ => ([], s)

/-- CMD REPLACE (R356): condemns UNIT_SEL, ACTIVE units only. -/
def sprReplace (s : State) : State :=
  let cls := bits (spr.rd s 0x68) 0 3
  let u := bits (spr.rd s 0x68) 8 24
  if !unitExists cls u ∨ unitState s cls u ≠ 0 then sprStatus (spr.raise s 0x0103 0 u) 3 0x0103
  else
    let r := replaceParts s cls u
    sprStatus (condemn r.2 cls u 3 r.1) 2 0

/-! ### Republish (R27, R38) -/

/-- The tiles that leave at a republish, in ascending physical number: recorded, dropped, the highest survivor of the die
taking the number (R27). -/
def dropLeaving (s : State) : State :=
  let gone := (List.range 160).filter (fun p => (leaving s).contains p)
  forEach gone s (fun s p =>
    let s := if unitState s 0 p = 4 then s else setUnit (spareRecord s 0 0 p none (classFree s 0)) 0 p 3
    dropWaiting { s with west := dropTile s.west p, east := dropTile s.east p, slack := SMap.set d0 s.slack p 0 } 0 p)

/-- The slots and tile blocks of the logical tiles whose physical tile changed do not keep their content (R27): slots
zeroed, blocks reset. -/
def renumbered (s : State) (old : List Nat) : State :=
  let s := showLmap s
  let new := slotMap s
  forEach (allTiles.filter (fun t => new.getD t.val 0 ≠ old.getD t.val 0)) s (fun s t =>
    forEach (tileBlocks t) (zeroSlot s t.val) (fun s b => softReset s b 0))

/-- Every valid partition is at its drain point (R38, R389). -/
def allDrained (s : State) : Bool := (validParts s).all (fun p => partAtDrain s p)

/-- What a republish does on the device (R38): the leaving tiles go, the grade record is written when the grade changes,
the page is published and FEAT_CHANGED set; a grade below C retires the device; the loader verifies again (R61). -/
def republish (s : State) : State :=
  let old := slotMap s
  let s := renumbered (dropLeaving s) old
  let g := if s.retired then 3 else liveGrade s 0
  let feat := svc.rd s 0x1044
  let s := if g = bits feat 0 2 then s else gradeRecord s feat g
  let s := svc.event (publish s g) 16
  let s := if anyKept s then setPending s 3 else s
  reverify (if g = 3 then retireInService s 0 else s)

/-- REPUBLISH (R38): only once boot step 10 has published, with the device at a drain point in every partition. -/
def execRepublish (s : State) : Out := .next (if !s.held && decide (svc.rd s 0x1040 ≠ 0) && allDrained s then republish s else s)

/-- REGRADE (R357): with an owner session and every partition other than 0x000 invalid, the units that failed a test are
condemned and go, a spare among them in its pool, R348 is applied, the page is republished and a REFURBISH record written. `tests` is how many tests ran,
`failed` the units that failed one. -/
def sprRegrade (s : State) (tests : Nat) (failed : List (Nat × FailedUnit)) : State :=
  if session s ≠ 2 then spr.raise s 0x0101 0 3
  else if !(validParts s).isEmpty then sprStatus (spr.raise s 0x0102 0 3) 3 0x0102
  else
    let before := publishedGrade s
    let s := forEach failed s (fun s f =>
      if unitExists f.1 f.2.unit ∧ unitState s f.1 f.2.unit = 1 then poolFail s f.1 f.2.unit else condemn s f.1 f.2.unit 3 f.2.ends)
    let s := forEach (s.waiting.map (fun w => (w.1, w.2.1))) s (fun s w => bringIn s w.1 w.2 [])
    let s := republish s
    let s := appendRecord s 0x000B (leBytes 4 (session s) ++ leBytes 4 tests ++ leBytes 4 (tests - failed.length) ++
      leBytes 4 failed.length ++ leBytes 4 before ++ leBytes 4 (publishedGrade s))
    sprStatus s 2 0

/-- UNIT_STATE and UNIT_FORECAST as they read for UNIT_SEL (R356, Table 16.7). -/
def unitStateReg (s : State) : Nat :=
  let cls := bits (spr.rd s 0x68) 0 3
  let u := bits (spr.rd s 0x68) 8 24
  if !unitExists cls u then 5 * 256 + 0xFFFF0000
  else
    let sp := SMap.get d0 s.unitSpare (unitKey cls u)
    unitWear s cls u + 256 * unitState s cls u + 2 ^ 16 * (if cls = 1 ∨ cls = 6 ∨ sp = 0 then 0xFFFF else (sp - 1) % 2 ^ 16)
def unitForecastReg (s : State) : Nat :=
  let cls := bits (spr.rd s 0x68) 0 3
  let u := bits (spr.rd s 0x68) 8 24
  if unitExists cls u then unitForecast s cls u else 0xFFFFFFFF

end Sys2Proof.Machine
end

