-- ==== Sys2Proof/Machine/Links.lean ====
section
/-! DEFINITION. Sys2Proof/Machine/Links.lean: Torem Link (chapter 10): flits and retry (R225, R227), training (R228), lanes (R229),
IDENT (R230), eye heights (R318), and the commands of the LNK page (R244). -/
namespace Sys2Proof.Machine

/-! ### Counters (Table 17.2) -/

/-- A packet that passes through this device between two of its ports: as it comes in, one for another device; as it leaves, one that
came in by a link. -/
def inTransit (s : State) (k : Packet) (rx : Bool) : Bool := if rx then pktDest k ≠ selfId s else pktInPort k < (if isBridge s then 30 else 32)

/-- Count a packet sent (`rx` false) or received at port `p`: its VC's counter, its partition slot, and at a fabric port the link
page's energy and that of the transit floor (R307, R358, R384). -/
def countPacket (s : State) (p : Nat) (k : Packet) (rx : Bool) : State :=
  let s := Blk.cntD.add s (txReg p (pktVc k) + (if rx then 0x40 else 0)) (pktSize k)
  if h : p < 32 then
    let s := match slotOfPart s (pktPart k) with
      | some j => Blk.cntD.add s (0xA100 + 0x40 * j + (if rx then 8 else 0)) (pktSize k)
      | none => s
    let e := (pktSize k) * EnergyKind.link.coef * bits (Blk.ktl.rd s 0x1054) 0 16
    let s := if inTransit s k rx then { s with binE := SMap.set d0 s.binE 50 (SMap.get d0 s.binE 50 + e) } else s
    pageEnergy s (.lnk ⟨p, h⟩) e
  else s

/-! ### Ports -/

/-- LNK.STATE[2:0] of a port. -/
def linkState (s : State) (p : Fin 32) : Nat := bits ((Blk.lnk p).rd s 0x44) 0 3

/-- A port is UP: trained, and a fabric port of this device (R236). -/
def portUp (s : State) (p : Nat) : Bool :=
  if h : p < 32 then linkState s ⟨p, h⟩ = 6 && !(isBridge s && 30 ≤ p) else false

/-- Lanes that carry traffic: 8, or 7 with two failed (R229). -/
def activeLanes (x : Port) : Nat := min 8 (9 - x.badLanes.length)

/-- LANE_MAP (Table 10.11): the spare lane stands in for the first failed lane; a second failed lane's entry reads 15. -/
def laneMapValue (x : Port) (reversed : Bool) : Nat :=
  let bad := x.badLanes.filter (· < 8)
  let spare := bad ≠ [] && !x.badLanes.contains 8
  let phys (k : Nat) : Nat := if !bad.contains k then k else if spare && bad.head? = some k then 8 else 15
  ((List.range 8).foldl (fun v k => v + phys k * 16 ^ k) 0) + 2 ^ 32 * b2n reversed + 2 ^ 33 * b2n spare

/-- Show a port's state (Table 10.11 STATE). -/
def showLink (s : State) (p : Fin 32) (st : Nat) : State :=
  let x := getPort s p.val
  (Blk.lnk p).wr s 0x44 (st + (if st = 6 then 256 * activeLanes x else 0) + (if activeLanes x < 8 then 2 ^ 12 else 0))

/-- The limit in µs of a training state (Table 10.6). -/
def stageLimit (st : Nat) : Nat :=
  match st with
  | 1 => 1000
  | 2 => 40000
  | 3 => 1000
  | 4 => 100
  | _ => 10

/-- What a side sends at IDENT (R230), in PEER's layout: device ID, VALID after fabric join, port, board position and serial. -/
def identWord (s : State) (p : Fin 32) : Nat :=
  selfId s + 2 ^ 17 * b2n (bit (Blk.fab.rd s 0x40) 31) + 2 ^ 18 * p.val + 2 ^ 24 * bits (svc.rd s 0xC4) 0 3 +
    2 ^ 32 * bits (svc.rd s 0xC0) 0 32

/-- A port enters a training state (R228, Table 10.6); how long the state's work takes, within its limit or beyond, is a free
value. At IDENT it sends its identity; from DOWN, SEQ is 0 there. -/
def enterStage (s : State) (p : Fin 32) (st : Nat) : State :=
  let f := fresh s
  let s := modPort f.2 p.val (fun x =>
    let x := { x with stageFrom := s.now, stageEnd := s.now + f.1 % (stageLimit st + 2), met := false }
    if st = 5 then
      let x := { x with ident := identWord s p }
      if x.retraining then x else { x with nextSeq := 0, expect := 0 }
    else x)
  showLink s p st

/-- Start training from DOWN, which a port with ENABLE set does (R228). -/
def startTraining (s : State) (p : Fin 32) : State :=
  if (isBridge s ∧ 30 ≤ p.val) ∨ !(Blk.lnk p).enabled s then s
  else enterStage (modPort s p.val (fun x => { x with trainFrom := some s.now, downSince := none, retraining := false })) p 1

/-- Start a retrain from UP, at EQ with both buffers kept (R227, R228). -/
def startRetrain (s : State) (p : Fin 32) : State :=
  let s := (Blk.lnk p).sat s 0x7C
  enterStage (modPort s p.val (fun x => { x with trainFrom := some s.now, retraining := true })) p 2

/-- A port goes DOWN and discards its replay buffer and its receive buffer, with the packets in it that the router has not yet
taken (R227, R229). -/
def goDown (s : State) (p : Fin 32) (lost : Bool) : State :=
  let s := { s with toRoute := s.toRoute.filter (fun k => pktInPort k ≠ p.val) }
  let s := modPort s p.val (fun x =>
    { x with txBuf := [], fill := [], wire := [], nextSeq := 0, expect := 0, discarding := false, nakPending := false, rx := [],
             laneErr := [], trainFrom := none, met := false, downSince := some s.now, laneLost := lost, retraining := false,
             freed := List.replicate 16 0, credit := List.replicate 16 0, blockedSince := [], creditRaised := [] })
  (Blk.lnk p).event (showLink s p 0) 17

/-- The receive buffer's allotment in flits for each VC and subclass (LNK.CREDIT, R231). -/
def allotment (s : State) (p : Fin 32) : List Nat :=
  (List.range 16).map (fun i => 4 * bits ((Blk.lnk p).rd s 0x64) (4 * (i / 2)) 4)

/-- A port's packets of a VC and subclass, the next input port served first (R233). -/
def nextInput (x : Port) (vc sub : Nat) : Option Packet :=
  let l := x.outq.filter (fun k => pktVc k = vc && pktSub k = sub)
  let rr := x.rrIn.getD (2 * vc + sub) 0
  match (List.range 35).map (fun i => (rr + 1 + i) % 35) |>.find? (fun p => l.any (fun k => pktInPort k = p)) with
  | some p => l.find? (fun k => pktInPort k = p)
  | none => none

/-- The credit that a packet needs at a port: of its VC, and of the subclass it goes on in, SUB 1 through a DATELINE port (R231, R232). -/
def creditIndex (x : Port) (k : Packet) : Nat := 2 * pktVc k + (if x.dateline then 1 else pktSub k)

/-- Credit for a packet; the die ports take every packet (R231). -/
def hasCredit (x : Port) (die : Bool) (k : Packet) : Bool :=
  die || pktFlits k ≤ x.credit.getD (creditIndex x k) 0

/-- Note the VCs and subclasses, 2 × VC + SUB, of an output port whose head packet has no credit, and since when (R231). -/
def noteBlocked (s : State) (p : Nat) : State :=
  modPort s p (fun x =>
    let stuck := (List.range 16).filter (fun v => (nextInput x (v / 2) (v % 2)).any (fun k => !hasCredit x false k))
    { x with blockedSince := stuck.map (fun v => (v, ((x.blockedSince.find? (fun e => e.1 = v)).map (·.2)).getD s.now)),
             creditRaised := x.creditRaised.filter (fun v => stuck.contains v) })

/-- REPLAY_STORM (R227): a flit resent 8 times without an ACK makes the port retrain from UP with its buffers kept. -/
def execReplayStorm (p : Fin 32) (s : State) : Out :=
  .next (
    if portUp s p.val ∧ (getPort s p.val).txBuf.any (fun t => 8 ≤ t.resent) then startRetrain ((Blk.lnk p).event s 20) p else s)

/-! ### Lanes in the Roast Log (R229, R349, Table 16.1) -/

/-- Record a lane failure that the Roast Log does not yet hold: the spare lane comes in, the port is degraded, or it is lost; and
reconsider the grade. A LANE unit that waited is settled. -/
def laneRecord (s : State) (p : Nat) (reason : Nat) : State :=
  let n := (getPort s p).badLanes.length
  let s := dropWaiting (if unitState s 3 p = 2 then setUnit s 3 p 0 else s) 3 p
  if n = 1 then
    if SMap.get d0 s.unitSpare (unitKey 3 p) ≠ 0 then s
    else spr.event (takeFree (setUnitSpare (spareRecord s 3 reason p (some p) (classFree s 3 - 1)) 3 p p) 3) 17
  else
    let now := if n = 2 then 1 else 2
    if now ≤ SMap.get d0 s.portRec p then s
    else
      let s := { spareRecord s 3 reason p none (classFree s 3) with portRec := SMap.set d0 s.portRec p now }
      if svc.rd s 0x1040 = 0 then s else reviewPending (spr.event s 18)

/-- A port whose 9 lanes all work has its spare lane free again (R357). -/
def freeLane (s : State) (p : Nat) : State :=
  if SMap.get d0 s.unitSpare (unitKey 3 p) = 0 then s
  else spr.wr { s with unitSpare := SMap.set d0 s.unitSpare (unitKey 3 p) 0 } 0x4C (spr.rd s 0x4C + 1)

/-- The lanes offered by LANE_CLEAR have been tried (R357): those that trained and ran 1 s under the limits of R229 return to service,
and a LANE_CLEAR record is written. -/
def finishClear (s : State) (p : Fin 32) : State :=
  let x := getPort s p.val
  match x.clearing with
  | none => s
  | some old =>
    let back := old.filter (fun l => !x.badLanes.contains l)
    let s := appendRecord s 0x000C (leBytes 4 p.val ++ leBytes 4 (portMask back) ++ leBytes 8 (portMask x.badLanes))
    let n := x.badLanes.length
    let s := { s with portRec := SMap.set d0 s.portRec p.val (if n < 2 then 0 else if n = 2 then 1 else 2) }
    let s := if n = 0 then freeLane s p.val else s
    reviewPending (spr.wr (modPort s p.val (fun x => { x with clearing := none, clearEnd := none })) 0x7C 2)

/-- A lane of a port goes out of service (R229). While LANE_CLEAR tries the lanes, its record tells of it (R357). -/
def dropLane (s : State) (p : Fin 32) (lane : Nat) (reason : Nat) : State :=
  let x := getPort s p.val
  if x.badLanes.contains lane ∨ x.laneLost then s
  else
    let b := Blk.lnk p
    let s := modPort s p.val (fun x => { x with badLanes := x.badLanes ++ [lane] })
    let n := x.badLanes.length + 1
    let s := if x.clearing.isSome then s else laneRecord s p.val reason
    let up := linkState s p = 6
    if n = 1 then
      let s := if lane = 8 then s else b.event s 18
      let s := b.wr s 0x48 (laneMapValue (getPort s p.val) (bit (b.rd s 0x48) 32))
      if up ∧ lane ≠ 8 then startRetrain s p else s
    else if n = 2 then
      let s := b.event s 19
      let s := b.wr s 0x48 (laneMapValue (getPort s p.val) (bit (b.rd s 0x48) 32))
      if up then startRetrain s p else showLink s p (linkState s p)
    else finishClear (b.raise (goDown s p true) 0x0102 0 lane) p

/-- LANE_FAIL (R229). -/
def execLaneFail (p : Fin 32) (lane : Fin 9) (s : State) : Out :=
  .next (if isBridge s ∧ 30 ≤ p.val then s else dropLane s p lane.val 1)

/-! ### Receiving flits (R223, R225, R229, R231, R318) -/

/-- Decoding's counts with a flit (R229, R244): corrected symbols, uncorrectable codewords, and a lane with more than
LANE_ERR_LIMIT of these within 1 ms, which fails. -/
def countCodewords (s : State) (p : Fin 32) (f : Flit) : State :=
  let b := Blk.lnk p
  let s := b.add s 0x68 f.corrected
  if f.uncorr = 0 then s
  else
    let s := b.sat s 0x70 f.uncorr
    let s := modPort s p.val (fun x =>
      { x with laneErr := x.laneErr.filter (fun e => s.now - e.2 < 1000) ++ List.replicate f.uncorr (f.lane.val, s.now) })
    if b.rd s 0x54 < ((getPort s p.val).laneErr.filter (fun e => e.1 = f.lane.val)).length then dropLane s p f.lane.val 1 else s

/-- The partition of a reply that comes in: that of the request of this device it answers; 4,096 where there is none here. -/
def withPart (s : State) : Packet → Packet
  | .rep r p sub i =>
    .rep r (if r.dst = selfId s then
      ((s.outs.find? (fun o => o.req.ctx = r.ctx && o.req.seq % 65536 = r.seq && o.copies ≠ 0)).map (fun o => o.req.part)).getD p
      else p) sub i
  | k => k

/-- DATA_FLIT_RECEIVE (R223, R225): a flit whose CRC fails or whose codeword pair was uncorrectable is discarded with every later
one until the expected sequence arrives, and a NAK is due; an IDLE flit does nothing; a DATA flit in sequence adds its payload
to the stream, whose whole packets go to the router. -/
def execDataFlitReceive (p : Fin 32) (f : Flit) (s : State) : Out :=
  .next (
    if !portUp s p.val then s
    else
      let s := countCodewords s p f
      let ok := flitCrcOk f.bytes
      let s := if ok then s else (Blk.lnk p).sat s 0x74
      let x := getPort s p.val
      if !portUp s p.val then s
      else if !ok ∨ f.pairBad then modPort s p.val (fun x => { x with discarding := true, nakPending := true })
      else if flitKind f.bytes ≠ flitData ∨ flitSeq f.bytes ≠ x.expect then s
      else
        let l := x.rx ++ flitPayload f.bytes
        let r := takePackets p.val (l.length / 8 + 1) l
        let s := modPort s p.val (fun x => { x with expect := (x.expect + 1) % 4096, discarding := false, nakPending := false, rx := r.2 })
        forEach r.1 s (fun s k =>
          let k := withPart s k
          countPacket { s with toRoute := s.toRoute ++ [k] } p.val k true))

/-- The lane of a port with the lowest eye height, per cent of its trained height, among the lanes in use whose eyes are measured
(R318): per cent and lane. -/
def lowestEye (x : Port) : Option (Nat × Nat) :=
  let lanes := (List.range 9).filter (fun l => !x.badLanes.contains l && decide (l < x.eye.length) && x.eyeTrained.getD l 0 ≠ 0)
  lanes.foldl (fun best l =>
    let v := 100 * x.eye.getD l 0 / x.eyeTrained.getD l 0
    match best with
    | some b => if v < b.1 then some (v, l) else best
    | none => some (v, l)) none

/-- CAL.LINK_MARGIN: the lowest eye of all ports (Table 14.5). -/
def showMargin (s : State) : State :=
  let low := (List.range 32).foldl (fun (best : Option (Nat × Nat × Nat)) p =>
    match lowestEye (getPort s p), best with
    | some e, some b => if e.1 < b.1 then some (e.1, p, e.2) else best
    | some e, none => some (e.1, p, e.2)
    | none, _ => best) none
  match low with
  | some (v, p, l) => cal.wr s 0x54 (min v 255 + 2 ^ 8 * p + 2 ^ 16 * l)
  | none => s

/-- The eye heights of a port's lanes as measured (R318, R319): below MARGIN_LIMIT per cent of its trained height a lane is reported
to the wear model, which condemns the port's LANE unit (Table 16.1). -/
def noteEyes (s : State) (p : Fin 32) (eyes : List Nat) : State :=
  if eyes = [] then s
  else
    let s := showMargin (modPort s p.val (fun x => { x with eye := eyes }))
    match lowestEye (getPort s p.val) with
    | some e => if e.1 < bits (cal.rd s 0x58) 0 8 then condemn (cal.event s 18) 3 p.val 0 [] else s
    | none => s

/-- CONTROL_FLIT_RECEIVE (R223, R225, R231, R318): the ACK frees the replay buffer, a NAK puts the rest on the lanes again in order,
the credits are added, and the lanes' eyes are measured as the transmitters' taps move under LANE_MSG. -/
def execControlFlitReceive (p : Fin 32) (f : Flit) (s : State) : Out :=
  .next (
    if !portUp s p.val then s
    else
      let s := countCodewords s p f
      if !portUp s p.val then s
      else if !flitCrcOk f.bytes then (Blk.lnk p).sat s 0x74
      else if f.pairBad ∨ flitKind f.bytes ≠ flitControl then s
      else
        let c := flitPayload f.bytes
        let x := getPort s p.val
        -- the flits that the ACK covers are those at most 512 behind it
        let kept := x.txBuf.filter (fun t => 512 < (ctlAck c + 4096 - t.seq) % 4096 + 1)
        let again := if ctlNak c then kept.map (fun t => { t with resent := t.resent + 1 }) else kept
        let s := if ctlNak c then (Blk.lnk p).sat s 0x78 else s
        let s := setPort s p.val
          { x with txBuf := again, credit := addCredits x.credit (ctlCredits c),
                   wire := x.wire ++ (if ctlNak c then again.map (fun t => t.bytes) else []) }
        noteEyes (noteBlocked s p.val) p f.eyes)

/-! ### Training (R228, R230) -/

/-- LINK_UP (R228, R229): a port in IDENT that has met its peer comes UP in time; `reversed` is the lane order found and `lanes` what
training found of the lanes. From DOWN the receive buffer's allotment is granted; a retrain keeps both buffers and its replay goes on. -/
def execLinkUp (p : Fin 32) (reversed : Bool) (lanes : LanesFound) (s : State) : Out :=
  .next (
    let x := getPort s p.val
    match x.trainFrom with
    | none => s
    | some t =>
      if linkState s p ≠ 5 ∨ !x.met ∨ (if x.retraining then 500 else 100000) < s.now - t then s
      else
        let b := Blk.lnk p
        let s := forEach (lanes.failed.filter (fun (l : Fin 9) => !x.badLanes.contains l.val)) s (fun (s : State) (l : Fin 9) => dropLane s p l.val 1)
        let x := getPort s p.val
        if x.laneLost ∨ 2 < x.badLanes.length then (if x.laneLost then s else b.raise (goDown s p true) 0x0102 0 0)
        else
          let x : Port :=
            { x with inverted := lanes.inverted.map Fin.val, eyeTrained := lanes.eyes, eye := lanes.eyes, trainFrom := none,
                     dateline := bit (b.rd s 0x40) 0, clearEnd := if x.clearing.isSome then some (s.now + 1000000) else none }
          let s := setPort s p.val
            (if x.retraining then { x with retraining := false, txBuf := x.txBuf.map (fun f => { f with resent := 0 }),
                                           wire := x.txBuf.map TxFlit.bytes }
             else { x with freed := allotment s p, credit := List.replicate 16 0 })
          let s := b.wr s 0x48 (laneMapValue (getPort s p.val) reversed)
          b.event (showLink s p 6) 16)

/-- LINK_TRAIN_TIMEOUT (R227, R228): not UP within 100 ms of leaving DOWN, or a state past its limit, is TRAIN_FAIL; a retrain not
done within 500 µs, or past a state's limit, fails and the buffers go. -/
def execLinkTrainTimeout (p : Fin 32) (s : State) : Out :=
  .next (
    let x := getPort s p.val
    match x.trainFrom with
    | none => s
    | some t =>
      let b := Blk.lnk p
      let late := stageLimit (linkState s p) < s.now - x.stageFrom
      if x.retraining then
        if s.now - t < 500 ∧ !late then s else b.raise (goDown s p false) 0x0103 0 p.val
      else if s.now - t < 100000 ∧ !late then s
      else b.raise (b.event (goDown s p false) 21) 0x0101 0 p.val)

/-- TRAIN_RETRY_TIMER (R228): a port DOWN for 1 s starts again, unless LANE_LOST keeps it DOWN (R229). -/
def execTrainRetryTimer (p : Fin 32) (s : State) : Out :=
  .next (
    let x := getPort s p.val
    match x.downSince with
    | none => s
    | some t => if x.laneLost ∨ s.now - t < 1000000 then s else startTraining s p)

/-- The port of peer j that port `p` of device i must meet under R17: P(2k − 2) and P(2k − 1) meet P(14 − 2k) and P(15 − 2k). -/
def wiringOk (i p j peerPort : Nat) : Bool :=
  let k := (j + 8 - i) % 8
  if k = 0 then false
  else (p = 2 * k - 2 && peerPort = 14 - 2 * k) || (p = 2 * k - 1 && peerPort = 15 - 2 * k)

/-- LINK_IDENT (R230): the peer's identity, in PEER's layout, and the delay in ns are shown; a pairing that breaks R17
between ports of one board raises WIRING. -/
def execLinkIdent (p : Fin 32) (peer : Word64) (delay : Nat) (s : State) : Out :=
  .next (
    if linkState s p ≠ 5 then s
    else
      let b := Blk.lnk p
      let v := peer.toNat
      let s := modPort s p.val (fun x => { x with met := true })
      let s := b.wr (b.wr s 0x58 v) 0x60 (min delay 0xFFFFFFFF)
      let serial := svc.rd s 0xC0
      if serial ≠ 0 ∧ serial = bits v 32 32 ∧ !wiringOk (bits (svc.rd s 0xC4) 0 3) p.val (bits v 24 3) (bits v 18 5) then b.event s 22
      else s)

/-! ### Time at a port -/

/-- A port's part of the 1 µs tick: while UP it sends a control flit (R223, R225, R231) with the highest sequence received in order,
the NAK due, the flits freed and a lane message of free content, and STALL counts the 2,000 router cycles of each VC that waits for
credit (Table 17.2); while training, a state whose work has ended gives way to the
next (R228); 1 s after LANE_CLEAR's training the lanes have been tried (R357). -/
def portTick (s : State) (p : Fin 32) : State :=
  let st := linkState s p
  if st = 0 then s
  else
    let x := getPort s p.val
    if st = 6 then
      let m := freeBytes s 216
      let f := flitBytes flitControl 0 (controlPayload (x.expect + 4095) x.nakPending x.freed m.1)
      let s := setPort m.2 p.val { x with wire := [f], freed := List.replicate 16 0, nakPending := false }
      let s := forEach (x.blockedSince.map (fun e => e.1 / 2)).eraseDups s (fun s v => Blk.cntD.add s (txReg p.val v + 0x80) 2000)
      if x.clearEnd.any (fun t => t ≤ s.now) then finishClear s p else s
    else if st < 5 ∧ x.stageEnd ≤ s.now ∧ x.stageEnd ≤ x.stageFrom + stageLimit st then enterStage s p (st + 1)
    else s

/-! ### The LNK page (R244) -/

/-- A write of ENABLE has set or cleared the port's enable: training starts, or the port goes DOWN (R228). -/
def linkEnable (s : State) (p : Fin 32) (was : Bool) : State :=
  let now := (Blk.lnk p).enabled s
  if now ∧ !was ∧ linkState s p = 0 ∧ !(getPort s p.val).laneLost then startTraining s p
  else if was ∧ !now ∧ linkState s p ≠ 0 then goDown s p false
  else s

/-- The commands of LNK.CMD (Table 10.11): 1 RETRAIN, 2 SPARE, 3 RETRY. A port lost under LANE_LOST trains with every lane offered
again (log entry 199). -/
def lnkCmd (s : State) (p : Fin 32) (v : Nat) : State :=
  match bits v 0 2 with
  | 1 => if linkState s p = 6 then startRetrain s p else s
  | 2 =>
    if (getPort s p.val).badLanes = [] ∧ bits v 4 4 < 8 then dropLane s p (bits v 4 4) 0 else s
  | 3 =>
    if (getPort s p.val).laneLost then startTraining (modPort s p.val (fun x => { x with laneLost := false, badLanes := [] })) p else s
  | _ => s

/-- A write of LNK.CREDIT: allotments above 512 flits are not applied (R244). -/
def creditRegWrite (s : State) (p : Fin 32) (v : Nat) : State :=
  if 64 < ((List.range 8).map (fun i => bits v (4 * i) 4)).sum then s else (Blk.lnk p).wr s 0x64 v

/-- LANE_CLEAR (R357): with an owner session, the port retrains with its failed lanes offered again. -/
def sprLaneClear (s : State) (v : Nat) : State :=
  if session s ≠ 2 then spr.raise s 0x0101 0 2
  else
    let p : Fin 32 := ⟨bits v 8 6 % 32, Nat.mod_lt _ (by decide)⟩
    let x := getPort s p.val
    let up := linkState s p = 6
    let s := setPort (spr.wr s 0x7C 1) p.val { x with clearing := some x.badLanes, badLanes := [], laneLost := false }
    if up then startRetrain s p else startTraining s p

end Sys2Proof.Machine
end

