-- ==== Sys2Proof/Machine/Boot.lean ====
section
/-! DEFINITION. Sys2Proof/Machine/Boot.lean: resets (R325, R326), boot (R327–R329, R385), the state block (R331), identity
(R332), images and staging (R333, R334), signed commands, sessions and scrub (R335–R338), and quotes (R339). -/
namespace Sys2Proof.Machine

/-! ### Device reset (R326) -/

/-- The registers of the VDD_AON domain (R326, R381). -/
def aonRegs : List Nat := [0x44, 0xC0, 0xC8, 0xCC]

/-- Rows 0x7F04–0x7FBF of every bank hold the repair data (R289). -/
def repairRow (o : Nat) : Bool := let r := pcoffOf o / 2 ^ 15; o < 0x8000000000 && 0x7F04 ≤ r && r ≤ 0x7FBF

/-- Everything volatile is discarded (R326): what stays is the flash and what describes it, the wear measures and units
awaiting replacement, the repair data in the reserved rows (R289, R338), the VDD_AON registers, the sensors, BOOT_SLOT, what the pins
and the board's bus show, the watchdog's last expiry (Table 16.1), and the model's own clock, counter and queue. -/
def discardVolatile (s : State) : State :=
  let z := { State.reset with
    pending := s.pending, now := s.now, freeCtr := s.freeCtr, answer := s.answer, flash := s.flash, badBlocks := s.badBlocks,
    logOldest := s.logOldest, logNext := s.logNext, powerOnS := s.powerOnS, waiting := s.waiting, wear := s.wear,
    hbmWorn := s.hbmWorn, temps := s.temps, scrubFailed := s.scrubFailed, thermHeld := s.thermHeld,
    jtag := s.jtag, mem := s.mem.filter (fun e => repairRow e.1), hbmErr := s.hbmErr.filter (fun e => repairRow (32 * e.1)),
    resetLow := s.resetLow, pwrgd := s.pwrgd, i2cMode := s.i2cMode, wdogAt := s.wdogAt }
  forEach (0x90 :: aonRegs) z (fun z o => svc.wr z o (svc.rd s o))

/-- A device reset with a cause bit (R326): recorded while the device is out of reset, and added when it coincides with
the recorded one. -/
def deviceReset (s : State) (cause : Nat) : State :=
  if s.held then
    if s.resetAt = some s.now then svc.setBit s 0x44 cause else s
  else svc.wr { discardVolatile s with held := true, resetAt := some s.now } 0x44 (2 ^ cause)

/-- VDD_AON_RISE (R326, R381): a cold start; the VDD_AON registers take their reset values. -/
def execVddAonRise (s : State) : Out :=
  .next (
    let z := { discardVolatile s with
      thermHeld := false, resetAt := none, held := true, mem := [], hbmErr := [], resetLow := true, pwrgd := false, wdogAt := none }
    svc.wr (svc.wr (svc.wr (svc.wr (svc.wr z 0x44 0) 0xC0 0) 0xC8 0) 0xCC 0x3F) 0x90 0)

/-- RESET_N_ASSERT (R326): held low for 10 µs or longer. -/
def execResetNAssert (s : State) : Out := .next { deviceReset s 1 with resetLow := true }

/-- PWRGD_FALL (R326). -/
def execPwrgdFall (s : State) : Out := .next { deviceReset s 0 with pwrgd := false }

/-- RESET_CMD (R326): 0xD1A5_0001 causes a device reset, other values nothing. -/
def resetCmdWrite (s : State) (v : Nat) : State := if v = 0xD1A50001 then deviceReset s 2 else s

/-- A sensor stands at a THERMTRIP_N limit (Table 18.4): a die at 125 °C, a stack at 105 °C. -/
def thermLimit (s : State) : Bool :=
  (List.range 21).any (fun n => 125 ≤ SMap.get d0 s.temps n) || (List.range 8).any (fun k => 105 ≤ SMap.get d0 s.temps (32 + k))

/-- THERMTRIP (R326): THERMTRIP_N is driven low and held until VIN_IVR is removed. -/
def execThermtrip (s : State) : Out := .next (if thermLimit s then { deviceReset s 3 with thermHeld := true } else s)

/-- VIN_IVR_REMOVED (R326): THERMTRIP_N is released. -/
def execVinIvrRemoved (s : State) : Out := .next { s with thermHeld := false }


/-- A second expiry within 24 h condemns a core (Table 16.1). DESIGN CHOICE (log entry 260): the spec does not say which; a fresh value
chooses among the working cores that serve. -/
def watchdogVerdict (s : State) : State :=
  let cores := (List.range 4).filter (fun n => bit (svc.rd s 0xAC) n && unitState s 5 n ≠ 1)
  let again : Bool := match s.wdogAt with
    | some t => s.now < t + 86400000000
    | none => false
  if again && !cores.isEmpty then
    let f := fresh s
    condemn f.2 5 (cores.getD (f.1 % cores.length) 0) 0 []
  else s

/-- WATCHDOG_EXPIRE (R326): the Barista watchdog, unless WDOG_PERIOD is 0. -/
def execWatchdogExpire (s : State) : Out :=
  .next (if svc.rd s 0xB0 = 0 then s
    else if s.held then deviceReset s 4 else deviceReset { watchdogVerdict s with wdogAt := some s.now } 4)

/-! ### The state block (R331, Table 15.4) -/

structure StateBlk where
  gen : Nat := 0
  svn : Nat := 0
  flags : Nat := 0
  ctr : Nat := 0
  owner : List Byte := []
  operator : List Byte := []
  deriving DecidableEq, Repr

/-- A copy's bytes, and whether its MAC is valid. -/
def stateCopy (s : State) (c : Nat) : List Byte := readFlash s (0x1000 * c) 0xE40
def macOk (bs : List Byte) : Bool := (bs.drop 0xE20).take 32 == shake256 32 (kMac ++ bs.take 0xE20)

/-- The fields of a copy. -/
def parseState (bs : List Byte) : StateBlk :=
  { gen := qw bs 0, svn := leNat ((bs.drop 8).take 4), flags := leNat ((bs.drop 12).take 4), ctr := qw bs 2,
    owner := (bs.drop 0x18).take 1793, operator := (bs.drop 0x719).take 1793 }

/-- The copy in force: a valid MAC and the higher GEN. -/
def selectedState (s : State) : Option (Nat × StateBlk) :=
  let a := stateCopy s 0
  let b := stateCopy s 1
  let pa := parseState a
  let pb := parseState b
  match macOk a, macOk b with
  | true, true => if pa.gen < pb.gen then some (1, pb) else some (0, pa)
  | true, false => some (0, pa)
  | false, true => some (1, pb)
  | false, false => none

/-- The copy's bytes for given fields. -/
def stateBytes (b : StateBlk) : List Byte :=
  let body := leBytes 8 b.gen ++ leBytes 4 b.svn ++ leBytes 4 b.flags ++ leBytes 8 b.ctr ++ padTo 1793 b.owner ++
    padTo 1793 b.operator ++ List.replicate 6 0
  body ++ shake256 32 (kMac ++ body)

/-- Show the state block in force (Tables 15.10, 15.11). -/
def showState (s : State) (b : StateBlk) : State :=
  let s := svc.wr s 0x8C b.svn
  let s := sec.wr (sec.wr (sec.wr s 0x60 b.ctr) 0x68 b.gen) 0x70 b.flags
  let dig (valid : Bool) (k : List Byte) : List Byte := if valid then shake256 64 k else List.replicate 64 0
  setRegBytes8 (setRegBytes8 s sec 0xC0 8 (dig (bit b.flags 0) b.owner)) sec 0x100 8 (dig (bit b.flags 1) b.operator)

/-- Write a new state: the other copy is erased and programmed with GEN + 1 (R331). False when the flash fails. -/
def writeState (s : State) (b : StateBlk) : Bool × State :=
  match selectedState s with
  | none => (false, s)
  | some (c, old) =>
    if s.badBlocks.contains 0 then (false, s)
    else
      let b := { b with gen := old.gen + 1 }
      let o := 0x1000 * (1 - c)
      (true, showState (writeFlash (eraseFlash s o (o + 0x1000)) o (stateBytes b)) b)

/-! ### Images (R333) -/

/-- The base of an image slot. -/
def imageBase (slot : Nat) : Nat := if slot = 0 then 0x100000 else 0x2100000

/-- M_fw of an image: its first 16 header bytes followed by the code. -/
def imageDigest (hdr code : List Byte) : List Byte := shake256 64 (hdr.take 16 ++ code)

/-- An image is accepted (R333) under a lowest security version. -/
def imageOk (hdr code : List Byte) (svn : Nat) : Bool :=
  let root := (hdr.drop 0x10).take 1793
  let signer := (hdr.drop 0x711).take 1793
  shake256 64 root == Config.rootDigest &&
    Config.falconVerify root (shake256 64 signer) ((hdr.drop 0xE12).take 1280) &&
    Config.falconVerify signer (imageDigest hdr code) ((hdr.drop 0x1312).take 1280) &&
    decide (svn ≤ leNat ((hdr.drop 4).take 4)) && decide (leNat ((hdr.drop 12).take 4) ≤ 0x01FFE000)

/-- The header and the code in a slot. -/
def slotImage (s : State) (slot : Nat) : List Byte × List Byte :=
  let h := readFlash s (imageBase slot) 0x2000
  (h, readFlash s (imageBase slot + 0x2000) (min 0x01FFE000 (leNat ((h.drop 12).take 4))))

/-- Run an image (R333): FW_SLOT, FW_VERSION, FW_SVN, M_fw. -/
def runImage (s : State) (slot : Nat) (fallback : Bool) : State :=
  let i := slotImage s slot
  let s := { s with mfw := imageDigest i.1 i.2, fwSigner := (i.1.drop 0x711).take 1793 }
  svc.wr (svc.wr (svc.wr s 0x80 (slot + 2 * b2n fallback)) 0x84 (leNat ((i.1.drop 8).take 4))) 0x88 (leNat ((i.1.drop 4).take 4))

/-! ### Rebuilding from the Roast Log (R354) -/

/-- A map written by `mapBytes`, and the bytes after it. -/
def parseMap (bs : List Byte) : SMap Nat × List Byte :=
  let n := qw bs 0
  let rest := bs.drop 8
  (((List.range (min n (rest.length / 8))).map (fun i => (leNat ((rest.drop (8 * i)).take 4), leNat ((rest.drop (8 * i + 4)).take 4)))).foldl
    (fun m e => SMap.set d0 m e.1 e.2) [], rest.drop (8 * n))

/-- The physical tiles of the first `n` slots of an LMAP. -/
def parseLmap (bs : List Byte) (n : Nat) : List Nat :=
  (List.range n).map (fun t => let w := leNat ((bs.drop (4 * (t / 2))).take 4); if t % 2 = 0 then bits w 0 8 else bits w 16 8)

/-- Spare units at shipment (Table 16.1): the tiles the shipped map leaves out, the spare sequencers, core and banks. -/
def shippedUnits (west east : List Nat) : SMap Nat :=
  let sp := ((List.range 160).filter (fun p => !(west.contains p) && !(east.contains p))).map (fun p => unitKey 0 p)
  let sq := (List.range 160).flatMap (fun t => [unitKey 4 (256 * t + 4), unitKey 4 (256 * t + 5)])
  (sp ++ sq ++ [unitKey 5 3, unitKey 7 16, unitKey 7 17]).foldl (fun m k => SMap.set d0 m k 1) []

/-- Free spares of a class from the units and pools (Table 16.1, R356). -/
def countFree (s : State) (cls : Nat) : Nat :=
  let spares := (s.units.filter (fun e => e.1 / 2 ^ 24 = cls && e.2 = 1)).length
  let used := ((s.unitSpare.filter (fun e => e.1 / 2 ^ 24 = cls)).map (·.2)).foldl (· + ·) 0
  match cls with
  | 1 => 71680 - used
  | 2 => 32 - used
  | 3 => 32 - (s.unitSpare.filter (fun e => e.1 / 2 ^ 24 = 3)).length
  | 6 => 32768 - s.spareRows.length
  | _ => spares

/-- The unit of a record of kind unrepaired, from PC_REPAIR and the record's pin or pcoff (R301, Table 16.5): a pin once both lanes are
in use and two pins are marked, else a row. DEDUCED (log entry 194): the record has no field that tells the two apart, and a pin
goes over budget only then. -/
def keptPart (rep v : Nat) : HbmFail :=
  if v < 36 ∧ bits rep 16 2 = 2 ∧ bits rep 8 6 ≠ 0x3F then .pin v else .row (rowBank v) false

/-- Note VF values of district `n` that the Roast Log holds, from bytes of an index and a value in mV, 4 bytes each. DESIGN CHOICE (log
entry 205): a TRIM record's payload is the district in 8 bytes and such pairs; GENESIS holds 9 values of 4 bytes for each district. -/
def noteVf (s : State) (n : Nat) (bs : List Byte) : State :=
  forEach (List.range (bs.length / 8)) s (fun s i =>
    { s with vfRec := SMap.set d0 s.vfRec (16 * n + leNat ((bs.drop (8 * i)).take 4) % 16) (leNat ((bs.drop (8 * i + 4)).take 4)) })

/-- A pending row has been hard-repaired (R300): it is pending no longer, and the device spare rows that served it are free again. -/
def hardRepaired (s : State) (pc row : Nat) : State :=
  let due := if SMap.get d0 s.pprRows (16 * pc + row % 16) = row + 1 then 1 else 0
  let mine (e : Nat × Nat) : Bool := decide (e.1 / 64 = pc) && decide (e.2 = row + 1)
  let rep := pcRepair s pc
  let s := putRepair s pc 18 5 (bits rep 18 5 - due)
  let s := putRepair s pc 24 7 (bits rep 24 7 - (s.spareRows.filter mine).length)
  { s with pprRows := SMap.set d0 s.pprRows (16 * pc + row % 16) (if due = 1 then 0 else SMap.get d0 s.pprRows (16 * pc + row % 16)),
           spareRows := s.spareRows.filter (fun e => !mine e) }

/-- Apply one record to the state (R354): SPARE, HBM_REPAIR, TRIM, LANE_CLEAR, RETIRE. -/
def applyRecord (s : State) (r : LogRec) : State :=
  let p := r.payload s
  let w (i : Nat) : Nat := leNat ((p.drop (4 * i)).take 4)
  match r.type with
  | 3 =>
    let q0 := qw p 0
    let cls := bits q0 0 3
    let reason := bits q0 4 4
    let u := w 2
    let sp := w 3
    let gone := if reason = 1 ∨ reason = 2 then 4 else 3
    if sp = 0xFFFFFFFF then
      if cls = 3 then { s with portRec := SMap.set d0 s.portRec u (min 2 (SMap.get d0 s.portRec u + 1)) }
      else setUnit s cls u gone
    else
      let put (l : List Nat) : List Nat := l.map (fun x => if x = u then sp else x)
      let s := if cls = 0 then { s with west := put s.west, east := put s.east } else s
      let s := setUnitSpare s cls u sp
      if cls = 0 ∨ cls = 4 ∨ cls = 5 ∨ cls = 7 then setUnit (setUnit s cls u gone) cls sp 0 else s
  | 4 =>
    let pc := 64 * w 0 + w 1
    let row := w 3 / 2048
    match w 2 with
    | 0 => putRepair s pc 16 2 (bits (pcRepair s pc) 16 2 + 1)
    | 1 => putRepair { s with pprRows := SMap.set d0 s.pprRows (16 * pc + row % 16) (row + 1) } pc 18 5 (bits (pcRepair s pc) 18 5 + 1)
    | 2 => match freeSpare s pc row with
      | some n => serveRow s pc row n
      | none => s
    | 3 => hardRepaired s pc row
    | 4 => if bits (pcRepair s pc) 0 6 = 0x3F then putRepair s pc 0 6 (w 3) else putRepair s pc 8 6 (w 3)
    | _ => { putRepair s pc 31 1 1 with hbmKept := s.hbmKept ++ [(pc, keptPart (pcRepair s pc) (w 3))] }
  | 8 => noteVf s (qw p 0) (p.drop 8)
  | 9 => { s with retired := true }
  | 12 =>
    let n := (List.range 9).countP (fun l => bit (w 2) l)
    let s := { s with portRec := SMap.set d0 s.portRec (w 0) (if n < 2 then 0 else n - 1) }
    if n = 0 then freeLane s (w 0) else s
  | _ => s

/-- The tiles marked gone that still stand in the map leave it, the highest survivor taking the number (R27). -/
def dropGone (s : State) : State :=
  forEach ((List.range 160).filter (fun p => 3 ≤ unitState s 0 p && !(s.waiting.any (fun w => w.1 = 0 && w.2.1 = p)))) s (fun s p =>
    { s with west := dropTile s.west p, east := dropTile s.east p })

/-- The latest complete SUMMARY of some records: the sequence of its last part, and the state that its parts carry. -/
def lastSummary (s : State) (recs : List LogRec) : Option (Nat × List Byte) :=
  let sums := recs.filter (fun r => r.type = 10)
  let part (r : LogRec) : Nat × Nat := let p := r.payload s; (leNat (p.take 4), leNat ((p.drop 4).take 4))
  let ends := sums.filter (fun r => (part r).1 + 1 = (part r).2 &&
    (List.range (part r).2).all (fun i => sums.any (fun q => q.seq + (part r).2 = r.seq + 1 + i && (part q).1 = i)))
  ends.getLast?.map (fun e =>
    (e.seq, (sums.filter (fun q => e.seq < q.seq + (part e).2 && q.seq ≤ e.seq)).flatMap (fun q => (q.payload s).drop 168)))

/-- The grade the Roast Log last gives (R353): that of its latest BOOT or GRADE record, or of the SUMMARY; A where it gives none. -/
def lastGrade (s : State) : Nat :=
  let recs := logRecords s
  let base := match lastSummary s recs with
    | some (_, body) => leNat ((body.drop 332).take 4)
    | none => 0
  recs.foldl (fun g r =>
    if r.type = 2 then bits (leNat (((r.payload s).drop 72).take 4)) 0 2
    else if r.type = 5 then bits (leNat (((r.payload s).drop 4).take 4)) 0 2 else g) (bits base 0 2)

/-- Rebuild the spare map and the unit states (R354) from the latest complete SUMMARY, or from GENESIS. -/
def rebuild (s : State) : State :=
  let recs := logRecords s
  let s := match lastSummary s recs with
    | some (seq, body) =>
      let nw := leNat (body.take 4)
      let ne := leNat ((body.drop 4).take 4)
      let m := parseLmap (body.drop 8) (nw + ne)
      let u := parseMap (body.drop 336)
      let sp := parseMap u.2
      let po := parseMap sp.2
      let pr := parseMap po.2
      let ro := parseMap pr.2
      let pp := parseMap ro.2
      let s := { s with west := m.take nw, east := m.drop nw, units := u.1, unitSpare := sp.1, portRec := po.1,
                        spareRows := ro.1, pprRows := pp.1,
                        hbmKept := (parseMap pp.2).1.map (fun e => (e.1 / 2 ^ 20, wornPart (e.1 % 2 ^ 20))),
                        vfRec := (parseMap (parseMap pp.2).2).1, retired := bit (leNat ((body.drop 328).take 4)) 0 }
      let s := forEach pr.1 s (fun s e => (hbmPage e.1).wr s (0x80 + 4 * hbmK e.1) e.2)
      forEach (recs.filter (fun r => seq < r.seq)) s applyRecord
    | none =>
      let g := match recs.find? (fun r => r.type = 1) with
        | some r => parseLmap ((r.payload s).drop 72) 144
        | none => []
      let s := { s with west := g.take 72, east := g.drop 72, units := shippedUnits (g.take 72) (g.drop 72) }
      let s := match recs.find? (fun r => r.type = 1) with
        | some r => forEach (List.range 20) s (fun s n => noteVf s n ((List.range 9).flatMap (fun i =>
            leBytes 4 i ++ ((r.payload s).drop (392 + 36 * n + 4 * i)).take 4)))
        | none => s
      forEach recs s applyRecord
  dropGone s

/-! ### Boot (R327) -/

/-- Limits of steps 1 to 8 in µs (Table 15.2); step 3 has 200 ms for each slot. -/
def stepLimit : Nat → Nat
  | 1 => 1000 | 2 => 100000 | 3 => 400000 | 4 => 1000000 | 5 => 50000 | 6 => 500000 | 7 => 2000000 | _ => 150000

/-- STEP_TIME[n] (R327): the µs that step `n` took. -/
def stepTime (s : State) (n t : Nat) : State := svc.wr s (0x50 + 4 * (n - 1)) (min t 0xFFFFFFFF)

/-- BOOT_FAIL at step `n` with a code (R327). -/
def bootFail (s : State) (n code : Nat) : State :=
  alert (svc.event (svc.wr s 0x40 (12 + 256 * n + 2 ^ 16 * (code % 2 ^ 16))) 17) 0

/-- The code of a step over its limit: that of Table 15.2, the first where it gives several; a fresh value where it gives
none. -/
def timeoutCode (s : State) (n : Nat) : Nat × State :=
  match n with
  | 1 => (0x0201, s)
  | 2 => (0x0202, s)
  | 4 => (0x0206, s)
  | _ => fresh s

/-- What a boot step leaves: the next step may run, or boot stops here. -/
inductive StepEnd where
  | go (s : State)
  | stop (s : State)

/-- RECOVERY (R327, R329). -/
def enterRecovery (s : State) : State := svc.event (svc.wr { s with recov := [] } 0x40 (13 + 256 * 3)) 17

/-- A Junction die block that keeps ENABLE 0 (R385). -/
def staysOff (s : State) : Blk → Bool
  | .hst => !isBridge s
  | .lnk p => isBridge s && decide (30 ≤ p.val)
  | _ => false

/-- The Barista enables the Junction die blocks, and locks them at the end (R34, R385). -/
def enableJunction (s : State) (lock : Bool) : State :=
  forEach junctionBlocks s (fun s b =>
    if staysOff s b then (if lock then b.wr s 0x10 (2 ^ 31) else s) else b.wr s 0x10 (1 + (if lock then 2 ^ 31 else 0)))

/-- The straps are sampled at the release of RESET_N (R376). -/
def sampleStraps (env : BootEnv) (s : State) : State :=
  let applied := env.hostMode && decide (env.boardPos.val = 0)
  let s := svc.wr s 0xC4 (env.boardPos.val + 8 * b2n env.hostMode + 16 * b2n applied)
  if env.hostMode ∧ env.boardPos.val ≠ 0 then alert s 4 else s

/-- Step 1: rails (R371) and reference clock; the Junction die blocks are enabled before the first step that uses one (R385). -/
def bootRails (env : BootEnv) (s : State) : StepEnd :=
  let s := svc.wr (enableJunction s false) 0xD4 (env.rails % 16)
  if env.rails % 16 = 15 ∧ env.clockOk then .go s else .stop (bootFail s 1 0x0201)

/-- More than 15 % of the 65,536 cells of the PUF array are flipped (R332). -/
def pufFails (env : BootEnv) : Bool := decide (9830 < env.pufCells)

/-- Step 2: identity (R332) and the state block (R331). -/
def bootIdentity (env : BootEnv) (s : State) : StepEnd :=
  let s := setRegBytes8 s sec 0x1080 8 Config.rootDigest
  if pufFails env then .stop (bootFail s 2 0x0202)
  else
    let s := sec.wr s 0x1040 env.pufCells
    let s := setRegBytes8 s sec 0x80 8 idDigest
    let cert := s.flash.filter (fun e => 0x40000 ≤ e.1 && e.1 < 0x100000)
    if !Config.certificateHolds cert idDigest then .stop (bootFail s 2 0x0203)
    else match selectedState s with
      | none => .stop (bootFail s 2 0x0204)
      | some (_, b) => .go (showState s b)

/-- The image in a slot is accepted (R333). -/
def slotGood (s : State) (k : Nat) : Bool := let i := slotImage s k; imageOk i.1 i.2 (svc.rd s 0x8C)

/-- The slot that BOOT_SLOT does not name, tried next (R333): its image runs as a fallback, or both slots are bad. -/
def otherImage (s : State) : StepEnd :=
  let other := 1 - bits (svc.rd s 0x90) 0 1
  if slotGood s other then .go (runImage s other true) else .stop (enterRecovery s)

/-- Step 3, in `t` µs: the active image within its 200 ms, then the other slot (R333, Table 15.2). -/
def bootImage (t : Nat) (s : State) : StepEnd :=
  let first := bits (svc.rd s 0x90) 0 1
  if slotGood s first ∧ t ≤ 200000 then .go (runImage s first false) else otherImage s

/-- Show the log (Table 16.8), and BOOT_COUNT (Table 15.10). -/
def showLog (s : State) : State :=
  let recs := logRecords s
  let s := match recs.getLast? with
    | some h => setRegBytes8 (logB.wr (logB.wr s 0x40 (h.seq + 1)) 0x48 h.off) logB 0x80 8 (h.digest s)
    | none => s
  let energy := match recs.reverse.find? (fun r => r.type = 7) with
    | some r => qw (r.payload s) 0
    | none => 0
  let s := logB.wr (logB.wr (logB.wr (logB.wr s 0x4C s.logOldest) 0x50 (freeBlocks s)) 0x58 energy) 0x60 (poweredSeconds s / 3600)
  svc.wr s 0x4C ((typeCounts s).getD 1 0 + 1)

/-- The records found by walking the flash from the oldest, whatever LOG_COUNT holds. -/
def foundRecords (s : State) : List LogRec := walkLog s 200000 none s.logOldest

/-- Step 4: the Roast Log is loaded and verified (R354). A torn head is erased; any other failure stops boot. -/
def bootLog (s : State) : StepEnd :=
  let recs := foundRecords s
  let ok (l : List LogRec) : Bool := match l.getLast? with
    | none => true
    | some h => l.all (fun r => r.marked s) && h.signed s && chained s l && (l.filter (fun r => r.type = 10)).all (fun r => r.signed s)
  let count (l : List LogRec) (s : State) : State := logB.wr s 0x40 ((l.getLast?.map (fun h => h.seq + 1)).getD 0)
  if ok recs then .go (showLog (count recs s))
  else if ok recs.dropLast then
    match recs.getLast? with
    | some h =>
      let s := { eraseFlash s h.off (h.off + 96 + h.len + 1280) with logNext := h.off }
      .go (showLog (count recs.dropLast s))
    | none => .go s
  else .stop (bootFail s 4 0x0206)

/-- Why the device is RETIRED (Table 16.5): 1 a stack lost, 2 fewer than 3 cores, 0 the grade below C of its counts. -/
def retireCause (s : State) : Nat := if stackLost s then 1 else if coreCount s < 3 then 2 else 0

/-- The grade of the units as a boot step finds them: below C takes the RETIRED path (R327, R328). -/
def gradeAtBoot (s : State) : State :=
  let s := showLmap s
  if liveGrade s 0 = 3 then recordRetired s (retireCause s) else s

/-- Step 5: the spare map and the units (R354), the units still awaiting a drain point (R346), the grade (R348). -/
def bootMap (env : BootEnv) (s : State) : StepEnd :=
  let waiting := s.waiting
  let s := rebuild { s with waiting := waiting }
  let s := showLmap s
  let s := forEach waiting s (fun s w => if unitState s w.1 w.2.1 = 0 then setUnit s w.1 w.2.1 (if w.2.2 % 256 = 1 then 4 else 2) else s)
  let s := forEach (List.range 8) s (fun s c => spr.wr s (0x40 + 4 * c) (countFree s c))
  let s := svc.wr s 0xAC (let used := match (List.range 4).find? (fun u => SMap.get d0 s.unitSpare (unitKey 5 u) ≠ 0) with
      | some u => 16 * (u + 4) | none => 0
    ((List.range 4).filter (fun n => unitState s 5 n ≤ 2)).foldl (fun m n => m + 2 ^ n) used)
  let s := forEach ((List.range 4).filter (fun n => !bit env.cores n && bit (svc.rd s 0xAC) n)) s (fun s n => loseCore s n 1 true)
  let s := forEach (waiting.map (fun w => (w.1, w.2.1))) s (fun s w => bringIn { s with waiting := s.waiting.map (fun x =>
    if x.1 = w.1 ∧ x.2.1 = w.2 ∧ x.1 = 0 then (x.1, x.2.1, x.2.2 % 256) else x) } w.1 w.2 [])
  .go (gradeAtBoot (showCondemned (dropLeaving (settleTiles s))))

/-- The TRIM record of a district (Table 16.5): its VF values that have moved by more than DRIFT_LIMIT from those the Roast Log holds. -/
def trimRecord (s : State) (n : Nat) : State :=
  let vf (i : Nat) : Nat := cal.rd s (0x1040 + 64 * n + 4 * i)
  let moved := (List.range 9).filter (fun i =>
    let old := SMap.get d0 s.vfRec (16 * n + i)
    old ≠ 0 && decide (bits (cal.rd s 0x48) 8 8 < max old (vf i) - min old (vf i)))
  if moved = [] then s
  else
    let body := moved.flatMap (fun i => leBytes 4 i ++ leBytes 4 (vf i))
    noteVf (appendRecord s 0x0008 (leBytes 8 n ++ body)) n body

/-- Step 6: calibration of every island (VF, Table 14.5), and Near Memory is zero. A tile that fails is treated as worn, and a
sequencer that fails its self-test is condemned (Table 16.1). -/
def bootCalibrate (env : BootEnv) (s : State) : StepEnd :=
  let s := forEach (List.range 20) s (fun s n => forEach (List.range 9) s (fun s i =>
    cal.wr s (0x1040 + 64 * n + 4 * i) (((env.vf.getD n []).getD i 750) % 4096)))
  let s := forEach (List.range 20) s trimRecord
  let s := { s with halfMv := [160, 161, 162, 163].foldl (fun m k => SMap.set d0 m k 1500) s.halfMv }
  let s := forEach (List.range 20) s (fun s n =>
    showDistrict { s with halfMv := SMap.set d0 s.halfMv n (2 * bootMv s n 1600) } n 1600)
  let s := forEach (env.badTiles.filter (· < 160)) s (fun s p => bringIn (condemnTile s p 0) 0 p [])
  let s := forEach env.badSeqs s (fun s u => bringIn (bringIn (condemn s 4 u 0 []) 4 u []) 0 (u / 256) [])
  .go (gradeAtBoot (dropLeaving s))

/-- The bursts of a pseudo-channel that a zeroing writes: all but those of the rows of the repair data (R338). -/
def zeroedBursts : Nat := (0x8000 - 0xBC) * 1024

/-- Every pseudo-channel's bursts are written, or read back, once (R384). -/
def sweepEnergy (s : State) : State := forEach (List.range 512) s (fun s pc => burstEnergy s pc zeroedBursts)

/-- Step 7: the HBM repairs stand, pending rows are hard-repaired and their device spare rows freed (R300), lost stacks are
marked (R301), and all of HBM is zero but for the rows that hold the repair data (R289, R338), with the maps of the repairs. -/
def bootHbm (env : BootEnv) (s : State) : StepEnd :=
  let s := sweepEnergy { s with
    mem := s.mem.filter (fun e => repairRow e.1), hbmErr := s.hbmErr.filter (fun e => repairRow (32 * e.1)), tags := [] }
  let s := forEach (repairMap s) s (fun s e => mapStore (if (markedPins s e.1).isEmpty then s else mapStore s e.1 0x7F05) e.1 0x7F04)
  let s := if env.pprOk then
      forEach s.pprRows s (fun s e =>
        let pc := e.1 / 16
        let row := e.2 - 1
        let s := repairRecord s pc 3 (row * 2048)
        let held := (s.spareRows.filter (fun x => x.1 / 64 = pc && x.2 = e.2)).length
        let s := hardRepaired s pc row
        spr.wr s 0x58 (spr.rd s 0x58 + held))
    else s
  let s := forEach (List.range 8) s (fun s k =>
    let s := setStackState s k (fun v => putBits v 16 11 ((s.pprRows.filter (fun e => e.1 / 1024 = k)).length))
    if env.lostStacks.contains k then setStackState s k (fun v => putBits v 0 2 2) else reviewStack s k)
  .go (if stackLost s then recordRetired s (retireCause s) else s)

/-- Step 8: link training on all enabled ports (R228). -/
def bootLinks (s : State) : State := forEach (List.finRange 32) s (fun s p => startTraining s p)

/-- The work of step `n`. -/
def bootWork (env : BootEnv) (n : Nat) (s : State) : StepEnd :=
  match n with
  | 1 => bootRails env s
  | 2 => bootIdentity env s
  | 3 => bootImage (env.times.getD 2 0) s
  | 4 => bootLog s
  | 5 => bootMap env s
  | 6 => bootCalibrate env s
  | 7 => bootHbm env s
  | _ => .go s

/-- A step before the eighth is past its limit (R327). -/
def stepOverrun (s : State) (n : Nat) : State :=
  if n = 3 then enterRecovery s else let c := timeoutCode s n; bootFail c.2 n c.1

/-- Steps `n` to 8, then the wait of step 9 (Table 15.2). A step that does not end stays in progress. Step 8 starts training on every
port, and its limit ends it. -/
def bootSteps (env : BootEnv) : Nat → Nat → State → State
  | 0, _, s => { svc.wr s 0x40 9 with stepFrom := s.now }
  | fuel + 1, n, s =>
    let s := svc.wr s 0x40 n
    let s := if n = 8 then bootLinks s else s
    if env.stall = n then { s with bootEnv := some env }
    else
      let t := env.times.getD (n - 1) 0
      let s := stepTime s n (min t (stepLimit n))
      if stepLimit n < t ∧ n ≠ 8 then stepOverrun s n
      else match bootWork env n s with
        | .go s => bootSteps env fuel (n + 1) s
        | .stop s => s

/-- RESET_N_RELEASE (R327, R372): the end of a device reset, with PWRGD high (Table 15.1) and the straps sampled. A bridge device with a
host clock on PCIE_REFCLK takes common-clock operation. The Barista runs boot steps 1 to 8 and waits in step 9 for the fabric manager;
a step that does not end leaves BOOT_STATE at its code. -/
def execResetNRelease (env : BootEnv) (s : State) : Out :=
  .next (if !s.held ∨ s.thermHeld then s else bootSteps env 8 1 (sampleStraps env
    { s with held := false, resetLow := false, pwrgd := true, stepFrom := s.now,
             commonClock := env.hostMode && decide (env.boardPos = 0) && env.pcieClock }))

/-- The first slot of step 3 is past its 200 ms: the other slot is tried, in its own 200 ms (Table 15.2). -/
def imageTimeout (env : BootEnv) (s : State) : State :=
  let t := env.times.getD 2 0
  let s := stepTime s 3 (200000 + min t 200000)
  if 200000 < t then enterRecovery s
  else match otherImage s with
    | .go s => bootSteps env 5 4 s
    | .stop s => s

/-- BOOT_STEP_TIMEOUT (R327): the step in progress, 1 to 8, exceeds its limit. -/
def execBootStepTimeout (s : State) : Out :=
  .next (
    let n := bits (svc.rd s 0x40) 0 4
    let env := s.bootEnv.getD {}
    if s.held ∨ n = 0 ∨ 8 < n then s
    else
      let s := { s with bootEnv := none }
      if n = 3 then imageTimeout env s
      else if n = 8 then bootSteps env 0 9 (stepTime s 8 (stepLimit 8))
      else stepOverrun (stepTime s n (stepLimit n)) n)

/-- A BOOT record (Table 16.5). -/
def bootRecord (s : State) : State :=
  appendRecord s 0x0002 (padTo 64 s.mfw ++ leBytes 4 (svc.rd s 0x8C) ++ leBytes 4 (svc.rd s 0x44) ++ leBytes 4 (svc.rd s 0x1044) ++
    leBytes 4 0)

/-- The OWNERSHIP record (Table 16.5). -/
def ownershipRecord (s : State) (op signer ctr : Nat) (pkDigest : List Byte) (bad : Bool) (us : Nat) : State :=
  appendRecord s 0x0006 (leBytes 4 op ++ leBytes 4 signer ++ leBytes 8 ctr ++ padTo 64 pkDigest ++ leBytes 4 (b2n bad) ++ leBytes 4 us)

/-- Which signers an OP allows (Table 15.7): 1 vendor, 2 owner, 3 operator. -/
def allowedSigners : Nat → List Nat
  | 1 => [1, 2] | 3 => [1] | 4 => [2] | 5 => [2] | 6 => [2, 3] | 7 => [1] | _ => []

/-- Who signed a command that a reset interrupted, and the digest of its NEW_PK (R336). The state block holds neither: the signer is a
fresh value where Table 15.7 allows two, and the key is the one the command installed, zero where it installs none. -/
def pendingSigner (s : State) (op : Nat) : Nat × State :=
  match allowedSigners op with
  | [x] => (x, s)
  | l => let f := fresh s; (l.getD (f.1 % max 1 l.length) 0, f.2)
def pendingKey (b : StateBlk) (op : Nat) : List Byte :=
  shake256 64 (if op = 3 ∨ op = 4 then b.owner else if op = 5 then b.operator else List.replicate 1793 0)

/-- STEP_TIME[10] and STEP_TIME[11] (R327): two fresh values, the first within the 1 ms of step 10. -/
def bootTimes (s : State) : State :=
  let a := fresh s
  let b := fresh a.2
  stepTime (stepTime b.2 10 (a.1 % 1001)) 11 b.1

/-- Steps 10 and 11 (R327, R328, R385): the page is published, the record of an interrupted command and the BOOT record are
appended, the blocks are locked, FW_SVN is raised, and partitions are accepted; or the device enters RETIRED. -/
def bootJoin (s : State) : State :=
  let s := svc.wr (stepTime s 9 (s.now - s.stepFrom)) 0x40 10
  let s := if liveGrade s 0 = 3 then recordRetired s (retireCause s) else s
  let g := if s.retired then 3 else liveGrade s 0
  let s := if g = lastGrade s then s else gradeRecord s (lastGrade s + (if isBridge s then 2 ^ 8 else 0)) g
  let s := publish s g
  let s := if anyKept s then setPending s 3 else s
  let s := match selectedState s with
    | some (_, b) =>
      if bit b.flags 3 then
        let op := bits b.flags 8 4
        let w := pendingSigner s op
        let s := ownershipRecord w.2 op w.1 b.ctr (pendingKey b op) false 0
        (writeState s { b with flags := b.flags % 4 }).2
      else s
    | none => s
  let s := bootTimes (bootRecord s)
  let s := enableJunction s true
  if s.retired then alert (spr.event (svc.wr s 0x40 14) 20) 3
  else
    let s := match selectedState s with
      | some (_, b) => if b.svn < svc.rd s 0x88 then (writeState s { b with svn := svc.rd s 0x88 }).2 else s
      | none => s
    svc.event (svc.wr s 0x40 11) 16

/-- A write of FAB.SELF_ID (R327 step 9, Table 10.10): with VALID, in step 9, it joins the fabric and boot ends. -/
def selfIdWrite (s : State) (v : Nat) : State :=
  let s := fab.wr s 0x40 (v % 2 ^ 17 + (if bit v 31 then 2 ^ 31 else 0))
  if bit v 31 ∧ bits (svc.rd s 0x40) 0 4 = 9 ∧ !s.held then bootJoin s else s

/-- The management target answers a transfer (R374): in I3C mode, and in legacy I2C mode at its static address 0x50 + BOARD_POS. -/
def i3cAnswers (s : State) (addr : Option Nat) : Bool :=
  match addr with
  | none => true
  | some a => a = 0x50 + bits (svc.rd s 0xC4) 0 3

/-- The mode of the bus is that of the transfer it last carried. DESIGN CHOICE (log entry 261): the spec does not say what selects it. -/
def i3cMode (s : State) (addr : Option Nat) : State := { s with i2cMode := addr.isSome }

/-- RECOVERY image bytes (R329, Table 18.3): in RECOVERY they are appended in order to slot A; once LENGTH bytes of code are
in, or the slot is full, the image is verified and booted through a device reset, or erased. -/
def recoveryBytes (data : List Byte) (s : State) : State :=
    if bits (svc.rd s 0x40) 0 4 ≠ 13 ∨ s.held ∨ data = [] ∨ 256 < data.length then { s with answer := { status := 3 } }
    else
      let data := data.take (0x2000000 - s.recov.length)
      let img := s.recov ++ data
      let s := { writeFlash s (imageBase 0 + s.recov.length) data with recov := img, answer := { status := 0 } }
      let need := 0x2000 + min 0x01FFE000 (leNat ((img.drop 12).take 4))
      if img.length < 0x2000 ∨ img.length < need then s
      else if imageOk (img.take 0x2000) ((img.take need).drop 0x2000) (svc.rd s 0x8C) then
        { discardVolatile s with held := true, resetAt := none }
      else { eraseFlash s (imageBase 0) (imageBase 1) with recov := [] }

/-- I3C_RECOVERY (R329, R374): a transfer that begins with 0x10; one that begins with an unknown command returns status 3. READ32 and
WRITE32 are other commands'. -/
def execI3cRecovery (x : I3cTransfer) (s : State) : Out :=
  .next (
    if !i3cAnswers s x.addr ∨ x.cmd = 0x01 ∨ x.cmd = 0x02 then s
    else
      let s := i3cMode s x.addr
      if x.cmd = 0x10 then recoveryBytes x.data s else { s with answer := { status := 3 } })

/-! ### Accesses of the Barista to management memory (R39) -/

/-- An access error counted by the security block: 1 ACCESS_DENIED, 2 UNMAPPED. -/
def secError (s : State) (code p o : Nat) : State := sec.raise s code p (o % 2 ^ 32)

/-- Whether the management partition may access a span; a refusal is counted (Table 2.11). -/
def mgmtSpan (s : State) (o n : Nat) (write : Bool) : Bool × State :=
  let st := spanStatus s o n 0 write
  if st = stOk then (true, s) else (false, secError s (if st = stUnmapped then 2 else 1) 0 o)

/-- Bytes that the Barista reads in management HBM; none when they cannot be read there. -/
def readMgmtHbm (s : State) (o n : Nat) : Option (List Byte) × State :=
  let c := mgmtSpan s o (max n 1) false
  match placeOf o with
  | .hbm _ => if c.1 then readLocal c.2 0 o n true else (none, c.2)
  | _ => (none, c.2)

/-! ### Staging (R334) -/

/-- STAGE_GO. -/
def stageGo (s : State) : State := if bits (svc.rd s 0xA8) 0 2 = 1 then s else svc.wr s 0xA8 1

/-- STAGE_DONE (R334): the image at STAGE_SRC is checked and programmed into the slot that is not running; `ok` says that
the flash took it. -/
def execStageDone (ok : Bool) (s : State) : Out :=
  .next (
    if bits (svc.rd s 0xA8) 0 2 ≠ 1 then s
    else
      let src := svc.rd s 0x98
      let len := min (svc.rd s 0xA0) 0x2000000
      let other := 1 - bits (svc.rd s 0x80) 0 1
      let r := readMgmtHbm s src len
      let s := r.2
      let fail := svc.raise (svc.event (svc.wr s 0xA8 (3 + 2 ^ 16 * 0x0102)) 18) 0x0102 0 src
      match r.1 with
      | none => fail
      | some img =>
        let n := leNat ((img.drop 12).take 4)
        if ok ∧ 0x2000 + n ≤ img.length ∧ imageOk (img.take 0x2000) ((img.drop 0x2000).take n) (svc.rd s 0x8C) then
          let s := writeFlash (eraseFlash s (imageBase other) (imageBase other + 0x2000000)) (imageBase other) img
          svc.event (svc.wr s 0xA8 2) 18
        else fail)

/-- A write of BOOT_SLOT, applied only with a session open (R334). -/
def bootSlotWrite (s : State) (v : Nat) : State :=
  if session s = 0 then svc.raise s 0x0101 0 0x90 else svc.wr s 0x90 (v % 2)

/-! ### Sessions, signed commands, scrub (R335–R338) -/

/-- Close the session (R337). -/
def closeSession (s : State) : State := if session s = 0 then s else sec.event (sec.wr s 0x40 0) 19

/-- SESSION_TIMEOUT (R337). -/
def execSessionTimeout (s : State) : Out := .next (if session s ≠ 0 ∧ s.sessionEnd ≤ s.now then closeSession s else s)

/-- SEC.SESSION as it reads: the role and the seconds left, saturating (Table 15.11). -/
def sessionReg (s : State) : Nat :=
  if session s = 0 then 0 else session s + 2 ^ 16 * min 0xFFFF ((s.sessionEnd - s.now + 999999) / 1000000)

/-- A partition other than 0x000 is valid here. -/
def anyPartition (s : State) : Bool := !(validParts s).isEmpty

/-- The preconditions of Table 15.7. -/
def cmdPrecondition (s : State) (b : StateBlk) (op signer : Nat) : Bool :=
  let owner := bit b.flags 0
  let operator := bit b.flags 1
  match op with
  | 1 => signer = 1 || owner
  | 3 => !owner
  | 4 => !operator && !anyPartition s
  | 5 => !operator && !anyPartition s
  | 6 => operator && !anyPartition s
  | 7 => !anyPartition s
  | _ => false

/-- The checks of R335 in order; 0 when the command passes, else the code. -/
def checkCmd (s : State) (b : StateBlk) (c : List Byte) : Nat :=
  let op := leNat ((c.drop 4).take 1)
  let signer := leNat ((c.drop 5).take 1)
  let key := match signer with | 1 => s.fwSigner | 2 => b.owner | _ => b.operator
  if leNat (c.take 4) ≠ 0x53434D31 ∨ allowedSigners op = [] ∨ signer = 0 ∨ 3 < signer then 0x0107
  else if signer ∉ allowedSigners op then 0x0104
  else if (c.drop 0x10).take 64 ≠ idDigest then 0x0103
  else if qw c 1 ≠ b.ctr + 1 then 0x0102
  else if !Config.falconVerify key (shake256 64 (c.take 0x758)) ((c.drop 0x758).take 1280) then 0x0101
  else if !cmdPrecondition s b op signer then 0x0104
  else 0

/-- The command at CMD_ADDR in the management partition's HBM; none when it cannot be read there. -/
def readCmd (s : State) : Option (List Byte) × State := readMgmtHbm s (sec.rd s 0x50) 0xC58

/-- A rejected command (R335): nothing else changes. -/
def rejectCmd (s : State) (code : Nat) : State := sec.raise (sec.event (sec.wr s 0x5C (3 + 2 ^ 16 * code)) 17) code 0 0

/-- The state block after a command's key change (Table 15.7). -/
def keyChange (b : StateBlk) (op : Nat) (pk : List Byte) : StateBlk :=
  match op with
  | 3 => { b with owner := pk, flags := putBits b.flags 0 1 1 }
  | 4 => { b with owner := pk }
  | 5 => { b with operator := pk, flags := putBits b.flags 1 1 1 }
  | 6 => { b with operator := [], flags := putBits b.flags 1 1 0 }
  | 7 => { b with operator := [], owner := [], flags := putBits b.flags 0 2 0 }
  | _ => b

/-- Commands that scrub. -/
def scrubs (op : Nat) : Bool := op = 5 || op = 6 || op = 7

/-- Zero a tile's counters and their shadows (R361). -/
def zeroTileCounters (s : State) (t : Fin 160) : State :=
  forEach (List.range 17) s (fun s i => (Blk.cntT t).wr ((Blk.cntT t).wr s (0x40 + 8 * i) 0) (0x840 + 8 * i) 0)

/-- The scrub (R338): tile and engine blocks reset; partition entries, host windows and partition Kettle settings cleared;
Near Memory and HBM zero, tags 0, but for the rows of the repair data. -/
def scrub (s : State) : State :=
  let s := forEach allTiles s (fun s t => forEach (tileBlocks t) s (fun s b => softReset s b 0))
  let s := forEach allEngines s (fun s e => forEach (engineBlocks e) s (fun s b => softReset s b 0))
  let s := forEach (List.range 16) s (fun s k =>
    ktl.wr (ktl.wr (ktl.wr (fab.wr s (0x8100 + 16 * k) 0) (0x2040 + 8 * k) 0) (0x20C0 + 4 * k) 0) (0x2100 + 8 * k) 0)
  let s := forEach (List.range 64) s (fun s k => Blk.hst.wr s (0x100 + 8 * k) 0)
  let s := forEach allTiles s zeroTileCounters
  sweepEnergy { s with
    mem := s.mem.filter (fun e => repairRow e.1), hbmErr := s.hbmErr.filter (fun e => repairRow (32 * e.1)), nmErr := [],
    tags := [], images := [] }

/-- A write to SEC.CMD_GO (R335–R337). -/
def cmdGo (s : State) : State :=
  if bits (sec.rd s 0x5C) 0 2 = 1 then sec.raise (sec.sat s 0x74) 0x0106 0 0
  else
    let r := readCmd s
    match r.1, selectedState r.2 with
    | some c, some (_, b) =>
      let s := r.2
      let code := checkCmd s b c
      if code ≠ 0 then rejectCmd s code
      else
        let op := leNat ((c.drop 4).take 1)
        let signer := leNat ((c.drop 5).take 1)
        let pk := (c.drop 0x50).take 1793
        if op = 1 then
          let w := writeState s { b with ctr := b.ctr + 1 }
          if !w.1 then rejectCmd s 0x0108
          else
            let s := sec.event (sec.wr (sec.wr w.2 0x40 signer) 0x5C 1) 18
            { s with sessionEnd := s.now + sec.rd s 0x48 * 1000000, secCmd := some (1, signer, []) }
        else
          let flags := putBits (putBits (putBits (keyChange b op pk).flags 2 1 (b2n (scrubs op))) 3 1 1) 8 4 op
          let w := writeState (closeSession s) { keyChange b op pk with ctr := b.ctr + 1, flags := flags }
          if !w.1 then rejectCmd (closeSession s) 0x0108
          else
            let s := { sec.wr w.2 0x5C 1 with secCmd := some (op, signer, shake256 64 pk) }
            if scrubs op then scrub s else s
    | _, _ => rejectCmd r.2 0x0107

/-- Scrub step 5 (R338): a burst at local offset `a` that read non-zero or uncorrectable goes through the repair order of R300 and is
zeroed again; whether no repair was left. -/
def scrubRepair (s : State) (a : Nat) : Bool × State :=
  match placeOf a with
  | .hbm _ =>
    let pc := pcOf a
    let row := rowBank (pcoffOf a)
    let s' := repairUnit s pc (.row row true)
    ((freeSpare s pc row).isNone, { s' with hbmErr := SMap.set (fun _ => []) s'.hbmErr (a / 32) [] })
  | _ => (false, s)

/-- CMD_DONE (R336, R338): the ownership record is appended and a state block with the flags cleared is written. `scrubUs` is
the scrub's time, `back` what its read-back shows: with a burst that still fails the command ends with SCRUB_FAIL. -/
def execCmdDone (scrubUs : Nat) (back : ReadBack) (s : State) : Out :=
  .next (match s.secCmd with
    | none => s
    | some (op, signer, pk) =>
      let s := { s with secCmd := none }
      if op = 1 then sec.event (sec.wr s 0x5C 2) 16
      else
        let r := if scrubs op then back.bad.foldl (fun x a => let y := scrubRepair x.2 a; (x.1 || y.1, y.2)) (false, s) else (false, s)
        let fails := scrubs op ∧ (r.1 = true ∨ back.still ≠ [])
        let s := r.2
        let s := if scrubs op then { sec.wr (sweepEnergy s) 0x78 (min scrubUs 0xFFFFFFFF) with scrubFailed := decide fails } else s
        let ctr := sec.rd s 0x60
        let s := ownershipRecord s op signer ctr pk (decide fails) (if scrubs op then scrubUs else 0)
        match selectedState s with
        | none => rejectCmd s 0x0108
        | some (_, b) =>
          let w := writeState s { b with flags := b.flags % 4 }
          if !w.1 then rejectCmd s 0x0108
          else if fails then rejectCmd w.2 0x0105
          else sec.event (sec.wr w.2 0x5C 2) 16)

/-! ### Quotes (R339, Table 15.9) -/

/-- The quote as formed from the feature page and the security block. -/
def formQuote (s : State) : List Byte :=
  let feat := (List.range 13).flatMap (fun i => leBytes 4 (svc.rd s (0x1040 + 4 * i)))
  let lmap := (List.range 80).flatMap (fun k => leBytes 4 (spr.rd s (0x1040 + 4 * k)))
  let body := leBytes 4 0x51544531 ++ leBytes 4 (svc.rd s 0x1044) ++ leBytes 8 (sec.rd s 0x60) ++ regBytes8 s sec 0x80 8 ++
    regBytes8 s sec 0x140 8 ++ padTo 64 s.mfw ++ regBytes8 s logB 0x80 8 ++ leBytes 8 (logB.rd s 0x40) ++
    leBytes 4 (svc.rd s 0x8C) ++ leBytes 4 (svc.rd s 0x1048) ++ shake256 64 (feat ++ lmap) ++ regBytes8 s sec 0xC0 8 ++
    regBytes8 s sec 0x100 8 ++ leBytes 8 0
  body ++ identSign (shake256 64 body)

/-- A write to SEC.QUOTE_GO. -/
def quoteGo (s : State) : State :=
  if bits (sec.rd s 0x18C) 0 2 = 1 then sec.raise (sec.sat s 0x74) 0x0106 0 0
  else { sec.wr s 0x18C 1 with quote := some (formQuote s) }

/-- QUOTE_DONE (R339): the quote is written to QUOTE_ADDR in management memory. -/
def execQuoteDone (s : State) : Out :=
  .next (match s.quote with
    | none => s
    | some q =>
      let a := sec.rd s 0x180
      let s := { s with quote := none }
      let c := mgmtSpan s a q.length true
      let s := if c.1 then (writeLocal c.2 0 a q true).2 else c.2
      sec.event (sec.wr s 0x18C 2) 20)

end Sys2Proof.Machine
end

