-- ==== Sys2Proof/Machine/Pools.lean ====
section
/-! DEFINITION. Sys2Proof/Machine/Pools.lean: the Buffer Pool Managers (R138–R140, R142): pools, requests, frees, the
allocation port. -/
namespace Sys2Proof.Machine

/-- The page of BPM[d]. -/
def bpm (d : Fin 2) : Blk := .eng d 20

/-- Bytes of a buffer of pool `p` (R138). -/
def granule (p : Nat) : Nat := 4096 * 4 ^ p

/-- The handle of buffer `i` of pool `p` of die `d`, without bit 31, which is its key (R138). -/
def poolKey (d p i : Nat) : Nat := d * 2 ^ 20 + p * 2 ^ 16 + i
def handleOf (d p i : Nat) : Nat := 0x80000000 + poolKey d p i

/-- The reserved handles EMPTY and NONE (R9, R138). -/
def hEmpty : Nat := 0
def hNone : Nat := 0xFFFFFFFF

def poolCount (s : State) (d : Fin 2) (p : Nat) : Nat := (bpm d).rd s (0x60 + 4 * p)
def poolBase (s : State) (d : Fin 2) (p : Nat) : Nat := (bpm d).rd s (0x40 + 8 * p)
def bufferUsed (s : State) (d p i : Nat) : Bool := SMap.get d0 s.poolUsed (poolKey d p i) ≠ 0

/-- The local offset of a buffer, for a handle that exists (R138). -/
def bufferAddr (s : State) (h : Nat) : Nat :=
  let d : Fin 2 := ⟨bits h 20 1, by unfold bits; omega⟩
  poolBase s d (bits h 16 4) + bits h 0 16 * granule (bits h 16 4)

def dWaits (_ : Nat) : List PoolWait := []
def waitsOf (s : State) (d : Fin 2) (p : Nat) : List PoolWait := SMap.get dWaits s.poolQ (4 * d.val + p)

/-- Set a pool's queue and show its length in POOL_WAIT[6:0]. -/
def setWaits (s : State) (d : Fin 2) (p : Nat) (l : List PoolWait) : State :=
  (bpm d).put { s with poolQ := SMap.set dWaits s.poolQ (4 * d.val + p) l } (0x90 + 4 * p) 0 7 l.length

/-- Show POOL_FREE, and POOL_LOW where it fell. -/
def setFree (s : State) (d : Fin 2) (p n : Nat) : State :=
  let s := (bpm d).wr s (0x70 + 4 * p) n
  if n < (bpm d).rd s (0x80 + 4 * p) then (bpm d).wr s (0x80 + 4 * p) n else s

/-- The lowest-numbered free buffer of a pool (R139). -/
def lowestFree (s : State) (d : Fin 2) (p : Nat) : Option Nat :=
  if (bpm d).rd s (0x70 + 4 * p) = 0 then none
  else (List.range (poolCount s d p)).find? (fun i => !bufferUsed s d.val p i)

/-- Allocate a given free buffer: its handle. -/
def takeBuffer (s : State) (d : Fin 2) (p i : Nat) : Nat × State :=
  (handleOf d.val p i,
   setFree { s with poolUsed := SMap.set d0 s.poolUsed (poolKey d.val p i) 1 } d p ((bpm d).rd s (0x70 + 4 * p) - 1))

/-- A request answered NONE. -/
def countNone (s : State) (d : Fin 2) : State := (bpm d).sat s 0xA8

/-- An error of a BPM: its event 16 + k and its code 0x0101 + k (R143). -/
def bpmError (s : State) (d : Fin 2) (k info : Nat) : State :=
  (bpm d).raise ((bpm d).event s (16 + k)) (0x0101 + k) (engOwner s (22 * d.val + 20)) info

/-- A size above 256 KiB: NONE and TOO_LARGE (R139). -/
def tooLarge (s : State) (d : Fin 2) (size : Nat) : State := bpmError (countNone s d) d 3 size

/-- The smallest pool whose granule covers a size (R139). -/
def poolFor (size : Nat) : Option Nat := (List.range 4).find? (fun p => size ≤ granule p)

/-- A register read never waits: the lowest free buffer, or NONE while the pool is empty or a request waits (R139). -/
def readAlloc (s : State) (d : Fin 2) (p : Nat) : Nat × State :=
  if waitsOf s d p ≠ [] then (hNone, countNone s d)
  else match lowestFree s d p with
    | some i => takeBuffer s d p i
    | none => (hNone, countNone s d)

/-- A read of ALLOC_SZ[k] (R9, R139). -/
def readAllocSz (s : State) (d : Fin 2) (k : Nat) : Nat × State :=
  if k = 0 then (hEmpty, s)
  else match poolFor (4096 * k) with
    | some p => readAlloc s d p
    | none => (hNone, tooLarge s d (4096 * k))

/-- An engine request (R139): a handle at once, or none, when the request waits in the pool's queue. -/
def engineAlloc (s : State) (d : Fin 2) (inst tag size : Nat) : Option Nat × State :=
  if size = 0 then (some hEmpty, s)
  else match poolFor size with
    | none => (some hNone, tooLarge s d size)
    | some p =>
      let q := waitsOf s d p
      match (if q = [] then lowestFree s d p else none) with
      | some i => let r := takeBuffer s d p i; (some r.1, r.2)
      | none =>
        if 64 ≤ q.length then
          let v := (bpm d).rd s (0x90 + 4 * p)
          (some hNone, (bpm d).wr (countNone s d) (0x90 + 4 * p) (putBits v 16 16 (min 0xFFFF (bits v 16 16 + 1))))
        else (none, setWaits s d p (q ++ [⟨inst, tag⟩]))

/-- A free (R9, R140). -/
def freeHandle (s : State) (d : Fin 2) (h : Nat) : State :=
  if h = hEmpty then s
  else
    let bad (k : Nat) (s : State) : State := bpmError ((bpm d).wr s 0xAC h) d k h
    let p := bits h 16 4
    let i := bits h 0 16
    if bits h 21 11 ≠ 0x400 ∨ bits h 20 1 ≠ d.val ∨ 4 ≤ p ∨ poolCount s d p ≤ i then bad 1 s
    else if !bufferUsed s d.val p i then bad 0 ((bpm d).sat s 0xA4)
    else setFree { s with poolUsed := SMap.set d0 s.poolUsed (poolKey d.val p i) 0 } d p ((bpm d).rd s (0x70 + 4 * p) + 1)

/-- A request word on the allocation port (R142), numbered `tag` by the model: its answer, if it has one now. -/
def portRequest (s : State) (d : Fin 2) (w tag : Nat) : Option Nat × State :=
  let inst := bits w 32 16
  let allotted : Bool := match (List.range 44).find? (fun i => 0x8000 + 256 * (i / 22) + i % 22 = inst) with
    | some i => engOwner s i = engOwner s (22 * d.val + 20)
    | none => false
  let size := bits w 0 32
  if bit w 48 then
    (none, if allotted then freeHandle s d size else bpmError ((bpm d).wr s 0xAC size) d 1 size)
  else if allotted then engineAlloc s d inst tag size
  else (some hNone, countNone s d)

/-- Note a pool's answer for its requester. -/
def poolAnswer (s : State) (inst tag h : Nat) : State := { s with poolAns := s.poolAns ++ [⟨inst, tag, h⟩] }

/-- Take a requester's answer, if it has come. -/
def takeAnswer (s : State) (inst tag : Nat) : Option (Nat × State) :=
  match s.poolAns.find? (fun a => a.inst = inst ∧ a.tag = tag) with
  | some a => some (a.handle, { s with poolAns := s.poolAns.filter (fun b => !(b.inst == inst && b.tag == tag)) })
  | none => none

/-- The first request waiting in a pool is served once a buffer is free (R139). -/
def execBpmWaiterServed (d : Fin 2) (k : Fin 4) (s : State) : Out :=
  .next (match waitsOf s d k.val, lowestFree s d k.val with
    | w :: rest, some i =>
      let r := takeBuffer s d k.val i
      poolAnswer (setWaits r.2 d k.val rest) w.inst w.tag r.1
    | _, _ => s)

/-- A request word arrives on the port (R142); an allocation's answer is kept for the requester. The word's instance is
that of the sequencer that sends it. -/
def execBpmPortRequest (d : Fin 2) (src : SeqId) (word : Word64) (s : State) : Out :=
  let w := putBits (word.toNat % 2 ^ 49) 32 16 src.inst
  .next (match portRequest s d w 0 with
    | (some h, s) => poolAnswer s src.inst 0 h
    | (none, s) => s)

/-- The die of a local offset of Near Memory or HBM (Table 1.1, R26). -/
def dieOfOffset (s : State) (o : Nat) : Option Nat :=
  match placeOf o with
  | .hbm n => some (n / 1024)
  | .nm t _ => some (physOf s t / 80)
  | _ => none

/-- A span lies in one kind of memory of die `d`, owned by partition `p` (R138). -/
def poolSpanOk (s : State) (d p o n : Nat) : Bool :=
  n = 0 ||
  (match placeOf o, placeOf (o + (n - 1)) with
   | .hbm a, .hbm b => (List.range (b - a + 1)).all (fun i => segOwner s (a + i) = p && !reservedSeg (a + i) && (a + i) / 1024 = d)
   | .nm a _, .nm b _ => a = b && tileOwner s a = p && physOf s a / 80 = d
   | _, _ => false)

/-- A write of POOL_BASE or POOL_COUNT, merged with what the register held (R138). -/
def poolConfig (s : State) (d : Fin 2) (o v : Nat) : State :=
  let b := bpm d
  let isBase := o < 0x60
  let p := if isBase then (o - 0x40) / 8 else (o - 0x60) / 4
  let base := if isBase then v / granule p * granule p else poolBase s d p
  let count := if isBase then poolCount s d p else v
  if (List.range (poolCount s d p)).any (fun i => bufferUsed s d.val p i) then bpmError s d 2 (o % 2 ^ 32)
  else if 4096 < count then s
  else if !poolSpanOk s d.val (engOwner s (22 * d.val + 20)) base (count * granule p) then bpmError s d 2 (o % 2 ^ 32)
  else
    let s := if isBase then b.wr s o base else b.wr s o count
    b.wr (b.wr s (0x70 + 4 * p) count) (0x80 + 4 * p) count

end Sys2Proof.Machine
end

