-- ==== Sys2Proof/Machine/Msix.lean ====
section
/-! DEFINITION. Sys2Proof/Machine/Msix.lean: MSI-X messages and wake words (R242). -/
namespace Sys2Proof.Machine

/-- Count bytes from the device to the host (Table 10.12). -/
def outBytes (s : State) (n : Nat) : State := Blk.hst.add s 0x78 n

/-- Send vector `v`, or set its pending bit while the vector, the function or MSI-X as a whole is masked or disabled (R242, Table
10.9). The table entry is PCIe's: address, data, vector control with the mask in bit 0. A message begins the hold-off. -/
def msixSend (s : State) (v : Nat) : State :=
  let a := Blk.hst.rd s (0x800 + 16 * v)
  let d := Blk.hst.rd s (0x808 + 16 * v)
  if bit d 32 ∨ s.pcieCfg.msixMask ∨ !s.pcieCfg.msixEnable then Blk.hst.setBit s 0xC00 v
  else
    outBytes { s with hostOut := s.hostOut ++ [.msix v a (d % 2 ^ 32)], msixAt := SMap.set d0 s.msixAt v (s.now + 1),
                      msixHeld := SMap.set d0 s.msixHeld v 0 } 4

/-- A flagged store of `n` bytes has been performed at `o`: every vector whose word it stores to sends its message, or merges
it into one at the end of the hold-off (R242). -/
def wakeStore (s : State) (o n : Nat) : State :=
  forEach ((List.range 64).filter (fun v =>
      let w := Blk.hst.rd s (0x300 + 8 * v)
      bit w 63 && decide (o / 4 ≤ bits w 0 41 / 4) && decide (bits w 0 41 / 4 < (o + n + 3) / 4))) s (fun s v =>
    let h := bits (Blk.hst.rd s 0x60) 0 16
    let t := SMap.get d0 s.msixAt v
    if h ≠ 0 ∧ t ≠ 0 ∧ s.now + 1 - t < h then { s with msixHeld := SMap.set d0 s.msixHeld v 1 } else msixSend s v)

/-- MSIX_HOLDOFF_EXPIRE (R242): the merged message of the stores within the hold-off leaves. -/
def execMsixHoldoffExpire (v : Fin 64) (s : State) : Out :=
  .next (
    let h := bits (Blk.hst.rd s 0x60) 0 16
    if SMap.get d0 s.msixHeld v.val ≠ 0 ∧ h ≤ s.now + 1 - SMap.get d0 s.msixAt v.val then
      msixSend { s with msixHeld := SMap.set d0 s.msixHeld v.val 0 } v.val
    else s)

/-- The pending vectors that are masked no more send their messages (as PCIe 6.0 defines, Tables 10.9 and 10.12). -/
def sendPending (s : State) : State :=
  forEach ((List.range 64).filter (fun v => bit (Blk.hst.rd s 0xC00) v && !bit (Blk.hst.rd s (0x808 + 16 * v)) 32)) s (fun s v =>
    if s.pcieCfg.msixMask ∨ !s.pcieCfg.msixEnable then s else msixSend (Blk.hst.clrBit s 0xC00 v) v)

/-- A write of the MSI-X table: a vector unmasked with its pending bit set sends its message. -/
def msixTableWrite (s : State) (o v : Nat) : State := sendPending (Blk.hst.wr s o v)

end Sys2Proof.Machine
end

