-- ==== Sys2Proof/Machine/Debug.lean ====
section
/-! DEFINITION. Sys2Proof/Machine/Debug.lean: counters' snapshots (R359) and the tile debug page (R362–R364). -/
namespace Sys2Proof.Machine

def dDbg (_ : Nat) : DbgSt := {}
def getDbg (s : State) (t : Nat) : DbgSt := SMap.get dDbg s.dbg t
def setDbg (s : State) (t : Nat) (x : DbgSt) : State := { s with dbg := SMap.set dDbg s.dbg t x }

/-! ### Snapshots (R359) -/

/-- SNAP of a tile's counter page. -/
def snapTile (s : State) (t : Fin 160) : State :=
  let b := Blk.cntT t
  forEach (List.range 17) s (fun s i => b.wr s (0x840 + 8 * i) (b.rd s (0x40 + 8 * i)))

/-- Every device counter of the 16 pages (Table 17.2). -/
def deviceCounters : List Nat :=
  (cntDRegs.filter (fun r => r.size = 8 && r.off % 0x1000 < 0x800)).flatMap (fun r => (List.range r.n).map (fun i => r.off + r.stride * i))

/-- SNAP of the device counter pages. -/
def snapDevice (s : State) : State :=
  forEach deviceCounters s (fun s o => Blk.cntD.wr s (o + 0x800) (Blk.cntD.rd s o))

/-! ### The threads of a tile -/

def getThread (s : State) (t : Fin 160) (n : Nat) : Thread := (getTcc s t.val).threads.getD n {}

/-- Thread `n` may issue: it is ready, and no halt or hit has stopped it, unless a STEP lets it run one instruction (R363). -/
def mayIssue (s : State) (t : Fin 160) (n : Nat) : Bool :=
  (getThread s t n).phase = .ready &&
    (!(getDbg s t.val).stopReq.contains n || (getDbg s t.val).stepping = some n)

/-- The thread that issues next, in round-robin order (R56). -/
def nextThread (s : State) (t : Fin 160) : Option Nat :=
  ((List.range 8).map (fun k => ((getTcc s t.val).rr + k) % 8)).find? (mayIssue s t)

/-- A BRK_PC matches (R363); a stepped instruction is not matched. -/
def brkHit (s : State) (t : Fin 160) (n pc : Nat) : Bool :=
  (getDbg s t.val).stepping ≠ some n &&
  (List.range 4).any (fun i =>
    let v := (Blk.dbgT t).rd s (0x40 + 8 * i)
    bit v 63 && bit v (48 + n) && bits v 1 40 == pc / 2)

/-! ### Stopping a tile (R363) -/

/-- DBG_STATUS[1:0]: 0 RUNNING, 1 DRAINING, 2 HALTED. -/
def dbgPhase (s : State) (t : Fin 160) : Nat := bits ((Blk.dbgT t).rd s 0x74) 0 2

/-- A thread has been told to stop and is at an instruction boundary, or it is stopped (R363: a parked thread stops when
its access completes). -/
def threadStopped (s : State) (t : Fin 160) (n : Nat) : Bool :=
  match ((getTcc s t.val).threads.getD n {}).phase with
  | .stopped => true
  | .ready => (getDbg s t.val).stopReq.contains n
  | _ => false

/-- DBG_STATUS as it reads, with the threads stopped by a halt or a hit in [23:16]. -/
def dbgStatus (s : State) (t : Fin 160) : Nat :=
  let stopped := (List.range 8).filter (fun n => (getDbg s t.val).stopReq.contains n && threadStopped s t n)
  putBits ((Blk.dbgT t).rd s 0x74) 16 8 (stopped.foldl (fun m n => m + 2 ^ n) 0)

/-- Set DRAIN on SEQ[t][0]–SEQ[t][3] and start draining; the bits set now join those RESUME clears. -/
def drainTile (s : State) (t : Fin 160) : State :=
  let qs := [0, 1, 2, 3].filter (fun i => !(Blk.seq (.tile t ⟨i % 6, Nat.mod_lt _ (by decide)⟩)).draining s)
  let s := forEach qs s (fun s i =>
    let q := SeqId.tile t ⟨i % 6, Nat.mod_lt _ (by decide)⟩
    drainSet ((Blk.seq q).setBit s 0x10 2) q)
  let s := setDbg s t.val { getDbg s t.val with drainSet := (getDbg s t.val).drainSet ++ qs }
  (Blk.dbgT t).put s 0x74 0 2 1

/-- A hit of thread `n` with its cause (1 BRK_PC, 2 WATCH, 3 EBREAK) at `pc` (R362, R363); one while DRAINING or HALTED is ignored.
DEDUCED (log entry 262): step 3 of R363 has no condition, so without DRAIN_ON_HIT too the tile reads DRAINING until it is at its drain
point. -/
def debugHit (s : State) (t : Fin 160) (n cause pc : Nat) : State :=
  if dbgPhase s t ≠ 0 then s
  else
    let b := Blk.dbgT t
    let ctl := b.rd s 0x70
    let x := getDbg s t.val
    let s := setDbg s t.val { x with stopReq := if bit ctl 9 then List.range 8 else if x.stopReq.contains n then x.stopReq else x.stopReq ++ [n] }
    let s := b.event (b.wr (b.put (b.put s 0x74 4 3 n) 0x74 8 2 cause) 0x78 pc) 16
    if bit ctl 8 then drainTile s t else b.put s 0x74 0 2 1

/-- A thread whose issue slot comes as HALT_REQ is set meets a BRK_PC in that cycle: the two make one halt with the hit's cause (R363,
R367). -/
def haltMeetsHit (s : State) (t : Fin 160) : State :=
  match nextThread s t with
  | some n => let pc := (getThread s t n).pc; if brkHit s t n pc then debugHit s t n 1 pc else s
  | none => s

/-- HALT_REQ (R363): every thread stops at its next issue slot and the tile drains, also when a hit is DRAINING without; a HALTED tile
ignores it. -/
def haltTile (s : State) (t : Fin 160) : State :=
  if dbgPhase s t = 2 then s
  else
    let s := if dbgPhase s t = 0 then haltMeetsHit ((Blk.dbgT t).put s 0x74 8 2 0) t else s
    drainTile (setDbg s t.val { getDbg s t.val with stopReq := List.range 8 }) t

/-- RESUME (R363): the DRAIN bits that the hit set are cleared and the stopped threads run. -/
def resumeTile (s : State) (t : Fin 160) : State :=
  let s := forEach (getDbg s t.val).drainSet s (fun s i => (Blk.seq (.tile t ⟨i % 6, Nat.mod_lt _ (by decide)⟩)).clrBit s 0x10 2)
  (Blk.dbgT t).put (setDbg s t.val {}) 0x74 0 2 0

/-- STEP (R363): the named thread, when stopped by the debug unit, may run one instruction. -/
def stepTile (s : State) (t : Fin 160) : State :=
  let n := bits ((Blk.dbgT t).rd s 0x70) 4 3
  if threadStopped s t n ∧ (getDbg s t.val).stopReq.contains n then setDbg s t.val { getDbg s t.val with stepping := some n } else s

/-- A write of DBG_CTRL: its fields are stored, then HALT_REQ, RESUME and STEP act (Table 17.3). DESIGN CHOICE (log entry 175):
these three bits read 0, since the spec does not say whether the 1 last written reads back. -/
def dbgCtrlWrite (s : State) (t : Fin 160) (v : Nat) : State :=
  let s := (Blk.dbgT t).wr s 0x70 (v &&& 0x770)
  let s := if bit v 0 then haltTile s t else s
  let s := if bit v 1 then resumeTile s t else s
  if bit v 2 then stepTile s t else s

/-- DBG_HALTED (R363): a DRAINING tile at its drain point reads HALTED. -/
def execDbgHalted (t : Fin 160) (s : State) : Out :=
  .next (if dbgPhase s t = 1 ∧ tileAtDrain s t then (Blk.dbgT t).event ((Blk.dbgT t).put s 0x74 0 2 2) 17 else s)

/-- PART_HALT (R364): HALT_REQ or RESUME on every tile of a partition. -/
def partHaltWrite (s : State) (v : Nat) : State :=
  forEach (allTiles.filter (fun t => t.val < logicalTiles s && tileOwner s t.val = bits v 0 12)) s (fun s t =>
    let s := if bit v 16 then haltTile s t else s
    if bit v 17 then resumeTile s t else s)

/-! ### Registers and tags -/

/-- NOT_STOPPED. -/
def notStopped (s : State) (t : Fin 160) : State := (Blk.dbgT t).raise s 0x0101 (tileOwner s t.val) 0

/-- The thread and register that REG_SEL names. -/
def regSel (s : State) (t : Fin 160) : Nat × Nat :=
  let v := (Blk.dbgT t).rd s 0x80
  (bits v 0 3, bits v 8 6)

/-- A thread's registers x0–x31, with 32 its pc. -/
def Thread.reg (h : Thread) (i : Nat) : Nat := if i = 32 then h.pc else if i = 0 then 0 else h.x.getD i 0
def Thread.setReg (h : Thread) (i v : Nat) : Thread :=
  if i = 32 then { h with pc := v / 2 * 2 % 2 ^ 64 } else if i = 0 then h else { h with x := h.x.set i (v % 2 ^ 64) }

/-- Change one thread. -/
def modThread (s : State) (t n : Nat) (f : Thread → Thread) : State :=
  let c := getTcc s t
  setTcc s t { c with threads := c.threads.set n (f (c.threads.getD n {})) }

/-- A read of REG_DATA; a running thread's raises NOT_STOPPED and reads 0. -/
def regDataRead (s : State) (t : Fin 160) : Nat × State :=
  let r := regSel s t
  if threadStopped s t r.1 then (((getTcc s t.val).threads.getD r.1 {}).reg r.2, s) else (0, notStopped s t)

/-- A write of REG_DATA. -/
def regDataWrite (s : State) (t : Fin 160) (v : Nat) : State :=
  let r := regSel s t
  if threadStopped s t r.1 then modThread s t.val r.1 (fun h => h.setReg r.2 v) else notStopped s t

/-- The key of the epoch tag that TAG_ADDR names. -/
def tagKey (s : State) (t : Fin 160) : Nat := (slotBase t.val + (Blk.dbgT t).rd s 0x90) / 32

/-- A read of TAG_DATA. -/
def tagDataRead (s : State) (t : Fin 160) : Nat := SMap.get d0 s.tags (tagKey s t)

/-- A write of TAG_DATA: the epoch tag is set while the tile is HALTED. -/
def tagDataWrite (s : State) (t : Fin 160) (v : Nat) : State :=
  if dbgPhase s t = 2 then { s with tags := SMap.set d0 s.tags (tagKey s t) (v % 16) } else notStopped s t

end Sys2Proof.Machine
end

