-- ==== Sys2Proof/Machine/Numeric.lean ====
section
/-! DEFINITION. Sys2Proof/Machine/Numeric.lean: number formats, rounding, comparison, scales and block fixed point
(chapter 5). Values are exact: a sign, a magnitude and a power of two. -/
namespace Sys2Proof.Machine

/-- An exact value: a NaN with its sign and its 23-bit significand, left aligned; an infinity; or ±m × 2^e (R97: zero
keeps its sign). -/
inductive NumVal where
  | nan (neg : Bool) (pl : Nat)
  | inf (neg : Bool)
  | fin (neg : Bool) (m : Nat) (e : Int)
  deriving DecidableEq, Repr

/-- The canonical NaN (Table 5.2). -/
def NumVal.qnan : NumVal := .nan false 0x400000

/-- Zero. -/
def NumVal.zero : NumVal := .fin false 0 0

/-- One. -/
def NumVal.one : NumVal := .fin false 1 0

/-- An integer's value. -/
def NumVal.ofInt (x : Int) : NumVal := .fin (x < 0) x.natAbs 0

def NumVal.isNan : NumVal → Bool
  | .nan _ _ => true
  | _ => false
def NumVal.isInf : NumVal → Bool
  | .inf _ => true
  | _ => false
def NumVal.isFin : NumVal → Bool
  | .fin _ _ _ => true
  | _ => false
def NumVal.isZero : NumVal → Bool
  | .fin _ m _ => m = 0
  | _ => false
def NumVal.isNeg : NumVal → Bool
  | .nan n _ => n
  | .inf n => n
  | .fin n _ _ => n

/-- The value times 2^k, exactly. -/
def NumVal.scale (x : NumVal) (k : Int) : NumVal :=
  match x with
  | .fin n m e => .fin n m (e + k)
  | _ => x

/-- The value with its sign changed. -/
def NumVal.negate : NumVal → NumVal
  | .nan n p => .nan (!n) p
  | .inf n => .inf (!n)
  | .fin n m e => .fin (!n) m e

/-- The magnitude. -/
def NumVal.abs : NumVal → NumVal
  | .nan _ p => .nan false p
  | .inf _ => .inf false
  | .fin _ m e => .fin false m e

/-- A NaN operand's NaN, quieted (R99). -/
def NumVal.quiet : NumVal → NumVal
  | .nan n p => .nan n (if bit p 22 then p else p + 0x400000)
  | x => x

/-- A signed magnitude as an integer. -/
def sgn (n : Bool) (m : Nat) : Int := if n then -(m : Int) else m

/-! ### Floating-point formats (Table 5.2) -/

/-- A floating-point format: exponent bits, significand bits, bias, and whether it is E4M3. -/
structure FpFmt where
  eb : Nat
  mb : Nat
  bias : Nat
  e4m3 : Bool := false
  deriving DecidableEq, Repr

def fp32 : FpFmt := ⟨8, 23, 127, false⟩
def bf16 : FpFmt := ⟨8, 7, 127, false⟩
def fp16 : FpFmt := ⟨5, 10, 15, false⟩
def e4m3 : FpFmt := ⟨4, 3, 7, true⟩
def e5m2 : FpFmt := ⟨5, 2, 15, false⟩

/-- Bits of a floating-point format's element. -/
def FpFmt.width (f : FpFmt) : Nat := 1 + f.eb + f.mb

/-- The code of the largest finite value, without its sign. -/
def FpFmt.maxCode (f : FpFmt) : Nat := if f.e4m3 then 0x7E else (2 ^ f.eb - 1) * 2 ^ f.mb - 1

/-- The code of infinity, without its sign. -/
def FpFmt.infCode (f : FpFmt) : Nat := (2 ^ f.eb - 1) * 2 ^ f.mb

/-- The exponent of the unit of subnormal values. -/
def FpFmt.minUnit (f : FpFmt) : Int := 1 - (f.bias : Int) - f.mb

/-- The value of a floating-point code (R96). -/
def FpFmt.decode (f : FpFmt) (v : Nat) : NumVal :=
  let n := bit v (f.eb + f.mb)
  let ex := bits v f.mb f.eb
  let sg := bits v 0 f.mb
  if f.e4m3 then
    if ex = 15 ∧ sg = 7 then .nan n 0x700000
    else if ex = 0 then .fin n sg f.minUnit else .fin n (sg + 8) (f.minUnit + ex - 1)
  else if ex = 2 ^ f.eb - 1 then
    if sg = 0 then .inf n else .nan n (sg * 2 ^ (23 - f.mb))
  else if ex = 0 then .fin n sg f.minUnit
  else .fin n (sg + 2 ^ f.mb) (f.minUnit + ex - 1)

/-- The code of a NaN without its sign: quieted, payload bits that fit, the lowest set when a dropped one was 1 (R99). -/
def FpFmt.nanCode (f : FpFmt) (p : Nat) : Nat :=
  if f.e4m3 then 0x7F
  else
    let k := p / 2 ^ (23 - f.mb) ||| 2 ^ (f.mb - 1)
    f.infCode + (if p % 2 ^ (23 - f.mb) = 0 then k else k ||| 1)

/-! ### Rounding (R102–R105) -/

/-- m × 2^e rounded to a multiple of 2^u, in units of 2^u: mode 0 nearest-even, 1 toward zero, 2 stochastic with the
24-bit draw `r` (R102, R103). -/
def roundUnits (rnd r m : Nat) (e u : Int) : Nat :=
  if u ≤ e then m * 2 ^ (e - u).toNat
  else
    let d := 2 ^ (u - e).toNat
    let q := m / d
    let rem := m % d
    let up := match rnd with
      | 0 => d < 2 * rem || (2 * rem == d && q % 2 == 1)
      | 2 => 2 ^ 24 ≤ rem * 2 ^ 24 / d + r
      | _ => false
    if up then q + 1 else q

/-- The generator of R104: key SEED, STEP, TENSOR_ID and an element index give a 24-bit draw. -/
def srDraw (seed step tensor idx : Nat) : Nat :=
  let x := seed ^^^ (step * 2 ^ 32 + tensor)
  let x := fold64 x
  let x := fold64 (x ^^^ (idx % 2 ^ 64))
  fold64 ((x + 0xC2A73E955B1D0F47) % 2 ^ 64) / 2 ^ 40

/-- A conversion's result: the code, whether the magnitude was out of range, whether a NaN became an integer. -/
structure Enc where
  v : Nat
  beyond : Bool := false
  special : Bool := false
  deriving DecidableEq, Repr

/-- The overflow result of Table 5.3, without its sign. -/
def FpFmt.overflow (f : FpFmt) (alt : Bool) (rnd : Nat) (inf : Bool) : Nat :=
  if f.e4m3 then (if alt then (if rnd = 1 ∧ !inf then f.maxCode else 0x7F) else f.maxCode)
  else if alt then f.maxCode
  else if rnd = 1 ∧ !inf then f.maxCode else f.infCode

/-- Conversion to a floating-point format (R99, R100). -/
def FpFmt.encode (f : FpFmt) (alt : Bool) (rnd r : Nat) (x : NumVal) : Enc :=
  let sign (n : Bool) : Nat := if n then 2 ^ (f.eb + f.mb) else 0
  match x with
  | .nan n p => { v := sign n + f.nanCode p }
  | .inf n => { v := sign n + f.overflow alt rnd true, beyond := true }
  | .fin n m e =>
    if m = 0 then { v := sign n }
    else
      let top : Int := e + Nat.log2 m
      let u : Int := max (top - f.mb) f.minUnit
      let k := roundUnits rnd r m e u
      let code : Int := (u - f.minUnit) * (2 ^ f.mb : Nat) + k
      if f.maxCode < code then { v := sign n + f.overflow alt rnd false, beyond := true }
      else { v := sign n + code.toNat }

/-- Conversion to a floating-point format with every out-of-range finite value saturated (R90, R100 at the drain). -/
def FpFmt.encodeSat (f : FpFmt) (rnd r : Nat) (x : NumVal) : Enc :=
  let c := f.encode false rnd r x
  match x with
  | .fin n _ _ => if c.beyond then { c with v := (if n then 2 ^ (f.eb + f.mb) else 0) + f.maxCode } else c
  | _ => { c with beyond := false }

/-! ### Exact arithmetic (R97, R99) -/

/-- The first NaN of a list of operands, quieted. -/
def firstNan : List NumVal → Option NumVal
  | [] => none
  | x :: xs => if x.isNan then some x.quiet else firstNan xs

/-- The sum, exactly; an exact zero sum of operands of opposite sign is +0. -/
def NumVal.addFin (n1 : Bool) (m1 : Nat) (e1 : Int) (n2 : Bool) (m2 : Nat) (e2 : Int) : NumVal :=
  let e := min e1 e2
  let a := sgn n1 (m1 * 2 ^ (e1 - e).toNat)
  let b := sgn n2 (m2 * 2 ^ (e2 - e).toNat)
  if a + b = 0 then .fin (n1 && n2) 0 e else .fin (a + b < 0) (a + b).natAbs e

/-- A + B. -/
def NumVal.add (a b : NumVal) : NumVal :=
  match firstNan [a, b] with
  | some x => x
  | none =>
    match a, b with
    | .inf n1, .inf n2 => if n1 = n2 then a else .qnan
    | .inf _, _ => a
    | _, .inf _ => b
    | .fin n1 m1 e1, .fin n2 m2 e2 => NumVal.addFin n1 m1 e1 n2 m2 e2
    | _, _ => .qnan

/-- A − B. -/
def NumVal.sub (a b : NumVal) : NumVal := if b.isNan then (if a.isNan then a.quiet else b.quiet) else a.add b.negate

/-- A × B. -/
def NumVal.mul (a b : NumVal) : NumVal :=
  match firstNan [a, b] with
  | some x => x
  | none =>
    match a, b with
    | .fin n1 m1 e1, .fin n2 m2 e2 => .fin (n1 != n2) (m1 * m2) (e1 + e2)
    | x, y => if x.isZero || y.isZero then .qnan else .inf (x.isNeg != y.isNeg)

/-- A × B + C. -/
def NumVal.fma (a b c : NumVal) : NumVal :=
  match firstNan [a, b, c] with
  | some x => x
  | none => (a.mul b).add c

/-- A ÷ B to 100 bits beyond the divisor's, the last one set when anything remains, so that one rounding of it is one
rounding of the exact quotient. -/
def NumVal.div (a b : NumVal) : NumVal :=
  match firstNan [a, b] with
  | some x => x
  | none =>
    match a, b with
    | .inf _, .inf _ => .qnan
    | .inf n, y => .inf (n != y.isNeg)
    | x, .inf n => .fin (x.isNeg != n) 0 0
    | .fin n1 m1 e1, .fin n2 m2 e2 =>
      if m2 = 0 then (if m1 = 0 then .qnan else .inf (n1 != n2))
      else
        let k := 100 + Nat.log2 m2
        let q := m1 * 2 ^ k / m2
        .fin (n1 != n2) (2 * q + b2n (m1 * 2 ^ k % m2 ≠ 0)) (e1 - e2 - k - 1)
    | _, _ => .qnan

/-- The integer square root of `v` below 2^n, bit by bit. -/
def isqrtFrom (v : Nat) : Nat → Nat → Nat
  | 0, r => r
  | n + 1, r => isqrtFrom v n (if (r + 2 ^ n) * (r + 2 ^ n) ≤ v then r + 2 ^ n else r)

/-- The square root to at least 100 bits, the last one set when anything remains. -/
def NumVal.sqrt (x : NumVal) : NumVal :=
  match x with
  | .nan _ _ => x.quiet
  | .inf n => if n then .qnan else x
  | .fin n m e =>
    if m = 0 then x else if n then .qnan
    else
      let odd := e % 2 ≠ 0
      let v := (if odd then 2 * m else m) * 2 ^ 200
      let e2 : Int := (if odd then e - 1 else e) / 2 - 100
      let r := isqrtFrom v (Nat.log2 v / 2 + 1) 0
      .fin false (2 * r + b2n (r * r ≠ v)) (e2 - 1)

/-! ### Comparison (R106–R108) -/

/-- Order of two values that are not NaN: less, equal or greater. -/
def NumVal.cmp (a b : NumVal) : Ordering :=
  match a, b with
  | .inf n1, .inf n2 => if n1 = n2 then .eq else if n1 then .lt else .gt
  | .inf n, _ => if n then .lt else .gt
  | _, .inf n => if n then .gt else .lt
  | .fin n1 m1 e1, .fin n2 m2 e2 =>
    let e := min e1 e2
    compare (sgn n1 (m1 * 2 ^ (e1 - e).toNat)) (sgn n2 (m2 * 2 ^ (e2 - e).toNat))
  | _, _ => .eq

/-- A < B (Table 5.4). -/
def NumVal.lt (a b : NumVal) : Bool := !a.isNan && !b.isNan && a.cmp b == .lt
/-- A ≤ B. -/
def NumVal.le (a b : NumVal) : Bool := !a.isNan && !b.isNan && a.cmp b != .gt
/-- A = B. -/
def NumVal.eqv (a b : NumVal) : Bool := !a.isNan && !b.isNan && a.cmp b == .eq

/-- MAX (R107). -/
def NumVal.maxn (a b : NumVal) : NumVal :=
  if a.isNan then (if b.isNan then .qnan else b)
  else if b.isNan then a
  else match a.cmp b with
    | .lt => b | .gt => a | .eq => if a.isNeg then b else a

/-- MIN (R107). -/
def NumVal.minn (a b : NumVal) : NumVal :=
  if a.isNan then (if b.isNan then .qnan else b)
  else if b.isNan then a
  else match a.cmp b with
    | .lt => a | .gt => b | .eq => if a.isNeg then a else b

/-- `a` ranks strictly before `b` (R108): +∞ first, descending, −∞, then every NaN. -/
def NumVal.before (a b : NumVal) : Bool :=
  if a.isNan then false else if b.isNan then true else a.cmp b == .gt

/-! ### Element format codes (Table 5.1) -/

/-- Bits of an element of FORMAT code [6:0]; BFP blocks and unlisted codes have none here. -/
def elemBits (c : Nat) : Nat :=
  match c % 128 with
  | 0 => 8 | 1 => 32 | 2 => 16 | 3 => 16 | 4 => 8 | 5 => 8 | 6 => 64 | 7 => 8
  | 0x30 => 32 | 0x31 => 32 | 0x32 => 64 | 0x33 => 64
  | n => if 0x10 ≤ n ∧ n < 0x20 then n - 0x0F else if 0x20 ≤ n ∧ n < 0x30 then n - 0x1F else 0

/-- The code is of Table 5.1, with ALT only where it is defined (R95). -/
def fmtOk (c : Nat) : Bool :=
  let n := c % 128
  (n ≤ 7 || (0x10 ≤ n && n ≤ 0x33) || (0x40 ≤ n && n ≤ 0x42)) && (c < 128 || (1 ≤ n && n ≤ 5))

/-- The floating-point format of a code. -/
def fpOf (c : Nat) : Option FpFmt :=
  match c % 128 with
  | 1 => some fp32 | 2 => some bf16 | 3 => some fp16 | 4 => some e4m3 | 5 => some e5m2
  | _ => none

/-- The code is a signed integer's. -/
def intSigned (c : Nat) : Bool := let n := c % 128; (0x10 ≤ n && n < 0x20) || n == 0x30 || n == 0x32

/-- The code is an integer's. -/
def isIntFmt (c : Nat) : Bool := let n := c % 128; 0x10 ≤ n && n ≤ 0x33

/-- The format is scaled (Table 5.1). -/
def isScaled (c : Nat) : Bool := let n := c % 128; (3 ≤ n && n ≤ 5) || (0x10 ≤ n && n < 0x30)

/-- top of a scaled format (R110). -/
def topOf (c : Nat) : Nat :=
  let n := c % 128
  if n = 4 then 8 else if n = 3 ∨ n = 5 then 15
  else if n = 0x10 then 0 else if n < 0x20 then n - 0x0F - 2 else n - 0x1F - 1

/-- An ACC40 element's value (R67, R69). -/
def acc40Decode (v : Nat) : NumVal :=
  if bit v 40 then .qnan
  else if bit v 41 ∧ bit v 42 then .qnan
  else if bit v 41 then .inf false
  else if bit v 42 then .inf true
  else
    let s := signed 32 (bits v 0 32)
    .fin (s < 0) s.natAbs ((bits v 32 8 : Nat) - 158)

/-- The S of a value truncated toward minus infinity to the grid 2^(E − 158) (R67). -/
def gridFloor (x : NumVal) (e : Nat) : Int :=
  match x with
  | .fin n m ex =>
    let u : Int := (e : Int) - 158
    if u ≤ ex then sgn n (m * 2 ^ (ex - u).toNat) else Int.fdiv (sgn n m) (2 ^ (u - ex).toNat : Nat)
  | _ => 0

/-- An S lies in 32 bits. -/
def fits32 (x : Int) : Bool := decide (-(2 ^ 31 : Int) ≤ x ∧ x < 2 ^ 31)

/-- The smallest E from `e` at which the value fits. -/
def smallestE (x : NumVal) : Nat → Nat → Nat
  | 0, e => e
  | n + 1, e => if fits32 (gridFloor x e) then e else smallestE x n (e + 1)

/-- An ACC40 element of S and E. -/
def acc40Of (s : Int) (e : Nat) : Nat := unsigned 32 s + e * 2 ^ 32

/-- Conversion to ACC40 outside the drain (R101). -/
def acc40Encode (x : NumVal) : Nat :=
  match x with
  | .nan _ _ => 2 ^ 40
  | .inf n => if n then 2 ^ 42 else 2 ^ 41
  | .fin _ m _ => if m = 0 then 0 else let e := smallestE x 255 0; acc40Of (gridFloor x e) e

/-- Conversion to an integer format (R101). -/
def intEncode (w : Nat) (sg : Bool) (rnd r : Nat) (x : NumVal) : Enc :=
  let hi : Int := if sg then 2 ^ (w - 1) - 1 else 2 ^ w - 1
  let lo : Int := if sg then -(2 ^ (w - 1)) else 0
  match x with
  | .nan _ _ => { v := 0, special := true }
  | .inf n => { v := unsigned w (if n then lo else hi), beyond := true }
  | .fin n m e =>
    let k := sgn n (roundUnits rnd r m e 0)
    if hi < k then { v := unsigned w hi, beyond := true }
    else if k < lo then { v := unsigned w lo, beyond := true }
    else { v := unsigned w k }

/-- The value of an element code; raw bytes and SCALE8 read as unsigned bytes. -/
def elemDecode (c v : Nat) : NumVal :=
  match fpOf c with
  | some f => f.decode v
  | none =>
    if c % 128 = 6 then acc40Decode v
    else if intSigned c then .ofInt (signed (elemBits c) v) else .ofInt (v : Int)

/-- Conversion to an element format under a rounding mode and draw (R100, R101). -/
def elemEncode (c rnd r : Nat) (x : NumVal) : Enc :=
  match fpOf c with
  | some f => f.encode (128 ≤ c) rnd r x
  | none =>
    if c % 128 = 6 then { v := acc40Encode x }
    else intEncode (elemBits c) (intSigned c) rnd r x

/-- The canonical NaN in a format; 0 in an integer format (R99, R101). -/
def nanOf (c : Nat) : Nat := (elemEncode c 0 0 .qnan).v

/-- FP32 arithmetic rounded to nearest-even: the code of a value. -/
def toF32 (x : NumVal) : Nat := (fp32.encode false 0 0 x).v
def ofF32 (v : Nat) : NumVal := fp32.decode v

/-- A value rounded once to FP32, nearest-even. -/
def r32 (x : NumVal) : NumVal := ofF32 (toF32 x)

/-! ### Elements in memory (R98) -/

/-- Element `i` of `w` bits in a row of bytes given as a number (R98). -/
def elemAt (row w i : Nat) : Nat := bits row (i * w) w

/-- `n` elements of `w` bits packed densely, unused high bits 0 (R98). -/
def packElems (w : Nat) (l : List Nat) : List Byte :=
  leBytes ((l.length * w + 7) / 8) (l.foldr (fun v acc => v % 2 ^ w + acc * 2 ^ w) 0)

/-- The elements of a row of bytes. -/
def unpackElems (w n : Nat) (bs : List Byte) : List Nat := let row := leNat bs; (List.range n).map (elemAt row w)

/-- Bytes of a row of `n` elements. -/
def rowBytes (c n : Nat) : Nat := (n * elemBits c + 7) / 8

/-! ### Scales (R109, R110) -/

/-- ⌊log2⌋ of a finite non-zero magnitude. -/
def NumVal.log2 : NumVal → Int
  | .fin _ m e => e + Nat.log2 m
  | _ => 0

/-- A of one value: 0 when it is zero or not finite (R110). -/
def boundOf (x : NumVal) : Nat :=
  match x with
  | .fin _ m _ => if m = 0 then 0 else (max 1 (min 255 (x.log2 + 128))).toNat
  | _ => 0

/-- A of the largest finite magnitude of a list (R110). -/
def boundExp (l : List NumVal) : Nat := l.foldl (fun a x => max a (boundOf x)) 0

/-- The scale byte for bound A, head-room h and top (R110). -/
def scaleByte (a h top : Nat) : Nat := if a = 0 then 127 else (max 1 (min 254 ((a : Int) + h - top))).toNat

/-- x × 2^(b − 127), the canonical NaN under an invalid scale (R109). -/
def unscale (b : Nat) (x : NumVal) : NumVal := if b = 255 then .qnan else x.scale ((b : Int) - 127)

/-- x ÷ 2^(b − 127). -/
def divScale (b : Nat) (x : NumVal) : NumVal := if b = 255 then .qnan else x.scale (127 - (b : Int))

/-! ### Block fixed point (R119, R120) -/

/-- A BFP block: EXP, SAT, NONFINITE, RESIDUE and its 32 words. -/
structure Bfp where
  exp : Nat := 0
  sat : Bool := false
  nonfinite : Bool := false
  residue : Nat := 0
  words : List Int := []
  deriving DecidableEq, Repr

/-- Bits of a word for codes 0x40, 0x41, 0x42. -/
def bfpBits (c : Nat) : Nat := match c with | 0x40 => 24 | 0x41 => 32 | _ => 40

/-- Bytes of a block. -/
def bfpBytes (w : Nat) : Nat := 8 + 4 * w

/-- The residue of words (R119). -/
def residueOf (l : List Int) : Nat := ((l.foldl (· + ·) 0) % 65535).toNat

/-- A block is valid (R119). -/
def Bfp.valid (b : Bfp) : Bool := b.residue = residueOf b.words

/-- A block's bytes. -/
def Bfp.bytes (w : Nat) (b : Bfp) : List Byte :=
  leBytes 8 (b.exp + 256 * b2n b.sat + 512 * b2n b.nonfinite + 65536 * b.residue) ++ packElems w (b.words.map (unsigned w))

/-- A block from its bytes. -/
def Bfp.parse (w : Nat) (bs : List Byte) : Bfp :=
  let h := qw bs 0
  { exp := bits h 0 8, sat := bit h 8, nonfinite := bit h 9, residue := bits h 16 16,
    words := (unpackElems w 32 (bs.drop 8)).map (signed w) }

/-- The largest word, 2^(W − 1) − 1. -/
def bfpMax (w : Nat) : Int := 2 ^ (w - 1) - 1

/-- A word clamped to ±(2^(W − 1) − 1). -/
def bfpClamp (w : Nat) (x : Int) : Int := max (-(bfpMax w)) (min (bfpMax w) x)

/-- The value of a word under EXP (R119). -/
def bfpValue (w exp : Nat) (x : Int) : NumVal := .fin (x < 0) x.natAbs ((exp : Int) - 127 - ((w : Int) - 1))

/-- A value's word under EXP, nearest-even and saturated: the word, SAT, NONFINITE (R120). -/
def bfpWord (w exp : Nat) (x : NumVal) : Int × Bool × Bool :=
  match x with
  | .fin n m e =>
    let k := sgn n (roundUnits 0 0 m e ((exp : Int) - 127 - ((w : Int) - 1)))
    (bfpClamp w k, bfpClamp w k ≠ k, false)
  | _ => (0, false, true)

/-- A block of values under EXP (R120). -/
def Bfp.ofNums (w exp : Nat) (l : List NumVal) : Bfp :=
  let ws := l.map (bfpWord w exp)
  let words := ws.map (·.1)
  { exp := exp, sat := ws.any (·.2.1), nonfinite := ws.any (·.2.2), words := words, residue := residueOf words }

/-- Addition of two blocks of equal EXP (R120). -/
def Bfp.add (w : Nat) (a b : Bfp) : Bfp :=
  let sums := List.zipWith (· + ·) a.words b.words
  let words := sums.map (bfpClamp w)
  let d := (List.zipWith (· - ·) words sums).foldl (· + ·) 0
  { exp := a.exp, sat := a.sat || b.sat || words ≠ sums, nonfinite := a.nonfinite || b.nonfinite, words := words,
    residue := (((a.residue : Int) + (b.residue : Int) + d) % 65535).toNat }

end Sys2Proof.Machine
end

