-- ==== Sys2Proof/Machine/Outcome.lean ====
section
/-! DEFINITION. Sys2Proof/Machine/Outcome.lean: thread faults and starts (R56, R58), the fault log (R219), and what a
request's final outcome does at its issuer (R199, R204, R211, R212, R292). -/
namespace Sys2Proof.Machine

/-! ### Threads (R56, R58, Table 3.9) -/

/-- Thread fault causes (THR_FAULT[7:4]). -/
def causeIllegal : Nat := 1
def causeFetch : Nat := 2
def causeDenied : Nat := 3
def causeMisaligned : Nat := 4
def causeWaita : Nat := 5
def causeEcall : Nat := 6
def causeLrSc : Nat := 7
def causeEbreak : Nat := 8

/-- A thread stops with a cause (R58): the first fault while THR_FAULT stands clear is captured; ECALL and EBREAK raise no
error (R58, R362). -/
def threadFault (s : State) (t : Fin 160) (n cause : Nat) : State :=
  let b := Blk.til t
  let pc := ((getTcc s t.val).threads.getD n {}).pc
  let s := modThread s t.val n (fun h => { h with phase := .stopped, faulted := true, rsv := none })
  let s := if bit (b.rd s 0x18) 16 then s else b.wr (b.wr s 0x4C (n + 16 * cause)) 0x50 pc
  let s := b.event s 16
  if cause = causeEcall ∨ cause = causeEbreak then s
  else b.raise s (if cause = causeWaita then 0x0102 else 0x0101) (tileOwner s t.val) pc

/-- A thread's entry point in its tile's binding block; 0 means none (Table 3.2). -/
def threadEntry (s : State) (t : Fin 160) (n : Nat) : Nat :=
  let b := Blk.svc.rd s (0x3200 + 8 * t.val)
  if b = 0 ∨ !isCode s b (tileOwner s t.val) then 0 else readNat s (b + 0x100 + 8 * n) 8 % 2 ^ 41

/-- THR_START (Table 3.9): stopped threads start at their entry points; an entry of 0 faults the thread with cause 2. A failed tile
starts none (R347). -/
def thrStartWrite (s : State) (t : Fin 160) (v : Nat) : State :=
  if (Blk.til t).faulted s then s
  else forEach ((List.range 8).filter (fun n => bit v n)) s (fun s n =>
    if ((getTcc s t.val).threads.getD n {}).phase ≠ .stopped then s
    else
      let e := threadEntry s t n
      if e = 0 then threadFault s t n causeFetch
      else modThread s t.val n (fun h => { h with phase := .ready, faulted := false, pc := e }))

/-- SEQ_GO (Table 3.9): ENABLE of the selected tile sequencers, each with its ring check (R387), but of none that has failed (R347). -/
def seqGoWrite (s : State) (t : Fin 160) (v : Nat) : State :=
  forEach ((List.range 4).filter (fun i => bit v i)) s (fun s i =>
    let q := SeqId.tile t ⟨i % 6, Nat.mod_lt _ (by decide)⟩
    if (Blk.seq q).faulted s then s else ringCheck ((Blk.seq q).setBit s 0x10 0) q)

/-- THR_STATUS as it reads: two bits for each thread, and the faulted threads. -/
def thrStatus (s : State) (t : Fin 160) : Nat :=
  let c := getTcc s t.val
  (List.range 8).foldl (fun v n =>
    let h := c.threads.getD n {}
    let st := match h.phase with
      | .stopped => 0 | .ready => 1 | .parked _ => 2 | .fence => 2 | .waita _ _ _ _ _ _ => 3
    v + st * 4 ^ n + b2n h.faulted * 2 ^ (16 + n)) 0

/-- Stop a thread with no fault (R214, R34). -/
def stopThreads (s : State) (t : Nat) : State :=
  forEach (List.range 8) s (fun s n => modThread s t n (fun h => { h with phase := .stopped, rsv := none }))

/-! ### The fault log (R219) -/

/-- Write a fault record. -/
def faultRecord (s : State) (r : Request) (outcome : Nat) : State :=
  let n := Blk.fab.rd s 0x80A0
  let o := 0x8200 + 16 * (n % 64)
  let q1 := r.ctx % 2 ^ 12 + outcome % 16 * 2 ^ 12 + r.op % 256 * 2 ^ 16 + r.part % 2 ^ 12 * 2 ^ 24 + r.issueTime % 2 ^ 20 * 2 ^ 36
  let s := Blk.fab.wr (Blk.fab.wr s o (r.addr % 2 ^ 58)) (o + 8) q1
  Blk.fab.wr s 0x80A0 ((n + 1) % 2 ^ 32)

/-- Write a fault record and raise REMOTE_FAULT. -/
def faultLog (s : State) (r : Request) (outcome : Nat) : State := Blk.fab.event (faultRecord s r outcome) 16

/-- An error of the remote operations: FAB's code, with the partition and the offset. -/
def fabRaise (s : State) (code : Nat) (r : Request) : State := Blk.fab.raise s code r.part (offOf r.addr % 2 ^ 32)

/-! ### Final outcomes -/

/-- The operation of a request (Table 9.1). -/
def reqLoad (r : Request) : Bool := r.op % 16 = 0 && bits r.op 4 3 = 0
def reqFlag (r : Request) : Bool := r.op % 16 = 0 && bits r.op 4 3 = 2
def reqAtomic (r : Request) : Bool := r.op % 16 ≠ 0
def reqFetch (r : Request) : Bool := bit r.op 7

/-- The bytes of a failed load's error values (Table 9.9). -/
def errorBytes (fmt n : Nat) : List Byte :=
  let rep (w v : Nat) : List Byte := ((List.replicate ((n + w - 1) / w) (leBytes w v)).flatten).take n
  match fmt % 128 with
  | 1 => rep 4 0x7FC00E0D
  | 2 => rep 2 0x7FC1
  | 3 => rep 2 0x7E01
  | 4 => rep 1 0x7F
  | 5 => rep 1 0x7F
  | 6 => rep 8 0x10000000000
  | _ => rep 1 0xFF

/-- The outcome is performed (R199). -/
def outcomeOk (st : Nat) : Bool := st = stOk || st = stDuplicate

/-- A load's value extended for a register (RV64). -/
def extendTo64 (w : Nat) (sg : Bool) (v : Nat) : Nat := if sg then unsigned 64 (signed (8 * w) v) else v % 2 ^ (8 * w)

/-- A thread's instruction completes: rd written when it has one, and the next instruction. -/
def threadDone (s : State) (t n rd v : Nat) : State :=
  modThread s t n (fun h =>
    let len := match h.phase with
      | .parked l => l
      | _ => 4
    { h.setReg (if rd < 32 then rd else 0) v with phase := .ready, pc := (h.pc + len) % 2 ^ 64 })

/-- What a load or a fetching atomic that failed returns, where the spec gives it: zeros when it is denied (R29), and when the
management partition reads an unmapped page (R31); the error values of Table 9.9 for an ISOLATED one and for one answered
NOT_APPLIED or UNKNOWN (R211, R212, R292); zeros when it is unmapped (Table 2.11). -/
def failBytes (r : Request) (st fmt n : Nat) : Option (List Byte) :=
  let ofPage := r.part = 0 && decide (regBase ≤ offOf r.addr) && decide (offOf r.addr < 0x18040000000)
  if st = stAccessDenied ∨ (st = stUnmapped ∧ ofPage) then some (List.replicate n 0)
  else if r.isolated ∨ st = stNotApplied ∨ st = stUnknown then some (errorBytes fmt n)
  else if st = stUnmapped then some (List.replicate n 0)
  else none

/-- The data of a failed load; a free value where the spec gives none. -/
def failedData (s : State) (r : Request) (st fmt n : Nat) : List Byte × State :=
  match failBytes r st fmt n with
  | some l => (l, s)
  | none => freeBytes s n

/-- The outcome at a thread (R204, R211, R212, R292): denied and misaligned accesses fault it, a local uncorrectable read
too; otherwise it continues, with the value read, what a failed access returns, or a free value for APPLIED_UNKNOWN. -/
def threadOutcome (s : State) (t : Fin 160) (n rd w : Nat) (sg : Bool) (r : Request) (st : Nat) (data : List Byte) (own : Bool) : State :=
  if ((getTcc s t.val).threads.getD n {}).phase = .stopped then s
  else if st = stAccessDenied then threadFault s t n causeDenied
  else if st = stMisaligned then threadFault s t n causeMisaligned
  else if st = stNotApplied ∧ own then threadFault s t n causeDenied
  else
    let has := reqLoad r || reqFetch r
    if !has then threadDone s t.val n 0 0
    else if outcomeOk st then threadDone s t.val n rd (extendTo64 w sg (leNat data))
    else if st = stStaleRetry then
      let f := fresh s
      threadDone f.2 t.val n rd (extendTo64 w sg (f.1 % 2 ^ (8 * w)))
    else
      let f := failedData s r st 0 w
      threadDone f.2 t.val n rd (extendTo64 w sg (leNat f.1))

/-- The outcome of an engine's load (R211, R212): the data, or what a failed load gives, at the addresses the engine asked for; all but
OK give the step status MEMORY and fail the iteration's operand. -/
def operandOutcome (s : State) (q : SeqId) (fmt : Nat) (r : Request) (st : Nat) (data : List Byte) : State :=
  let x := if outcomeOk st then (data, s) else failedData (noteStatus s q tkMemory) r st fmt r.size
  modSeq x.2 q (fun y =>
    { y with rfail := y.rfail || !outcomeOk st,
             rbuf := y.rbuf ++ (List.range x.1.length).map (fun i => (r.addr + i, x.1.getD i 0)) })

/-- A part of a host read among the others, by address. -/
def insertPart (e : HostPart) : List HostPart → List HostPart
  | [] => [e]
  | x :: xs => if e.addr < x.addr then e :: x :: xs else x :: insertPart e xs

/-- A packet of a host read has its outcome (R240): with the last of them one completion of the whole read leaves, every byte 0xFF
where a packet has failed. -/
def hostPart (s : State) (tag total : Nat) (e : HostPart) : State :=
  let l := insertPart e (s.hostParts.filter (fun x => x.tag = tag))
  let rest := s.hostParts.filter (fun x => x.tag ≠ tag)
  if (l.map (fun x => x.data.length)).sum < total then { s with hostParts := rest ++ l }
  else
    let bs := if l.all (fun x => x.ok) then (l.map (fun x => x.data)).flatten else List.replicate total 0xFF
    { s with hostParts := rest, answer := { status := stOk, data := bs }, hostOut := s.hostOut ++ [.completion tag bs] }

/-- A final outcome reaches its waiter. -/
def deliver (s : State) (o : OutReq) (st : Nat) (data : List Byte) : State :=
  match o.waiter with
  | .thread t n rd w sg => if h : t < 160 then threadOutcome s ⟨t, h⟩ n rd w sg o.req st data (devOf o.req.addr = selfId s) else s
  | .operand inst fmt =>
    match seqOfInst inst with
    | some q => operandOutcome s q fmt { o.req with addr := o.orig } st data
    | none => s
  | .store inst =>
    match seqOfInst inst with
    | some q => if outcomeOk st ∨ !seqBusy s q then s else noteStatus s q tkMemory
    | none => s
  | .value inst tag =>
    match seqOfInst inst with
    | some q =>
      let s := if outcomeOk st ∨ !seqBusy s q then s else noteStatus s q tkMemory
      modSeq s q (fun x => { x with vals := x.vals ++ [(tag, st, leNat data)] })
    | none => s
  | .hostRead _ tag addr total => hostPart s tag total ⟨tag, o.orig - addr, sized o.req.size data, outcomeOk st⟩
  | .flag _ => s
  | .posted => s
  | .hostWrite _ => s
  | .migrate _ => s

/-- An outstanding request leaves; where a reply to one of its copies may still come, its tag is not used again meanwhile (R201). -/
def retire (s : State) (o : OutReq) (late gone : Bool) : State :=
  { s with outs := s.outs.filter (fun p => p.id ≠ o.id),
           spent := if late then s.spent ++ [⟨o.req.ctx, o.req.seq % 65536, s.now, gone⟩] else s.spent }

/-- A final outcome other than OK or DUPLICATE of request number `id`: it is logged, a store or atomic is remembered for the ALL flag
that covers it (R199, R211, R219), and NOT_APPLIED and UNKNOWN of an ISOLATED store or atomic and a withheld ALL flag raise their codes
(Table 9.15). -/
def badOutcome (s : State) (r : Request) (id st : Nat) (flagAll withheld : Bool) : State :=
  let s := faultLog s r st
  let s := if reqLoad r ∨ flagAll then s else { s with ctxFail := s.ctxFail ++ [(r.ctx, id)] }
  if (r.isolated ∧ !reqLoad r) ∨ withheld then
    (if st = stNotApplied then fabRaise s 0x0105 r else if st = stUnknown then fabRaise s 0x0106 r else s)
  else s

/-- A request has its final outcome: it ends, a bad one is reported, and its waiter gets it. -/
def finish (s : State) (o : OutReq) (st : Nat) (data : List Byte) : State :=
  let s := retire s o (1 < o.copies || st = stUnknown) false
  deliver (if outcomeOk st then s else badOutcome s o.req o.id st o.flagAll (o.flagAll && decide (o.copies = 0))) o st data

/-- An outstanding request by its number. -/
def findOut (s : State) (id : Nat) : Option OutReq := s.outs.find? (fun o => o.id = id)

/-- Change an outstanding request. -/
def modOut (s : State) (id : Nat) (f : OutReq → OutReq) : State :=
  { s with outs := s.outs.map (fun o => if o.id = id then f o else o) }

/-- ISO_TIMEOUT of a partition in µs: 0 selects 100, and the management partition has 100 (R208, Table 9.14). -/
def isoTimeout (s : State) (p : Nat) : Nat :=
  let v := if p = 0 then 0 else bits (partEntry s p) 32 32
  if v = 0 then 100 else v

end Sys2Proof.Machine
end

