-- ==== Sys2Proof/Machine/Partition.lean ====
section
/-! DEFINITION. Sys2Proof/Machine/Partition.lean: partition entries and teardown (R214, R219), the replay window (R220),
placement entries and migration commands (R215, R218). -/
namespace Sys2Proof.Machine

/-! ### Partition entries (R214, R219, R328, R358) -/

/-- The requests a combining entry holds (R206). -/
def combCount (c : CombEntry) : Nat := c.followers.length + c.collected.length

/-- The packets of a partition leave every queue of this device (R214), each counted in PART_REJECT: in the router, at its ports, held
at their destination, collected in the combining cache, and held at their source. What it still waits for elsewhere ends with
PART_GONE, which its aborted issuers discard and the host gets (R240). -/
def dropPackets (s : State) (p : Nat) : State :=
  let keep (k : Packet) : Bool := pktPart k ≠ p
  let mine := s.outs.filter (fun o => o.req.part = p)
  let gone := s.comb.filter (fun c => c.first.part = p)
  let inPorts := (s.ports.map (fun e => (e.2.outq.filter (fun k => !keep k)).length)).sum
  let n := inPorts + ((s.toRoute ++ s.arrived ++ s.hostQ).filter (fun k => !keep k)).length +
    (s.heldFlags.filter (fun h => h.req.part = p)).length + (gone.map combCount).sum + (mine.filter (fun o => o.copies = 0)).length
  let s := forEach (s.toRoute.filter (fun k => !keep k)) s freeInput
  let s := { s with
    toRoute := s.toRoute.filter keep, passBy := s.passBy.filter (fun r => r.part ≠ p), arrived := s.arrived.filter keep, hostQ := s.hostQ.filter keep,
    heldFlags := s.heldFlags.filter (fun h => h.req.part ≠ p), combOut := s.combOut.filter (fun r => r.part ≠ p),
    ports := (s.ports.map (fun e => (e.1, { e.2 with outq := e.2.outq.filter keep }))).filter (fun e => !(decide (e.2 = ({} : Port)))) }
  let s := if gone = [] then s else setComb s (s.comb.filter (fun c => c.first.part ≠ p))
  let s := forEach mine s (fun s o => if 0x7C0 ≤ o.req.ctx then finish s o stPartGone [] else retire s o (o.copies ≠ 0) true)
  if n = 0 then s else Blk.fab.event (Blk.fab.sat s 0x8088 n) 20

/-- Teardown of partition `p` (R214): its traffic is discarded, its sequencers and engines are soft-reset, its threads
stop. -/
def teardown (s : State) (p : Nat) : State :=
  let s := forEach (allTiles.filter (fun t => tileOwner s t.val = p)) s (fun s t =>
    stopThreads (forEach (tileBlocks t) s (fun s b => match b with
      | .cntT _ => s | .dbgT _ => s | .til _ => s
      | _ => softReset s b 0)) t.val)
  let s := forEach (allEngines.filter (fun e => engOwner s (22 * e.1.val + e.2.val) = p)) s (fun s e =>
    forEach (engineBlocks e) s (fun s b => softReset s b 0))
  dropPackets s p

/-- A slot's partition counters start again (R358). -/
def zeroSlotCounters (s : State) (k : Nat) : State :=
  forEach [0, 8, 16] s (fun s i => Blk.cntD.wr s (0xA100 + 0x40 * k + i) 0)

/-- A write of Q0 of PART[k]: one that sets VALID is not applied while the device is not ready, is RETIRED or has failed its scrub
(R327, R328, R338); setting it hosts the partition, clearing it tears the partition down. -/
def partWrite (s : State) (k v : Nat) : State :=
  let o := 0x8100 + 16 * k
  let old := Blk.fab.rd s o
  let was := bit old 12
  let ready : Bool := bits (Blk.svc.rd s 0x40) 0 4 = 11 && !s.retired && !s.scrubFailed
  if bit v 12 ∧ !ready then Blk.fab.countErr s
  else
    let s := Blk.fab.wr s o (v &&& 0xFFFFFFFF00077FFF)
    let same := bits old 0 12 = bits v 0 12
    let s := if was ∧ (!bit v 12 ∨ !same) then teardown s (bits old 0 12) else s
    if bit v 12 ∧ (!was ∨ !same) then zeroSlotCounters s k else s

/-- A partition is hosted here, or is the management partition (R213). -/
def partValid (s : State) (p : Nat) : Bool := p = 0 || (slotOfPart s p).isSome

/-! ### The replay window (R220) -/

/-- W in force: the old W while a lowering is held. -/
def replayW (s : State) : Nat :=
  match s.winHeld with
  | some (w, _) => w
  | none => bits (Blk.fab.rd s 0x8040) 0 14

/-- A REPLAY_WINDOW write: 10–10,000 only; a raise applies at once, a lowering is held until the old W has passed. -/
def replayWindowSet (s : State) (v : Nat) : State :=
  let v := bits v 0 14
  if v < 10 ∨ 10000 < v then s
  else
    let w := replayW s
    Blk.fab.wr { s with winHeld := if w ≤ v then none else some (w, s.now + w) } 0x8040 v

/-- REPLAY_WINDOW_LOWER_DONE: the old W has passed since the write. -/
def execReplayWindowLowerDone (s : State) : Out :=
  .next (match s.winHeld with
    | some (_, t) => if t ≤ s.now then { s with winHeld := none } else s
    | none => s)

/-! ### Placement entries (R215, R216, R218) -/

/-- Placement states (Table 9.10). -/
def plFree : Nat := 0
def plOwned : Nat := 1
def plDraining : Nat := 2
def plCopying : Nat := 3
def plMoved : Nat := 4
def plPending : Nat := 5

def placeBase (s : State) : Nat := Blk.fab.rd s 0x8090

/-- The address of placement entry `i`. -/
def entryAddr (s : State) (i : Nat) : Nat := placeBase s + 0x80000 + 32 * i

/-- The bytes of placement entry `i`. -/
def entryBytes (s : State) (i : Nat) : List Byte := readBytes s (entryAddr s i) 32

def entryState (s : State) (i : Nat) : Nat := bits (qw (entryBytes s i) 0) 0 3

/-- Set STATE of an entry. -/
def setEntryState (s : State) (i st : Nat) : State :=
  writeNat s (entryAddr s i) 8 (putBits (qw (entryBytes s i) 0) 0 3 st)

/-- The placement entry of an HBM offset, 0 for none. -/
def entryOf (s : State) (o : Nat) : Nat :=
  if placeBase s = 0 then 0
  else match placeOf o with
    | .hbm _ => readNat s (placeBase s + 2 * (o / 0x200000)) 2 % 4096
    | _ => 0

/-- Show MIG_STATUS. -/
def showMig (s : State) (i st : Nat) (busy : Bool) (arrivals : Nat) : State :=
  Blk.fab.wr s 0x809C (i % 4096 + st * 2 ^ 12 + b2n busy * 2 ^ 15 + min 0xFFFF arrivals * 2 ^ 16)

/-- The migrations beside entry `i`'s, and the arrivals that entry `i` has had since its DRAIN (R218). -/
def migsBut (s : State) (i : Nat) : List Mig := s.migs.filter (fun m => m.entry ≠ i)
def arrivalsOf (s : State) (i : Nat) : Nat := ((s.migs.find? (fun m => m.entry = i)).map (·.arrivals)).getD 0

/-- MIG_CMD (Table 9.13): 1 DRAIN takes an OWNED entry to DRAINING, 2 HANDOVER a DRAINING one to COPYING, 3 FREE releases
an entry (R218). Another command, or one that does not fit the entry's state, changes nothing. DESIGN CHOICE (log entry 238): MIG_STATUS
shows the entry whose command or end came last, and BUSY from HANDOVER to MOVED. -/
def migCmd (s : State) (v : Nat) : State :=
  let i := bits v 0 12
  if placeBase s = 0 ∨ i = 0 then s
  else
    let st := entryState s i
    match bits v 12 4 with
    | 1 => if st = plOwned then showMig { setEntryState s i plDraining with migs := migsBut s i ++ [{ entry := i }] } i plDraining false 0 else s
    | 2 =>
      if st = plDraining then
        let n := arrivalsOf s i
        showMig { setEntryState s i plCopying with migs := migsBut s i ++ [{ entry := i, arrivals := n, handover := true }] } i plCopying true n
      else s
    | 3 => showMig { setEntryState s i plFree with migs := migsBut s i } i plFree false (arrivalsOf s i)
    | _ => s

/-- Count an arrival in a DRAINING range (R216). -/
def countArrival (s : State) (i : Nat) : State :=
  if s.migs.any (fun m => m.entry = i) then
    let s := { s with migs := s.migs.map (fun m => if m.entry = i then { m with arrivals := min 0xFFFF (m.arrivals + 1) } else m) }
    let v := Blk.fab.rd s 0x809C
    if bits v 0 12 = i then Blk.fab.wr s 0x809C (putBits v 16 16 (arrivalsOf s i)) else s
  else s

end Sys2Proof.Machine
end

