-- ==== Sys2Proof/Machine/XchState.lean ====
section
/-! DEFINITION. Sys2Proof/Machine/XchState.lean: an exchange engine's record (R151–R153), its inbox (R155) and the headers it holds and
awaits (R154, Table 7.12). Words of the step: 100 the phase (1 counts awaited, 3 grants awaited, 4 data, 5 return, 6 combine), 104
since when headers are awaited. -/
namespace Sys2Proof.Machine

def xchQ (d j : Fin 2) : SeqId := .die d ⟨10 + j.val, by omega⟩
def xchBlk (d j : Fin 2) : Blk := .eng d ⟨10 + j.val, by omega⟩

/-! ### The record (Table 7.6) -/

/-- The fields of an exchange record. -/
structure XchRec where
  m : Nat
  self : Nat
  k : Nat
  e : Nat
  pool : Bool
  cf : Nat
  tokTotal : Nat
  rowBytes : Nat
  localE : Nat
  hidden : Nat
  resFmt : Nat
  retFmt : Nat
  outFmt : Nat
  rxStride : Nat
  members : Nat
  emap : Nat
  list : Nat
  sel : Nat
  src : Nat
  rxBase : Nat
  retBase : Nat
  xrec : Nat
  inbox : Nat
  adm : Nat
  resBase : Nat
  outBase : Nat
  deriving DecidableEq, Repr

def xchRec (r : List Nat) : XchRec :=
  let o (i : Nat) : Nat := fld r (4 + i) 0 41
  { m := fld r 0 0 15, self := fld r 0 16 15, k := fld r 0 32 4, e := fld r 0 36 15, pool := fld r 0 51 1 = 1,
    cf := fld r 1 0 16, tokTotal := fld r 1 32 32, rowBytes := fld r 2 0 16, localE := fld r 2 16 15, hidden := fld r 2 32 16,
    resFmt := fld r 2 48 8, retFmt := fld r 2 56 8, outFmt := fld r 3 0 8, rxStride := fld r 3 32 32,
    members := o 0, emap := o 1, list := o 2, sel := o 3, src := o 4, rxBase := o 5, retBase := o 6, xrec := o 7,
    inbox := o 8, adm := o 9, resBase := o 10, outBase := o 11 }

/-- The pitch of rows of HIDDEN elements of a format. -/
def XchRec.pitch (r : XchRec) (fmt : Nat) : Nat := (r.hidden * (elemBits fmt / 8) + 7) / 8 * 8

/-- The capacity C (R156). -/
def XchRec.capacity (r : XchRec) : Nat := min ((r.cf * r.tokTotal * r.k + 256 * r.e - 1) / (256 * r.e)) 16777215

/-- Bytes of an inbox bank for `l` local experts (R155), and its areas (Table 7.7). -/
def XchRec.bankBytes (r : XchRec) (l : Nat) : Nat := (16 * r.m + 16 * r.m * l + 24 * r.e + 63) / 64 * 64
def XchRec.bank (r : XchRec) (l xseq : Nat) : Nat := r.inbox + 0x40 + xseq % 2 * r.bankBytes l
def XchRec.countHdr (r : XchRec) (l x m : Nat) : Nat := r.bank l x + 8 * m
def XchRec.countAt (r : XchRec) (l x m i : Nat) : Nat := r.bank l x + 8 * r.m + 8 * (m * l + i)
def XchRec.grantHdr (r : XchRec) (l x m : Nat) : Nat := r.bank l x + 8 * r.m + 8 * r.m * l + 8 * m
def XchRec.grantAt (r : XchRec) (l x e : Nat) : Nat := r.bank l x + 16 * r.m + 8 * r.m * l + 16 * e
def XchRec.dataHdr (r : XchRec) (l x i m : Nat) : Nat := r.bank l x + 16 * r.m + 8 * r.m * l + 16 * r.e + 8 * (i * r.m + m)
def XchRec.retHdr (r : XchRec) (l x e : Nat) : Nat := r.bank l x + 16 * r.m + 16 * r.m * l + 16 * r.e + 8 * e

/-- A member's device ID from the MEMBERS bytes; an expert's owner, local index and epoch from EMAP's (R153). -/
def memberDev (ms : List Byte) (i : Nat) : Nat := bits (word 4 ms i) 0 17
def emapOwner (em : List Byte) (e : Nat) : Nat := bits (word 8 em e) 0 14
def emapLocal (em : List Byte) (e : Nat) : Nat := bits (word 8 em e) 16 14
def emapEpoch (em : List Byte) (e : Nat) : Nat := bits (word 8 em e) 32 32

/-- The experts a member owns, ascending. -/
def ownedBy (r : XchRec) (em : List Byte) (m : Nat) : List Nat := (List.range r.e).filter (fun e => emapOwner em e = m)

/-- The members in order from SELF + 1 upward, wrapping (R157). -/
def XchRec.order (r : XchRec) : List Nat := (List.range r.m).map (fun i => (r.self + 1 + i) % r.m)

/-- The checks on the record alone (R152). -/
def XchRec.formOk (r : XchRec) : Bool :=
  let f (c : Nat) : Bool := c = 1 || c = 2
  let nm (o : Nat) : Bool := inNm o 64 && o % 64 = 0
  r.m ≠ 0 && r.e ≠ 0 && r.k ≠ 0 && r.cf ≠ 0 && r.k ≤ 8 && r.k ≤ r.e && r.self < r.m && r.localE ≤ r.e &&
    r.rowBytes % 8 = 0 && f r.resFmt && f r.retFmt && f r.outFmt && r.pitch r.retFmt ≤ r.rowBytes && nm r.xrec && nm r.inbox &&
    (if r.pool then r.capacity * r.rowBytes ≤ 262144 else r.capacity * r.rowBytes ≤ r.rxStride)

/-- The checks on the members and the expert map (R152). -/
def XchRec.mapsOk (r : XchRec) (dev : Nat) (ms em : List Byte) : Bool :=
  (List.range r.m).all (fun i => bit (word 4 ms i) 31) &&
  (List.range (r.m - 1)).all (fun i => memberDev ms i < memberDev ms (i + 1)) &&
  memberDev ms r.self = dev &&
  (List.range r.e).all (fun e => emapOwner em e < r.m) &&
  (ownedBy r em r.self).map (emapLocal em) = List.range r.localE

/-! ### Headers (R154, R155) -/

def xchKey (d j : Fin 2) : Nat := 2 * d.val + j.val
def dXch (_ : Nat) : Xch := {}
def getXch (s : State) (d j : Fin 2) : Xch := SMap.get dXch s.xchs (xchKey d j)
def setXch (s : State) (d j : Fin 2) (x : Xch) : State := { s with xchs := SMap.set dXch s.xchs (xchKey d j) x }

/-- XCH.XSEQ. -/
def xseqOf (s : State) (d j : Fin 2) : Nat := bits ((xchBlk d j).rd s 0x4C) 0 16

/-- A header word. -/
def headerWord (xseq kind count : Nat) (zero : Bool) : Nat := xseq + kind * 2 ^ 16 + b2n zero * 2 ^ 20 + count % 2 ^ 24 * 2 ^ 24

/-- The header taken at an inbox offset, when it is current for `kind`. -/
def currentHdr (s : State) (d j : Fin 2) (kind o : Nat) : Option Nat :=
  match (getXch s d j).hdrs.find? (fun e => e.1 = o) with
  | some e => if bits e.2 0 16 = xseqOf s d j ∧ bits e.2 16 4 = kind then some e.2 else none
  | none => none

/-- The kinds of header that an inbox offset of bank parity `p` may take in a forward and in a backward exchange: none when it is no
header slot. -/
def slotKinds (r : XchRec) (p o : Nat) : List Nat :=
  let l := r.localE
  let within (base n : Nat) : Bool := base ≤ o && o < base + 8 * n && (o - base) % 8 = 0
  if within (r.countHdr l p 0) r.m then [1]
  else if within (r.grantHdr l p 0) r.m then [2]
  else if within (r.dataHdr l p 0 0) (r.m * l) then [3, 5]
  else if within (r.retHdr l p 0) r.e then [4, 6]
  else []

/-- Headers current among a list of slots. -/
def currentIn (s : State) (d j : Fin 2) (kind : Nat) (l : List Nat) : Nat := (l.filter (fun o => (currentHdr s d j kind o).isSome)).length

/-- The kind and the slots of the headers that the step in force awaits, if it awaits any (Table 7.12): COUNTS its counts, then its
grants; DISPATCH the data of its iteration; COMBINE, from the step's beginning on, the returns. -/
def awaited (d j : Fin 2) (r : XchRec) (s : State) : Option (Nat × List Nat) :=
  let q := xchQ d j
  let x := getSeq s q
  let st := curStep x
  let n := xseqOf s d j
  let bwd := bit st.mode 0
  if x.phase ≠ .iter then none
  else match scr s q 100 with
    | some 1 => some (1, (List.range r.m).map (fun m => r.countHdr r.localE n m))
    | some 3 => some (2, (List.range r.m).map (fun m => r.grantHdr r.localE n m))
    | some 4 => some (if bwd then 5 else 3, (List.range r.m).map (fun m => r.dataHdr r.localE n x.i0 m))
    | some _ => none
    | none => if st.op = 0x14 then some (if bwd then 6 else 4, (List.range r.e).map (fun e => r.retHdr r.localE n e)) else none

/-- ARRIVED and EXPECTED: the current headers of the phase awaited, and how many it awaits (Table 7.12). -/
def headersAwaited (s : State) (d j : Fin 2) : Nat × Nat :=
  match recOf s (xchBlk d j) with
  | [] => (0, 0)
  | rq =>
    match awaited d j (xchRec rq) s with
    | some a => (currentIn s d j a.1 a.2, a.2.length)
    | none => (0, 0)

/-- STAT.PHASE (Table 7.12). -/
def xchPhase (s : State) (d j : Fin 2) : Nat :=
  let q := xchQ d j
  let x := getSeq s q
  if x.phase ≠ .iter ∨ recOf s (xchBlk d j) = [] then 0
  else match scr s q 100 with
    | some 1 => 2
    | some p => p
    | none => match (curStep x).op with
      | 0x11 => 1 | 0x12 => 4 | 0x13 => 5 | 0x14 => 6 | _ => 0

end Sys2Proof.Machine
end

