-- ==== Sys2Proof/Machine/RegWrite.lean ====
section
/-! DEFINITION. Sys2Proof/Machine/RegWrite.lean: register accesses (R6, R7, R29, R33–R36, R39) and every register whose
read or write acts (chapters 2 to 18). -/
namespace Sys2Proof.Machine

/-! ### Reads -/

/-- CAL.ISLAND_V of ISLAND_SEL (Table 14.5). -/
def islandV (s : State) : Nat :=
  let i := bits (cal.rd s 0x40) 0 8
  if 164 ≤ i then 0
  else
    let mv := SMap.get d0 s.halfMv (islandKey i) / 2
    let boot := if i < 160 then bootMv s (islandKey i) (districtMhz s (islandKey i)) else 750
    mv % 4096 + boot % 4096 * 2 ^ 12 + min 255 (SMap.get d0 s.slack i - 1) * 2 ^ 24

/-- The header as it reads (R33). -/
def headerRead (s : State) (b : Blk) (o : Nat) : Nat :=
  match o with
  | 0x00 => b.code + 65536 * b.inst
  | 0x04 => Config.blkVersion b.code % 65536
  | 0x08 => b.pages
  | 0x0C => b.feature1
  | 0x14 => b.status s
  | _ => b.rd s o

/-- The whole of register `r` at block offset `o`, read by partition `p`. -/
def readOne (s : State) (p : Nat) (b : Blk) (r : RegDesc) (o : Nat) : Nat × State :=
  if o % 0x1000 < 0x40 then (headerRead s b (o % 0x1000), s)
  else if r.acc = .wo then (0, s)
  else
    let v := b.rd s o
    match b with
    | .svc =>
      if 0x2040 ≤ o ∧ o < 0x2074 then (partFeature s p ((o - 0x2040) / 4), s)
      else if o = 0x3A04 then (segOwner s (bits (b.rd s 0x3A00) 0 11), s) else (v, s)
    | .cal => (if o = 0x44 then islandV s else v, s)
    | .sec => (if o = 0x40 then sessionReg s else if o = 0x1048 then Config.mfgSerial % 2 ^ 64 else
        if 0x1080 ≤ o then qw Config.rootDigest ((o - 0x1080) / 8) else v, s)
    | .log => (if o = 0x58 then energyJ s else if o = 0x60 then powerOnHours s else v, s)
    | .spr => (if o = 0x6C then unitStateReg s else if o = 0x70 then unitForecastReg s else v, s)
    | .fab =>
      (if o = 0x1044 then SMap.get d0 s.routes (bits (b.rd s 0x1040) 0 17)
       else if o = 0x1050 then SMap.get d0 s.psets (bits (b.rd s 0x1048) 0 10) else v, s)
    | .hst => (if o = 0x40 then v + Config.pciVendor % 65536 else v, s)
    | .til t =>
      (if o = 0x48 then thrStatus s t
       else if o = 0x60 then SMap.get d0 s.distCycles (districtOfPhys (physOf s t.val)) else v, s)
    | .dbgT t =>
      if o = 0x74 then (dbgStatus s t, s)
      else if o = 0x88 then regDataRead s t
      else if o = 0x94 then (tagDataRead s t, s)
      else (v, s)
    | .lay t => (if o = 0x48 then v % 2 + min 127 (inFlightIters s (.tile t 3)).length * 2 ^ 8 else v, s)
    | .dqu _ _ => (if o = 0x60 then min 4096 v else v, s)
    | .eng d q =>
      if q.val = 20 ∧ 0x100 ≤ o ∧ o < 0x110 then readAlloc s d ((o - 0x100) / 4)
      else if q.val = 20 ∧ 0x200 ≤ o then readAllocSz s d ((o - 0x200) / 4)
      else if q.val = 21 ∧ o = 0x48 then (min 65536 v, s)
      else if engKind q.val = .xch ∧ o = 0x48 then (v % 2 + 2 * xchPhase s d ⟨(q.val - 10) % 2, Nat.mod_lt _ (by decide)⟩, s)
      else if (engKind q.val = .emb ∨ engKind q.val = .opt) ∧ o = 0x48 then
        let x := getSeq s (.die d q)
        let op := (curStep x).op
        let top := if engKind q.val = .emb then 0x17 else 0x13
        let ph := if x.phase = .iter ∧ 0x11 ≤ op ∧ op ≤ top then op - 0x10 else 0
        (v % 2 + 2 * ph + (if engKind q.val = .opt ∧ ph = 1 ∧ scr0 s (.die d q) 2 ≠ 0 then 8 else 0), s)
      else if engKind q.val = .xch ∧ (o = 0x50 ∨ o = 0x54) then
        let n := headersAwaited s d ⟨(q.val - 10) % 2, Nat.mod_lt _ (by decide)⟩
        ((if o = 0x50 then n.1 else n.2) % 2 ^ 32, s)
      else (v, s)
    | _ => (v, s)

/-- The four bytes at block offset `o` of a page. -/
def read4 (s : State) (p : Nat) (b : Blk) (o : Nat) : Nat × State :=
  match b.find o with
  | none => (0, s)
  | some (r, i) =>
    let base := if o % 0x1000 < 0x40 then o else r.off + i * r.stride
    let x := readOne s p b r base
    (bits x.1 (8 * (o - base)) 32, x.2)

/-- A read of 4 or 8 bytes at a block offset (R29): reserved offsets read 0. -/
def readAt (s : State) (p : Nat) (b : Blk) (o size : Nat) : Nat × State :=
  match b.find o with
  | some (r, i) =>
    if size = 8 ∧ r.size = 8 ∧ o = r.off + i * r.stride ∧ 0x40 ≤ o % 0x1000 then readOne s p b r o
    else
      let lo := read4 s p b o
      if size = 8 then let hi := read4 lo.2 p b (o + 4); (lo.1 + 2 ^ 32 * hi.1, hi.2) else lo
  | none =>
    let lo := read4 s p b o
    if size = 8 then let hi := read4 lo.2 p b (o + 4); (lo.1 + 2 ^ 32 * hi.1, hi.2) else lo

/-! ### Allotment (R24) -/

/-- An owner change is refused when the old or the new owner is a valid partition; a write that changes nothing is not
refused. -/
def allotBusy (s : State) (old new : Nat) : Bool :=
  old ≠ new && ((old ≠ 0 && partValid s old) || (new ≠ 0 && partValid s new))

/-- ALLOT_BUSY (R24). DESIGN CHOICE (log entry 174): BLK_ERR_INFO1, for which R35 asks a block-defined value, captures the index
of the segment, tile or engine. -/
def raiseAllot (s : State) (p info : Nat) : State := svc.raise s 0x0103 p info

/-- SEG_DATA. -/
def segDataWrite (s : State) (p v : Nat) : State :=
  let idx := svc.rd s 0x3A00
  let n := bits idx 0 11
  let new := v % 4096
  let s :=
    if reservedSeg n then s
    else if allotBusy s (segOwner s n) new then raiseAllot s p n
    else { s with segOwner := SMap.set d0 s.segOwner n new }
  if bit idx 16 then svc.wr s 0x3A00 (putBits idx 0 11 (n + 1)) else s

/-- TILE_OWNER[t] and ENG_OWNER[i]. -/
def tileOwnerWrite (s : State) (p t v : Nat) : State :=
  if logicalTiles s ≤ t then s
  else if allotBusy s (tileOwner s t) (v % 4096) then raiseAllot s p t
  else svc.wr s (0x3A40 + 4 * t) (v % 4096)
def engOwnerWrite (s : State) (p i v : Nat) : State :=
  if allotBusy s (engOwner s i) (v % 4096) then raiseAllot s p i else svc.wr s (0x3D00 + 4 * i) (v % 4096)

/-! ### Writes -/

/-- BLK_CTRL with what an enable means to a link port (R228). -/
def ctrlWrite (s : State) (b : Blk) (p v : Nat) : State :=
  let was := b.enabled s
  let s := blkCtrlWrite s b p v
  match b with
  | .lnk n => linkEnable s n was
  | _ => s

/-- A header register written (R33, Tables 2.7, 2.9). -/
def headerWrite (s : State) (p : Nat) (b : Blk) (o v : Nat) : State :=
  match o with
  | 0x10 => ctrlWrite s b p v
  | 0x18 => let e := b.rd s 0x18; b.wr s 0x18 (e - (e &&& v))
  | 0x1C => b.wr s 0x1C (v &&& b.eventMask)
  | _ => s

/-- PKG_LIMIT: a field above its reset value is not applied (Table 14.4). -/
def pkgLimitWrite (s : State) (v : Nat) : State :=
  let old := ktl.rd s 0x3040
  let rst := 0x0B540A280960
  ktl.wr s 0x3040 ((List.range 3).foldl (fun acc i =>
    let f := bits v (16 * i) 16
    acc + (if f ≤ bits rst (16 * i) 16 then f else bits old (16 * i) 16) * 2 ^ (16 * i)) 0)

/-- WEIGHTS: a weight of 0 is applied as 1 (R233). -/
def weightsWrite (s : State) (o v : Nat) : State :=
  fab.wr s o ((List.range 8).foldl (fun acc i => acc + max 1 (bits v (8 * i) 8) * 2 ^ (8 * i)) 0)

/-- RT_DATA and PSET_DATA (R234, R243). -/
def rtDataWrite (s : State) (v : Nat) : State :=
  let idx := fab.rd s 0x1040
  let n := bits idx 0 17
  let s := { s with routes := SMap.set d0 s.routes n (v % 2 ^ 23) }
  if bit idx 31 then fab.wr s 0x1040 (putBits idx 0 17 (n + 1)) else s
def psetDataWrite (s : State) (v : Nat) : State :=
  let n := bits (fab.rd s 0x1048) 0 10
  if n = 0 then (fab.countErr (fab.event s 25))
  else { s with psets := SMap.set d0 s.psets n (v % 2 ^ 33) }

/-- A register that only stores within a range keeps its value outside it. -/
def rangeWrite (s : State) (b : Blk) (o lo hi v : Nat) : State := if v < lo ∨ hi < v then s else b.wr s o v

/-- SPR.CMD (Table 16.7); the results of a re-grade's tests come with the REGRADE command. -/
def sprCmd (s : State) (v tests : Nat) (failed : List (Nat × FailedUnit)) : State :=
  match bits v 0 4 with
  | 1 => sprReplace s
  | 2 => sprLaneClear s v
  | 3 => sprRegrade s tests failed
  | _ => s

/-- The whole of register `r` at block offset `o` written by partition `p` with `v`, the value of all its bytes (R7). -/
def writeOne (s : State) (p : Nat) (b : Blk) (r : RegDesc) (o v : Nat) : State :=
  let plain (s : State) : State :=
    match r.acc with
    | .rw => b.wr s o (v &&& r.mask)
    | .w1c => let e := b.rd s o; b.wr s o (e - (e &&& v &&& r.mask))
    | _ => s
  match b with
  | .svc =>
    if o = 0x48 then resetCmdWrite s v
    else if o = 0x90 then bootSlotWrite s v
    else if o = 0xA4 then stageGo s
    else if o = 0xCC then svc.wr s o (v &&& 0x3E ||| 1)
    else if o = 0x3A04 then segDataWrite s p v
    else if 0x3A40 ≤ o ∧ o < 0x3CC0 then tileOwnerWrite s p ((o - 0x3A40) / 4) v
    else if 0x3D00 ≤ o then engOwnerWrite s p ((o - 0x3D00) / 4) v
    else plain s
  | .ktl =>
    if 0x180 ≤ o ∧ o < 0x1D0 then dtargetWrite s ((o - 0x180) / 4) (v % 4096)
    else if 0x2180 ≤ o ∧ o < 0x21C0 then markWrite s ((o - 0x2180) / 4)
    else if o = 0x3040 then pkgLimitWrite s v
    else plain s
  | .sec =>
    if o = 0x44 then closeSession s
    else if o = 0x48 then rangeWrite s b o 1 86400 v
    else if o = 0x58 then cmdGo s
    else if o = 0x188 then quoteGo s
    else plain s
  | .spr => if o = 0x78 then sprCmd s v 0 [] else if o = 0x80 then rangeWrite s b o 1 168 v else plain s
  | .fab =>
    if o = 0x40 then (if b.locked s then b.raise s 0x0005 p ((b.base + o) % 2 ^ 32) else selfIdWrite s v)
    else if 0x100 ≤ o ∧ o < 0x210 then weightsWrite s o v
    else if o = 0x1044 then rtDataWrite s v
    else if o = 0x1050 then psetDataWrite s v
    else if o = 0x8040 then replayWindowSet s v
    else if o = 0x8044 then rangeWrite s b o 2 1000 (v % 1024)
    else if o = 0x8048 then rangeWrite s b o 10 100000 (v % 2 ^ 17)
    else if o = 0x8098 then migCmd s v
    else if 0x8100 ≤ o ∧ o < 0x8200 ∧ o % 16 = 0 then partWrite s ((o - 0x8100) / 16) v
    else plain s
  | .lnk n => if o = 0x50 then lnkCmd s n v else if o = 0x64 then creditRegWrite s n v else plain s
  | .hbm i => if o = 0x58 then hbmCmd s i v else plain s
  | .hst => if 0x800 ≤ o ∧ o < 0xC00 then msixTableWrite s o v else plain s
  | .tgc c => if o = 0x40 then tgcModeWrite s c.val v else plain s
  | .cntD => if o % 0x1000 = 0x7FC then snapDevice s else s
  | .cntT t => if o = 0x7FC then snapTile s t else s
  | .dbgD => if o = 0x40 then partHaltWrite s v else s
  | .dbgT t =>
    if o = 0x70 then dbgCtrlWrite s t v
    else if o = 0x88 then regDataWrite s t v
    else if o = 0x94 then tagDataWrite s t v
    else plain s
  | .til t => if o = 0x40 then seqGoWrite s t v else if o = 0x44 then thrStartWrite s t v else plain s
  | .eng d q =>
    match engKind q.val with
    | .bpm => if o = 0xA0 then freeHandle s d v else if o < 0x70 then poolConfig s d o (v &&& r.mask) else plain s
    | .xch => if o = 0x4C ∧ b.busy s then s else plain s
    | .col => if (o = 0x4C ∨ o = 0x50) ∧ b.busy s then s else plain s
    | _ => plain s
  | _ => plain s

/-- The 8 bytes that a register holds, wherever they are kept: a port set, a stopped thread's register, or the register itself. -/
def heldValue (s : State) (b : Blk) (o : Nat) : Nat :=
  match b with
  | .fab => if o = 0x1050 then SMap.get d0 s.psets (bits (b.rd s 0x1048) 0 10) else b.rd s o
  | .dbgT t =>
    if o = 0x88 then ((getTcc s t.val).threads.getD (regSel s t).1 {}).reg (regSel s t).2 else b.rd s o
  | _ => b.rd s o

/-- A write of the four bytes at block offset `o`: half of an 8-byte register keeps its other half (R7, R29). -/
def write4 (s : State) (p : Nat) (b : Blk) (o v : Nat) : State :=
  if o % 0x1000 < 0x40 then headerWrite s p b (o % 0x1000) v
  else match b.find o with
    | none => s
    | some (r, i) =>
      let base := r.off + i * r.stride
      if r.size = 4 then writeOne s p b r base v
      else writeOne s p b r base (putBits (heldValue s b base) (8 * (o - base)) 32 v)

/-- A write of 4 or 8 bytes at a block offset. -/
def writeAt (s : State) (p : Nat) (b : Blk) (o size v : Nat) : State :=
  let halves (s : State) : State :=
    let s := write4 s p b o (v % 2 ^ 32)
    if size = 8 then write4 s p b (o + 4) (v / 2 ^ 32 % 2 ^ 32) else s
  match b.find o with
  | some (r, i) =>
    if size = 8 ∧ r.size = 8 ∧ o = r.off + i * r.stride ∧ 0x40 ≤ o % 0x1000 then writeOne s p b r o (v % 2 ^ 64)
    else halves s
  | none => halves s

/-! ### Accesses with their checks (R28, R29, R39) -/

/-- The device serves register and memory accesses: out of reset, and not in BOOT_FAIL or RECOVERY (R327, R329). -/
def serving (s : State) : Bool :=
  !s.held && (bits (Blk.svc.rd s 0x40) 0 4 ≠ 12 && bits (Blk.svc.rd s 0x40) 0 4 ≠ 13)

/-- The block and block offset of a register offset. -/
def regPlace (o : Nat) : Option (Blk × Nat × Nat) :=
  match blkAt o with
  | some (b, pg) => some (b, pg, o - b.base)
  | none => none

/-- The checks of a register access (R28, R29, R213 steps 2 and 3): its status, with what it raises. -/
def regCheck (s : State) (p o size : Nat) (write : Bool) : Nat × State :=
  match regPlace o with
  | none => (stUnmapped, secError s 2 p (regBase + o))
  | some (b, pg, _) =>
    if !granted s (b.privNow s pg) (b.owner s) p write then (stAccessDenied, secError s 1 p (regBase + o))
    else if (size ≠ 4 ∧ size ≠ 8) ∨ o % size ≠ 0 then (stMisaligned, b.raise s 3 p ((regBase + o) % 2 ^ 32))
    else (stOk, s)

/-- A register read: status and value; a refused one reads 0. -/
def regRead (s : State) (p o size : Nat) : Nat × Nat × State :=
  let c := regCheck s p o size false
  if c.1 = stOk then
    match regPlace o with
    | some (b, _, ob) => let x := readAt c.2 p b ob size; (stOk, x.1, x.2)
    | none => (c.1, 0, c.2)
  else (c.1, 0, c.2)

/-- A register write. -/
def regWrite (s : State) (p o size v : Nat) : Nat × State :=
  let c := regCheck s p o size true
  if c.1 = stOk then
    match regPlace o with
    | some (b, _, ob) => (stOk, writeAt c.2 p b ob size v)
    | none => c
  else c

/-- Note the answer to an access. -/
def answered (s : State) (st : Nat) (data : List Byte) : State := { s with answer := { status := st, data := data } }

/-- A register write as a command: performed and answered while the device serves accesses. -/
def cmdWrite (s : State) (p o size v : Nat) : State :=
  if serving s then let r := regWrite s p o size v; answered r.2 r.1 [] else s

/-- A register read as a command. -/
def cmdRead (s : State) (p o size : Nat) : State :=
  if serving s then let r := regRead s p o size; answered r.2.2 r.1 (leBytes size r.2.1) else s

end Sys2Proof.Machine
end

