-- ==== Sys2Proof/Machine/Remote.lean ====
section
/-! DEFINITION. Sys2Proof/Machine/Remote.lean: remote operations (chapter 9): the destination's checks, the replay filter,
atomics, the issuer's holds, reissues and outcomes. -/
namespace Sys2Proof.Machine

/-! ### Operations (R190, R191) -/

/-- The fields of OP. -/
def reqKind (r : Request) : Nat := r.op % 16
def reqType (r : Request) : Nat := bits r.op 4 3
def reqPlainStore (r : Request) : Bool := reqKind r = 0 && reqType r = 1

/-- Table 9.1: the valid combinations. -/
def opValid (r : Request) : Bool :=
  match reqKind r with
  | 0 => reqType r ≤ 2 && !reqFetch r
  | 1 => [0, 1, 4, 5].contains (reqType r)
  | 2 => reqType r ≤ 4
  | 3 => reqType r ≤ 4
  | 4 => reqType r ≤ 1 && reqFetch r
  | 5 => reqType r ≤ 1 && reqFetch r
  | 6 => reqType r ≤ 1
  | 7 => reqType r ≤ 1
  | 8 => reqType r ≤ 1
  | _ => false

/-- The bytes an atomic's operand and target have (Table 9.1). -/
def atomicWidth (op : Nat) : Nat :=
  let ty := bits op 4 3
  if op % 16 = 2 ∨ op % 16 = 3 then (if ty = 1 ∨ ty = 3 then 8 else 4) else if ty = 1 then 8 else 4

/-- FP32 addition rounded to nearest even (R97, R99). -/
def addF32 (a b : Nat) : Nat := toF32 ((ofF32 a).add (ofF32 b))

/-- BF16 addition rounded to nearest even. -/
def addBf16 (a b : Nat) : Nat := (bf16.encode false 0 0 ((bf16.decode a).add (bf16.decode b))).v

/-- MIN (or MAX) of two operands by TYPE (R191, R107). -/
def pickExtreme (ty w : Nat) (mx : Bool) (a b : Nat) : Nat :=
  if ty = 4 then toF32 (if mx then (ofF32 a).maxn (ofF32 b) else (ofF32 a).minn (ofF32 b))
  else if ty ≤ 1 then
    (if signed (8 * w) a < signed (8 * w) b then (if mx then b else a) else (if mx then a else b))
  else (if mx then max a b else min a b)

/-- The target's new value: of OP, the old value, the operand and CAS's compare value (R191). -/
def atomicResult (op old x cmp : Nat) : Nat :=
  let w := atomicWidth op
  let ty := bits op 4 3
  match op % 16 with
  | 1 =>
    if ty = 4 then addF32 old x
    else if ty = 5 then addBf16 (old % 65536) (x % 65536) + addBf16 (old / 65536 % 65536) (x / 65536 % 65536) * 65536
    else (old + x) % 2 ^ (8 * w)
  | 2 => pickExtreme ty w false old x
  | 3 => pickExtreme ty w true old x
  | 4 => x
  | 5 => if old = cmp then x else old
  | 6 => old &&& x
  | 7 => old ||| x
  | 8 => old ^^^ x
  | _ => old

/-! ### The destination's checks (R213) -/

/-- System time in µs modulo 2^20 (FAB.SYSTIME), and an age on it. -/
def sysTime (s : State) : Nat := bits (Blk.fab.rd s 0x804C) 0 20
def ageOf (s : State) (t : Nat) : Nat := (sysTime s + 2 ^ 20 - t % 2 ^ 20) % 2 ^ 20

/-- The reply to a request (Table 9.5). -/
def replyTo (r : Request) (st : Nat) (data : List Byte := []) : Reply :=
  { status := st, dst := r.src, ctx := r.ctx, seq := r.seq % 65536, data := data, more := r.more.map (fun _ => st) }

/-- Check 1 of R213: PART is hosted here, or is the management partition. -/
def checkPart (s : State) (r : Request) : Nat × State :=
  if partValid s r.part then (stOk, s) else (stPartGone, fabRaise (Blk.fab.event (Blk.fab.sat s 0x8088) 20) 0x0103 r)

/-- Check 2 of R213: the offset is mapped and PART holds its privilege. -/
def checkPlace (s : State) (r : Request) : Nat × State :=
  let o := offOf r.addr
  let st : Nat := match placeOf o with
    | .reg ro =>
      match blkAt ro with
      | none => stUnmapped
      | some (b, pg) => if granted s (b.privNow s pg) (b.owner s) r.part (!reqLoad r) then stOk else stAccessDenied
    | .log _ => if !reqLoad r then stAccessDenied else if 0x1C010000000 < o + r.size then stUnmapped else stOk
    | _ => spanStatus s o (max 1 r.size) r.part (!reqLoad r)
  if st = stOk then (st, s) else (st, secError s (if st = stUnmapped then 2 else 1) r.part o)

/-- Check 3 of R213: operation, size and alignment. -/
def checkForm (s : State) (r : Request) : Nat × State :=
  let o := offOf r.addr
  let bad : Nat × State := (stBadAtomic, fabRaise s 0x0101 r)
  if !opValid r then bad
  else
    match placeOf o with
    | .reg ro =>
      if reqAtomic r then bad
      else if r.size = 0 then (stOk, s)
      else if (r.size = 4 ∨ r.size = 8) ∧ o % r.size = 0 then (stOk, s)
      else
        match blkAt ro with
        | some (b, _) => (stMisaligned, b.raise s 3 r.part (o % 2 ^ 32))
        | none => (stMisaligned, s)
    | _ =>
      if r.size = 0 then (stOk, s)
      else
        let ok : Bool :=
          if reqAtomic r then r.size = atomicWidth r.op && o % r.size = 0
          else if reqFlag r then (r.size = 4 || r.size = 8) && o % r.size = 0
          else r.size ≤ 4096 && o / 4096 = (o + r.size - 1) / 4096
        (if ok then stOk else stMisaligned, s)

/-- A Barista's own request: what a migration sends to its new owner (R218). -/
def ofBarista (r : Request) : Bool := r.part = 0 && decide (0x7B0 ≤ r.ctx) && decide (r.ctx < 0x7C0)

/-- Check 4 of R213 (R216, Table 9.11): none when the request may go on. DEDUCED (log entry 200): the copy of R218 step 4 reaches its
range while that is PENDING, so the Barista's own stores are performed there. -/
def checkEpoch (s : State) (r : Request) : Option Reply × State :=
  let i := entryOf s (offOf r.addr)
  if i = 0 then (none, s)
  else
    let e := entryBytes s i
    let st := bits (qw e 0) 0 3
    let ep := bits (qw e 0) 32 32
    if st = plFree then (none, s)
    else if r.epv ∧ r.epoch ≠ ep then
      (some (replyTo r stEpochMismatch), fabRaise (Blk.fab.sat s 0x8084) 0x0102 r)
    else
      let movedTo : Reply :=
        { replyTo r stMoved with
          newOwner := bits (qw e 0) 3 17, newBase := bits (qw e 2) 0 41, newEpoch := bits (qw e 3) 0 32, base := bits (qw e 1) 0 41 }
      if st = plOwned then (none, s)
      else if st = plDraining then (none, countArrival s i)
      else if st = plCopying then (if reqLoad r then (none, s) else (some movedTo, s))
      else if st = plMoved then (some movedTo, s)
      else if st = plPending ∧ !ofBarista r then (some (replyTo r stWait), s)
      else (none, s)

/-! ### The replay filter (R202, R207) -/

def dFilter (_ : Nat) : List FEntry := []

/-- The filter set of a tag. -/
def setOf (src ctx seq : Nat) : Nat := fold64 (src * 2 ^ 32 + ctx * 2 ^ 16 + seq % 65536 / 32 * 32) % 4096

/-- Drop what a set holds of age above W, per sequence for RUN. -/
def dropOld (s : State) (l : List FEntry) : List FEntry :=
  l.filterMap (fun e =>
    match e with
    | .single _ _ _ t _ _ => if replayW s < ageOf s t then none else some e
    | .run a b c bs =>
      let bs := bs.filter (fun x => ageOf s x.2 ≤ replayW s)
      if bs = [] then none else some (.run a b c bs))

/-- FILTER_OCC and FILTER_HWM. -/
def showFilter (s : State) : State :=
  let n := (s.filter.map (fun e => e.2.length)).foldl (· + ·) 0
  Blk.fab.wr (Blk.fab.wr s 0x8050 n) 0x8054 (max n (Blk.fab.rd s 0x8054))

/-- Change a set. -/
def setFilter (s : State) (k : Nat) (l : List FEntry) : State := showFilter { s with filter := SMap.set dFilter s.filter k l }

/-- The old value a set's entry for a tag holds. -/
def findTag (l : List FEntry) (src ctx seq : Nat) : Option Nat :=
  l.findSome? (fun e =>
    match e with
    | .single a b c _ _ old => if a = src ∧ b = ctx ∧ c = seq then some old else none
    | .run a b h bs => if a = src ∧ b = ctx ∧ h = seq / 32 ∧ bs.any (fun x => x.1 = seq % 32) then some 0 else none)

/-- Atomics with FETCH 1 or in a placement range take SINGLE entries. -/
def takesSingle (s : State) (r : Request) : Bool := reqFetch r || entryOf s (offOf r.addr) ≠ 0

/-- A set has a RUN entry for a tag's sequences. -/
def hasRun (l : List FEntry) (src ctx seq : Nat) : Bool :=
  l.any (fun e => match e with
    | .run a b h _ => a = src && b = ctx && h = seq / 32
    | .single _ _ _ _ _ _ => false)

/-- A set has room for a tag. -/
def roomFor (l : List FEntry) (sg : Bool) (src ctx seq : Nat) : Bool :=
  l.length < 16 || (!sg && hasRun l src ctx seq)

/-- A set with a tag recorded. -/
def recordTag (l : List FEntry) (sg : Bool) (src ctx seq t off old : Nat) : List FEntry :=
  if sg then l ++ [.single src ctx seq t off old]
  else if hasRun l src ctx seq then
    l.map (fun e => match e with
      | .run a b h bs => if a = src ∧ b = ctx ∧ h = seq / 32 then .run a b h (bs ++ [(seq % 32, t)]) else e
      | .single _ _ _ _ _ _ => e)
  else l ++ [.run src ctx (seq / 32) [(seq % 32, t)]]

/-- What the filter says of one tag before the atomic is performed: none when it is new and has room. -/
def admitTag (s : State) (sg : Bool) (t : Tag) : Option (Nat × Nat) × State :=
  let k := setOf t.src t.ctx t.seq
  let l := dropOld s (SMap.get dFilter s.filter k)
  let s := setFilter s k l
  let q := t.seq % 65536
  match findTag l t.src t.ctx q with
  | some old => (some (stDuplicate, old), s)
  | none =>
    if replayW s < ageOf s t.issueTime then (some (stStaleRetry, 0), s)
    else if roomFor l sg t.src t.ctx q then (none, s)
    else (some (stFilterBusy, 0), s)

/-- Count a filter answer (Tables 9.13 and 9.15). -/
def countFilter (s : State) (r : Request) (st : Nat) : State :=
  if st = stDuplicate then Blk.fab.sat s 0x805C
  else if st = stStaleRetry then fabRaise (Blk.fab.event (Blk.fab.sat s 0x8060) 18) 0x0104 r
  else if st = stFilterBusy then Blk.fab.event (Blk.fab.sat s 0x8064) 21
  else s

/-- Record an applied tag. -/
def recordIn (s : State) (sg : Bool) (t : Tag) (off old : Nat) : State :=
  let k := setOf t.src t.ctx t.seq
  setFilter s k (recordTag (SMap.get dFilter s.filter k) sg t.src t.ctx (t.seq % 65536) t.issueTime off old)

/-- A request's own tag. -/
def ownTag (r : Request) : Tag := { src := r.src, ctx := r.ctx, seq := r.seq, issueTime := r.issueTime, vc := r.vc }

/-- An atomic under the filter, performed by `perform`, which answers the old value or fails (R202). -/
def filterAtomic (s : State) (r : Request) (perform : State → Option Nat × State) : Reply × State :=
  let sg := takesSingle s r
  let a := admitTag s sg (ownTag r)
  match a.1 with
  | some (st, old) => (replyTo r st (if st = stDuplicate ∧ reqFetch r then leBytes r.size old else []), countFilter a.2 r st)
  | none =>
    let p := perform a.2
    match p.1 with
    | none => (replyTo r stNotApplied, p.2)
    | some old => (replyTo r stOk (if reqFetch r then leBytes r.size old else []), recordIn p.2 sg (ownTag r) (offOf r.addr) old)

/-- What the filter says of each tag of a combined atomic, the room of each counted with that of those before it (R207). -/
def admitAll (s : State) (sg : Bool) (off : Nat) : List Tag → List (Option (Nat × Nat)) × State
  | [] => ([], s)
  | t :: ts =>
    let a := admitTag s sg t
    let r := admitAll (if a.1.isNone then recordIn a.2 sg t off 0 else a.2) sg off ts
    (a.1 :: r.1, r.2)

/-- A combined atomic (R207): applied once when every tag is new; else nothing is applied, and each constituent is
answered FILTER_BUSY, or STALE_RETRY where its tag is stale. -/
def filterCombined (s : State) (r : Request) (perform : State → Option Nat × State) : Reply × State :=
  let sg := takesSingle s r
  let tags := ownTag r :: r.more
  let x := (admitAll s sg (offOf r.addr) tags).1
  if x.all (fun a => a.isNone) then
    let p := perform s
    match p.1 with
    | none => (replyTo r stNotApplied, p.2)
    | some old => (replyTo r stOk, tags.foldl (fun s t => recordIn (admitTag s sg t).2 sg t (offOf r.addr) old) p.2)
  else
    let sts := x.map (fun a => if a.map (fun v => v.1) = some stStaleRetry then stStaleRetry else stFilterBusy)
    let s := sts.foldl (fun s st => countFilter s r st) s
    ({ replyTo r (sts.headD stFilterBusy) with more := sts.drop 1 }, s)

/-- An atomic under the filter, combined or not. -/
def filtered (s : State) (r : Request) (perform : State → Option Nat × State) : Reply × State :=
  if r.more = [] then filterAtomic s r perform else filterCombined s r perform

/-- A filter entry that an old owner sends in VC0 (R218 step 4), in the model's form (log entry 200): a store by its Barista that
carries the entry's tag and old value, addressed to the target's place here. -/
def isTransfer (r : Request) : Bool := ofBarista r && r.op = 0x10 && !r.more.isEmpty

/-- The entry enters this device's filter with its tag and issue time, once; a full set holds it: WAIT has it sent again 1 µs later
(R218, Table 9.15). -/
def takeTransfer (s : State) (r : Request) (t : Tag) : Reply × State :=
  let k := setOf t.src t.ctx t.seq
  let l := dropOld s (SMap.get dFilter s.filter k)
  let s := setFilter s k l
  if (findTag l t.src t.ctx (t.seq % 65536)).isSome then ({ replyTo r stOk with more := [] }, s)
  else if roomFor l true t.src t.ctx t.seq then ({ replyTo r stOk with more := [] }, recordIn s true t (offOf r.addr) (leNat r.data))
  else ({ replyTo r stWait with more := [] }, s)

/-! ### Performing an operation (R191, R192) -/

/-- Bytes of the Roast Log window: flash bytes at the same offsets, the first 256 KiB reading 0 (R330). -/
def logRead (s : State) (o n : Nat) : List Byte :=
  (List.range n).map (fun i => if o + i < 0x40000 then 0 else SMap.get flashDefault s.flash (o + i))

/-- Count bytes entering (or leaving) a Near Memory slot over the Mesh (Table 17.1). -/
def meshCount (s : State) (o n : Nat) (into : Bool) : State :=
  match placeOf o with
  | .nm t _ => if h : t < 160 then (Blk.cntT ⟨t, h⟩).add s (if into then 0x88 else 0x90) n else s
  | _ => s

/-- Count the bytes of an access from a die to memory of this device that lies at the other (MESH_X, Table 17.2): a read's leave
the memory's die, a write's the issuer's. -/
def crossAccess (s : State) (die o n : Nat) (write : Bool) : State :=
  match dieOfOffset s o with
  | some e => if e = die then s else crossCount s (if write then die else e) n
  | none => s

/-- Count the bursts of a tile's access to this device's HBM, 32 bytes each; a burst written in part is read first (R293, R358). -/
def hbmTileCount (s : State) (t : Fin 160) (o n : Nat) (write : Bool) : State :=
  let rd := if write then partialBursts o n else (bursts o n).length
  let s := if rd = 0 then s else (Blk.cntT t).add s 0x98 (32 * rd)
  if write then (Blk.cntT t).add s 0xA0 (32 * (bursts o n).length) else s

/-- Count a packet of a tile's context to or from another device (Table 17.1). -/
def remoteCount (s : State) (ctx n : Nat) (out : Bool) : State :=
  if h : ctx / 12 < 160 then (Blk.cntT ⟨ctx / 12, h⟩).add s (if out then 0xA8 else 0xB0) n else s

/-- An engine's access to HBM is of the latency class (R294): embedding reads, the reads of an ALL_GATHER's sources, which its CONTRIB
steps make, COPY with PRIO. -/
def latEngine (s : State) (q : SeqId) (write : Bool) : Bool :=
  match q with
  | .tile _ _ => false
  | .die _ e =>
    match engKind e.val with
    | .emb => !write
    | .col => !write && bits ((recOf s (engineBlk q)).getD 0 0) 0 2 = 2 && decide ((curStep (getSeq s q)).op = 0x11)
    | .opt => let st := curStep (getSeq s q); st.op = 0x13 && bit st.mode 0
    | _ => false

/-- A request's access to HBM is of the latency class (R294): a remote one in VC1 or VC6, a Tile Control Core's or Barista core's, an
engine's as above. -/
def latRequest (s : State) (r : Request) : Bool :=
  if r.src ≠ selfId s then r.vc = 1 || r.vc = 6
  else if r.ctx < 0x780 then decide (4 ≤ r.ctx % 12)
  else if r.ctx < 0x7AC then
    latEngine s (.die ⟨(r.ctx - 0x780) / 22 % 2, Nat.mod_lt _ (by decide)⟩ ⟨(r.ctx - 0x780) % 22, Nat.mod_lt _ (by decide)⟩) (!reqLoad r)
  else decide (0x7B0 ≤ r.ctx ∧ r.ctx < 0x7C0)

/-- Read at the destination: a register, the Roast Log window, or memory; none when it fails (R125, R292). -/
def placeRead (s : State) (part o n : Nat) (lat : Bool := false) : Option (List Byte) × State :=
  match placeOf o with
  | .reg ro =>
    match regPlace ro with
    | some (b, _, ob) => let x := readAt s part b ob n; (some (leBytes n x.1), x.2)
    | none => (none, s)
  | .log lo => (some (logRead s lo n), s)
  | _ => readLocal (meshCount s o n false) part o n lat

/-- Write at the destination. -/
def placeWrite (s : State) (part o : Nat) (bs : List Byte) (lat : Bool := false) : Bool × State :=
  match placeOf o with
  | .reg ro =>
    match regPlace ro with
    | some (b, _, ob) => (true, writeAt s part b ob bs.length (leNat bs))
    | none => (false, s)
  | .log _ => (false, s)
  | _ => writeLocal (meshCount s o bs.length true) part o bs lat

/-- What an atomic of OP stores over the bytes `bs` of its target; nothing where a CAS finds another value (R191). -/
def atomicBytes (op x cmp : Nat) (bs : List Byte) : Option (List Byte) :=
  let w := bs.length
  let old := leNat bs
  if op % 16 = 5 ∧ old ≠ cmp % 2 ^ (8 * w) then none else some (leBytes w (atomicResult op old x (cmp % 2 ^ (8 * w))))

/-- The read-modify-write of an atomic: the old value, none when its read fails (R191, R293). DESIGN CHOICE (log entry 239): at a Near
Memory slot it counts its bytes as leaving and as entering. -/
def performAtomic (r : Request) (s : State) : Option Nat × State :=
  let o := offOf r.addr
  let x := rmwLocal (meshCount (meshCount s o r.size false) o r.size true) r.part o r.size
    (atomicBytes r.op (leNat (r.data.take r.size)) r.cmp) (latRequest s r)
  (x.1.map leNat, x.2)

/-- Count a request of a tile's own context to this device's HBM, 32 bytes a burst (R358, Table 17.1). -/
def tileHbmCount (s : State) (r : Request) : State :=
  match placeOf (offOf r.addr) with
  | .hbm _ =>
    if h : r.src = selfId s ∧ r.ctx / 12 < 160 then hbmTileCount s ⟨r.ctx / 12, h.2⟩ (offOf r.addr) r.size (!reqLoad r) else s
  | _ => s

/-- Checks 5 and 6 of R213 for a request that has passed the others. -/
def performRequest (s : State) (r : Request) : Reply × State :=
  let o := offOf r.addr
  if r.size = 0 then (replyTo r stOk, s)
  else if reqAtomic r then filtered s r (fun s => performAtomic r (tileHbmCount s r))
  else
  let s := tileHbmCount s r
  if reqLoad r then
    let x := placeRead s r.part o r.size (latRequest s r)
    match x.1 with
    | some bs => (replyTo r stOk bs, x.2)
    | none => (replyTo r stNotApplied, x.2)
  else
    let w := placeWrite s r.part o (r.data.take r.size ++ List.replicate (r.size - r.data.length) 0) (latRequest s r)
    if w.1 then (replyTo r stOk, if reqFlag r then wakeStore w.2 o r.size else w.2) else (replyTo r stNotApplied, w.2)

/-- Checks 1 to 4 of R213 in order, the first that fails answering: none when the request may go on. -/
def checked (s : State) (r : Request) : Option Reply × State :=
  let h := checkPart s r
  if h.1 ≠ stOk then (some (replyTo r h.1), h.2)
  else
    let p := checkPlace h.2 r
    if p.1 ≠ stOk then
      (some (replyTo r p.1 (if reqLoad r then List.replicate r.size 0 else [])), p.2)
    else
      let f := checkForm p.2 r
      if f.1 ≠ stOk then (some (replyTo r f.1), f.2) else checkEpoch f.2 r

/-- A request at its destination (R213), or a migration's filter entry. -/
def serve (s : State) (r : Request) : Reply × State :=
  match isTransfer r, r.more with
  | true, t :: _ => takeTransfer s r t
  | _, _ =>
    let c := checked s r
    match c.1 with
    | some rep => (rep, c.2)
    | none => performRequest c.2 r

/-! ### Issuers (R193, Tables 9.2 and 9.3) -/

/-- Who issues a request: its context, partition, channel and class, and the router port it enters by. -/
structure Issuer where
  ctx : Nat
  part : Nat
  vc : Nat
  isolated : Bool
  port : Nat
  deriving DecidableEq, Repr

/-- A partition's default class (R208): the management partition is always ISOLATED. -/
def partIsolated (s : State) (p : Nat) : Bool := p = 0 || bit (partEntry s p) 14

/-- The die port of a tile or die. -/
def tilePort (s : State) (t : Nat) : Nat := 32 + physOf s t / 80

/-- A sequencer and its engine as an issuer; an embedding engine's table gives its class, its flags take the default. -/
def seqIssuer (s : State) (q : SeqId) (cls : Option Bool := none) : Issuer :=
  let p := seqPart s q
  let dflt := partIsolated s p
  match q with
  | .tile t i =>
    { ctx := 12 * t.val + i.val, part := p,
      vc := if i.val = 3 then (if bits (partEntry s p) 16 3 = 7 then 7 else 2) else 1, isolated := dflt, port := tilePort s t.val }
  | .die d e =>
    let base : Issuer := { ctx := 0x780 + 22 * d.val + e.val, part := p, vc := 1, isolated := dflt, port := 32 + d.val }
    match engKind e.val with
    | .col => { base with vc := 4, isolated := false }
    | .rte => { base with vc := 5, isolated := false }
    | .xch => { base with vc := 5, isolated := false }
    | .emb => { base with vc := 6, isolated := cls.getD dflt }
    | .opt => { base with vc := 7, isolated := false }
    | .grd => base
    | .bpm => base
    | .sta => base

/-- A thread as an issuer. -/
def threadIssuer (s : State) (t n : Nat) : Issuer :=
  let p := tileOwner s t
  { ctx := 12 * t + 4 + n, part := p, vc := 1, isolated := partIsolated s p, port := tilePort s t }

/-- Barista core `c` as an issuer. -/
def baristaIssuer (c vc : Nat) : Issuer := { ctx := 0x7B0 + c, part := 0, vc := vc, isolated := true, port := 32 }

/-- The host bridge's slot `k` as an issuer (R239). -/
def hostIssuer (s : State) (k : Nat) : Issuer :=
  { ctx := 0x7C0 + k, part := bits (Blk.hst.rd s 0x4C) 0 12, vc := 1, isolated := true, port := 30 }

/-! ### Holds at the source (R197–R200, R217) -/

/-- Two spans overlap. -/
def spanOverlap (a n b m : Nat) : Bool := a < b + m && b < a + n

/-- Two requests overlap, where they now go or where they were first issued to (R197, R217). -/
def reqOverlap (a b : OutReq) : Bool :=
  [a.req.addr, a.orig].any (fun x => [b.req.addr, b.orig].any (fun y => spanOverlap x a.req.size y b.req.size))

/-- The flow of `b` is that of `a` (R196). -/
def sameFlow (a b : Request) : Bool := a.ctx = b.ctx && a.vc = b.vc && devOf a.addr = devOf b.addr

/-- The flow in which a request was issued, which a move leaves unchanged (R217). -/
def sameOrigin (a b : OutReq) : Bool := a.req.ctx = b.req.ctx && a.req.vc = b.req.vc && devOf a.orig = devOf b.orig

/-- A request waits at the source: a store or load behind an overlapping earlier store (R197), a flag behind an earlier store or atomic
of its flow that has not left or is to be sent again (R198), a flag behind an earlier
request of its flow that went another way or met MOVED (R198, R217), an ALL flag behind every earlier store and atomic of
its context (R199), a host read behind the earlier writes of its slot (R239), a moved request behind the earlier requests of its
flow that have not moved (R217). -/
def mustHold (s : State) (o : OutReq) : Bool :=
  let r := o.req
  let earlier := s.outs.filter (fun e => e.id < o.id && e.req.ctx = r.ctx)
  if earlier = [] then false
  else
    ((reqLoad r || reqPlainStore r) && earlier.any (fun e => reqPlainStore e.req && reqOverlap e o)) ||
    (reqFlag r && earlier.any (fun e => !reqLoad e.req && !reqFlag e.req && e.phase ≠ .sent && (sameFlow e.req r || sameOrigin e o))) ||
    (reqFlag r && earlier.any (fun e => (sameFlow e.req r || sameOrigin e o) && e.alt)) ||
    (reqFlag r && s.movedFlows.contains (r.ctx, devOf o.orig, r.vc) && earlier.any (fun e => sameOrigin e o)) ||
    (o.flagAll && earlier.any (fun e => !reqLoad e.req)) ||
    (reqLoad r && 0x7C0 ≤ r.ctx && earlier.any (fun e => !reqLoad e.req)) ||
    (o.movedFrom.isSome && earlier.any (fun e => sameOrigin e o && e.movedFrom = none))

/-- The last use of a sequence's block of 32 lies less than W + 2 µs back (R200). -/
def seqRecent (s : State) (ctx seq : Nat) : Bool :=
  seq % 32 = 0 &&
  (let t := SMap.get d0 s.seqTime (ctx * 2048 + seq % 65536 / 32)
   t ≠ 0 && s.now + 1 - t < replayW s + 2)

/-! ### Sending and answers -/

/-- The bank words that a span of a slot touches: each 64 bytes lie in one bank's word (R123). -/
def bankWords (o n : Nat) : Nat := (o + n + 63) / 64 - o / 64

/-- Energy of `n` bytes at a local offset that a sequencer's engine reads or writes (R307): 32-byte bursts, a burst written
in part being read first, or 64-byte bank accesses. -/
def accessEnergy (s : State) (q : SeqId) (o n : Nat) (write : Bool) (page : Blk := dataPage q write) : State :=
  match placeOf o with
  | .hbm _ => seqEnergy s q .burst (spanBursts o n write) page
  | .nm _ _ => seqEnergy s q .bank (bankWords o n) page
  | _ => s

/-- The sequencer whose table a request belongs to. -/
def Waiter.seq (w : Waiter) : Option SeqId :=
  match w.inst with
  | some n => seqOfInst n
  | none => none

/-- The old owner has sent its last message of entry `i`'s migration (R218 step 4). -/
def migDone (s : State) (i : Nat) : State :=
  if s.migs.any (fun m => m.entry = i && m.sent) then
    Blk.fab.event (showMig { setEntryState s i plMoved with migs := migsBut s i } i plMoved false (arrivalsOf s i)) 19
  else s

/-- A reply to a request that has ended is discarded (R201); one of a partition torn down is counted (R214). -/
def lateReply (s : State) (rep : Reply) : State :=
  if s.spent.any (fun e => e.ctx = rep.ctx && e.seq = rep.seq && e.gone) then Blk.fab.event (Blk.fab.sat s 0x8088) 20 else s

/-- A MOVED reply answers a copy sent before the request last moved (R217): the request already carries the reply's epoch or a later
one. It is then sent again where it now goes. -/
def movedSince (o : OutReq) (rep : Reply) : Bool :=
  o.movedFrom.isSome && decide ((o.req.epoch + 2 ^ 32 - rep.newEpoch % 2 ^ 32) % 2 ^ 32 < 2 ^ 31)

/-- A reply reaches its issuer (R201, R202, R211, R212, R216, R217). A router's NOT_APPLIED answers one copy; a
destination's is final (R292). A filter entry that met a full set is held by WAIT, however long (R218, Table 9.15). -/
def onReply (s : State) (rep : Reply) : State :=
  match s.outs.find? (fun o => o.req.ctx = rep.ctx && o.req.seq % 65536 = rep.seq && o.copies ≠ 0) with
  | none => lateReply s rep
  | some o =>
    let st := rep.status
    if st = stMoved then
      let r := o.req
      let d := devOf r.addr
      let gone := movedSince o rep
      let a := if gone then r.addr else 2 ^ 41 * rep.newOwner + unsigned 41 ((rep.newBase : Int) + offOf r.addr - rep.base)
      let s := Blk.fab.sat s 0x8080
      let flow := (r.ctx, devOf o.orig, r.vc)
      let s := if s.movedFlows.contains flow then s else { s with movedFlows := s.movedFlows ++ [flow] }
      modOut s o.id (fun o =>
        { o with req := { r with addr := a, epv := true, epoch := if gone then r.epoch else rep.newEpoch },
                 movedFrom := if gone then o.movedFrom else some d, phase := .held })
    else if st = stWait then modOut s o.id (fun o =>
      { o with phase := .waitUntil (s.now + 1), firstIssue := if isTransfer o.req then s.now else o.firstIssue })
    else if st = stFilterBusy then modOut s o.id (fun o => { o with phase := .busyUntil (s.now + 1) })
    else if st = stNotApplied ∧ rep.router then
      let s := modOut s o.id (fun o => { o with refusedCopies := o.refusedCopies + 1 })
      if o.req.isolated ∧ o.copies ≤ o.refusedCopies + 1 then finish s o st rep.data else s
    else finish s o st rep.data

/-- Send a copy of a request: to this device's own memory and registers at once (R20), else into the router. -/
def sendCopy (s : State) (o : OutReq) (port : Nat) : State :=
  let first := o.copies = 0
  let r := { o.req with issueTime := if first then sysTime s else o.req.issueTime, retry := !first }
  let s := if first ∧ reqAtomic r then
      { s with seqTime := SMap.set d0 s.seqTime (r.ctx * 2048 + r.seq % 65536 / 32) (s.now + 1) } else s
  let s := if first then s else Blk.fab.add s 0x8078 1
  let s := modOut s o.id (fun o =>
    { o with req := { r with retry := false }, phase := .sent, copies := o.copies + 1, lastIssue := s.now,
             firstIssue := if first then s.now else o.firstIssue, alt := o.alt || !first,
             retryPeriod := if first then bits (Blk.fab.rd s 0x8044) 0 10 else o.retryPeriod,
             gangTimeout := if first then bits (Blk.fab.rd s 0x8048) 0 17 else o.gangTimeout })
  let s := match o.waiter with
    | .migrate i => if first then migDone s i else s
    | _ => s
  if devOf r.addr = selfId s then
    let s := match o.waiter.seq with
      | some q => accessEnergy s q (offOf r.addr) r.size (!reqLoad r)
      | none => s
    let x := serve s r
    onReply x.2 x.1
  else
    let k : Packet := .req r 0 port
    let s := match o.waiter.seq with
      | some q => seqEnergy s q .link (pktSize k) (dataPage q (!reqLoad r))
      | none => s
    let s := if first then remoteCount s r.ctx (pktSize k) true else s
    enterRouter s k

/-- The router port of a context (Table 9.2). -/
def portOfCtx (s : State) (ctx : Nat) : Nat :=
  if ctx < 0x780 then tilePort s (ctx / 12)
  else if ctx < 0x7B0 then 32 + (ctx - 0x780) / 22
  else if ctx < 0x7C0 then 32
  else 30

/-- A held request that may go: an ALL flag with a failed request among those it covers completes with NOT_APPLIED (R199),
every other one is sent. -/
def releaseOne (s : State) (o : OutReq) : State :=
  if o.flagAll ∧ o.copies = 0 then
    let bad := s.ctxFail.any (fun e => e.1 = o.req.ctx && e.2 < o.id)
    let s := { s with ctxFail := s.ctxFail.filter (fun e => !(e.1 = o.req.ctx && e.2 ≤ o.id)) }
    if bad then finish s o stNotApplied [] else sendCopy s o (portOfCtx s o.req.ctx)
  else sendCopy s o (portOfCtx s o.req.ctx)

/-- Send every held request whose hold has ended, oldest first, until none is left. -/
def settleOutsN : Nat → State → State
  | 0, s => s
  | n + 1, s =>
    match s.outs.find? (fun o => o.phase = .held && !mustHold s o) with
    | some o => settleOutsN n (releaseOne s o)
    | none => s

def settleOuts (s : State) : State := settleOutsN (3 * s.outs.length + 1) s

/-- The transaction tag of a load or store (Table 10.4): one that no request of its context uses, and none whose late reply could be
taken for an answer to this one (R201). -/
def freeTag (s : State) (ctx : Nat) : Nat :=
  let base := SMap.get d0 s.seqCtr ctx + 32768
  let used := (s.outs.filter (fun o => o.req.ctx = ctx)).map (fun o => o.req.seq % 65536) ++
    (s.spent.filter (fun e => e.ctx = ctx)).map (fun e => e.seq)
  match (List.range (used.length + 1)).find? (fun k => !used.contains ((base + k) % 65536)) with
  | some k => (base + k) % 65536
  | none => base % 65536

/-- What a request asks for. -/
structure Ask where
  op : Nat
  addr : Nat
  size : Nat
  data : List Byte := []
  cmp : Nat := 0
  epv : Bool := false
  epoch : Nat := 0
  comb : Bool := false
  flagAll : Bool := false
  last : Bool := true
  more : List Tag := []
  deriving DecidableEq, Repr

/-- Issue one packet's request (R193, R200, R214): a partition that is not hosted here has it discarded, counted and
completed with PART_GONE, of which a host request leaves a fault record (R240). -/
def issueOne (s : State) (i : Issuer) (a : Ask) (w : Waiter) : State :=
  let atomic : Bool := a.op % 16 ≠ 0
  let seq := if atomic then SMap.get d0 s.seqCtr i.ctx else freeTag s i.ctx
  let r : Request :=
    { op := a.op, addr := a.addr, size := a.size, src := selfId s, ctx := i.ctx, part := i.part, vc := i.vc,
      isolated := i.isolated, det := i.part ≠ 0 && bit (partEntry s i.part) 13, comb := a.comb, seq := seq,
      epv := a.epv, epoch := a.epoch, last := a.last, data := a.data, cmp := a.cmp, more := a.more }
  let held := atomic && (seqRecent s i.ctx seq || s.outs.any (fun o => o.req.ctx = i.ctx && o.phase = .seqHeld))
  let o : OutReq :=
    { id := s.nextOut, req := r, orig := a.addr, flagAll := a.flagAll, waiter := w, phase := if held then .seqHeld else .held,
      firstIssue := s.now }
  let s := { s with nextOut := s.nextOut + 1,
                    seqCtr := if atomic then SMap.set d0 s.seqCtr i.ctx ((seq + 1) % 65536) else s.seqCtr }
  let byRow := (a.flagAll || (0x7C0 ≤ i.ctx && reqLoad r)) && mustHold s o
  let o := if byRow ∧ !held then { o with phase := .rowHeld } else o
  if partValid s i.part then settleOuts { s with outs := s.outs ++ [o] }
  else
    let s := fabRaise (Blk.fab.event (Blk.fab.sat s 0x8088) 20) 0x0103 r
    if 0x7C0 ≤ i.ctx then finish s o stPartGone [] else deliver s o stPartGone []

/-- Issue an operation: a load or store as packets that each lie within one aligned 512-byte block (R192), a flagged store, an atomic or
a zero size as one. -/
def issue (s : State) (i : Issuer) (a : Ask) (w : Waiter) : State :=
  if (a.size ≤ 512 ∧ a.addr % 512 + a.size ≤ 512) ∨ a.op % 16 ≠ 0 ∨ bits a.op 4 3 = 2 then issueOne s i a w
  else
    let ps := pieces 512 (a.size / 512 + 2) a.addr a.size
    forEach ps s (fun s p =>
      issueOne s i { a with addr := p.1, size := p.2, data := (a.data.drop (p.1 - a.addr)).take p.2,
                            last := p.1 + p.2 = a.addr + a.size } w)

/-! ### Events at the issuer -/

/-- The deadline after which a request is not reissued (R201): W for an atomic, else its class's timeout. -/
def reissueUntil (s : State) (o : OutReq) : Nat :=
  if reqAtomic o.req then replayW s else if o.req.isolated then isoTimeout s o.req.part else o.gangTimeout

/-- REQUEST_REISSUE (R201, R210): RETRY_PERIOD has passed with no final reply; a GANG load or store goes on being
reissued (R210), an atomic while its age is below W. -/
def execRequestReissue (id : Nat) (s : State) : Out :=
  .next (match findOut s id with
    | none => s
    | some o =>
      let age := s.now - o.firstIssue
      let may : Bool := if reqAtomic o.req then age < replayW s else !o.req.isolated || age < reissueUntil s o
      if o.phase = .sent ∧ o.retryPeriod ≤ s.now - o.lastIssue ∧ may then settleOuts (sendCopy s o (portOfCtx s o.req.ctx)) else s)

/-- WAIT_REISSUE (R216): 1 µs after WAIT arrived the request is sent again. -/
def execWaitReissue (id : Nat) (s : State) : Out :=
  .next (match findOut s id with
    | none => s
    | some o =>
      match o.phase with
      | .waitUntil t => if t ≤ s.now then settleOuts (sendCopy s o (portOfCtx s o.req.ctx)) else s
      | _ => s)

/-- FILTER_BUSY_REISSUE (R202): 1 µs after FILTER_BUSY arrived the atomic is sent again. -/
def execFilterBusyReissue (id : Nat) (s : State) : Out :=
  .next (match findOut s id with
    | none => s
    | some o =>
      match o.phase with
      | .busyUntil t => if t ≤ s.now then settleOuts (sendCopy s o (portOfCtx s o.req.ctx)) else s
      | _ => s)

/-- SEQ_HOLD_RELEASE (R200): the sequences' last use lies W + 2 µs back; the context's held atomics go, and the cycles of
the router's 2.0 GHz clock they were held are counted. -/
def execSeqHoldRelease (ctx : Nat) (s : State) : Out :=
  .next (match s.outs.find? (fun o => o.req.ctx = ctx && o.phase = .seqHeld) with
    | none => s
    | some o =>
      if seqRecent s ctx o.req.seq then s
      else
        let s := Blk.fab.sat s 0x808C (2000 * (s.now - o.firstIssue))
        settleOuts { s with outs := s.outs.map (fun e =>
          if e.req.ctx = ctx ∧ e.phase = .seqHeld ∧ e.req.seq / 32 = o.req.seq / 32 then { e with phase := .held } else e) })

/-- GANG_LOST (R210): no final reply by GANG_TIMEOUT from first issue; a fault record is written and the Barista reports
the target and partition over VC0; the request stays. The report's form and address are not given: `reports` holds what has been
sent (log entry 201). -/
def execGangLost (id : Nat) (s : State) : Out :=
  .next (match findOut s id with
    | none => s
    | some o =>
      if !o.req.isolated ∧ !o.gangRaised ∧ o.copies ≠ 0 ∧ o.gangTimeout ≤ s.now - o.firstIssue then
        let s := fabRaise (Blk.fab.event (faultRecord s o.req stUnknown) 17) 0x0107 o.req
        modOut { s with reports := s.reports ++ [.gangLost (devOf o.req.addr) o.req.part] } id (fun o => { o with gangRaised := true })
      else s)

/-- ISO_TIMEOUT (R211): an ISOLATED request ends, UNKNOWN, when the partition's ISO_TIMEOUT has passed since first issue. -/
def execIsoTimeout (id : Nat) (s : State) : Out :=
  .next (match findOut s id with
    | none => s
    | some o =>
      if o.req.isolated ∧ o.copies ≠ 0 ∧ isoTimeout s o.req.part ≤ s.now - o.firstIssue then
        settleOuts (finish s o (if o.copies ≤ o.refusedCopies then stNotApplied else stUnknown) [])
      else s)

/-- FLAG_ALL_RELEASE (R199): the oldest held ALL flag of a context goes once nothing holds it. -/
def execFlagAllRelease (ctx : Nat) (s : State) : Out :=
  .next (match s.outs.find? (fun o => o.req.ctx = ctx && o.flagAll && o.phase = .rowHeld) with
    | none => s
    | some o => if mustHold s o then s else settleOuts (releaseOne s o))

/-- REPLY_ARRIVE (R203): a reply reaches its issuer's die port; a reply to no outstanding request is discarded (R201). -/
def execReplyArrive (port : Fin 34) (r : Reply) (s : State) : Out :=
  .next (
    let s := { s with arrived := s.arrived.filter (fun k => match k with
      | .rep x _ _ _ => !(decide (x = r))
      | .req _ _ _ => true) }
    let s := match s.outs.find? (fun o => o.req.ctx = r.ctx && o.req.seq % 65536 = r.seq && o.copies ≠ 0) with
      | some o =>
        let s := remoteCount s r.ctx (pktSize (.rep r 0 0 port.val)) false
        let n := pktSize (.rep r 0 0 port.val)
        match o.waiter.seq with
        | some q => seqEnergy s q .link n (dataPage q (!reqLoad o.req))
        | none =>
          if h : r.ctx / 12 < 160 then (if 4 ≤ r.ctx % 12 then threadEnergy s ⟨r.ctx / 12, h⟩ .link n else s) else s
      | none => s
    if r.dst = selfId s then settleOuts (onReply s r) else s)

/-! ### Arrivals at the destination -/

/-- Put a reply into the router, by the die port of the target's die; a reply to this device's own request reaches its
issuer (R20). -/
def sendReply (s : State) (r : Request) (rep : Reply) : State :=
  if r.src = selfId s then settleOuts (onReply s rep)
  else
    let d := match dieOfOffset s (offOf r.addr) with
      | some d => d
      | none => 0
    enterRouter s (.rep rep r.part 0 (32 + d))

/-- Take a request from those waiting at a die port. -/
def takeArrived (s : State) (r : Request) : State :=
  { s with arrived := s.arrived.filter (fun k => match k with
      | .req x _ _ => !(decide (x = r))
      | .rep _ _ _ _ => true) }

/-- A request that a row's operation describes arrives and is served and answered (R213). -/
def arrive (s : State) (r : Request) (isRow : Bool) : State :=
  if isRow ∧ serving s ∧ devOf r.addr = selfId s then
    let x := serve (takeArrived s r) r
    sendReply x.2 r x.1
  else s

/-- REMOTE_LOAD (R192). -/
def execRemoteLoad (_port : Fin 34) (r : Request) (s : State) : Out := .next (arrive s r (reqLoad r))

/-- REMOTE_STORE (R192); an OP of no valid KIND or TYPE is answered BAD_ATOMIC (R190). -/
def execRemoteStore (_port : Fin 34) (r : Request) (s : State) : Out :=
  .next (arrive s r (!reqLoad r && !reqFlag r && (reqKind r = 0 || 9 ≤ reqKind r)))

/-- A packet is a store or atomic of a flag's flow, itself or as a constituent of a combined atomic (R198). -/
def ofFlow (r : Request) : Packet → Bool
  | .req x _ _ =>
    !reqLoad x && !reqFlag x && (ownTag x :: x.more).any (fun t => t.src = r.src && t.ctx = r.ctx && t.vc = r.vc)
  | .rep _ _ _ _ => false

/-- An earlier store or atomic of a flag's flow that has reached this device still waits at a die port, or in its queue, to be
performed before it (R198). -/
def flowWaits (s : State) (r : Request) : Bool :=
  (s.arrived ++ (getPort s 32).outq ++ (getPort s 33).outq).any (ofFlow r)

/-- FLAGGED_STORE (R198, R213): a flag that passes the checks is performed once every earlier store and atomic of its flow has been,
and held till then. -/
def execFlaggedStore (port : Fin 34) (r : Request) (s : State) : Out :=
  .next (
    if reqFlag r ∧ (flowWaits s r ∨ s.heldFlags.any (fun h => h.req.src = r.src && h.req.ctx = r.ctx && h.req.vc = r.vc)) ∧
        serving s ∧ devOf r.addr = selfId s then
      let c := checked (takeArrived s r) r
      match c.1 with
      | some rep => sendReply c.2 r rep
      | none => { c.2 with heldFlags := c.2.heldFlags ++ [⟨r, port.val⟩] }
    else arrive s r (reqFlag r))

/-- FLAG_DEVICE_PERFORM (R198): the first held flag that nothing of its flow precedes any more is performed. -/
def execFlagDevicePerform (s : State) : Out :=
  .next (match s.heldFlags.find? (fun h => !flowWaits s h.req) with
    | none => s
    | some h =>
      let x := performRequest { s with heldFlags := s.heldFlags.erase h } h.req
      sendReply x.2 h.req x.1)

/-- The atomics (R191). -/
def execAtomicAdd (_port : Fin 34) (r : Request) (s : State) : Out := .next (arrive s r (reqKind r = 1))
def execAtomicMin (_port : Fin 34) (r : Request) (s : State) : Out := .next (arrive s r (reqKind r = 2))
def execAtomicMax (_port : Fin 34) (r : Request) (s : State) : Out := .next (arrive s r (reqKind r = 3))
def execAtomicSwap (_port : Fin 34) (r : Request) (s : State) : Out := .next (arrive s r (reqKind r = 4))
def execAtomicCas (_port : Fin 34) (r : Request) (s : State) : Out := .next (arrive s r (reqKind r = 5))
def execAtomicAnd (_port : Fin 34) (r : Request) (s : State) : Out := .next (arrive s r (reqKind r = 6))
def execAtomicOr (_port : Fin 34) (r : Request) (s : State) : Out := .next (arrive s r (reqKind r = 7))
def execAtomicXor (_port : Fin 34) (r : Request) (s : State) : Out := .next (arrive s r (reqKind r = 8))

/-- FILTER_ENTRY_EXPIRE (R202): entries and RUN sequences of age above W leave a set. -/
def execFilterEntryExpire (set : Fin 4096) (s : State) : Out :=
  .next (setFilter s set.val (dropOld s (SMap.get dFilter s.filter set.val)))

/-! ### Migration (R218) -/

/-- The SINGLE entries of the filter whose offset lies in a range: tag, offset, old value. -/
def filterIn (s : State) (base len : Nat) : List (Tag × Nat × Nat) :=
  (s.filter.flatMap (fun e => e.2)).filterMap (fun e =>
    match e with
    | .single src ctx seq t off old => if base ≤ off ∧ off < base + len then some ({ src := src, ctx := ctx, seq := seq, issueTime := t }, off, old) else none
    | .run _ _ _ _ => none)

/-- The Barista copies 512 bytes of a range to address `dest` (R218 step 4). DESIGN CHOICE (log entry 240): a burst that reads uncorrectable,
of which no data is delivered (R292), is not sent. -/
def copyBlock (s : State) (from_ dest : Nat) : State :=
  let r := (List.range 16).foldl (fun (r : List (Option (List Byte)) × State) i =>
    let x := readLocal r.2 0 (from_ + 32 * i) 32 true
    (r.1 ++ [x.1], x.2)) ([], s)
  let send (s : State) (a : Nat) (bs : List Byte) : State :=
    issueOne s (baristaIssuer 0 7) { op := 0x10, addr := a, size := bs.length, data := bs } .posted
  match r.1.mapM id with
  | some l => send r.2 dest l.flatten
  | none => forEach r.1.zipIdx r.2 (fun s e => match e.1 with
    | some bs => send s (dest + 32 * e.2) bs
    | none => s)

/-- What the Barista sends in a migration (R218 step 4): the range to the new owner in VC7; in VC0 the SINGLE filter entries of the
range, in the model's form, and OWNED into the new owner's entry as an ALL flag, which leaves when all of these are acknowledged;
then the own STATE is MOVED (Table 9.12). Where the new owner's entry lies the spec does not say: its address there is a free
value. -/
def sendMigration (s : State) (m : Mig) : State :=
  let e := entryBytes s m.entry
  let owner := bits (qw e 0) 3 17
  let base := bits (qw e 1) 0 41
  let newBase := bits (qw e 2) 0 41
  let len := bits (qw e 3) 32 32 * 0x200000
  let s := { s with migs := s.migs.map (fun x => if x = m then { m with sent := true } else x) }
  let s := forEach (List.range (len / 512)) s (fun s k => copyBlock s (base + 512 * k) (2 ^ 41 * owner + newBase + 512 * k))
  let s := forEach (filterIn s base len) s (fun s f =>
    issueOne s (baristaIssuer 0 0)
      { op := 0x10, addr := 2 ^ 41 * owner + (newBase + f.2.1 - base) / 8 * 8, size := 8, data := leBytes 8 f.2.2, more := [f.1] } .posted)
  let f := fresh s
  issueOne f.2 (baristaIssuer 0 0)
    { op := 0x20, addr := 2 ^ 41 * owner + f.1 % 2 ^ 36 * 32, size := 4, flagAll := true,
      data := leBytes 4 (plOwned + bits (qw e 0) 20 12 * 2 ^ 20) } (.migrate m.entry)

/-- A held flag has been accepted in the range of a placement entry (R218 step 3). -/
def heldIn (s : State) (i : Nat) : Bool := s.heldFlags.any (fun h => entryOf s (offOf h.req.addr) = i)

/-- MIG_TRANSFER (R218 steps 3 and 4): once HANDOVER has come and every request accepted in the range has been performed, the Barista
sends the range, once. -/
def execMigTransfer (s : State) : Out :=
  .next (match s.migs.find? (fun m => m.handover && !m.sent && !heldIn s m.entry) with
    | none => s
    | some m => sendMigration s m)

end Sys2Proof.Machine
end

