-- ==== Sys2Proof/Machine/Operands.lean ====
section
/-! DEFINITION. Sys2Proof/Machine/Operands.lean: an engine's reads and writes of its operands (R20, R47, R54, R55, R125, R126,
R212, R292, Table 17.1). -/
namespace Sys2Proof.Machine

/-! ### Epoch tags (R54, R55) -/

/-- The 32-byte granules that a span touches. -/
def granules (o n : Nat) : List Nat := if n = 0 then [] else (List.range ((o + n - 1) / 32 - o / 32 + 1)).map (fun i => o / 32 + i)

/-- Set the tags of the granules of Near Memory that a span touches. -/
def setTags (s : State) (o n ep : Nat) : State :=
  forEach (granules o n) s (fun s g => { s with tags := SMap.set d0 s.tags g (ep % 16) })

/-- A mismatch: the step's status becomes HAZARD; the first one while HAZARD stands clear is captured, a later one only
counted. DESIGN CHOICE (log entry 180): HAZ_ADDR holds the global address of the 32-byte granule, and BLK_ERR_INFO1 its local offset. -/
def hazard (s : State) (q : SeqId) (operand g expected seen : Nat) : State :=
  let b := Blk.seq q
  let s := noteStatus s q tkHazard
  if bit (b.rd s 0x18) 16 then b.countErr s
  else
    let x := getSeq s q
    let s := b.wr s 0x70 (2 ^ 41 * selfId s + 32 * g)
    let s := b.wr s 0x78 (x.step % 128 + operand % 4 * 2 ^ 8 + expected % 16 * 2 ^ 12 + seen % 16 * 2 ^ 16)
    let s := b.wr s 0x7C (flatIter x % 2 ^ 32)
    seqRaise s q (some 16) 0x0101 (32 * g)

/-- Compare the tags of a span with an epoch. -/
def checkTags (s : State) (q : SeqId) (operand o n ep : Nat) : State :=
  forEach (granules o n) s (fun s g =>
    let t := SMap.get d0 s.tags g
    if t = ep % 16 then s else hazard s q operand g ep t)

/-! ### Counters (Table 17.1) -/

/-- Count an access of a sequencer's engine to this device's memory. -/
def countAccess (s : State) (q : SeqId) (o n : Nat) (write : Bool) : State :=
  let s := crossAccess s (match q with | .tile t _ => physOf s t.val / 80 | .die d _ => d.val) o n write
  match q, placeOf o with
  | .tile t _, .hbm _ => hbmTileCount s t o n write
  | .tile t _, .nm u _ => if u = t.val then (Blk.cntT t).add s (if write then 0x80 else 0x78) n else meshCount s o n write
  | .die _ _, .nm _ _ => meshCount s o n write
  | _, _ => s

/-! ### Operands -/

/-- An engine reaches this address of its own device without a request: HBM with no placement in force, Near Memory. -/
def isDirect (s : State) (a : Nat) : Bool :=
  devOf a = selfId s &&
  (match placeOf (offOf a) with
   | .hbm _ => placeBase s = 0
   | .nm _ _ => true
   | _ => false)

/-- ADDR_FORM (R19, R47). -/
def addrForm (s : State) (q : SeqId) (a : Nat) : State := seqRaise (noteStatus s q tkMemory) q none 0x0004 (a % 2 ^ 32)

/-- The bytes of a remote operand that have arrived; none while some have not. -/
def fromBuf (x : SeqSt) (a n : Nat) : Option (List Byte) :=
  (List.range n).mapM (fun i => (x.rbuf.find? (fun e => e.1 = a + i)).map (fun e => e.2))

/-- A sequencer has loads outstanding. -/
def loadsOut (s : State) (q : SeqId) : Bool :=
  s.outs.any (fun o => match o.waiter with
    | .operand n _ => n = q.inst
    | _ => false)

/-- A span an iteration reads: operand index, address, bytes, format for error values, epoch of its tags, placement epoch of the
request that fetches it (R168). -/
structure Span where
  operand : Nat
  addr : Nat
  len : Nat
  fmt : Nat := 0
  ep : Option Nat := none
  pep : Option Nat := none

/-- Ask for the spans of an iteration that need requests. The flag says that all have come. -/
def prefetch (s : State) (q : SeqId) (spans : List Span) (cls : Option Bool := none) : Bool × State :=
  let far := spans.filter (fun p => p.len ≠ 0 && addrOk p.addr && !isDirect s p.addr)
  if far = [] then (true, s)
  else
    let s := forEach far s (fun s p =>
      if (fromBuf (getSeq s q) p.addr p.len).isSome ∨ loadsOut s q then s
      else issue s (seqIssuer s q cls) { op := 0x00, addr := p.addr, size := p.len, epv := p.pep.isSome, epoch := p.pep.getD 0 }
        (.operand q.inst p.fmt))
    (far.all (fun p => (fromBuf (getSeq s q) p.addr p.len).isSome), s)

/-- A sequencer's access to its own device as a request (R20, R213). -/
def ownReq (s : State) (q : SeqId) (op a n : Nat) (cls : Option Bool) : Request :=
  let i := seqIssuer s q cls
  { op := op, addr := a, size := n, src := selfId s, ctx := i.ctx, part := i.part, vc := i.vc, isolated := i.isolated, seq := 0,
    issueTime := sysTime s }

/-- Checks 1 and 2 of R213, which an access to the own device passes as any other (R20). -/
def ownChecked (s : State) (r : Request) : Nat × State :=
  let h := checkPart s r
  if h.1 = stOk then checkPlace h.2 r else h

/-- An own access that has failed: the step's status is MEMORY, and its outcome is reported as a request's (R199, R212, R219). -/
def ownFailed (s : State) (q : SeqId) (r : Request) (st : Nat) : State :=
  noteStatus (badOutcome { s with nextOut := s.nextOut + 1 } r s.nextOut st false false) q tkMemory

/-- Read `n` bytes at an address, after `prefetch`: the bytes, whether the read was performed, the state. `ep` is the epoch
compared, `operand` 0 A, 1 B, 2 D; `page` the page whose data path reads (R384). -/
def readOp (s : State) (q : SeqId) (operand a n fmt : Nat) (ep : Option Nat) (cls : Option Bool := none)
    (page : Blk := engineBlk q) : List Byte × Bool × State :=
  if n = 0 then ([], true, s)
  else if !addrOk a then
    let f := freeBytes (addrForm s q a) n
    (f.1, false, f.2)
  else if !isDirect s a then
    match fromBuf (getSeq s q) a n with
    | some bs => (bs, !(getSeq s q).rfail, s)
    | none => let f := freeBytes s n; (f.1, false, f.2)
  else
    let o := offOf a
    let q' := ownReq s q 0x00 a n cls
    let c := ownChecked s q'
    let failed (s : State) (st : Nat) : List Byte × Bool × State :=
      let f := failedData (ownFailed s q q' st) q' st fmt n
      (f.1, false, f.2)
    if c.1 ≠ stOk then failed c.2 c.1
    else
      let s := accessEnergy (countAccess c.2 q o n false) q o n false page
      let s := match placeOf o, ep with
        | .nm _ _, some e => checkTags s q operand o n e
        | _, _ => s
      let r := readLocal s q'.part o n (latEngine s q false)
      match r.1 with
      | some bs => (bs, true, r.2)
      | none => failed r.2 stNotApplied

/-- Write bytes at an address: at once on this device, as a store elsewhere, whose outcome comes later. `ep` is the epoch
that sets the tags of Near Memory, `pep` the placement epoch of a store (R168). -/
def writeOp (s : State) (q : SeqId) (a : Nat) (bs : List Byte) (ep : Option Nat) (cls : Option Bool := none)
    (pep : Option Nat := none) : State :=
  let n := bs.length
  if n = 0 then s
  else if !addrOk a then addrForm s q a
  else if !isDirect s a then issue s (seqIssuer s q cls)
      { op := 0x10, addr := a, size := n, data := bs, epv := pep.isSome, epoch := pep.getD 0 } (.store q.inst)
  else
    let o := offOf a
    let q' := ownReq s q 0x10 a n cls
    let c := ownChecked s q'
    if c.1 ≠ stOk then ownFailed c.2 q q' c.1
    else
      let s := accessEnergy (countAccess c.2 q o n true) q o n true
      let w := writeLocal s q'.part o bs (latEngine s q true)
      if !w.1 then ownFailed w.2 q q' stNotApplied
      else match placeOf o, ep with
        | .nm _ _, some e => setTags w.2 o n e
        | _, _ => w.2

/-! ### A step's operands -/

/-- An operand's address and, when its tags are in use, its epoch at the sequencer's iteration. -/
def opAddr (s : State) (q : SeqId) (o : Operand) : Nat := let x := getSeq s q; operandAddr x o x.i0 x.i1 x.i2
def opEpoch (s : State) (q : SeqId) (o : Operand) : Option Nat :=
  let x := getSeq s q
  if o.epochEn then some (operandEpoch x o x.i0 x.i1 x.i2) else none

/-- Read an operand of the iteration at `off` bytes past its address. -/
def readAB (s : State) (q : SeqId) (operand : Nat) (o : Operand) (off n fmt : Nat) : List Byte × Bool × State :=
  readOp s q operand ((opAddr s q o + off) % 2 ^ 64) n fmt (opEpoch s q o)

/-- Write at `off` bytes past an operand's address. -/
def writeD (s : State) (q : SeqId) (o : Operand) (off : Nat) (bs : List Byte) : State :=
  writeOp s q ((opAddr s q o + off) % 2 ^ 64) bs (opEpoch s q o)

end Sys2Proof.Machine
end

