-- ==== Sys2Proof/Machine/Engine.lean ====
section
/-! DEFINITION. Sys2Proof/Machine/Engine.lean: what the engines share: words a step keeps between its iterations, records
in force (R71, R126), key records (R104), conversions of rows of elements (R98–R105). -/
namespace Sys2Proof.Machine

/-! ### A step's own words -/

/-- Forget word `k`. -/
def delScr (s : State) (q : SeqId) (k : Nat) : State :=
  modSeq s q (fun x => { x with scratch := x.scratch.filter (fun e => !(e.1 == k)) })

/-- Set word `k`. -/
def setScr (s : State) (q : SeqId) (k v : Nat) : State :=
  modSeq s q (fun x => { x with scratch := (k, v) :: x.scratch.filter (fun e => !(e.1 == k)) })

/-- An iteration that waits on the step's token itself (R160, R252, R275): the first has the tokens of the step's own wait, each later
one takes its own; none while they are not there. Word 101 is the iteration that last took tokens. -/
def iterTokens (s : State) (q : SeqId) : Option State :=
  if iterWaits s q then (if tokensMet s q then some (setScr (takeTokens (endWait s q) q) q 101 (flatIter (getSeq s q))) else none)
  else some s

/-! ### Placement -/

/-- A span lies wholly in Near Memory slot `t` of this device. -/
def inSlot (s : State) (t a n : Nat) : Bool :=
  n = 0 ||
  (addrOk a && devOf a = selfId s &&
   (match placeOf (offOf a), placeOf (offOf a + (n - 1)) with
    | .nm u _, .nm v _ => u = t && v = t
    | _, _ => false))

/-- A span of local offsets lies wholly in Near Memory slot `t`. -/
def localInSlot (t o n : Nat) : Bool :=
  n = 0 || (match placeOf o, placeOf (o + (n - 1)) with
   | .nm u _, .nm v _ => u = t && v = t
   | _, _ => false)

/-- The global address of a local offset of this device. -/
def ownAddr (s : State) (o : Nat) : Nat := 2 ^ 41 * selfId s + o

/-! ### Iterations that take tokens, or do nothing -/

/-- An iteration that accesses nothing, refused (R53) or with the status given: where its operation's iterations wait on the step's
tokens each, it takes them. -/
def idleIter (s : State) (q : SeqId) (st : Step) (status : Option Nat) : IterResult :=
  match iterTokens s q with
  | none => .hold s
  | some s => .ran (delScr (match status with | some e => noteStatus s q e | none => s) q 900) (opAddr s q st.d)

/-- An iteration that takes its tokens, then does its work unless one of them refuses it (R53). -/
def takeIter (s : State) (q : SeqId) (st : Step) (work : State → IterResult) : IterResult :=
  match iterTokens s q with
  | none => .hold s
  | some s => if (getSeq s q).refused then .ran (delScr s q 900) (opAddr s q st.d) else work s

/-! ### Reading several spans -/

/-- Read spans in order: their bytes, and whether every read was performed. -/
def readSpans (s : State) (q : SeqId) : List Span → List (List Byte) × Bool × State
  | [] => ([], true, s)
  | p :: ps =>
    let r := readOp s q p.operand p.addr p.len p.fmt p.ep
    let t := readSpans r.2.2 q ps
    (r.1 :: t.1, r.2.1 && t.2.1, t.2.2)

/-- Ask for what needs requests among spans; the flag says that all has come. -/
def fetchSpans (s : State) (q : SeqId) (l : List Span) : Bool × State := prefetch s q l

/-- Spans of `n` rows of `len` bytes, `pitch` apart, from an operand's address. -/
def rowSpans (s : State) (q : SeqId) (operand : Nat) (o : Operand) (base n len pitch fmt : Nat) : List Span :=
  (List.range n).map (fun r =>
    { operand := operand, addr := (opAddr s q o + base + r * pitch) % 2 ^ 64, len := len, fmt := fmt, ep := opEpoch s q o })

/-- The bytes of what is read last are known, or the iteration holds: `s0` is the state before anything was read, to which a
hold returns but for what it asked for. -/
def readStage (s0 s : State) (q : SeqId) (l : List Span) (k : List (List Byte) → Bool → State → IterResult) : IterResult :=
  if (fetchSpans s q l).1 then
    let r := readSpans s q l
    k r.1 r.2.1 r.2.2
  else .hold (fetchSpans s0 q l).2

/-- A span at a local offset, with no epoch. -/
def locSpan (s : State) (o n : Nat) (fmt : Nat := 0) : Span := { operand := 0, addr := ownAddr s (o % 2 ^ 41), len := n, fmt := fmt }

/-- Write at a local offset, with no epoch. -/
def locWrite (s : State) (q : SeqId) (o : Nat) (bs : List Byte) : State := writeOp s q (ownAddr s (o % 2 ^ 41)) bs none

/-- Write rows `pitch` bytes apart. -/
def writeRows (s : State) (q : SeqId) (o : Operand) (base pitch : Nat) : List (List Byte) → State
  | [] => s
  | r :: rs => writeRows (writeD s q o base r) q o (base + pitch) pitch rs

/-! ### Key records (R104) -/

/-- A key: SEED, STEP, TENSOR_ID. -/
structure Key where
  seed : Nat := 0
  step : Nat := 0
  tensor : Nat := 0
  deriving DecidableEq, Repr

/-- The key of a key record's two quadwords. -/
def keyOf (q0 q1 : Nat) : Key := { seed := q0, step := bits q1 0 32, tensor := bits q1 32 32 }

/-- The draw for an element index, 0 unless the mode is stochastic. -/
def Key.draw (k : Key) (rnd idx : Nat) : Nat := if rnd = 2 then srDraw k.seed k.step k.tensor idx else 0

/-- The key record at a local offset, read once per step: kept in words 1 to 3 (R126). The flag says that it is known. -/
def stepKey (s : State) (q : SeqId) (o : Nat) : Key × Bool × State :=
  match scr s q 1, scr s q 2 with
  | some a, some b => (keyOf a b, true, s)
  | _, _ =>
    if o = 0 then ({}, true, setScr (setScr s q 1 0) q 2 0)
    else
      match readOp s q 0 (ownAddr s o) 16 0 none with
      | (bs, true, s) => (keyOf (qw bs 0) (qw bs 1), true, setScr (setScr s q 1 (qw bs 0)) q 2 (qw bs 1))
      | (_, false, s) => ({}, false, s)

/-! ### Conversion -/

/-- A conversion of values of this format is defined (R99–R101): not of raw bytes, scale bytes or whole blocks. -/
def convertible (c : Nat) : Bool := (fpOf c).isSome || c % 128 = 6 || isIntFmt c

/-- Bits of one element of a row, a BFP block being one element (Table 5.1). -/
def cellBits (c : Nat) : Nat :=
  match c % 128 with
  | 0x40 => 832 | 0x41 => 1088 | 0x42 => 1344
  | _ => elemBits c

/-- Bytes of a row of `n` elements. -/
def cellBytes (c n : Nat) : Nat := (n * cellBits c + 7) / 8

/-- The conversion saturated its value (R100, R101). -/
def Enc.saturated (c : Nat) (e : Enc) : Bool :=
  e.beyond && (match fpOf c with
    | some f => e.v % 2 ^ (f.eb + f.mb) = f.maxCode
    | none => true)

/-- Elements converted: codes, values saturated, values saturated or finite ones that overflowed to infinity, NaNs that became
integers. -/
structure Conv where
  codes : List Nat := []
  sat : Nat := 0
  ofl : Nat := 0
  special : Nat := 0
  deriving DecidableEq, Repr

/-- Convert values under a rounding mode; `idx i` is the element index of the i-th. A NaN is counted only where `count i`. -/
def convertList (c rnd : Nat) (k : Key) (idx : Nat → Nat) (count : Nat → Bool) (l : List NumVal) : Conv :=
  let es := l.zipIdx.map (fun e => (elemEncode c rnd (k.draw rnd (idx e.2)) e.1, e.2))
  { codes := es.map (·.1.v), sat := (es.filter (fun e => e.1.saturated c)).length,
    ofl := ((List.zip l es).filter (fun e => e.2.1.saturated c || (e.1.isFin && e.2.1.beyond))).length,
    special := (es.filter (fun e => e.1.special && count e.2)).length }

/-- All elements are counted. -/
def countAll (_ : Nat) : Bool := true

/-- A matrix transposed, `n` the length of its rows. -/
def transposeRows {α : Type} [Inhabited α] (n : Nat) (rows : List (List α)) : List (List α) :=
  (List.range n).map (fun c => rows.map (fun r => r.getD c default))

end Sys2Proof.Machine
end

