-- ==== Sys2Proof/Machine/Routing.lean ====
section
/-! DEFINITION. Sys2Proof/Machine/Routing.lean: the routing engine (R145–R150): selection by score or by hash, selection records,
dispatch lists. -/
namespace Sys2Proof.Machine

def rteQ (d : Fin 2) (j : Fin 2) : SeqId := .die d ⟨8 + j.val, by omega⟩
def rteBlk (d : Fin 2) (j : Fin 2) : Blk := .eng d ⟨8 + j.val, by omega⟩

/-! ### The record (Table 7.2) -/

/-- The fields of a routing record. -/
structure RteRec where
  hash : Bool
  norm : Bool
  biasEn : Bool
  bf : Bool
  k : Nat
  e : Nat
  salt : Nat
  tokens : Nat
  pitch : Nat
  bias : Nat
  list : Nat
  tokWord : Nat
  deriving DecidableEq, Repr

def rteRec (r : List Nat) : RteRec :=
  { hash := fld r 0 0 1 = 1, norm := fld r 0 1 1 = 1, biasEn := fld r 0 2 1 = 1, bf := fld r 0 3 1 = 1, k := fld r 0 4 4,
    e := fld r 0 8 15, salt := fld r 0 32 32, tokens := fld r 1 0 20, pitch := fld r 1 32 32, bias := fld r 2 0 41,
    list := fld r 3 0 41, tokWord := fld r 4 0 41 }

/-- A record is valid (R145). -/
def RteRec.valid (r : RteRec) : Bool :=
  r.k ≠ 0 && r.k ≤ 8 && r.e ≠ 0 && r.e ≤ 16384 && r.k ≤ r.e && (r.tokWord = 0 || inNm r.tokWord 4)

/-- A CONFIG iteration of an engine whose record is `len` bytes: `check` reads what else it needs and says whether the record
is valid; then it is in force, or CFG_INVALID is raised with the event and code given. -/
def configIter (b : Blk) (q : SeqId) (len cfg stat ev code : Nat)
    (check : State → List Nat → (Bool → State → IterResult) → IterResult) (s : State) (st : Step) : IterResult :=
  let aD := opAddr s q st.d
  readStage s s q [{ operand := 0, addr := opAddr s q st.a, len := len, fmt := st.a.format, ep := opEpoch s q st.a }] (fun l ok s =>
    if !ok then .ran (noteStatus s q tkMemory) aD
    else
      let r := quads (l.headD [])
      check s r (fun valid s =>
        if valid then .ran (b.put (b.wr (setRec s b r) cfg (r.getD 0 0)) stat 0 1 1) aD
        else .ran (noteStatus (b.raise (b.event (b.put (setRec s b []) stat 0 1 0) ev) code (seqPart s q) 0) q tkMemory) aD))

/-- CONFIG (R145). -/
def rteConfigIter (d j : Fin 2) : State → Step → IterResult :=
  configIter (rteBlk d j) (rteQ d j) 64 0x40 0x48 17 0x0101 (fun s r k => k (rteRec r).valid s)

/-! ### Choosing experts (R147–R149) -/

/-- A choice: expert, weight and key as FP32 codes. -/
structure Choice where
  expert : Nat
  weight : Nat
  key : Nat
  deriving DecidableEq, Repr

/-- What choosing for one token gives: its slots, and what is counted. -/
structure Chosen where
  slots : List Choice := []
  nan : Bool := false
  ties : Nat := 0
  short : Nat := 0
  deriving DecidableEq, Repr

/-- The best key of those not taken, lower index first, with the keys equal to it (R147). -/
def bestKey (l : List (Nat × NumVal)) : Option (Nat × Nat) :=
  match l.foldl (fun (b : Option (Nat × NumVal)) e =>
      match b with
      | none => some e
      | some x => if x.2.lt e.2 then some e else b) none with
  | none => none
  | some x => some (x.1, (l.filter (fun e => e.2.eqv x.2)).length)

/-- Fill `k` slots in rank order: the experts, and the selections decided between equal keys. -/
def fillSlots (l : List (Nat × NumVal)) : Nat → List Nat × Nat
  | 0 => ([], 0)
  | n + 1 =>
    match bestKey l with
    | none => ([], 0)
    | some (e, eq) =>
      let r := fillSlots (l.filter (fun x => x.1 ≠ e)) n
      (e :: r.1, r.2 + (if 1 < eq then 1 else 0))

/-- TOPK for one token (R147, R148): from its scores and the biases. -/
def chooseTopk (r : RteRec) (scores bias : List NumVal) : Chosen :=
  let keys := if r.biasEn then List.zipWith (fun a b => r32 (a.add b)) scores bias else scores
  let cand := (keys.zipIdx.map (fun e => (e.2, e.1))).filter (fun e => !e.2.isNan && !(e.2.isInf && e.2.isNeg))
  let f := fillSlots cand r.k
  let ws := f.1.map (fun e => scores.getD e .zero)
  let sum := match ws with
    | [] => NumVal.zero
    | w :: rest => rest.foldl (fun a x => r32 (a.add x)) w
  let weight (w : NumVal) : NumVal := if !r.norm then w else if sum.isZero || !sum.isFin then .qnan else w.div sum
  { slots := (f.1.zip ws).map (fun x => { expert := x.1, weight := toF32 (weight x.2), key := toF32 (keys.getD x.1 .zero) }),
    nan := keys.any (·.isNan), ties := f.2, short := r.k - f.1.length }

/-- The hash of R149. -/
def routeHash (tok salt j : Nat) : Nat :=
  let x := fold64 (tok ^^^ (salt * 2 ^ 32) ^^^ salt)
  fold64 ((x + 0x3B5F91C70E2DA683 * (j + 1)) % 2 ^ 64)

/-- The first expert from `e` on, wrapping, that is not taken. -/
def nextFree (taken : List Nat) (n e : Nat) : Nat → Nat
  | 0 => e
  | f + 1 => if taken.contains e then nextFree taken n ((e + 1) % n) f else e

/-- HASH for one token (R149). -/
def chooseHash (r : RteRec) (tok : Nat) : Chosen :=
  if tok = 2 ^ 64 - 1 then {}
  else
    let es := (List.range r.k).foldl (fun l j => l ++ [nextFree l r.e (routeHash tok r.salt j % r.e) r.e]) []
    let w := if r.norm then toF32 (NumVal.one.div (.ofInt r.k)) else toF32 .one
    { slots := es.map (fun e => { expert := e, weight := w, key := 0 }) }

/-! ### ROUTE (R146, R150) -/

/-- The dispatch list's entries by expert: token and slot of each choice, ascending. -/
def listOf (e : Nat) (cs : List Chosen) : List (Nat × Nat) :=
  cs.zipIdx.flatMap (fun c => (c.1.slots.zipIdx.filter (fun x => x.1.expert = e)).map (fun x => (c.2, x.2)))

/-- First positions of each expert's entries: OFF. -/
def offsetsOf (counts : List Nat) : List Nat := (List.range counts.length).map (fun i => (counts.take i).foldl (· + ·) 0)

/-- The operand lies on this device (R145). -/
def onDevice (s : State) (a : Nat) : Bool := addrOk a && devOf a = selfId s

/-- A selection record slot (Table 7.3); `f` are the free values of a slot that holds no choice, whose POS the spec does not state, nor
its KEY but in HASH mode, where every KEY is +0. -/
def slotBytes (hash : Bool) (c : Option Choice) (pos f : Nat) : List Byte :=
  match c with
  | some c => leBytes 8 (c.expert + 2 ^ 14 + pos % 2 ^ 24 * 2 ^ 16) ++ leBytes 4 c.weight ++ leBytes 4 c.key
  | none => leBytes 8 (f % 2 ^ 24 * 2 ^ 16) ++ leBytes 4 0 ++ leBytes 4 (if hash then 0 else f / 2 ^ 24)

/-- One token's selection records at `off` past D, with each choice's position in the list. A slot that does not lie on this device is
not written, and the status becomes MEMORY (R145). -/
def writeSlots (hash : Bool) (q : SeqId) (o : Operand) (off : Nat) : List (Option Choice × Nat) → State → State
  | [], s => s
  | (c, pos) :: rest, s =>
    let f := if c.isSome then (0, s) else fresh s
    let s := if onDevice f.2 ((opAddr f.2 q o + off) % 2 ^ 64) then writeD f.2 q o off (slotBytes hash c pos f.1)
      else noteStatus f.2 q tkMemory
    writeSlots hash q o (off + 16) rest s

/-- T (R146): the count word clamped to TOKENS, or TOKENS. -/
def rteTokens (b : Blk) (q : SeqId) (r : RteRec) (w : List Byte) (s : State) : Nat × State :=
  if r.tokWord = 0 then (r.tokens, s)
  else if r.tokens < leNat w then (r.tokens, b.countErr (noteStatus s q tkCountRange))
  else (leNat w, s)

/-- ROUTE (R146). With a score row on another device, which is not read (R145), it chooses and writes nothing. -/
def routeIter (d j : Fin 2) (s : State) (st : Step) : IterResult :=
  let q := rteQ d j
  let b := rteBlk d j
  let aD := opAddr s q st.d
  let aA := opAddr s q st.a
  let s0 := s
  match recOf s b with
  | [] => .ran (noteStatus s q tkMemory) aD
  | rq =>
    let r := rteRec rq
    readStage s0 s q (if r.tokWord = 0 then [] else [locSpan s r.tokWord 4]) (fun l _ s =>
      let tk := rteTokens b q r (l.headD []) s
      let n := tk.1
      let w := if r.bf then 2 else 4
      let len := if r.hash then 8 else r.e * w
      let pitch := if r.hash then 8 else r.pitch
      let rows := (List.range n).map (fun t =>
        ({ operand := 0, addr := (aA + t * pitch) % 2 ^ 64, len := len, fmt := st.a.format, ep := opEpoch s q st.a } : Span))
      let bias := if r.biasEn && !r.hash && n ≠ 0 then [locSpan s r.bias (4 * r.e)] else []
      if rows.any (fun p => !onDevice s p.addr) then .ran (noteStatus tk.2 q tkMemory) aD
      else
        readStage s0 tk.2 q (bias ++ rows) (fun l _ s =>
          let bs := if bias = [] then [] else (unpackElems 32 r.e (l.headD [])).map ofF32
          let data := l.drop bias.length
          let cs := data.map (fun row =>
            if r.hash then chooseHash r (leNat row)
            else chooseTopk r ((unpackElems (8 * w) r.e row).map (if r.bf then bf16.decode else ofF32)) bs)
          let ls := (List.range r.e).map (fun e => listOf e cs)
          let counts := ls.map (·.length)
          let offs := offsetsOf counts
          let posOf (t slot e : Nat) : Nat := offs.getD e 0 + ((ls.getD e []).idxOf (t, slot))
          let s := b.wr s 0x4C n
          let s := b.add s 0x50 n
          let nans := (cs.filter (·.nan)).length
          let s := if nans = 0 then s else b.event (b.sat s 0x58 nans) 16
          let s := b.sat s 0x5C ((cs.filter (fun c => c.slots.isEmpty)).length)
          let s := b.sat s 0x60 ((cs.map (·.short)).foldl (· + ·) 0)
          let s := b.sat s 0x64 ((cs.map (·.ties)).foldl (· + ·) 0)
          let s := forEach cs.zipIdx s (fun s c =>
              writeSlots r.hash q st.d (c.2 * r.k * 16)
                ((List.range r.k).map (fun i =>
                  match c.1.slots[i]? with
                  | some x => (some x, posOf c.2 i x.expert)
                  | none => (none, 0))) s)
          let s := forEach (counts.zip offs).zipIdx s (fun s e =>
            locWrite s q (r.list + 16 * e.2) (leBytes 8 (e.1.1 % 2 ^ 20 + e.1.2 % 2 ^ 24 * 2 ^ 20) ++ leBytes 8 0))
          let s := forEach ls.flatten.zipIdx s (fun s e =>
            locWrite s q (r.list + 16 * r.e + 4 * e.2) (leBytes 4 (e.1.1 + e.1.2 * 2 ^ 20)))
          .ran s aD))

/-! ### The commands -/

/-- RTE_CONFIG (R145). -/
def execRteConfig (d j : Fin 2) (s : State) : Out := .next (runIter (rteQ d j) 0x10 (rteConfigIter d j) s)

/-- ROUTE (R146). -/
def execRoute (d j : Fin 2) (s : State) : Out := .next (runIter (rteQ d j) 0x11 (routeIter d j) s)

end Sys2Proof.Machine
end

