-- ==== Sys2Proof/Machine/Exchange.lean ====
section
/-! DEFINITION. Sys2Proof/Machine/Exchange.lean: the exchange engine (R151–R164): counts and grants, dispatch, return, combine.
A phase that awaits headers ends by a command of its own. Words of the step beside those of XchState.lean: 106 the buffer waited
for, 107 rows refused and 108 empty experts of this exchange, 2000 + l handles. -/
namespace Sys2Proof.Machine

/-- CONFIG (R151, R152). -/
def xchConfigIter (d j : Fin 2) : State → Step → IterResult :=
  let b := xchBlk d j
  let q := xchQ d j
  configIter b q 128 0x40 0x48 21 0x0104 (fun s rq k =>
    let r := xchRec rq
    if !r.formOk then k false s
    else readStage s s q [locSpan s r.members (4 * r.m), locSpan s r.emap (8 * r.e)] (fun l ok s =>
      k (ok && r.mapsOk (bits (Blk.svc.rd s 0x1048) 0 17) (l.getD 0 []) (l.getD 1 [])) s))

/-- Bytes received with header `w` at inbox offset `off` of bank parity `p`: the header's own 8, COUNTS' entry of each local expert,
GRANTS' entries of the experts its sender owns, and the rows of the other kinds (R154, R157). -/
def headerBytes (s : State) (r : XchRec) (p off w : Nat) : Nat :=
  let kind := bits w 16 4
  8 + (if kind = 1 then 8 * r.localE
       else if kind = 2 then 16 * (ownedBy r (readBytes s r.emap (8 * r.e)) ((off - r.grantHdr r.localE p 0) / 8)).length
       else bits w 24 24 * (if kind = 3 then r.rowBytes else r.hidden * (elemBits r.retFmt / 8)))

/-- XCH_HEADER_ARRIVE (R154, R155): the header just stored at inbox offset `off` is taken into the current bank when it is
current for a step of this exchange, ignored and counted when it is not; into the other bank it is held. An exchange that COUNTS began
takes COUNTS, GRANTS, DATA and RETURN headers, one that DISPATCH with BWD began GDATA and GRETURN ones. BYTES_RECV counts the header and
what it announces, of this exchange and of the next (DEDUCED, log entry 124). -/
def xchHeaderArrive (d j : Fin 2) (off : Nat) (s : State) : State :=
  let b := xchBlk d j
  match recOf s b with
  | [] => s
  | rq =>
    let r := xchRec rq
    let x := xseqOf s d j
    let w := readNat s off 8
    let take (s : State) : State :=
      let y := getXch s d j
      setXch s d j { y with hdrs := (off, w) :: y.hdrs.filter (fun e => !(e.1 == off)) }
    if slotKinds r x off ≠ [] then
      let kind := bits w 16 4
      if bits w 0 16 = x ∧ (slotKinds r x off).contains kind ∧ ((getXch s d j).bwd ↔ 5 ≤ kind) then
        b.add (take s) 0x88 (headerBytes s r x off w)
      else b.event (b.sat s 0x5C) 17
    else if slotKinds r (x + 1) off ≠ [] then
      let s := take s
      if bits w 0 16 = (x + 1) % 2 ^ 16 ∧ (slotKinds r (x + 1) off).contains (bits w 16 4) then b.add s 0x88 (headerBytes s r (x + 1) off w)
      else s
    else s

/-- A phase begins to await headers. -/
def startAwait (s : State) (q : SeqId) (phase : Nat) : State := setScr (setScr s q 100 phase) q 104 s.now

/-! ### Messages -/

/-- Store bytes at a device's local offset, as a payload store or as a header's flagged store of DEVICE scope (R153). -/
def xchSend (d j : Fin 2) (dev o : Nat) (bs : List Byte) (ep : Option Nat) (flag : Bool) (s : State) : State :=
  let q := xchQ d j
  if bs = [] then s
  else
    issue ((xchBlk d j).add s 0x80 bs.length) (seqIssuer s q)
      { op := if flag then 0x20 else 0x10, addr := 2 ^ 41 * dev + o % 2 ^ 41, size := bs.length, data := bs, epv := ep.isSome,
        epoch := ep.getD 0 } (.store q.inst)

/-- The spans of the members and of the expert map. -/
def mapSpans (s : State) (r : XchRec) : List Span := [locSpan s r.members (4 * r.m), locSpan s r.emap (8 * r.e)]

/-- A step's iterations are over at once: its bound is 0. -/
def emptyStep (x : SeqSt) : Bool := x.b0 * x.b1 * x.b2 = 0

/-- An iteration under the record in force (R152); without one only the operation's own command (`main`) runs the iteration,
which accesses nothing. -/
def xchUnder (d j : Fin 2) (main : Bool) (body : XchRec → State → Step → IterResult) (s : State) (st : Step) : IterResult :=
  let q := xchQ d j
  match recOf s (xchBlk d j) with
  | [] =>
    if !main then .hold s
    else if emptyStep (getSeq s q) then .hold (retireStep (noteStatus s q tkMemory) q true)
    else idleIter s q st (some tkMemory)
  | rq => if (getSeq s q).refused then (if main then idleIter s q st none else .hold s) else body (xchRec rq) s st

/-- Forget the step's words: the next iteration begins afresh. -/
def clearWords (s : State) (q : SeqId) : State := modSeq s q (fun x => { x with scratch := [] })

/-! ### COUNTS (R157) -/

/-- Steps 1 and 2: XSEQ advances, every owner gets its counts and a header. -/
def countsIter (d j : Fin 2) (r : XchRec) (s : State) (_st : Step) : IterResult :=
  let q := xchQ d j
  let b := xchBlk d j
  if (scr s q 100).isSome then .hold s
  else readStage s s q (mapSpans s r ++ [locSpan s r.list (16 * r.e)]) (fun l _ s =>
    let ms := l.getD 0 []
    let em := l.getD 1 []
    let ls := l.getD 2 []
    let x := (xseqOf s d j + 1) % 2 ^ 16
    let s := b.wr s 0x4C x
    let s := setXch s d j { getXch s d j with freed := [], bwd := false }
    let s := forEach r.order s (fun s m =>
      let es := ownedBy r em m
      let n := es.length
      let s := forEach es s (fun s e =>
        let h := word 8 ls (2 * e)
        xchSend d j (memberDev ms m) (r.countAt n x r.self (emapLocal em e))
          (leBytes 8 (bits h 0 20 + bits h 20 24 * 2 ^ 32)) (some (emapEpoch em e)) false s)
      xchSend d j (memberDev ms m) (r.countHdr n x r.self) (leBytes 8 (headerWord x 1 0 false)) none true s)
    .hold (startAwait s q 1))

/-- One local expert's admission (R157): (GRANT, LISTPOS, ROW) of each member, COUNT, DEMAND. -/
def admitRows (cap : Nat) (l : List (Nat × Nat)) : List (Nat × Nat × Nat) × Nat × Nat :=
  let x := l.foldl (fun (a : List (Nat × Nat × Nat) × Nat × Nat) c =>
    let g := min c.1 (cap - a.2.1)
    (a.1 ++ [(g, c.2, a.2.1)], a.2.1 + g, a.2.2 + c.1)) ([], 0, 0)
  x

/-- The counts and list positions that the members sent for local expert `i`, from the COUNT area's bytes. -/
def countsFor (r : XchRec) (area : List Byte) (i : Nat) : List (Nat × Nat) :=
  (List.range r.m).map (fun m => let w := word 8 area (m * r.localE + i); (bits w 0 32, bits w 32 24))

/-- Allocate the receive buffers not allocated yet, in order, by requests on the allocation port (R142), until one must wait: word 106
is the one waited for, plus 1. -/
def allocRx (d j : Fin 2) (sizes : List Nat) (s : State) : Bool × State :=
  let q := xchQ d j
  sizes.zipIdx.foldl (fun (a : Bool × State) e =>
    let s := a.2
    if !a.1 ∨ (scr s q (2000 + e.2)).isSome then a
    else if scr0 s q 106 = e.2 + 1 then
      match takeAnswer s q.inst e.2 with
      | some (h, s) => (true, setScr (delScr s q 106) q (2000 + e.2) h)
      | none => (false, s)
    else
      let w := portRequest s d (e.1 % 2 ^ 32 + q.inst * 2 ^ 32) e.2
      match w.1 with
      | some h => if h = hNone then (false, w.2) else (true, setScr w.2 q (2000 + e.2) h)
      | none => (false, setScr w.2 q 106 (e.2 + 1))) (true, s)

/-- RX of local expert `i` (R157). -/
def rxOf (r : XchRec) (s : State) (q : SeqId) (i : Nat) : Nat :=
  if r.pool then (let h := scr0 s q (2000 + i); if h = hEmpty then 0 else bufferAddr s h) else r.rxBase + i * r.rxStride

/-- Steps 4 and 5, once all counts are in: admission, the expert records, the grants. -/
def countsReceivedIter (d j : Fin 2) (r : XchRec) (s : State) (_st : Step) : IterResult :=
  let q := xchQ d j
  let x := xseqOf s d j
  let slots := (List.range r.m).map (fun m => r.countHdr r.localE x m)
  if scr0 s q 100 ≠ 1 then .hold s
  else if currentIn s d j 1 slots ≠ r.m then .hold s
  else readStage s s q (mapSpans s r ++ [locSpan s (r.countAt r.localE x 0 0) (8 * r.m * r.localE), locSpan s r.xrec (64 * r.localE)])
    (fun l _ s =>
      let ms := l.getD 0 []
      let em := l.getD 1 []
      let xr := l.getD 3 []
      let mine := ownedBy r em r.self
      let adms := (List.range r.localE).map (fun i => admitRows r.capacity (countsFor r (l.getD 2 []) i))
      let al := if r.pool then allocRx d j (adms.map (fun a => a.2.1 * r.rowBytes)) s else (true, s)
      if !al.1 then .hold al.2
      else
        let s := forEach adms.zipIdx al.2 (fun s a =>
          let i := a.2
          let s := forEach a.1.1.zipIdx s (fun s g =>
            locWrite s q (r.adm + 8 * (i * r.m + g.2)) (leBytes 8 (g.1.1 % 2 ^ 20 + g.1.2.1 % 2 ^ 24 * 2 ^ 20)))
          let stepCount := min (bits (word 8 xr (8 * i)) 32 32 + a.1.2.1) 0xFFFFFFFF
          let dropped := min (bits (word 8 xr (8 * i + 1)) 32 32 + (a.1.2.2 - a.1.2.1)) 0xFFFFFFFF
          locWrite s q (r.xrec + 64 * i)
            (leBytes 8 (a.1.2.1 % 2 ^ 32 + stepCount * 2 ^ 32) ++ leBytes 8 (a.1.2.2 % 2 ^ 32 + dropped * 2 ^ 32) ++
             leBytes 8 (rxOf r s q i % 2 ^ 41) ++ leBytes 8 (if r.pool then scr0 s q (2000 + i) else 0) ++
             leBytes 8 (mine.getD i 0 + x * 2 ^ 16)))
        let s := setScr s q 107 ((adms.map (fun a => a.2.2 - a.2.1)).foldl (· + ·) 0)
        let s := setScr s q 108 (adms.filter (fun a => a.2.1 = 0)).length
        let s := forEach r.order s (fun s m =>
          let n := (ownedBy r em m).length
          let s := forEach adms.zipIdx s (fun s a =>
            let g := a.1.1.getD m (0, 0, 0)
            xchSend d j (memberDev ms m) (r.grantAt n x (mine.getD a.2 0))
              (leBytes 8 (g.1 % 2 ^ 20) ++ leBytes 8 ((rxOf r s q a.2 + g.2.2 * r.rowBytes) % 2 ^ 41)) none false s)
          xchSend d j (memberDev ms m) (r.grantHdr n x r.self) (leBytes 8 (headerWord x 2 0 false)) none true s)
        .hold (startAwait s q 3))

/-- One expert of the member's own list: CNT, OFF, the grant in force and DEST. -/
structure Granted where
  cnt : Nat
  off : Nat
  grant : Nat
  dest : Nat
  clamped : Bool := false
  deriving DecidableEq, Repr

/-- An expert's header of the dispatch list as it stands. -/
def listHdr (ls : List Byte) (e : Nat) : Granted :=
  let h := word 8 ls (2 * e)
  { cnt := bits h 0 20, off := bits h 20 24, grant := bits h 44 20, dest := bits (word 8 ls (2 * e + 1)) 0 41 }

/-- The same with a GRANT entry received, clamped to CNT (R157). -/
def Granted.receive (g : Granted) (ga : List Byte) (e : Nat) : Granted :=
  let n := bits (word 8 ga (2 * e)) 0 20
  { g with grant := min n g.cnt, dest := bits (word 8 ga (2 * e + 1)) 0 41, clamped := g.cnt < n }

/-- Steps 7 and 8, once all grants are in. -/
def grantsReceivedIter (d j : Fin 2) (r : XchRec) (s : State) (st : Step) : IterResult :=
  let q := xchQ d j
  let b := xchBlk d j
  let x := xseqOf s d j
  let aD := opAddr s q st.d
  let s0 := s
  let slots := (List.range r.m).map (fun m => r.grantHdr r.localE x m)
  if scr0 s q 100 ≠ 3 then .hold s
  else if currentIn s d j 2 slots ≠ r.m then .hold s
  else readStage s0 s q [locSpan s r.list (16 * r.e), locSpan s (r.grantAt r.localE x 0) (16 * r.e)] (fun l _ s =>
    let gs := (List.range r.e).map (fun e => (listHdr (l.getD 0 []) e).receive (l.getD 1 []) e)
    let total := (gs.map (·.cnt)).foldl (· + ·) 0
    readStage s0 s q [locSpan s (r.list + 16 * r.e) (4 * total)] (fun l _ s =>
      let entry (p : Nat) : Nat := word 4 (l.headD []) p
      let es := gs.flatMap (fun g => (List.range g.cnt).map (fun i => (g.off + i, decide (i < g.grant))))
      let rec_ (p : Nat) : Nat := r.sel + (bits (entry p) 0 20 * r.k + bits (entry p) 20 3) * 16
      readStage s0 s q (es.map (fun e => locSpan s (rec_ e.1) 8)) (fun rl _ s =>
        let bad := (gs.filter (·.clamped)).length
        let s := forEach (List.range bad) (b.sat s 0x78 bad) (fun s _ => b.raise (b.event s 19) 0x0102 (seqPart s q) 0)
        let s := forEach gs.zipIdx s (fun s g =>
          locWrite s q (r.list + 16 * g.2) (leBytes 8 (g.1.cnt + g.1.off * 2 ^ 20 + g.1.grant * 2 ^ 44) ++ leBytes 8 g.1.dest))
        let s := forEach (es.zip rl) s (fun s e =>
          let s := locWrite s q (r.list + 16 * r.e + 4 * e.1.1) (leBytes 4 (putBits (entry e.1.1) 31 1 (b2n e.1.2)))
          locWrite s q (rec_ e.1.1) (leBytes 8 (putBits (leNat e.2) 15 1 (b2n e.1.2))))
        let tokens := (es.map (fun e => bits (entry e.1) 0 20)).eraseDups
        let kept := ((es.filter (·.2)).map (fun e => bits (entry e.1) 0 20)).eraseDups
        let skipped := (tokens.filter (fun t => !kept.contains t)).length
        let dropped := scr0 s q 107
        let empty := scr0 s q 108
        let s := locWrite s q r.inbox (([total, (gs.map (·.grant)).foldl (· + ·) 0, skipped, dropped, empty, x]).flatMap (leBytes 8))
        let s := b.add (b.add (b.add s 0x60 dropped) 0x68 skipped) 0x70 empty
        .ran (clearWords (if dropped = 0 ∧ skipped = 0 then s else b.event s 16) q) aD)))

/-! ### DISPATCH (R159, R162) -/

/-- The level-0 bound of DISPATCH and RETURN: LOCAL_E clamped to L0 (R151), set once per step. -/
def boundLocal (d j : Fin 2) (r : XchRec) (st : Step) (s : State) : State :=
  let q := xchQ d j
  if (scr s q 100).isSome then s
  else
    let s := modSeq s q (fun x => { x with b0 := min r.localE st.l0 })
    if st.l0 < r.localE then (xchBlk d j).countErr (noteStatus s q tkCountRange) else s

/-- The gradient row w × dy in RET_FMT (R162). -/
def weighted (r : XchRec) (w : Nat) (dy : List Byte) : List Byte :=
  let es := unpackElems (elemBits r.resFmt) r.hidden dy
  packElems (elemBits r.retFmt) (es.map (fun v => (elemEncode r.retFmt 0 0 ((ofF32 w).mul (elemDecode r.resFmt v))).v))

/-- The member's own sending: every admitted row and a header for every expert. -/
def dispatchSend (d j : Fin 2) (bwd : Bool) (r : XchRec) (s0 s : State) (done : State → IterResult) : IterResult :=
  let q := xchQ d j
  readStage s0 s q (mapSpans s r ++ [locSpan s r.list (16 * r.e)]) (fun l _ s =>
    let ms := l.getD 0 []
    let em := l.getD 1 []
    let gs := (List.range r.e).map (listHdr (l.getD 2 []))
    let ps := gs.flatMap (fun g => (List.range g.grant).map (fun i => g.off + i))
    readStage s0 s q (ps.map (fun p => locSpan s (r.list + 16 * r.e + 4 * p) 4)) (fun el _ s =>
      let ents := el.map leNat
      let tok (e : Nat) : Nat := bits e 0 20
      let pitch := if bwd then r.pitch r.resFmt else r.rowBytes
      let len := if bwd then r.hidden * (elemBits r.resFmt / 8) else r.rowBytes
      readStage s0 s q (ents.map (fun e => locSpan s (r.src + tok e * pitch) len r.resFmt) ++
          (if bwd then ents.map (fun e => locSpan s (r.sel + (tok e * r.k + bits e 20 3) * 16 + 8) 4) else [])) (fun rl _ s =>
        let n := ents.length
        let row (i : Nat) : List Byte :=
          if bwd then weighted r (leNat (rl.getD (n + i) [])) (rl.getD i []) else rl.getD i []
        let x := if bwd then (xseqOf s d j + 1) % 2 ^ 16 else xseqOf s d j
        let s := if bwd then setXch ((xchBlk d j).wr s 0x4C x) d j { getXch s d j with bwd := true } else s
        let first (e : Nat) : Nat := ((gs.take e).map (·.grant)).foldl (· + ·) 0
        done (forEach r.order s (fun s m =>
          let es := ownedBy r em m
          forEach es s (fun s e =>
            let g := gs.getD e ⟨0, 0, 0, 0, false⟩
            let s := forEach (List.range g.grant) s (fun s i =>
              xchSend d j (memberDev ms m) (g.dest + i * r.rowBytes) (row (first e + i)) (some (emapEpoch em e)) false s)
            xchSend d j (memberDev ms m) (r.dataHdr es.length x (emapLocal em e) r.self)
              (leBytes 8 (headerWord x (if bwd then 5 else 3) g.grant (g.grant = 0))) (some (emapEpoch em e)) true s))))))

/-- DISPATCH: the sending, at the step's start; its iterations complete by XCH_DATA_ITER_COMPLETE. With no local expert the
step is over when the sending is. -/
def dispatchStep (d j : Fin 2) (bwd : Bool) (r : XchRec) (s : State) (st : Step) : IterResult :=
  let q := xchQ d j
  if (scr s q 100).isSome then .hold s
  else dispatchSend d j bwd r s (boundLocal d j r st s) (fun s =>
    let s := startAwait s q 4
    if emptyStep (getSeq s q) then .hold (retireStep s q true) else .hold s)

/-- The receive buffer of local expert `i` has been freed (R162). -/
def rxReleased (s : State) (d j : Fin 2) (r : XchRec) (i h : Nat) : Bool :=
  r.pool && h ≠ hEmpty && ((getXch s d j).freed.contains i || !bufferUsed s (bits h 20 1) (bits h 16 4) (bits h 0 16))

/-- RX_RELEASED. -/
def raiseReleased (s : State) (d j : Fin 2) : State :=
  let b := xchBlk d j
  let q := xchQ d j
  noteStatus (b.raise (b.event s 22) 0x0105 (seqPart s q) 0) q tkMemory

/-- Headers whose COUNT differs from the grant (HDR_MISMATCH). -/
def mismatches (d j : Fin 2) (n : Nat) (s : State) : State :=
  let b := xchBlk d j
  let q := xchQ d j
  forEach (List.range n) s (fun s _ => noteStatus (b.raise (b.event (b.sat s 0x7C) 18) 0x0101 (seqPart s q) 0) q tkMemory)

/-- Iteration l of DISPATCH, as an owner: complete when all M DATA (or GDATA) headers of local expert l are current. -/
def dataIterDone (d j : Fin 2) (r : XchRec) (s : State) (st : Step) : IterResult :=
  let q := xchQ d j
  let x := getSeq s q
  let bwd := bit st.mode 0
  let kind := if bwd then 5 else 3
  let slots := (List.range r.m).map (fun m => r.dataHdr r.localE (xseqOf s d j) x.i0 m)
  if scr0 s q 100 ≠ 4 then .hold s
  else if currentIn s d j kind slots ≠ r.m then .hold s
  else readStage s s q [locSpan s (r.adm + 8 * x.i0 * r.m) (8 * r.m), locSpan s (r.xrec + 64 * x.i0) 32] (fun l _ s =>
    let bad := ((List.range r.m).filter (fun m =>
      let h := (currentHdr s d j kind (slots.getD m 0)).getD 0
      bits h 24 24 ≠ bits (word 8 (l.getD 0 []) m) 0 20)).length
    let s := mismatches d j bad s
    let s := if bwd ∧ rxReleased s d j r x.i0 (bits (word 8 (l.getD 1 []) 3) 0 32) then raiseReleased s d j else s
    .ran (setScr s q 104 s.now) (opAddr s q st.d))

/-! ### RETURN (R160, R162) -/

/-- One RETURN iteration, which waits on the step's tokens: local expert l's rows go home, and a header to every member. A backward
RETURN of a receive buffer that has been freed does neither (R162); a forward one sends, and its free is one of R140. -/
def returnIter (d j : Fin 2) (bwd : Bool) (r : XchRec) (s : State) (st : Step) : IterResult :=
  let q := xchQ d j
  let s := setScr (boundLocal d j r st s) q 100 5
  let x := getSeq s q
  let i := x.i0
  if emptyStep x then .hold (retireStep s q true)
  else takeIter s q st (fun s =>
  let s0 := s
  readStage s0 s q (mapSpans s r ++ [locSpan s (r.adm + 8 * i * r.m) (8 * r.m), locSpan s (r.xrec + 64 * i) 40]) (fun l _ s =>
    let ms := l.getD 0 []
    let em := l.getD 1 []
    let adm (m : Nat) : Nat := word 8 (l.getD 2 []) m
    let rx := bits (word 8 (l.getD 3 []) 2) 0 41
    let h := bits (word 8 (l.getD 3 []) 3) 0 32
    let e := bits (word 8 (l.getD 3 []) 4) 0 14
    let n := r.hidden * (elemBits r.retFmt / 8)
    let rowOf (m : Nat) : Nat := ((List.range m).map (fun k => bits (adm k) 0 20)).foldl (· + ·) 0
    let total := rowOf r.m
    if bwd ∧ rxReleased s d j r i h then .ran (raiseReleased s d j) (opAddr s q st.d)
    else readStage s0 s q ((List.range total).map (fun k => locSpan s (rx + k * r.rowBytes) n r.retFmt)) (fun rl _ s =>
      let xs := xseqOf s d j
      let s := forEach r.order s (fun s m =>
        let g := bits (adm m) 0 20
        let s := forEach (List.range g) s (fun s k =>
          xchSend d j (memberDev ms m) (r.retBase + (bits (adm m) 20 24 + k) * r.pitch r.retFmt) (rl.getD (rowOf m + k) []) none false s)
        xchSend d j (memberDev ms m) (r.retHdr (ownedBy r em m).length xs e)
          (leBytes 8 (headerWord xs (if bwd then 6 else 4) g (g = 0))) none true s)
      let s := if r.pool ∧ !bit st.mode 1 then
          let y := getXch s d j
          (portRequest (setXch s d j { y with freed := i :: y.freed }) d (h + q.inst * 2 ^ 32 + 2 ^ 48) 0).2
        else s
      .ran s (opAddr s q st.d))))

/-! ### COMBINE (R161, R162) -/

/-- COMBINE's wait is over: all E return headers are current; a COUNT that differs from the list's GRANT is a mismatch. -/
def returnsReceivedIter (d j : Fin 2) (r : XchRec) (s : State) (st : Step) : IterResult :=
  let q := xchQ d j
  let kind := if bit st.mode 0 then 6 else 4
  let x := xseqOf s d j
  let slots := (List.range r.e).map (fun e => r.retHdr r.localE x e)
  let n := currentIn s d j kind slots
  if (scr s q 100).isSome then .hold s
  else
    if n ≠ r.e then .hold s
    else readStage s s q [locSpan s r.list (16 * r.e)] (fun l _ s =>
      let bad := ((List.range r.e).filter (fun e =>
        bits ((currentHdr s d j kind (slots.getD e 0)).getD 0) 24 24 ≠ (listHdr (l.headD []) e).grant)).length
      let s := setScr (mismatches d j bad s) q 100 6
      if emptyStep (getSeq s q) then .hold (retireStep s q true) else .hold s)

/-- One term of a token: its weight and its row. -/
def combineElem (bwd : Bool) (acc : NumVal) (w term : NumVal) : NumVal := if bwd then r32 (acc.add term) else r32 (w.fma term acc)

/-- One COMBINE iteration: token t = i0. -/
def combineIter (d j : Fin 2) (bwd : Bool) (r : XchRec) (s : State) (st : Step) : IterResult :=
  let q := xchQ d j
  let s0 := s
  let t := (getSeq s q).i0
  let resid := bit st.mode 2
  if scr0 s q 100 ≠ 6 then .hold s
  else readStage s0 s q (locSpan s (r.sel + t * r.k * 16) (16 * r.k) ::
      (if resid then [locSpan s (r.resBase + t * r.pitch r.resFmt) (r.hidden * (elemBits r.resFmt / 8)) r.resFmt] else []))
    (fun l _ s =>
      let sl := (List.range r.k).map (fun i => (word 8 (l.headD []) (2 * i), bits (word 8 (l.headD []) (2 * i + 1)) 0 32))
      let adm := sl.filter (fun e => bit e.1 14 && bit e.1 15)
      let n := r.hidden * (elemBits r.retFmt / 8)
      readStage s0 s q (adm.map (fun e => locSpan s (r.retBase + bits e.1 16 24 * r.pitch r.retFmt) n r.retFmt)) (fun rl _ s =>
        let rows := rl.map (fun bs => (unpackElems (elemBits r.retFmt) r.hidden bs).map (elemDecode r.retFmt))
        let res := if resid then (unpackElems (elemBits r.resFmt) r.hidden (l.getD 1 [])).map (elemDecode r.resFmt) else []
        let out := (List.range r.hidden).map (fun k =>
          let acc := (rows.zip adm).foldl (fun a e => combineElem bwd a (ofF32 e.2.2) (e.1.getD k .zero)) (res.getD k .zero)
          (elemEncode r.outFmt 0 0 acc).v)
        .ran (locWrite s q (r.outBase + t * r.pitch r.outFmt) (packElems (elemBits r.outFmt) out)) (opAddr s q st.d)))

/-- STEP_CLEAR (R151). -/
def stepClearIter (d j : Fin 2) (r : XchRec) (s : State) (st : Step) : IterResult :=
  let q := xchQ d j
  .ran (forEach (List.range r.localE) s (fun s i => locWrite s q (r.xrec + 64 * i + 4) (leBytes 4 0))) (opAddr s q st.d)

/-! ### The wait's limit (R164) -/

/-- The remaining iterations of a step that has ended early: they access nothing, and its tokens leave. -/
def idleRest (s : State) (q : SeqId) : Nat → State
  | 0 => s
  | n + 1 =>
    let x := getSeq s q
    if x.phase = .iter then
      let st := curStep x
      if emptyStep x then retireStep s q true
      else idleRest (afterIter s q true (operandAddr x st.d x.i0 x.i1 x.i2)) q n
    else s

/-- Iterations of the step still to run. -/
def itersLeft (x : SeqSt) : Nat := x.b0 * x.b1 * x.b2 - flatIter x

/-- XCH_PHASE_TIMEOUT (R164): headers of the phase awaited are missing for longer than PHASE_TIMEOUT. -/
def xchPhaseTimeout (d j : Fin 2) (s : State) : State :=
  let q := xchQ d j
  let b := xchBlk d j
  let x := getSeq s q
  let lim := 1024 * b.rd s 0x58
  let n := headersAwaited s d j
  if lim = 0 ∨ n.2 ≤ n.1 ∨ (s.now - (scr s q 104).getD x.waitFrom) * seqMhz s q ≤ lim then s
  else idleRest (b.raise (b.event (noteStatus s q tkTimeout) 20) 0x0103 (seqPart s q) 0) q (itersLeft x + 1)

/-! ### The commands -/

/-- One operation of an exchange engine, of the step's OP and its BWD. -/
def runXch (d j : Fin 2) (op : Nat) (bwd : Option Bool) (main : Bool) (body : XchRec → State → Step → IterResult) (s : State) : Out :=
  .next (if bwd.isSome ∧ bwd ≠ some (bit (curStep (getSeq s (xchQ d j))).mode 0) then s
    else runIter (xchQ d j) op (xchUnder d j main body) s)

/-- XCH_CONFIG (R152). -/
def execXchConfig (d j : Fin 2) (s : State) : Out := .next (runIter (xchQ d j) 0x10 (xchConfigIter d j) s)
/-- COUNTS (R157). -/
def execCounts (d j : Fin 2) (s : State) : Out := runXch d j 0x11 none true (countsIter d j) s
/-- XCH_COUNTS_RECEIVED (R157). -/
def execXchCountsReceived (d j : Fin 2) (s : State) : Out := runXch d j 0x11 none false (countsReceivedIter d j) s
/-- XCH_GRANTS_RECEIVED (R157, R158). -/
def execXchGrantsReceived (d j : Fin 2) (s : State) : Out := runXch d j 0x11 none false (grantsReceivedIter d j) s
/-- DISPATCH (R159). -/
def execDispatch (d j : Fin 2) (s : State) : Out := runXch d j 0x12 (some false) true (dispatchStep d j false) s
/-- DISPATCH_BWD (R162). -/
def execDispatchBwd (d j : Fin 2) (s : State) : Out := runXch d j 0x12 (some true) true (dispatchStep d j true) s
/-- XCH_DATA_ITER_COMPLETE (R159). -/
def execXchDataIterComplete (d j : Fin 2) (s : State) : Out := runXch d j 0x12 none false (dataIterDone d j) s
/-- RETURN (R160). -/
def execReturnRows (d j : Fin 2) (s : State) : Out := runXch d j 0x13 (some false) true (returnIter d j false) s
/-- RETURN_BWD (R162). -/
def execReturnBwd (d j : Fin 2) (s : State) : Out := runXch d j 0x13 (some true) true (returnIter d j true) s
/-- COMBINE (R161). -/
def execCombine (d j : Fin 2) (s : State) : Out := runXch d j 0x14 (some false) true (combineIter d j false) s
/-- COMBINE_BWD (R162). -/
def execCombineBwd (d j : Fin 2) (s : State) : Out := runXch d j 0x14 (some true) true (combineIter d j true) s
/-- XCH_RETURNS_RECEIVED (R161). -/
def execXchReturnsReceived (d j : Fin 2) (s : State) : Out := runXch d j 0x14 none false (returnsReceivedIter d j) s
/-- STEP_CLEAR (R151). -/
def execStepClear (d j : Fin 2) (s : State) : Out := runXch d j 0x15 none true (stepClearIter d j) s
/-- XCH_HEADER_ARRIVE (R155). -/
def execXchHeaderArrive (d j : Fin 2) (off : Nat) (s : State) : Out := .next (xchHeaderArrive d j off s)
/-- XCH_PHASE_TIMEOUT (R164). -/
def execXchPhaseTimeout (d j : Fin 2) (s : State) : Out := .next (xchPhaseTimeout d j s)

end Sys2Proof.Machine
end

