-- ==== Sys2Proof/Machine/Ring.lean ====
section
/-! DEFINITION. Sys2Proof/Machine/Ring.lean: the collective engine (R248–R265): its record, its rings, pieces and messages, the hops
of a piece, the carry, delivery and the tensor's statistics. A piece's state moves on as far as it can at every command that bears
on it (`colPump`). -/
namespace Sys2Proof.Machine

def colQ (d : Fin 2) (j : Fin 4) : SeqId := .die d ⟨12 + j.val, by omega⟩
def colBlk (d : Fin 2) (j : Fin 4) : Blk := .eng d ⟨12 + j.val, by omega⟩
def staBlk (d : Fin 2) : Blk := .eng d 21

def dCol (_ : Nat) : ColSt := {}
def getCol (s : State) (d : Fin 2) (j : Fin 4) : ColSt := SMap.get dCol s.cols (4 * d.val + j.val)
def setCol (s : State) (d : Fin 2) (j : Fin 4) (x : ColSt) : State := { s with cols := SMap.set dCol s.cols (4 * d.val + j.val) x }
def modCol (s : State) (d : Fin 2) (j : Fin 4) (f : ColSt → ColSt) : State := setCol s d j (f (getCol s d j))

/-! ### The record (Table 11.3) -/

/-- The fields of a collective record. -/
structure ColRec where
  kind : Nat
  wsel : Nat
  divide : Bool
  dl : Bool
  rnd : Nat
  ring : Nat
  tensor : Nat
  step : Nat
  pieces : Nat
  pb : Nat
  srcFmt : Nat
  dstFmt : Nat
  deadline : Nat
  src : Nat
  dst : Nat
  gather : Nat
  rx : Nat
  rxSlots : Nat
  count : Nat
  countAddr : Nat
  ef : Nat
  inbox : Nat
  seed : Nat
  deriving DecidableEq, Repr

def colRec (r : List Nat) : ColRec :=
  { kind := fld r 0 0 2, wsel := fld r 0 2 2, divide := fld r 0 4 1 = 1, dl := fld r 0 5 1 = 1, rnd := fld r 0 6 2,
    ring := fld r 0 8 6, tensor := fld r 0 16 16, step := fld r 0 32 32, pieces := fld r 1 0 15, pb := fld r 1 16 12,
    srcFmt := fld r 1 28 8, dstFmt := fld r 1 36 8, deadline := fld r 1 44 20, src := fld r 2 0 41, dst := fld r 3 0 41,
    gather := fld r 4 0 41, rx := fld r 5 0 41, rxSlots := fld r 6 0 13, count := fld r 6 32 32, countAddr := fld r 7 0 41,
    ef := fld r 8 0 41, inbox := fld r 9 0 41, seed := r.getD 10 0 }

/-- The record's own checks (R252). -/
def ColRec.formOk (r : ColRec) : Bool :=
  r.kind ≤ 2 && r.wsel ≤ 2 && (r.rnd = 0 || r.rnd = 2) && r.pieces ≤ 16384 && 1 ≤ r.pb && r.pb ≤ 2048 &&
    (r.srcFmt = 1 || r.srcFmt = 2 || r.srcFmt = 6) && (r.dstFmt = 1 || r.dstFmt = 2) && 2 ≤ r.rxSlots && r.rxSlots ≤ 4096 &&
    inNm r.inbox 64 && r.inbox % 64 = 0 && (r.kind ≠ 0 || r.gather ≠ 0)

def ColRec.raw (r : ColRec) : Bool := r.kind = 2
/-- The word width W (WSEL), and the bytes of a block (R253). -/
def ColRec.w (r : ColRec) : Nat := if r.wsel = 0 then 32 else if r.wsel = 1 then 24 else 40
def ColRec.bb (r : ColRec) : Nat := bfpBytes r.w
/-- SB, DB, and the bytes of a slot or a gathered copy (R253). -/
def ColRec.sb (r : ColRec) : Nat := if r.raw then r.pb * 128 else r.pb * 32 * (elemBits r.srcFmt / 8)
def ColRec.db (r : ColRec) : Nat := if r.raw then r.pb * 128 else r.pb * 32 * (elemBits r.dstFmt / 8)
def ColRec.entryBytes (r : ColRec) : Nat := 64 + r.pb * r.bb
def ColRec.slotAt (r : ColRec) (k : Nat) : Nat := r.rx + k * r.entryBytes
def ColRec.gatherAt (r : ColRec) (p : Nat) : Nat := r.gather + p * r.entryBytes

/-! ### Rings (R249, R250) -/

/-- The product of N over the levels below `l`, and over all. -/
def ringsBelow (rs : List RingLevel) (l : Nat) : Nat := ((rs.take l).map (·.n)).foldl (· * ·) 1
def ringsTotal (rs : List RingLevel) : Nat := ringsBelow rs rs.length

def dRing : RingLevel := { n := 1, self := 0, devs := [] }

/-- The owner q_l(p). -/
def ringOwner (rs : List RingLevel) (l p : Nat) : Nat := p / ringsBelow rs l % (rs.getD l dRing).n

/-- This device's rank. -/
def ringRank (rs : List RingLevel) : Nat := ((List.range rs.length).map (fun l => ringsBelow rs l * (rs.getD l dRing).self)).foldl (· + ·) 0

def ownsAt (rs : List RingLevel) (l p : Nat) : Bool := ringOwner rs l p = (rs.getD l dRing).self

/-- The device of a ring position. -/
def ringDev (rs : List RingLevel) (l m : Nat) : Nat := (rs.getD l dRing).devs.getD m 0
def ringNext (rs : List RingLevel) (l m : Nat) : Nat := (m + 1) % (rs.getD l dRing).n
def ringPrev (rs : List RingLevel) (l m : Nat) : Nat := (m + (rs.getD l dRing).n - 1) % (rs.getD l dRing).n

/-- Pieces owned at the top level. -/
def ownedPieces (rs : List RingLevel) (pieces : Nat) : List Nat := (List.range pieces).filter (fun p => p % ringsTotal rs = ringRank rs)

/-- H = ⌈log2 P⌉ (R260). -/
def headExp (rs : List RingLevel) : Nat := let p := ringsTotal rs; if p ≤ 1 then 0 else Nat.log2 (p - 1) + 1

/-- Read a ring chain: from entry `idx`, at most `n` levels, no ring twice (R249). -/
def readRings (s0 : State) (q : SeqId) (base dev : Nat) : Nat → Nat → List Nat → List RingLevel → State →
    (Option (List RingLevel) → State → IterResult) → IterResult
  | 0, _, _, _, s, k => k none s
  | n + 1, idx, seen, acc, s, k =>
    if seen.contains idx then k none s
    else readStage s0 s q [locSpan s (base + 64 * idx) 64] (fun l ok s =>
      let q0 := qw (l.headD []) 0
      let m := bits q0 0 13
      let self := bits q0 16 12 + 4096 * bits q0 28 1
      if !ok ∨ !bit q0 39 ∨ m = 0 ∨ 4096 < m ∨ m ≤ self then k none s
      else readStage s0 s q [locSpan s (bits (qw (l.headD []) 1) 0 41) (4 * m)] (fun l ok s =>
        let ms := l.headD []
        if !ok ∨ !(List.range m).all (fun i => bit (word 4 ms i) 31) ∨ memberDev ms self ≠ dev then k none s
        else
          let acc := acc ++ [{ n := m, self := self, devs := (List.range m).map (memberDev ms) }]
          if bit q0 38 then readRings s0 q base dev n (bits q0 32 6) (idx :: seen) acc s k else k (some acc) s))

/-! ### Pieces -/

def dPiece : ColPiece := {}
def pieceOf (c : ColSt) (l p : Nat) : ColPiece := ((c.pieces.find? (fun e => e.1 = (l, p))).map (·.2)).getD {}

/-- Put a piece's state into the list, in order of level and piece. -/
def insertPiece (k : Nat × Nat) (x : ColPiece) : List ((Nat × Nat) × ColPiece) → List ((Nat × Nat) × ColPiece)
  | [] => [(k, x)]
  | e :: es =>
    if e.1 = k then (k, x) :: es
    else if k.1 < e.1.1 ∨ (k.1 = e.1.1 ∧ k.2 < e.1.2) then (k, x) :: e :: es
    else e :: insertPiece k x es

def modPiece (s : State) (d : Fin 2) (j : Fin 4) (l p : Nat) (f : ColPiece → ColPiece) : State :=
  modCol s d j (fun c => { c with pieces := insertPiece (l, p) (f (pieceOf c l p)) c.pieces })

/-- The words of a payload. -/
def pieceBlocks (r : ColRec) (pc : RingPiece) : List Bfp :=
  (List.range r.pb).map (fun i => Bfp.parse r.w ((pc.payload.drop (i * r.bb)).take r.bb))

/-- A piece with these blocks: its payload and flags (Table 11.5). -/
def withBlocks (r : ColRec) (pc : RingPiece) (bs : List Bfp) : RingPiece :=
  { pc with null := false, payload := bs.flatMap (Bfp.bytes r.w), sat := bs.any (·.sat), nonfinite := bs.any (·.nonfinite) }

/-- The header's eight quadwords (Table 11.5). -/
def pieceHeader (cseq : Nat) (p : RingPiece) : List Nat :=
  [cseq + p.lvl % 4 * 2 ^ 16 + b2n p.gather * 2 ^ 18 + b2n p.null * 2 ^ 19 + b2n p.skip * 2 ^ 20 + p.attempt % 4 * 2 ^ 21 +
     b2n p.bad * 2 ^ 23 + p.exp % 256 * 2 ^ 24 + p.piece % 2 ^ 14 * 2 ^ 32 + p.amax % 256 * 2 ^ 46 + p.req % 256 * 2 ^ 54,
   p.count % 2 ^ 32 + min p.excl 4095 * 2 ^ 32 + b2n p.sat * 2 ^ 44 + b2n p.nonfinite * 2 ^ 45, 0, 0, 0, 0, 0, 0]

/-- A piece from its header and payload bytes. -/
def parsePiece (h payload : List Byte) : RingPiece :=
  let q0 := qw h 0
  let q1 := qw h 1
  { lvl := bits q0 16 2, gather := bit q0 18, null := bit q0 19, skip := bit q0 20, attempt := bits q0 21 2, bad := bit q0 23,
    exp := bits q0 24 8, piece := bits q0 32 14, amax := bits q0 46 8, req := bits q0 54 8, count := bits q1 0 32,
    excl := bits q1 32 12, sat := bit q1 44, nonfinite := bit q1 45, payload := payload }

/-! ### Messages (R255) -/

def cseqOf (s : State) (d : Fin 2) (j : Fin 4) : Nat := bits ((colBlk d j).rd s 0x4C) 0 16

/-- BANK_BYTES, a bank, a level's control area, a piece's entry. -/
def ColRec.bankBytes (r : ColRec) (levels : Nat) : Nat := (256 + 16 * r.pieces * levels + 63) / 64 * 64
def ColRec.bank (r : ColRec) (levels cseq : Nat) : Nat := r.inbox + cseq % 2 * r.bankBytes levels
def ColRec.ctlAt (r : ColRec) (levels cseq l : Nat) : Nat := r.bank levels cseq + 64 * l
def ColRec.wordAt (r : ColRec) (levels cseq l p : Nat) : Nat := r.bank levels cseq + 256 + 16 * (l * r.pieces + p)

/-- A control word (Table 11.6). -/
def ctlWord (cseq kind : Nat) (gather : Bool) (slot from_ : Nat) : Nat :=
  cseq + kind * 2 ^ 16 + b2n gather * 2 ^ 20 + slot % 2 ^ 12 * 2 ^ 21 + from_ % 2 ^ 12 * 2 ^ 33

/-- A store of the engine. -/
def colStore (d : Fin 2) (j : Fin 4) (dev o : Nat) (bs : List Byte) (flag : Bool) (s : State) : State :=
  let q := colQ d j
  if bs = [] then s
  else
    issue ((colBlk d j).add s 0x88 bs.length) (seqIssuer s q)
      { op := if flag then 0x20 else 0x10, addr := 2 ^ 41 * dev + o % 2 ^ 41, size := bs.length, data := bs } (.store q.inst)

/-- A control word to a ring position: into its DOWN word (0) or UP word (8) of a piece. -/
def sendCtl (d : Fin 2) (j : Fin 4) (r : ColRec) (l p m up kind : Nat) (gather : Bool) (slot : Nat) (s : State) : State :=
  let c := getCol s d j
  let x := cseqOf s d j
  colStore d j (ringDev c.rings l m) (r.wordAt c.rings.length x l p + up)
    (leBytes 8 (ctlWord x kind gather slot (c.rings.getD l dRing).self)) true s

/-- RETARGET (Q0) or RACK (Q1) to a ring position. -/
def sendLevelCtl (d : Fin 2) (j : Fin 4) (r : ColRec) (l m kind : Nat) (s : State) : State :=
  let c := getCol s d j
  let x := cseqOf s d j
  colStore d j (ringDev c.rings l m) (r.ctlAt c.rings.length x l + (if kind = 6 then 8 else 0))
    (leBytes 8 (ctlWord x kind false 0 (c.rings.getD l dRing).self)) true s

/-- A piece to a ring position: blocks, Q1–Q7, then Q0 as a flagged store; a gathered piece of raw bytes goes to DST's place, its
header to the gathered copy's. -/
def sendPiece (d : Fin 2) (j : Fin 4) (r : ColRec) (l m off : Nat) (pc : RingPiece) (s : State) : State :=
  let dev := ringDev (getCol s d j).rings l m
  let h := pieceHeader (cseqOf s d j) pc
  let s := colStore d j dev (if r.raw then r.dst + pc.piece * r.db else off + 64) pc.payload false s
  let s := colStore d j dev (off + 8) ((h.drop 1).flatMap (leBytes 8)) false s
  colStore d j dev off (leBytes 8 (h.headD 0)) true s

/-- The place that a path leads to: the slot that READY named; without one (SKIP) the piece's gathered copy, or the slot of its
number when there is no such copy. -/
def pathPlace (r : ColRec) (p : Nat) (slot : Option Nat) : Nat :=
  match slot with
  | some k => r.slotAt k
  | none => if r.gather = 0 then r.slotAt (p % r.rxSlots) else r.gatherAt p

/-! ### Statistics (R121, R266, R267) -/

/-- A tensor has a record in the table of the die's statistics unit (R266), and where. -/
def statSlot (s : State) (d : Fin 2) (t : Nat) : Option Nat :=
  let b := staBlk d
  if t < min 65536 (b.rd s 0x48) then some (b.rd s 0x40 + 64 * t) else none

/-- The status of the collective engine's accesses to a tensor's record: those of its partition (R28). -/
def statStatus (s : State) (d : Fin 2) (j : Fin 4) (a : Nat) : Nat := spanStatus s a 64 (seqPart s (colQ d j)) true

/-- The record that the collective engine keeps current: none beyond the table, and none where its partition may not write. -/
def statAt (s : State) (d : Fin 2) (j : Fin 4) (t : Nat) : Option Nat :=
  (statSlot s d t).filter (fun a => statStatus s d j a = stOk)

/-- What the engine moves between itself and a tensor's record (R384, Table 17.1). -/
def statAccess (d : Fin 2) (j : Fin 4) (a n : Nat) (write : Bool) (s : State) : State :=
  accessEnergy (countAccess s (colQ d j) a n write) (colQ d j) a n write

/-- Bytes of this member's memory as the collective engine reads them under the code of that memory (R125, R292), counted and charged
(R384); none when they are uncorrectable. -/
def slotRead (d : Fin 2) (j : Fin 4) (a n : Nat) (s : State) : Option (List Byte) × State :=
  if n = 0 then (some [], s) else readLocal (statAccess d j a n false s) (seqPart s (colQ d j)) a n

/-- A tensor's 64-byte record. DESIGN CHOICE (log entry 264): one that is uncorrectable is left as it is, and CONFIG takes its EST as 0. -/
def statRead (d : Fin 2) (j : Fin 4) (a : Nat) (s : State) : Option (List Byte) × State := slotRead d j a 64 s

/-- Write `bs` at `o` of a tensor's record (R293). -/
def statWrite (d : Fin 2) (j : Fin 4) (a o : Nat) (bs : List Byte) (s : State) : State :=
  (writeLocal (statAccess d j (a + o) bs.length true s) (seqPart s (colQ d j)) (a + o) bs).2

/-- A field of `n` bytes at `o` of a record's bytes. -/
def recField (bs : List Byte) (o n : Nat) : Nat := leNat ((bs.drop o).take n)

/-- Add to a 128-bit sum of squares at `o` of a record (R267), in place of `old`: saturating, with SQ_OVF. -/
def addSquares (d : Fin 2) (j : Fin 4) (rec_ o old new : Nat) (s : State) : State :=
  let x := statRead d j rec_ s
  match x.1 with
  | none => x.2
  | some bs =>
    let v := recField bs o 16 - old + new
    let s := statWrite d j rec_ o (leBytes 16 (min v (2 ^ 128 - 1))) x.2
    if v < 2 ^ 128 then s
    else
      let b := staBlk d
      b.raise (b.event (statWrite d j rec_ 50 (leBytes 1 (putBits (recField bs 50 1) 0 1 1)) s) 17) 0x0101 (engOwner s (22 * d.val + 21)) rec_

/-- Σ w² in the unit of EXP_REF. -/
def squares (exp expRef : Nat) (bs : List Bfp) : Nat :=
  4 ^ (exp - expRef) * ((bs.flatMap (·.words)).map (fun w => w.natAbs * w.natAbs)).foldl (· + ·) 0

/-! ### Contributions (R259, R260) -/

/-- FP32 codes or elements of a piece of `n` values. -/
def pieceValues (c n : Nat) (bs : List Byte) : List NumVal := (unpackElems (elemBits c) n bs).map (elemDecode c)

/-- Lists cut into 32s. -/
def groups32 {α : Type} (n : Nat) (l : List α) : List (List α) := (List.range n).map (fun i => (l.drop (32 * i)).take 32)

/-- The values of a piece of words (R262, with no division): a block with NONFINITE gives NaNs. -/
def blockValues (r : ColRec) (bs : List Bfp) : List NumVal :=
  bs.flatMap (fun b => if b.nonfinite then List.replicate 32 .qnan else b.words.map (bfpValue r.w b.exp))

/-- The values of a source piece with its carry, when they are there. -/
def sourceValues (d : Fin 2) (j : Fin 4) (r : ColRec) (p : Nat) (carry : List Nat) (s : State) : Option (List NumVal) × State :=
  let q := colQ d j
  let f := fetchSpans s q [locSpan s (r.src + p * r.sb) r.sb r.srcFmt]
  if !f.1 then (none, f.2)
  else
    let x := readSpans f.2 q [locSpan s (r.src + p * r.sb) r.sb r.srcFmt]
    let v := pieceValues r.srcFmt (32 * r.pb) (x.1.headD [])
    (some (if carry = [] then v else List.zipWith (fun a c => a.add (ofF32 c)) v carry), x.2.2)

/-- A partial with a member's contribution added: at level 0 its values, above it its result of the level below. None while the
source is still to come; the number is Σ w² of the level-0 words. -/
def addOwn (d : Fin 2) (j : Fin 4) (r : ColRec) (l p : Nat) (x : ColPiece) (pc : RingPiece) (s : State) :
    Option (RingPiece × Nat) × State :=
  let c := getCol s d j
  let join (bs : List Bfp) : List Bfp := if pc.null then bs else List.zipWith (Bfp.add r.w) (pieceBlocks r pc) bs
  if l = 0 then
    if x.cnt = 0 then (some (pc, 0), s)
    else
      let v := sourceValues d j r p x.carry s
      match v.1 with
      | none => (none, v.2)
      | some vals =>
        let bs := (groups32 r.pb vals).map (Bfp.ofNums r.w pc.exp)
        (some ({ withBlocks r pc (join bs) with amax := max pc.amax (boundExp vals), count := (pc.count + x.cnt) % 2 ^ 32 },
               squares pc.exp c.expRef bs), v.2)
  else
    match (pieceOf c (l - 1) p).result with
    | none => (some (pc, 0), s)
    | some y =>
      let pc1 := { pc with excl := min 4095 (pc.excl + y.excl), bad := pc.bad || y.bad }
      if y.null then (some (pc1, 0), s)
      else if pc.exp < y.exp then (some ({ pc with req := max pc.req y.exp }, 0), s)
      else
        let bs := (pieceBlocks r y).map (fun b =>
          let z := Bfp.ofNums r.w pc.exp (b.words.map (bfpValue r.w b.exp))
          { z with sat := z.sat || b.sat, nonfinite := z.nonfinite || b.nonfinite })
        (some ({ withBlocks r pc1 (join bs) with amax := max pc.amax y.amax, count := (pc.count + y.count) % 2 ^ 32 }, 0), s)

/-! ### The carry (R259) -/

def ColRec.carryAt (r : ColRec) (p : Nat) : Nat := r.ef + p * (64 + 128 * r.pb)

/-- A contribution that is kept out goes to the carry entry, or is lost with EF_BASE 0. Nothing changes while what it needs is
still to come. -/
def carryOut (d : Fin 2) (j : Fin 4) (r : ColRec) (l p : Nat) (s : State) : State :=
  let q := colQ d j
  let b := colBlk d j
  let c := getCol s d j
  let x := pieceOf c l p
  let done (s : State) : State := modPiece s d j l p (fun x => { x with carried := true })
  if !x.kept ∨ !x.contrib ∨ x.carried then s
  else if r.ef = 0 then b.event (b.sat (done s) 0x6C) 24
  else
    let v : Option (List NumVal × Nat) × State :=
      if l = 0 then
        if x.cnt = 0 then (some ([], 0), s)
        else
          let y := sourceValues d j r p x.carry s
          (y.1.map (fun v => (v, x.cnt)), y.2)
      else match (pieceOf c (l - 1) p).result with
        | some y => (some (if y.null then ([], 0) else (blockValues r (pieceBlocks r y), y.count)), s)
        | none => (some ([], 0), s)
    match v.1 with
    | none => v.2
    | some (vals, cnt) =>
      let o := r.carryAt p
      let n := 128 * r.pb
      let f := fetchSpans v.2 q [locSpan s o 4, locSpan s (o + 64) n]
      if !f.1 then f.2
      else
        let y := readSpans f.2 q [locSpan s o 4, locSpan s (o + 64) n]
        let s := done (modCol y.2.2 d j (fun c => { c with carried := p :: c.carried.erase p }))
        if vals = [] then s
        else
          let old := pieceValues 1 (32 * r.pb) (y.1.getD 1 [])
          let s := locWrite s q o (leBytes 4 (leNat (y.1.getD 0 []) + cnt))
          locWrite s q (o + 64) ((List.zipWith (fun a b => toF32 (a.add b)) old vals).flatMap (leBytes 4))

/-- This member is kept out of a piece (R259). -/
def keepOut (d : Fin 2) (j : Fin 4) (l p : Nat) (s : State) : State :=
  if (pieceOf (getCol s d j) l p).kept then s
  else
    let b := colBlk d j
    let s := modPiece s d j l p (fun x => { x with kept := true })
    modCol (b.event (b.sat s 0x64) 16) d j (fun c => { c with selfExcl := true })

/-! ### Delivery (R254, R262) -/

/-- The place of a delivered piece. -/
def ColRec.dstOf (r : ColRec) (rs : List RingLevel) (p : Nat) : Nat := r.dst + (if r.kind = 1 then p / ringsTotal rs else p) * r.db

/-- The elements that a piece delivers, and its blocks delivered as NaN. R120 converts back with nearest-even rounding, R262 under RND:
DESIGN CHOICE (log entry 250), delivery follows R262. -/
def deliverCodes (r : ColRec) (pc : RingPiece) : List Nat × Nat :=
  let bs := pieceBlocks r pc
  let enc (i : Nat) (x : NumVal) : Nat :=
    (elemEncode r.dstFmt r.rnd (if r.rnd = 2 then srDraw r.seed r.step r.tensor (pc.piece * r.pb * 32 + i) else 0) x).v
  if pc.null ∨ pc.count = 0 then (List.replicate (32 * r.pb) 0, 0)
  else
    ((blockValues r bs).zipIdx.map (fun e =>
       if e.1.isNan then nanOf r.dstFmt
       else enc e.2 (if r.divide then e.1.div (.ofInt pc.count) else e.1)),
     (bs.filter (·.nonfinite)).length)

/-- Deliver piece `pc` here: into DST, its counts and squares. -/
def deliver_ (d : Fin 2) (j : Fin 4) (r : ColRec) (pc : RingPiece) (s : State) : State :=
  let q := colQ d j
  let b := colBlk d j
  let c := getCol s d j
  if c.done.any (fun e => e.piece = pc.piece) then s
  else
    let ws := if pc.null ∨ r.raw then [] else (pieceBlocks r pc).flatMap (·.words)
    let lim : Nat := if r.w = 24 then 0 else 2 ^ (r.w - 25)
    let e : ColDone := { piece := pc.piece, count := pc.count, excl := pc.excl, sat := pc.sat, bad := pc.bad, nonfinite := pc.nonfinite,
                         amax := pc.amax, elems := 32 * r.pb,
                         zeros := if pc.null then 32 * r.pb else (ws.filter (· = 0)).length,
                         under := (ws.filter (fun w => w ≠ 0 ∧ w.natAbs < lim)).length }
    let s := modCol s d j (fun c => { c with done := c.done ++ [e] })
    let s := b.wr s 0x5C (c.done.length + 1)
    if r.raw then s
    else
      let x := deliverCodes r pc
      let s := locWrite s q (r.dstOf c.rings pc.piece) (packElems (elemBits r.dstFmt) x.1)
      let s := if x.2 = 0 then s else b.event (b.sat s 0x7C x.2) 21
      let s := if pc.sat then b.sat s 0x78 else s
      match (if pc.null then none else statAt s d j r.tensor) with
      | some a => addSquares d j a 32 0 (squares pc.exp c.expRef (pieceBlocks r pc)) s
      | none => s

/-- Start, or carry on, the gather of a piece that this member holds in full, from level `l` downward (R251). -/
def gatherFrom (d : Fin 2) (j : Fin 4) (r : ColRec) (pc : RingPiece) : Nat → State → State
  | 0, s => s
  | n + 1, s =>
    let rs := (getCol s d j).rings
    let me := (rs.getD n dRing).self
    let g := { pc with lvl := n, gather := true, skip := false, attempt := 0 }
    let s := if (rs.getD n dRing).n = 1 then s
      else sendPiece d j r n (ringNext rs n me) (r.gatherAt pc.piece) g (modPiece s d j n pc.piece (fun x => { x with gath := some g }))
    gatherFrom d j r pc n s

/-- Start the gathers of this member's own pieces, in ascending p (R263), as far as the pieces are whole; `n` bounds them. -/
def startGathers (d : Fin 2) (j : Fin 4) (r : ColRec) : Nat → State → State
  | 0, s => s
  | n + 1, s =>
    let c := getCol s d j
    match c.whole.find? (fun pc => pc.piece = ringRank c.rings + c.gathers * ringsTotal c.rings) with
    | none => s
    | some pc =>
      let s := modCol s d j (fun c => { c with whole := c.whole.erase pc, gathers := c.gathers + 1 })
      startGathers d j r n (gatherFrom d j r pc c.rings.length s)

/-- A piece that this member owns is whole here: it is delivered, and gathered behind its lower ones. -/
def gatherOwn (d : Fin 2) (j : Fin 4) (r : ColRec) (pc : RingPiece) (s : State) : State :=
  let s := modCol (deliver_ d j r pc s) d j (fun c => { c with whole := c.whole ++ [pc] })
  startGathers d j r (getCol s d j).whole.length s

/-- A piece is whole here at the top of its reduce passes: it is delivered, and gathered under ALL_REDUCE. -/
def topDone (d : Fin 2) (j : Fin 4) (r : ColRec) (pc : RingPiece) (s : State) : State :=
  if r.kind = 0 then gatherOwn d j r pc s else deliver_ d j r pc s

/-! ### The reduce pass (R256–R261) -/

/-- SYSTIME is past DEADLINE (R257). -/
def pastDeadline (s : State) (r : ColRec) : Bool :=
  let x := (Blk.fab.rd s 0x804C + 2 ^ 20 - r.deadline) % 2 ^ 20
  r.dl && 1 ≤ x && x < 2 ^ 19

/-- The lowest-numbered free receive slot. -/
def freeSlot (c : ColSt) (r : ColRec) : Option Nat :=
  let used := c.pieces.filterMap (fun e => e.2.slot)
  (List.range (min r.rxSlots (used.length + 1))).find? (fun k => !used.contains k)

/-- The positions that get this member's READYs of a level: its predecessor, and who has retargeted it. -/
def readyTargets (c : ColSt) (l : Nat) : List Nat :=
  (ringPrev c.rings l (c.rings.getD l dRing).self :: (c.retFrom.filter (fun e => e.1 = l)).map (·.2)).eraseDups

/-- READY for a piece whose contribution is available, once a slot is free (R256). -/
def sendReady (d : Fin 2) (j : Fin 4) (r : ColRec) (l p : Nat) (s : State) : State :=
  let c := getCol s d j
  let x := pieceOf c l p
  if r.raw ∨ !x.contrib ∨ x.kept ∨ x.readySent then s
  else match freeSlot c r with
    | none => s
    | some k =>
      let s := modPiece s d j l p (fun x => { x with slot := some k, readySent := true })
      forEach (readyTargets c l) s (fun s m => sendCtl d j r l p m 0 1 false k s)

/-- The null partial that an owner opens. -/
def nullPiece (l p exp attempt : Nat) : RingPiece := { lvl := l, exp := exp, piece := p, attempt := attempt }

/-- A level's result at its owner: handed up a level, or the whole piece. -/
def reduceDone (d : Fin 2) (j : Fin 4) (r : ColRec) (l p : Nat) (pc : RingPiece) (s : State) : State :=
  let c := getCol s d j
  let s := modPiece s d j l p (fun x => { x with result := some pc, held := none, slot := none })
  if l + 1 < c.rings.length then
    let s := modPiece s d j (l + 1) p (fun x => { x with contrib := true, cnt := pc.count })
    if ownsAt c.rings (l + 1) p then
      modPiece s d j (l + 1) p (fun x =>
        { x with held := some (nullPiece (l + 1) p (max c.expRef (max pc.exp pc.req)) 0), opened := true })
    else s
  else topDone d j r pc s

/-- The end of a reduce pass at the owner (R259, R261): its own contribution unless SKIP, then a resend or the result. -/
def finishReduce (d : Fin 2) (j : Fin 4) (r : ColRec) (l p : Nat) (pc : RingPiece) (s : State) : State :=
  let b := colBlk d j
  let s := if pc.skip then keepOut d j l p s else s
  let x := pieceOf (getCol s d j) l p
  let a := if x.contrib ∧ !x.kept then addOwn d j r l p x pc s else (some (pc, 0), s)
  match a.1 with
  | none => a.2
  | some (out, sq) =>
    let s := match (if x.sq = sq then none else statAt a.2 d j r.tensor) with
      | some t => modPiece (addSquares d j t 16 x.sq sq a.2) d j l p (fun x => { x with sq := sq })
      | none => a.2
    if (out.sat ∨ out.exp < out.req) ∧ out.attempt < 2 then
      let s := modCol (b.event (b.sat s 0x70) 19) d j (fun c => { c with resends := c.resends + 1 })
      modPiece s d j l p (fun x =>
        { x with held := some (nullPiece l p (min 254 (max (out.exp + 3) out.req)) (out.attempt + 1)), opened := true, sent := false })
    else
      let s := if out.sat then b.raise (b.event s 20) 0x0103 (seqPart s (colQ d j)) p else s
      reduceDone d j r l p { out with skip := false } s

/-- Transmit the held partial along its path: the own contribution joins it, unless this member opened it. -/
def transmit (d : Fin 2) (j : Fin 4) (r : ColRec) (l p : Nat) (s : State) : State :=
  let x := pieceOf (getCol s d j) l p
  match x.held, x.path with
  | some pc, some (t, slot, skip) =>
    let joins : Bool := !x.opened && (if pc.attempt = 0 then x.contrib && !x.kept else x.added)
    let a := if joins then addOwn d j r l p x pc s else (some (pc, 0), s)
    match a.1 with
    | none => a.2
    | some (out, sq) =>
      let s := match (if l ≠ 0 ∨ !joins ∨ x.sq = sq then none else statAt a.2 d j r.tensor) with
        | some e => modPiece (addSquares d j e 16 x.sq sq a.2) d j l p (fun x => { x with sq := sq })
        | none => a.2
      let s := modPiece s d j l p (fun x => { x with sent := true, added := x.added || joins })
      sendPiece d j r l t (pathPlace r p slot) { out with skip := skip, excl := min 4095 (out.excl + x.excl) } s
  | _, _ => s

/-- A successor `t` is stepped round for piece `p` (Table 11.4): each piece counts once. -/
def countSkip (d : Fin 2) (j : Fin 4) (t p : Nat) (s : State) : State :=
  modCol ((colBlk d j).event s 16) d j (fun c =>
    { c with skipped := p :: c.skipped.erase p, firstSkip := some (c.firstSkip.getD t) })

/-- The procedure of R257 for a partial held: find whom to send it to, stepping round late members; `n` bounds the members. -/
def chooseHop (d : Fin 2) (j : Fin 4) (r : ColRec) (l p : Nat) : Nat → State → State
  | 0, s => s
  | n + 1, s =>
    let c := getCol s d j
    let x := pieceOf c l p
    let me := (c.rings.getD l dRing).self
    let all := (List.range (c.rings.getD l dRing).n).map (fun i => (me + 1 + i) % (c.rings.getD l dRing).n)
    match all.find? (fun m => !x.exclT.contains m) with
    | none => s
    | some t =>
      let go (slot : Option Nat) (skip : Bool) (s : State) : State :=
        transmit d j r l p (modPiece s d j l p (fun x => { x with path := some (t, slot, skip) }))
      match (match x.ready with | some (f, k) => if f = t then some k else none | none => none) with
      | some k => go (some k) false s
      | none =>
        if !pastDeadline s r then s
        else if t = ringOwner c.rings l p then
          go none true (countSkip d j t p (modPiece s d j l p (fun x => { x with excl := x.excl + 1 })))
        else
          let u := ringNext c.rings l t
          if !c.retSent.contains (l, u) then
            sendLevelCtl d j r l u 5 (modCol s d j (fun c => { c with retSent := (l, u) :: c.retSent }))
          else if !c.racks.contains (l, u) then s
          else
            let s := sendCtl d j r l p t 8 4 false 0 s
            let s := modPiece s d j l p (fun x => { x with excl := x.excl + 1, exclT := t :: x.exclT })
            let s := modCol (countSkip d j t p ((colBlk d j).sat s 0x60)) d j (fun c => { c with excluded := (l, t) :: c.excluded })
            chooseHop d j r l p n s

/-- One piece at one level moves on as far as it can. -/
def pumpPiece (d : Fin 2) (j : Fin 4) (r : ColRec) (s : State) (k : Nat × Nat) : State :=
  let s := sendReady d j r k.1 k.2 (carryOut d j r k.1 k.2 s)
  let c := getCol s d j
  let x := pieceOf c k.1 k.2
  match x.held with
  | none => s
  | some pc =>
    if x.sent then s
    else if ownsAt c.rings k.1 k.2 ∧ !x.opened then finishReduce d j r k.1 k.2 pc s
    else if x.path.isSome then transmit d j r k.1 k.2 s
    else chooseHop d j r k.1 k.2 (c.rings.getD k.1 dRing).n s

/-- Every piece moves on: once for each level, since a result opens the next level. -/
def colPump (d : Fin 2) (j : Fin 4) (r : ColRec) (s : State) : State :=
  forEach (List.range ((getCol s d j).rings.length + 1)) s (fun s _ =>
    forEach ((getCol s d j).pieces.map (·.1)) s (pumpPiece d j r))

/-! ### Arrivals -/

/-- ACK or NAK to the sender's DOWN word. -/
def answerPiece (d : Fin 2) (j : Fin 4) (r : ColRec) (pc : RingPiece) (m : Nat) (ok : Bool) (s : State) : State :=
  sendCtl d j r pc.lvl pc.piece m 0 (if ok then 2 else 3) pc.gather 0 s

/-- ADDER_FAULT (R260): the fault record names the sender, and the Barista reports it. -/
def adderFault (d : Fin 2) (j : Fin 4) (off src p : Nat) (s : State) : State :=
  let q := colQ d j
  let i := seqIssuer s q
  let s := faultLog s { op := 0x20, addr := 2 ^ 41 * src + off % 2 ^ 41, size := 8, src := src, ctx := i.ctx, part := i.part, vc := i.vc,
                        isolated := false, seq := 0, issueTime := s.now % 2 ^ 20 } stNotApplied
  (colBlk d j).raise ((colBlk d j).event { s with reports := s.reports ++ [.adderFault src] } 18) 0x0102 (seqPart s q) p

/-- A second mismatch: BAD, and NONFINITE in every block; the residues are those of the words received. -/
def badPiece (r : ColRec) (pc : RingPiece) : RingPiece :=
  let bs := (pieceBlocks r pc).map (fun b => { b with nonfinite := true, residue := residueOf b.words })
  { withBlocks r pc bs with bad := true }

/-- What an accepted piece does: a reduce-pass partial is held; a gathered one is delivered and goes on. -/
def acceptPiece (d : Fin 2) (j : Fin 4) (r : ColRec) (pc : RingPiece) (s : State) : State :=
  let rs := (getCol s d j).rings
  let me := (rs.getD pc.lvl dRing).self
  if pc.gather then
    let next := ringNext rs pc.lvl me
    let s := deliver_ d j r pc s
    let s := if next = ringOwner rs pc.lvl pc.piece then s
      else sendPiece d j r pc.lvl next (r.gatherAt pc.piece) pc (modPiece s d j pc.lvl pc.piece (fun x => { x with gath := some pc }))
    gatherFrom d j r pc pc.lvl s
  else
    modPiece s d j pc.lvl pc.piece (fun x => { x with held := some pc, opened := false, sent := false, naked := false })

/-- A partial or gathered piece has arrived at local offset `off` from device `src` (R260). -/
def pieceArrived (d : Fin 2) (j : Fin 4) (r : ColRec) (off src : Nat) (s : State) : State :=
  let b := colBlk d j
  let c := getCol s d j
  let h := readBytes s off 64
  let head := parsePiece h []
  let lv := c.rings.getD head.lvl dRing
  match lv.devs.findIdx? (· = src) with
  | none => s
  | some m =>
    if c.rings.length ≤ head.lvl ∨ r.pieces ≤ head.piece then s
    else
      let n := if head.null then 0 else if r.raw then r.db else r.pb * r.bb
      let front := slotRead d j off 64 (b.add s 0x90 (64 + n))
      let body := slotRead d j (if r.raw then r.dst + head.piece * r.db else off + 64) n front.2
      let s := body.2
      let pc := { head with payload := body.1.getD [] }
      let good := front.1.isSome && body.1.isSome && (pc.null || r.raw || (pieceBlocks r pc).all (·.valid))
      let x := pieceOf c pc.lvl pc.piece
      if good then colPump d j r (acceptPiece d j r pc (answerPiece d j r pc m true s))
      else
        let s := b.event (b.sat s 0x74) 17
        let seen := if pc.gather then x.mis1 else x.mis0
        let s := modPiece s d j pc.lvl pc.piece (fun x =>
          if pc.gather then { x with mis1 := x.mis1 + 1 } else { x with mis0 := x.mis0 + 1 })
        if seen = 0 then answerPiece d j r pc m false s
        else
          let s := adderFault d j off src pc.piece (answerPiece d j r pc m true s)
          colPump d j r (acceptPiece d j r (badPiece r pc) s)

/-- The level and the piece of a word of the bank in force: DOWN words 0, UP words 8. -/
def wordPlace (s : State) (d : Fin 2) (j : Fin 4) (r : ColRec) (off : Nat) : Option (Nat × Nat × Nat) :=
  let c := getCol s d j
  let o := r.bank c.rings.length (cseqOf s d j) + 256
  if off < o ∨ r.pieces = 0 then none
  else
    let k := (off - o) / 16
    if k < r.pieces * c.rings.length ∧ (off - o) % 8 = 0 then some (k / r.pieces, k % r.pieces, (off - o) % 16) else none

/-- The level of a control area's word, RETARGET at 0 and RACK at 8. -/
def ctlPlace (s : State) (d : Fin 2) (j : Fin 4) (r : ColRec) (off : Nat) : Option (Nat × Nat) :=
  let c := getCol s d j
  let o := r.bank c.rings.length (cseqOf s d j)
  if off < o ∨ o + 64 * c.rings.length ≤ off then none else some ((off - o) / 64, (off - o) % 64)

/-- READY (R256–R258): ignored and counted from a member excluded here. -/
def readyArrived (d : Fin 2) (j : Fin 4) (r : ColRec) (l p f slot : Nat) (s : State) : State :=
  if (getCol s d j).excluded.contains (l, f) then (colBlk d j).sat s 0x68
  else colPump d j r (modPiece s d j l p (fun x => { x with ready := some (f, slot) }))

/-- ACK (R256, R260): the held inputs and the receive slot are free. -/
def ackArrived (d : Fin 2) (j : Fin 4) (r : ColRec) (l p : Nat) (gather : Bool) (s : State) : State :=
  if gather then modPiece s d j l p (fun x => { x with gath := none })
  else if (pieceOf (getCol s d j) l p).sent then
    colPump d j r (modPiece s d j l p (fun x =>
      { x with held := none, sent := false, slot := if x.opened then x.slot else none, opened := false }))
  else s

/-- NAK (R260): the addition again, and one resend. -/
def nakArrived (d : Fin 2) (j : Fin 4) (r : ColRec) (l p : Nat) (gather : Bool) (s : State) : State :=
  let c := getCol s d j
  let x := pieceOf c l p
  if gather then
    match x.gath with
    | some g =>
      if x.gnaked then s
      else sendPiece d j r l (ringNext c.rings l (c.rings.getD l dRing).self) (r.gatherAt p) g
        (modPiece s d j l p (fun x => { x with gnaked := true }))
    | none => s
  else if x.sent ∧ !x.naked then transmit d j r l p (modPiece s d j l p (fun x => { x with naked := true }))
  else s

/-- EXCLUDE (R259): kept out, and a slot reserved for the piece is free. -/
def excludeArrived (d : Fin 2) (j : Fin 4) (r : ColRec) (l p : Nat) (s : State) : State :=
  colPump d j r (modPiece (keepOut d j l p s) d j l p (fun x => { x with slot := none }))

/-- RETARGET (R258): READY for every piece of the level that is ready, then RACK. -/
def retargetArrived (d : Fin 2) (j : Fin 4) (r : ColRec) (l f : Nat) (s : State) : State :=
  let ready := (getCol s d j).pieces.filterMap (fun e => if e.1.1 = l ∧ e.2.readySent ∧ !e.2.kept then e.2.slot.map (fun k => (e.1.2, k)) else none)
  let s := colPump d j r (modCol s d j (fun c => { c with retFrom := (l, f) :: c.retFrom.filter (fun e => !(e == (l, f))) }))
  let s := forEach ready s (fun s e => sendCtl d j r l e.1 f 0 1 false e.2 s)
  sendLevelCtl d j r l f 6 s

/-- RACK (R258). -/
def rackArrived (d : Fin 2) (j : Fin 4) (r : ColRec) (l f : Nat) (s : State) : State :=
  colPump d j r (modCol s d j (fun c => { c with racks := (l, f) :: c.racks }))

/-- A message of kind `kind` (0 a piece) of the collective in force. -/
def handleMsg (d : Fin 2) (j : Fin 4) (r : ColRec) (kind off src : Nat) (s : State) : State :=
  let w := readNat s off 8
  let f := bits w 33 12
  if kind = 0 then pieceArrived d j r off src s
  else if bits w 16 4 ≠ kind then s
  else if kind = 5 ∨ kind = 6 then
    match ctlPlace s d j r off with
    | some (l, o) => if o = 0 ∧ kind = 5 then retargetArrived d j r l f s else if o = 8 ∧ kind = 6 then rackArrived d j r l f s else s
    | none => s
  else
    match wordPlace s d j r off with
    | some (l, p, o) =>
      if o = 0 ∧ kind = 1 then readyArrived d j r l p f (bits w 21 12) s
      else if o = 0 ∧ kind = 2 then ackArrived d j r l p (bit w 20) s
      else if o = 0 ∧ kind = 3 then nakArrived d j r l p (bit w 20) s
      else if o = 8 ∧ kind = 4 then excludeArrived d j r l p s
      else s
    | none => s

/-- A message observed (R255): of this collective it acts, of the next it is held, any other is ignored and counted. -/
def colMessage (d : Fin 2) (j : Fin 4) (kind off src : Nat) (s : State) : State :=
  let b := colBlk d j
  let x := bits (readNat s off 8) 0 16
  if x = (cseqOf s d j + 1) % 2 ^ 16 then modCol s d j (fun c => { c with heldMsgs := c.heldMsgs ++ [(kind, off, src)] })
  else if x ≠ cseqOf s d j then b.sat s 0x80
  else match recOf s b with
    | [] => s
    | rq => handleMsg d j (colRec rq) kind off src s

end Sys2Proof.Machine
end

