-- ==== Sys2Proof/Machine/Collective.lean ====
section
/-! DEFINITION. Sys2Proof/Machine/Collective.lean: the collective engine's operations (R252–R254), its messages and its limits (R255–R262,
R269), the statistics unit's AMAX job (R268). Words of a step: 100 the bound is set, 101 tokens taken for iterations so far,
104 since when a delivery is awaited, 120 CONFIG found its record valid, 900 LENGTH of FINISH's entries. -/
namespace Sys2Proof.Machine

/-! ### CONFIG (R252) -/

/-- The tensor's record at CONFIG (R267): its EST, with the sums zeroed and EXP_REF and CSEQ set; without one EST is 0. DESIGN CHOICE
(log entry 188): a record that the engine's partition may not access is none, and the denied access is captured once, here (R28). -/
def configStats (d : Fin 2) (j : Fin 4) (r : ColRec) (h : Nat) (s : State) : Nat × State :=
  let expOf (est : Nat) : Nat := max 1 (min 254 ((if est = 0 then 127 else est) + h))
  match statAt s d j r.tensor with
  | none =>
    let s := match statSlot s d r.tensor with
      | some a => secError s (if statStatus s d j a = stUnmapped then 2 else 1) (seqPart s (colQ d j)) a
      | none => s
    (expOf 0, if r.pieces = 0 then s else (staBlk d).sat s 0x54)
  | some a =>
    let x := statRead d j a s
    match x.1 with
    | none => (expOf 0, x.2)
    | some bs =>
      let est := recField bs 48 1
      if r.pieces = 0 then (expOf est, x.2)
      else
        let q6 := putBits (putBits (putBits (recField bs 48 8) 8 8 (expOf est)) 16 1 0) 32 16 (cseqOf s d j)
        (expOf est, statWrite d j a 16 (List.replicate 32 0 ++ leBytes 8 q6) x.2)

/-- A collective begins: its level-0 owners hold null partials, and what was held for it is taken. -/
def startCol (d : Fin 2) (j : Fin 4) (s : State) : State :=
  let b := colBlk d j
  let r := colRec (recOf s b)
  let c := getCol s d j
  let x := configStats d j r (headExp c.rings) s
  let s := modCol x.2 d j (fun c =>
    { c with expRef := x.1, heldMsgs := [],
             pieces := if r.raw then [] else
               ((List.range r.pieces).filter (ownsAt c.rings 0)).map (fun p => ((0, p), { held := some (nullPiece 0 p x.1 0), opened := true })) })
  let s := b.put (b.put s 0x48 1 3 (if r.raw then 2 else 1)) 0x48 4 2 (c.rings.length - 1)
  forEach c.heldMsgs s (fun s m => colMessage d j m.1 m.2.1 m.2.2 s)

/-- CONFIG: CSEQ advances and the state of every piece is cleared; then the checks. -/
def colConfigIter (d : Fin 2) (j : Fin 4) (s : State) (st : Step) : IterResult :=
  let b := colBlk d j
  let q := colQ d j
  let s0 := s
  match configIter b q 128 0x40 0x48 22 0x0101 (fun s rq k =>
      let r := colRec rq
      let clear (s : State) : State :=
        b.wr (b.put (setCol (b.wr s 0x4C ((cseqOf s d j + 1) % 2 ^ 16)) d j { heldMsgs := (getCol s d j).heldMsgs }) 0x48 1 5 0) 0x5C 0
      if !r.formOk then k false (clear s)
      else readRings s0 q (bits (b.rd s 0x50) 0 41) (bits (Blk.svc.rd s 0x1048) 0 17) 4 r.ring [] [] s (fun rs s =>
        match rs with
        | none => k false (clear s)
        | some rs => k true (setScr (modCol (clear s) d j (fun c => { c with rings := rs })) q 120 1))) s st with
  | .ran s aD => .ran (if scr0 s q 120 = 1 then startCol d j (delScr s q 120) else s) aD
  | .hold s => .hold s

/-! ### The engine's own count (R252) -/

/-- An iteration under the record in force. Without one only the operation's own command (`main`) runs the iteration, which
accesses nothing. -/
def colUnder (d : Fin 2) (j : Fin 4) (main : Bool) (body : ColRec → State → Step → IterResult) (s : State) (st : Step) : IterResult :=
  let q := colQ d j
  match recOf s (colBlk d j) with
  | [] =>
    if !main then .hold s
    else if emptyStep (getSeq s q) then .hold (retireStep (noteStatus s q tkMemory) q true)
    else idleIter s q st (some tkMemory)
  | rq => body (colRec rq) s st

/-- The level-0 bound: the engine's count, clamped to L0. -/
def boundCount (d : Fin 2) (j : Fin 4) (n : Nat) (st : Step) (s : State) : State :=
  let q := colQ d j
  if (scr s q 100).isSome then s
  else
    let s := modSeq (setScr s q 100 1) q (fun x => { x with b0 := min n st.l0 })
    if st.l0 < n then (colBlk d j).countErr (noteStatus s q tkCountRange) else s

/-! ### CONTRIB (R253, R256, R259) -/

/-- A level-0 contribution of words: its count, and the carry that joins it unless the member is kept out already. -/
def contribute (d : Fin 2) (j : Fin 4) (r : ColRec) (p : Nat) (s0 s : State) (aD : Nat) : IterResult :=
  let q := colQ d j
  let kept := (pieceOf (getCol s d j) 0 p).kept
  let useEf := r.ef ≠ 0 && !kept
  let o := r.carryAt p
  readStage s0 s q ((if r.countAddr = 0 then [] else [locSpan s r.countAddr 4]) ++ (if useEf then [locSpan s o 4] else [])) (fun l _ s =>
    let c := if r.countAddr = 0 then r.count else leNat (l.headD [])
    let carried := if useEf then leNat (l.getLastD []) else 0
    readStage s0 s q (if carried = 0 then [] else [locSpan s (o + 64) (128 * r.pb)]) (fun l _ s =>
      let carry := if carried = 0 then [] else unpackElems 32 (32 * r.pb) (l.headD [])
      let s := if carried = 0 then s else locWrite s q o (List.replicate (64 + 128 * r.pb) 0)
      let n := (c + carried) % 2 ^ 32
      let s := modPiece s d j 0 p (fun x => { x with contrib := true, cnt := n, carry := carry })
      let s := modCol s d j (fun c => { c with localCount := max c.localCount n })
      .ran (colPump d j r s) aD))

/-- ALL_GATHER: the owner's piece is delivered here and starts its gather. -/
def contributeRaw (d : Fin 2) (j : Fin 4) (r : ColRec) (p addr : Nat) (s0 s : State) (aD : Nat) : IterResult :=
  let q := colQ d j
  readStage s0 s q [{ operand := 0, addr := addr, len := r.sb }] (fun l _ s =>
    let c := getCol s d j
    let pc : RingPiece := { null := false, piece := p, lvl := c.rings.length - 1, gather := true, payload := l.headD [] }
    .ran (gatherOwn d j r pc (locWrite s q (r.dst + p * r.db) pc.payload)) aD)

/-- CONTRIB: each iteration waits on the step's token, the first with the step's own wait. -/
def contribIter (d : Fin 2) (j : Fin 4) (r : ColRec) (s : State) (st : Step) : IterResult :=
  let q := colQ d j
  let b := colBlk d j
  let c := getCol s d j
  let s := boundCount d j (if r.raw then (ownedPieces c.rings r.pieces).length else r.pieces) st s
  let aD := opAddr s q st.d
  if emptyStep (getSeq s q) then .hold (retireStep s q true)
  else takeIter s q st (fun s =>
    let s0 := s
    let a := opAddr s q st.a
    let o := offOf a
    let k := (o - r.src) / r.sb
    let p := if r.raw then k * ringsTotal c.rings + ringRank c.rings else k
    if !addrOk a ∨ devOf a ≠ selfId s ∨ o < r.src ∨ (o - r.src) % r.sb ≠ 0 ∨ r.pieces ≤ p then
      .ran (b.countErr (noteStatus s q tkMemory)) aD
    else if (pieceOf c 0 p).contrib ∨ (r.raw ∧ c.done.any (fun e => e.piece = p)) then .ran (b.sat s 0x84) aD
    else if r.raw then contributeRaw d j r p a s0 s aD
    else contribute d j r p s0 s aD)

/-! ### FINISH (R254, R267) -/

/-- The watch record's update for a step (R121): the 16 bytes after it, vanished or not: RUN, and unless OFF is set EVENTS; and whether
VANISHING is raised. -/
def watchStep (bs : List Byte) (vanished : Bool) : List Byte × Bool :=
  let q0 := recField bs 0 8
  let run := if vanished then min 65535 (bits q0 0 16 + 1) else 0
  let n := if bits q0 16 16 = 0 then 64 else bits q0 16 16
  let raised := vanished && decide (bits q0 0 16 ≠ 65535) && decide (run % n = 0) && !bit q0 32
  (leBytes 2 run ++ (bs.drop 2).take 6 ++ leBytes 4 (min 0xFFFFFFFF (recField bs 8 4 + b2n raised)) ++ (bs.drop 12).take 4, raised)

/-- A step is vanished (R121): every reduced word 0, or more than UTHR/256 of the elements underflowing. -/
def vanishedStep (uthr : Nat) (l : List ColDone) : Bool :=
  let sum (f : ColDone → Nat) : Nat := (l.map f).foldl (· + ·) 0
  let u := if uthr = 0 then 240 else uthr
  sum (·.zeros) = sum (·.elems) || u * sum (·.elems) < 256 * sum (·.under)

/-- The tensor's record at the end of FINISH (R267). -/
def finishStats (d : Fin 2) (j : Fin 4) (r : ColRec) (s : State) : State :=
  let c := getCol s d j
  match (if r.pieces = 0 then none else statAt s d j r.tensor) with
  | none => s
  | some a =>
    let x := statRead d j a s
    match x.1 with
    | none => x.2
    | some bs =>
      let obs := c.done.foldl (fun m e => max m e.amax) 0
      let counts := leBytes 8 (c.localCount + c.done.foldl (fun m e => max m e.count) 0 * 2 ^ 32)
      let w := if c.done.all (fun e => e.count = 0) then (bs.take 16, false)
        else watchStep bs (vanishedStep (bits (recField bs 0 8) 40 8) c.done)
      let s := statWrite d j a 0
        (w.1 ++ (bs.drop 16).take 32 ++ leBytes 1 (max obs (recField bs 48 1 - 1)) ++ (bs.drop 49).take 7 ++ counts) x.2
      let b := staBlk d
      if w.2 then b.event (b.sat (b.wr s 0x4C r.tensor) 0x50) 16 else s

/-- The completion record (Table 11.4). -/
def completionRecord (cseq : Nat) (c : ColSt) : List Byte :=
  let any (f : ColDone → Bool) : Nat := b2n (c.done.any f)
  let counts := c.done.map (·.count)
  let exc := (c.done.filter (fun e => e.excl ≠ 0)).length
  let q0 := cseq + b2n (exc ≠ 0 || c.selfExcl) * 2 ^ 16 + b2n c.selfExcl * 2 ^ 17 + any (·.sat) * 2 ^ 18 + any (·.bad) * 2 ^ 19 +
    any (·.nonfinite) * 2 ^ 20
  ([q0, c.done.length + exc * 2 ^ 32, c.resends, c.skipped.length + c.firstSkip.getD 0x1FFF * 2 ^ 32, c.carried.length,
    (counts.tail.foldl min (counts.headD 0)) + counts.foldl max 0 * 2 ^ 32, 0, 0]).flatMap (leBytes 8)

/-- The end of FINISH: the record at the step's D address, the statistics, the step's status. -/
def finishEnd (d : Fin 2) (j : Fin 4) (r : ColRec) (s : State) (st : Step) : State :=
  let q := colQ d j
  let x := getSeq s q
  let c := getCol s d j
  let ep := if st.d.epochEn then some (operandEpoch x st.d 0 0 0) else none
  let s := writeOp s q (operandAddr x st.d 0 0 0) (completionRecord (cseqOf s d j) c) ep
  let s := finishStats d j r s
  let s := (colBlk d j).put s 0x48 1 3 0
  if c.done.any (·.sat) then noteStatus s q tkSaturated else if c.done.any (·.bad) then noteStatus s q tkMemory else s

/-- FINISH: iteration j ends when the j-th piece has been delivered; the last one also when every contribution that is kept out
has been carried. -/
def finishIter (d : Fin 2) (j : Fin 4) (r : ColRec) (s : State) (st : Step) : IterResult :=
  let q := colQ d j
  let b := colBlk d j
  let c := getCol s d j
  let s := boundCount d j (if r.kind = 1 then (ownedPieces c.rings r.pieces).length else r.pieces) st s
  let s := if (scr s q 104).isSome then s else b.put (setScr s q 104 s.now) 0x48 1 3 3
  let x := getSeq s q
  let i := flatIter x
  if emptyStep x then .hold (retireStep (finishEnd d j r s st) q true)
  else match c.done[i]? with
    | none => .hold s
    | some e =>
      let last := i + 1 = x.b0 * x.b1 * x.b2
      if last ∧ c.pieces.any (fun p => p.2.kept && p.2.contrib && !p.2.carried) then .hold s
      else
        let s := setScr (setScr s q 104 s.now) q 900 r.db
        .ran (if last then finishEnd d j r s st else s) (ownAddr s (r.dstOf c.rings e.piece % 2 ^ 41))

/-- COL_DEADLINE (R257): the deadline is past, and held partials step round late members. -/
def deadlineStep (d : Fin 2) (j : Fin 4) (s : State) : State :=
  match recOf s (colBlk d j) with
  | [] => s
  | rq => if pastDeadline s (colRec rq) then colPump d j (colRec rq) s else s

/-- COL_PHASE_TIMEOUT (R269): a wait for deliveries ends FINISH. -/
def colPhaseTimeout (d : Fin 2) (j : Fin 4) (s : State) : State :=
  let q := colQ d j
  let b := colBlk d j
  let x := getSeq s q
  let lim := 1024 * b.rd s 0x58
  match scr s q 104 with
  | some since =>
    if x.phase ≠ .iter ∨ lim = 0 ∨ (s.now - since) * seqMhz s q ≤ lim then s
    else idleRest (b.raise (b.event (b.put (noteStatus s q tkTimeout) 0x48 1 3 0) 23) 0x0104 (seqPart s q) 0) q (itersLeft x + 1)
  | none => s

/-! ### The statistics unit (R268) -/

def staQ (d : Fin 2) : SeqId := .die d 21

/-- AMAX (R268). -/
def amaxIter (d : Fin 2) (s : State) (st : Step) : IterResult :=
  let q := staQ d
  let s0 := s
  let aD := opAddr s q st.d
  readStage s0 s q [{ operand := 0, addr := opAddr s q st.a, len := 32, fmt := st.a.format, ep := opEpoch s q st.a }] (fun l _ s =>
    let job := qw (l.headD [])
    let n := bits (job 0) 0 16
    readStage s0 s q [locSpan s (bits (job 1) 0 41) (8 * n)] (fun l _ s =>
      let hs := (List.range n).map (fun i => word 8 (l.headD []) i % 2 ^ 41)
      readStage s0 s q (hs.map (fun o => locSpan s (o + 4) 1)) (fun l _ s =>
        let m := (l.map leNat).foldl max 0
        let s := locWrite s q (bits (job 2) 0 41) (leBytes 1 m)
        let out := (max 1 (min 254 ((m : Int) + bits (job 0) 16 3 - bits (job 0) 20 4))).toNat
        let s := if bit (job 0) 24 then forEach hs s (fun s o => locWrite s q o (leBytes 1 out)) else s
        .ran ((staBlk d).sat s 0x58) aD)))

/-! ### The commands -/

/-- COL_CONFIG (R252). -/
def execColConfig (d : Fin 2) (j : Fin 4) (s : State) : Out := .next (runIter (colQ d j) 0x10 (colConfigIter d j) s)
/-- CONTRIB (R253). -/
def execContrib (d : Fin 2) (j : Fin 4) (s : State) : Out := .next (runIter (colQ d j) 0x11 (colUnder d j true (contribIter d j)) s)
/-- FINISH (R254). -/
def execFinish (d : Fin 2) (j : Fin 4) (s : State) : Out := .next (runIter (colQ d j) 0x12 (colUnder d j true (finishIter d j)) s)
/-- COL_PIECE_ARRIVE (R260). -/
def execColPieceArrive (d : Fin 2) (j : Fin 4) (off src : Nat) (s : State) : Out := .next (colMessage d j 0 off src s)
/-- COL_READY (R256). -/
def execColReady (d : Fin 2) (j : Fin 4) (off : Nat) (s : State) : Out := .next (colMessage d j 1 off 0 s)
/-- COL_ACK (R260). -/
def execColAck (d : Fin 2) (j : Fin 4) (off : Nat) (s : State) : Out := .next (colMessage d j 2 off 0 s)
/-- COL_NAK (R260). -/
def execColNak (d : Fin 2) (j : Fin 4) (off : Nat) (s : State) : Out := .next (colMessage d j 3 off 0 s)
/-- COL_EXCLUDE (R259). -/
def execColExclude (d : Fin 2) (j : Fin 4) (off : Nat) (s : State) : Out := .next (colMessage d j 4 off 0 s)
/-- COL_RETARGET (R258). -/
def execColRetarget (d : Fin 2) (j : Fin 4) (off : Nat) (s : State) : Out := .next (colMessage d j 5 off 0 s)
/-- COL_RACK (R258). -/
def execColRack (d : Fin 2) (j : Fin 4) (off : Nat) (s : State) : Out := .next (colMessage d j 6 off 0 s)
/-- COL_DEADLINE (R257). -/
def execColDeadline (d : Fin 2) (j : Fin 4) (s : State) : Out := .next (deadlineStep d j s)
/-- COL_PHASE_TIMEOUT (R269). -/
def execColPhaseTimeout (d : Fin 2) (j : Fin 4) (s : State) : Out := .next (colPhaseTimeout d j s)
/-- STA_AMAX (R268). -/
def execStaAmax (d : Fin 2) (s : State) : Out := .next (runIter (staQ d) 0x10 (amaxIter d) s)

end Sys2Proof.Machine
end

