-- ==== Sys2Proof/Machine/Commands.lean ====
section
/-! DEFINITION. Sys2Proof/Machine/Commands.lean: the commands that are register accesses by name, the I3C target (R374) and
the JTAG port (R365). A write's partition is `p`; the value's defining field is set by the command. -/
namespace Sys2Proof.Machine

/-- A write of a 4-byte register of a block, as a command. -/
def cmdWr (s : State) (b : Blk) (p o v : Nat) : Out := .next (cmdWrite s p (b.base + o) 4 (v % 2 ^ 32))
/-- A write of an 8-byte register of a block, as a command. -/
def cmdWr8 (s : State) (b : Blk) (p o v : Nat) : Out := .next (cmdWrite s p (b.base + o) 8 (v % 2 ^ 64))
/-- BLK_CTRL of the page that holds an offset. -/
def ctrlOf (off : Nat) : Nat := off / 0x1000 * 0x1000 + 0x10

/-- REGISTER_WRITE (R7). -/
def execRegisterWrite (p : Nat) (off size : Nat) (val : Word64) (s : State) : Out := .next (cmdWrite s p off size val.toNat)
/-- SOFT_RESET (R34): a BLK_CTRL write with SOFT_RESET set. -/
def execSoftReset (p off : Nat) (val : Word32) (s : State) : Out :=
  .next (cmdWrite s p (ctrlOf off) 4 (putBits val.toNat 1 1 1))
/-- ENABLE (R387): a BLK_CTRL write with ENABLE set. -/
def execEnable (p off : Nat) (val : Word32) (s : State) : Out :=
  .next (cmdWrite s p (ctrlOf off) 4 (putBits (putBits val.toNat 1 1 0) 0 1 1))
/-- DRAIN (R59): a BLK_CTRL write of DRAIN, 1 or 0. -/
def execDrain (p off : Nat) (val : Word32) (s : State) : Out :=
  .next (cmdWrite s p (ctrlOf off) 4 (putBits val.toNat 1 1 0))
/-- LOCK (R33): a BLK_CTRL write with LOCK set. -/
def execLock (p off : Nat) (val : Word32) (s : State) : Out :=
  .next (cmdWrite s p (ctrlOf off) 4 (putBits (putBits val.toNat 1 1 0) 31 1 1))

/-- SEG_DATA (R24). -/
def execSegData (p : Nat) (val : Word32) (s : State) : Out := cmdWr s .svc p 0x3A04 val.toNat
/-- TILE_OWNER (R24). -/
def execTileOwner (p : Nat) (t : Fin 160) (val : Word32) (s : State) : Out := cmdWr s .svc p (0x3A40 + 4 * t.val) val.toNat
/-- ENG_OWNER (R24). -/
def execEngOwner (p : Nat) (i : Fin 44) (val : Word32) (s : State) : Out := cmdWr s .svc p (0x3D00 + 4 * i.val) val.toNat
/-- SEQ_GO (R58). -/
def execSeqGo (p : Nat) (t : Fin 160) (val : Word32) (s : State) : Out := cmdWr s (.til t) p 0x40 val.toNat
/-- THR_START (R58). -/
def execThrStart (p : Nat) (t : Fin 160) (val : Word32) (s : State) : Out := cmdWr s (.til t) p 0x44 val.toNat
/-- BPM_ALLOC_READ (R139). -/
def execBpmAllocRead (p : Nat) (d : Fin 2) (k : Fin 4) (s : State) : Out :=
  .next (cmdRead s p ((bpm d).base + 0x100 + 4 * k.val) 4)
/-- ALLOC_SZ (R139). -/
def execAllocSz (p : Nat) (d : Fin 2) (k : Fin 65) (s : State) : Out :=
  .next (cmdRead s p ((bpm d).base + 0x200 + 4 * k.val) 4)
/-- BPM_FREE_WRITE (R140). -/
def execBpmFreeWrite (p : Nat) (d : Fin 2) (val : Word32) (s : State) : Out := cmdWr s (bpm d) p 0xA0 val.toNat
/-- POOL_CONFIG_WRITE (R138): a write of POOL_BASE or POOL_COUNT, at `off` in the page. -/
def execPoolConfigWrite (p : Nat) (d : Fin 2) (off size : Nat) (val : Word64) (s : State) : Out :=
  .next (if 0x40 ≤ off ∧ off < 0x70 then cmdWrite s p ((bpm d).base + off) size val.toNat else s)
/-- XSEQ_WRITE (R164). -/
def execXseqWrite (p : Nat) (d : Fin 2) (j : Fin 2) (val : Word32) (s : State) : Out := cmdWr s (.eng d ⟨10 + j.val, by omega⟩) p 0x4C val.toNat
/-- PART_ENTRY_VALID_SET (R219). -/
def execPartEntryValidSet (p : Nat) (k : Fin 16) (val : Word64) (s : State) : Out := cmdWr8 s .fab p (0x8100 + 16 * k.val) (putBits val.toNat 12 1 1)
/-- PARTITION_TEARDOWN (R214): VALID is cleared. -/
def execPartitionTeardown (p : Nat) (k : Fin 16) (val : Word64) (s : State) : Out := cmdWr8 s .fab p (0x8100 + 16 * k.val) (putBits val.toNat 12 1 0)
/-- MIG_DRAIN (R218). -/
def execMigDrain (p : Nat) (val : Word32) (s : State) : Out := cmdWr s .fab p 0x8098 (putBits val.toNat 12 4 1)
/-- MIG_HANDOVER (R218). -/
def execMigHandover (p : Nat) (val : Word32) (s : State) : Out := cmdWr s .fab p 0x8098 (putBits val.toNat 12 4 2)
/-- MIG_FREE (R218). -/
def execMigFree (p : Nat) (val : Word32) (s : State) : Out := cmdWr s .fab p 0x8098 (putBits val.toNat 12 4 3)
/-- REPLAY_WINDOW_WRITE (R220). -/
def execReplayWindowWrite (p : Nat) (val : Word32) (s : State) : Out := cmdWr s .fab p 0x8040 val.toNat
/-- LNK_RETRAIN (R244). -/
def execLnkRetrain (q : Nat) (p : Fin 32) (val : Word32) (s : State) : Out := cmdWr s (.lnk p) q 0x50 (putBits val.toNat 0 2 1)
/-- LNK_SPARE (R229). -/
def execLnkSpare (q : Nat) (p : Fin 32) (val : Word32) (s : State) : Out := cmdWr s (.lnk p) q 0x50 (putBits val.toNat 0 2 2)
/-- LNK_RETRY (R229). -/
def execLnkRetry (q : Nat) (p : Fin 32) (val : Word32) (s : State) : Out := cmdWr s (.lnk p) q 0x50 (putBits val.toNat 0 2 3)
/-- LNK_CFG_WRITE (R244). -/
def execLnkCfgWrite (q : Nat) (p : Fin 32) (val : Word32) (s : State) : Out := cmdWr s (.lnk p) q 0x40 val.toNat
/-- CREDIT_WRITE (R244). -/
def execCreditWrite (q : Nat) (p : Fin 32) (val : Word32) (s : State) : Out := cmdWr s (.lnk p) q 0x64 val.toNat
/-- RT_DATA_WRITE (R243). -/
def execRtDataWrite (p : Nat) (val : Word32) (s : State) : Out := cmdWr s .fab p 0x1044 val.toNat
/-- PSET_DATA_WRITE (R243). -/
def execPsetDataWrite (p : Nat) (val : Word64) (s : State) : Out := cmdWr8 s .fab p 0x1050 val.toNat
/-- WEIGHTS_WRITE (R233). -/
def execWeightsWrite (p : Nat) (port : Fin 34) (val : Word64) (s : State) : Out := cmdWr8 s .fab p (0x100 + 8 * port.val) val.toNat
/-- TGC_MODE_OFF (R297). -/
def execTgcModeOff (p : Nat) (c : Fin 256) (val : Word32) (s : State) : Out := cmdWr s (.tgc c) p 0x40 (putBits val.toNat 0 2 0)
/-- TGC_MODE_BRINGUP (R297). -/
def execTgcModeBringup (p : Nat) (c : Fin 256) (val : Word32) (s : State) : Out := cmdWr s (.tgc c) p 0x40 (putBits val.toNat 0 2 1)
/-- TGC_MODE_IDLE_FILL (R297). -/
def execTgcModeIdleFill (p : Nat) (c : Fin 256) (val : Word32) (s : State) : Out := cmdWr s (.tgc c) p 0x40 (putBits val.toNat 0 2 2)
/-- TGC_MODE_PATROL (R297). -/
def execTgcModePatrol (p : Nat) (c : Fin 256) (val : Word32) (s : State) : Out := cmdWr s (.tgc c) p 0x40 (putBits val.toNat 0 2 3)
/-- HBM_CMD_LANE_REPAIR (R302). -/
def execHbmCmdLaneRepair (p : Nat) (i : Fin 32) (val : Word32) (s : State) : Out := cmdWr s (.hbm i) p 0x58 (putBits val.toNat 4 4 1)
/-- HBM_CMD_REMAP_ROW (R302). -/
def execHbmCmdRemapRow (p : Nat) (i : Fin 32) (val : Word32) (s : State) : Out := cmdWr s (.hbm i) p 0x58 (putBits val.toNat 4 4 2)
/-- HBM_CMD_MARK_ERASURE (R302). -/
def execHbmCmdMarkErasure (p : Nat) (i : Fin 32) (val : Word32) (s : State) : Out := cmdWr s (.hbm i) p 0x58 (putBits val.toNat 4 4 3)
/-- HBM_CMD_RETRAIN (R302). -/
def execHbmCmdRetrain (p : Nat) (i : Fin 32) (val : Word32) (s : State) : Out := cmdWr s (.hbm i) p 0x58 (putBits val.toNat 4 4 4)
/-- DTARGET_WRITE (R314). -/
def execDtargetWrite (p : Nat) (n : Fin 20) (val : Word32) (s : State) : Out := cmdWr s .ktl p (0x180 + 4 * n.val) val.toNat
/-- MARK (R321). -/
def execMark (p : Nat) (k : Fin 16) (val : Word32) (s : State) : Out := cmdWr s .ktl p (0x2180 + 4 * k.val) val.toNat
/-- RESET_CMD (R326). -/
def execResetCmd (p : Nat) (val : Word32) (s : State) : Out := cmdWr s .svc p 0x48 val.toNat
/-- BOOT_FABRIC_JOIN (R327): SELF_ID is written with VALID. -/
def execBootFabricJoin (p : Nat) (val : Word32) (s : State) : Out := cmdWr s .fab p 0x40 (putBits val.toNat 31 1 1)
/-- STAGE_GO (R334). -/
def execStageGo (p : Nat) (val : Word32) (s : State) : Out := cmdWr s .svc p 0xA4 val.toNat
/-- BOOT_SLOT_WRITE (R334). -/
def execBootSlotWrite (p : Nat) (val : Word32) (s : State) : Out := cmdWr s .svc p 0x90 val.toNat

/-- The command block that SEC.CMD_ADDR names carries OP `n`, or cannot be read and is rejected whatever it carries. -/
def cmdOpIs (s : State) (n : Nat) : Bool :=
  match (readCmd s).1 with
  | some c => leNat ((c.drop 4).take 1) = n
  | none => true

/-- CMD_GO for a signed command with OP `n` (R335); another OP is another command's. -/
def signedCmd (s : State) (p n v : Nat) : Out := .next (if cmdOpIs s n then cmdWrite s p ((Blk.sec).base + 0x58) 4 v else s)

/-- OPEN_SESSION (R337). -/
def execOpenSession (p : Nat) (val : Word32) (s : State) : Out := signedCmd s p 1 val.toNat
/-- INSTALL_OWNER (R336). -/
def execInstallOwner (p : Nat) (val : Word32) (s : State) : Out := signedCmd s p 3 val.toNat
/-- TRANSFER_OWNER (R336). -/
def execTransferOwner (p : Nat) (val : Word32) (s : State) : Out := signedCmd s p 4 val.toNat
/-- INSTALL_OPERATOR (R336). -/
def execInstallOperator (p : Nat) (val : Word32) (s : State) : Out := signedCmd s p 5 val.toNat
/-- END_LEASE (R336). -/
def execEndLease (p : Nat) (val : Word32) (s : State) : Out := signedCmd s p 6 val.toNat
/-- RECLAIM (R336). -/
def execReclaim (p : Nat) (val : Word32) (s : State) : Out := signedCmd s p 7 val.toNat
/-- SESSION_CLOSE (R337). -/
def execSessionClose (p : Nat) (val : Word32) (s : State) : Out := cmdWr s .sec p 0x44 val.toNat
/-- QUOTE_GO (R339). -/
def execQuoteGo (p : Nat) (val : Word32) (s : State) : Out := cmdWr s .sec p 0x188 val.toNat
/-- SPR_REPLACE (R356). -/
def execSprReplace (p : Nat) (val : Word32) (s : State) : Out := cmdWr s .spr p 0x78 (putBits val.toNat 0 4 1)
/-- LANE_CLEAR (R357). -/
def execLaneClear (p : Nat) (val : Word32) (s : State) : Out := cmdWr s .spr p 0x78 (putBits val.toNat 0 4 2)

/-- REGRADE (R357): `tests` and `failed` are the results of the tests it runs. -/
def execRegrade (p : Nat) (val : Word32) (tests : Nat) (failed : List (Nat × FailedUnit)) (s : State) : Out :=
  .next (
    if serving s then
      let c := regCheck s p ((Blk.spr).base + 0x78) 4 true
      if c.1 = stOk then answered (sprCmd c.2 (putBits val.toNat 0 4 3) tests failed) stOk [] else answered c.2 c.1 []
    else s)

/-- SNAP (R359): a write of the SNAP register of the counter pages that hold `off`. -/
def execSnap (p : Nat) (off : Nat) (val : Word32) (s : State) : Out :=
  .next (
    match blkAt off with
    | some (.cntT t, _) => cmdWrite s p ((Blk.cntT t).base + 0x7FC) 4 val.toNat
    | some (.cntD, _) => cmdWrite s p ((Blk.cntD).base + 0x7FC) 4 val.toNat
    | _ => s)

/-- HALT_REQ (R363). -/
def execHaltReq (p : Nat) (t : Fin 160) (val : Word32) (s : State) : Out := cmdWr s (.dbgT t) p 0x70 (putBits (putBits val.toNat 1 2 0) 0 1 1)
/-- RESUME (R363). -/
def execResume (p : Nat) (t : Fin 160) (val : Word32) (s : State) : Out := cmdWr s (.dbgT t) p 0x70 (putBits (putBits val.toNat 0 3 0) 1 1 1)
/-- DBG_STEP (R363). -/
def execDbgStep (p : Nat) (t : Fin 160) (val : Word32) (s : State) : Out := cmdWr s (.dbgT t) p 0x70 (putBits (putBits val.toNat 0 3 0) 2 1 1)
/-- PART_HALT (R364). -/
def execPartHalt (p : Nat) (val : Word32) (s : State) : Out := cmdWr s .dbgD p 0x40 (putBits (putBits val.toNat 17 1 0) 16 1 1)
/-- PART_RESUME (R364): the RESUME bit of PART_HALT. -/
def execPartResume (p : Nat) (val : Word32) (s : State) : Out := cmdWr s .dbgD p 0x40 (putBits (putBits val.toNat 16 1 0) 17 1 1)
/-- REG_DATA_ACCESS (R363). -/
def execRegDataAccess (p : Nat) (t : Fin 160) (write : Bool) (val : Word64) (s : State) : Out :=
  .next (if write then cmdWrite s p ((Blk.dbgT t).base + 0x88) 8 val.toNat else cmdRead s p ((Blk.dbgT t).base + 0x88) 8)
/-- TAG_DATA_WRITE (R363). -/
def execTagDataWrite (p : Nat) (t : Fin 160) (val : Word32) (s : State) : Out := cmdWr s (.dbgT t) p 0x94 val.toNat

/-! ### Accesses to any local offset by the management partition (R365, R374) -/

/-- An access of `n` bytes at a local offset under checks 2 and 3 of R213, for the management partition: status, data. -/
def localAccess (s : State) (o n : Nat) (wr : Option Nat) : Nat × List Byte × State :=
  let r : Request :=
    { op := if wr.isSome then 0x10 else 0, addr := o % 2 ^ 41, size := n, src := selfId s, ctx := 0x7B0, part := 0, vc := 0,
      isolated := true, seq := 0, data := leBytes n (wr.getD 0) }
  let c := checkPlace s r
  let zeros := if wr.isSome then [] else List.replicate n (0 : Byte)
  if c.1 ≠ stOk then (c.1, zeros, c.2)
  else
    let f := checkForm c.2 r
    if f.1 ≠ stOk then (f.1, zeros, f.2)
    else let x := performRequest f.2 r; (x.1.status, x.1.data, x.2)

/-- I3C_READ32 (R374): 4 bytes and a status. In BOOT_FAIL only SVC page 0 is served; in RECOVERY, and while the device
is held in reset, nothing but the always-on registers of SVC page 0 is. -/
def execI3cRead32 (r : I3cAccess) (s : State) : Out :=
  .next (
    let off := r.off
    let aon : Bool := regBase + 0xC0 ≤ off && off ≤ regBase + 0xCC || off = regBase + 0x44
    let page0 : Bool := regBase ≤ off && off < regBase + 0x1000
    if !i3cAnswers s r.addr then s
    else
      let s := i3cMode s r.addr
      if serving s ∨ (s.held ∧ aon) ∨ (!s.held ∧ bits (svc.rd s 0x40) 0 4 = 12 ∧ page0) then
        let x := localAccess s off 4 none
        answered x.2.2 x.1 x.2.1
      else answered s stNotApplied (List.replicate 4 0))

/-- I3C_WRITE32 (R374); BOARD_SERIAL may be written while RESET_N is low. -/
def execI3cWrite32 (r : I3cAccess) (val : Word32) (s : State) : Out :=
  .next (
    if !i3cAnswers s r.addr then s
    else
      let s := i3cMode s r.addr
      if serving s then
        let x := localAccess s r.off 4 (some val.toNat)
        answered x.2.2 x.1 []
      else if s.held ∧ s.resetLow ∧ r.off = regBase + 0xC0 then answered (svc.wr s 0xC0 val.toNat) stOk []
      else answered s stNotApplied [])

/-! ### The JTAG port (R365, Table 17.4) -/

/-- Bits shifted through the bypass register: it gives back 0, then all but the last of them. -/
def jtagShift (s : State) (code : Nat) (l : List Bool) : State :=
  { s with jtag := { s.jtag with ir := code, bypass := l.getLastD s.jtag.bypass,
                                 out := (l.dropLast.zipIdx).foldl (fun v e => v + b2n e.1 * 2 ^ (e.2 + 1)) 0 } }

/-- JTAG_EXTEST (R365): while RESET_N is low the shifted bits drive the boundary; otherwise it acts as BYPASS. What the
pins show is a free value. -/
def execJtagExtest (bits : List Bool) (s : State) : Out :=
  .next (
    if s.resetLow then
      let f := fresh s
      { f.2 with jtag := { s.jtag with ir := 0, scan := bits, driven := bits, out := f.1 % 2 ^ bits.length } }
    else jtagShift s 0 bits)

/-- JTAG_SAMPLE_PRELOAD (R365): the boundary is sampled, a free value, and the shifted bits are preloaded. -/
def execJtagSamplePreload (bits : List Bool) (s : State) : Out :=
  .next (
    let f := fresh s
    { f.2 with jtag := { s.jtag with ir := 1, scan := bits, out := f.1 % 2 ^ bits.length } })

/-- JTAG_IDCODE (R365). -/
def execJtagIdcode (s : State) : Out := .next { s with jtag := { s.jtag with ir := 2, out := 0x10D1A8F3 } }

/-- The 128-bit data register of DBGACC after an access (Table 17.4): its offset, write and 8 bytes bits, the status, the data. -/
def dbgaccReg (write : Bool) (off n status data : Nat) : Nat :=
  off % 2 ^ 41 + 2 ^ 41 * b2n write + 2 ^ 42 * b2n (decide (n = 8)) + 2 ^ 44 * (status % 16) + 2 ^ 64 * (data % 2 ^ 64)

/-- JTAG_DBGACC (R365): a management-partition access; without a session only reads of what is ALL are granted. What shifts out is the
data register as the previous access left it. -/
def execJtagDbgacc (write : Bool) (off size : Nat) (val : Word64) (s : State) : Out :=
  .next (
    let n := if size = 8 then 8 else 4
    let isAll : Bool := match placeOf (off % 2 ^ 41) with
      | .reg o => (match blkAt o with | some (b, pg) => b.privNow s pg = .all | none => true)
      | .log _ => true
      | .unmapped => true
      | _ => false
    let x : Nat × List Byte × State :=
      if !serving s then (stNotApplied, [], s)
      else if session s = 0 ∧ (write ∨ !isAll) then
        (stAccessDenied, List.replicate n 0, secError s 1 0 (off % 2 ^ 41))
      else localAccess s off n (if write then some val.toNat else none)
    let s := answered x.2.2 x.1 x.2.1
    { s with jtag := { s.jtag with ir := 8, out := s.jtag.dr,
                                   dr := dbgaccReg write off n x.1 (if write then val.toNat else leNat x.2.1) } })

/-- JTAG_BYPASS (R365): BYPASS, and every code that no other instruction has. -/
def execJtagBypass (code : Nat) (bit : Bool) (s : State) : Out :=
  .next (if [0, 1, 2, 8].contains (code % 32) then s else jtagShift s (code % 32) [bit])

end Sys2Proof.Machine
end

