-- ==== Sys2Proof/Machine/Func.lean ====
section
/-! DEFINITION. Sys2Proof/Machine/Func.lean: the Pointwise Engine's functions (R135). Each is taken to some 180 bits in binary
fixed point; the result is one of the FP32 values within the function's bound of it. -/
namespace Sys2Proof.Machine

/-- Fraction bits of the fixed-point values here. -/
def fxBits : Nat := 640

/-- 1 in fixed point. -/
def fxOne : Int := 2 ^ fxBits

/-- Product and quotient in fixed point. -/
def fxMul (a b : Int) : Int := a * b / fxOne
def fxDiv (a b : Int) : Int := if b = 0 then 0 else a * fxOne / b

/-- A finite value in fixed point. -/
def fxOf (x : NumVal) : Int :=
  match x with
  | .fin n m e =>
    let k : Int := e + fxBits
    sgn n (if 0 ≤ k then m * 2 ^ k.toNat else m / 2 ^ (-k).toNat)
  | _ => 0

/-- A fixed-point value as a number. -/
def fxNum (v : Int) : NumVal := .fin (v < 0) v.natAbs (-(fxBits : Int))

/-- ln 2 = Σ 1 ÷ (k 2^k). -/
def fxLn2 : Int := (List.range 660).foldl (fun a k => a + fxOne / ((k + 1 : Nat) * 2 ^ (k + 1))) 0

/-- Terms x^k ÷ k! from the k-th, which is `t`. -/
def fxExpTerms (x : Int) : Nat → Nat → Int → Int
  | 0, _, t => t
  | n + 1, k, t => t + fxExpTerms x n (k + 1) (fxMul t x / (k + 1 : Nat))

/-- exp of a fixed-point value, as a number; beyond ±1,000 a value that stands for overflow or for a tiny one. -/
def fxExp (x : Int) : NumVal :=
  if 1000 * fxOne < x then .fin false 1 1500
  else if x < -1000 * fxOne then .fin false 1 (-1500)
  else
    let n := x / fxLn2
    (fxNum (fxExpTerms (x - n * fxLn2) 100 0 fxOne)).scale n

/-- atanh's series Σ z^(2k+1) ÷ (2k + 1) from the term whose power is `p`. -/
def fxAtanhTerms (z2 : Int) : Nat → Nat → Int → Int
  | 0, _, _ => 0
  | n + 1, k, p => p / (2 * k + 1 : Nat) + fxAtanhTerms z2 n (k + 1) (fxMul p z2)

/-- ln of a positive number. -/
def numLog (x : NumVal) : NumVal :=
  match x with
  | .fin _ m e =>
    let l := Nat.log2 m
    let f := fxOf (.fin false m (-(l : Int)))
    let up : Bool := 3 * fxOne < 2 * f
    let f := if up then f / 2 else f
    let k : Int := e + l + (if up then 1 else 0)
    let z := fxDiv (f - fxOne) (f + fxOne)
    fxNum (k * fxLn2 + 2 * fxAtanhTerms (fxMul z z) 200 0 z)
  | _ => .zero

/-- arctan(1 ÷ n) by its series. -/
def fxAtanInv (n : Nat) : Nat → Nat → Int → Int
  | 0, _, _ => 0
  | k + 1, j, p => (if j % 2 = 0 then p else -p) / (2 * j + 1 : Nat) + fxAtanInv n k (j + 1) (p / (n * n : Nat))

/-- π by Machin's formula, and √(2π). -/
def fxPi : Int := 4 * (4 * fxAtanInv 5 150 0 (fxOne / 5) - fxAtanInv 239 60 0 (fxOne / 239))
def fxSqrt2Pi : Int := fxOf (fxNum (2 * fxPi)).sqrt

/-- Σ (−1)^k x^(2k+1) ÷ (2^k k! (2k + 1)), the k-th power term being `p`. -/
def fxPhiTerms (x2 : Int) : Nat → Nat → Int → Int
  | 0, _, _ => 0
  | n + 1, k, p => p / (2 * k + 1 : Nat) + fxPhiTerms x2 n (k + 1) (-(fxMul p x2) / (2 * (k + 1) : Nat))

/-- Φ of a finite value. -/
def numPhi (x : NumVal) : NumVal :=
  let v := fxOf x
  if 16 * fxOne < v then .one
  else if v < -16 * fxOne then .fin false 1 (-1500)
  else fxNum (fxOne / 2 + fxDiv (fxPhiTerms (fxMul v v) 700 0 v) fxSqrt2Pi)

/-- 1 ÷ (1 + exp(−x)). -/
def numSigmoid (x : NumVal) : NumVal :=
  let e := fxExp (fxOf x.abs.negate)
  let d := NumVal.one.add e
  if x.isNeg then e.div d else NumVal.one.div d

/-- tanh, by x − x³ ÷ 3 for small x. -/
def numTanh (x : NumVal) : NumVal :=
  if x.isZero then x
  else if x.abs.lt (.fin false 1 (-40)) then x.sub ((x.mul (x.mul x)).div (.fin false 3 0))
  else
    let e := fxExp (fxOf (x.abs.scale 1).negate)
    let r := (NumVal.one.sub e).div (NumVal.one.add e)
    if x.isNeg then r.negate else r

/-- What a function gives for a finite input: outside its domain, not stated, or its value. -/
inductive FuncRes where
  | domain | open_
  | val (x : NumVal)
  deriving DecidableEq, Repr

/-- FUNC's value (R135). -/
def funcValue (f : Nat) (x : NumVal) : FuncRes :=
  match f with
  | 0 => .val (fxExp (fxOf x))
  | 1 =>
    let v := fxOf x
    if 2000 * fxOne < v then .val (.fin false 1 1500) else if v < -2000 * fxOne then .val (.fin false 1 (-1500))
    else
      let n := v / fxOne
      .val ((fxExp (fxMul (v - n * fxOne) fxLn2)).scale n)
  | 2 => if x.isZero || x.isNeg then .domain else .val (numLog x)
  | 3 => if x.isZero then .domain else .val (NumVal.one.div x)
  | 4 => if x.isZero || x.isNeg then .domain else .val (NumVal.one.div x.sqrt)
  | 5 => .val (numSigmoid x)
  | 6 => .val (numTanh x)
  | 7 => .val (x.mul (numPhi x))
  | 8 => .val (x.mul (numSigmoid x))
  | _ => .open_

/-- The bound in units of the last place (R135). -/
def funcUlps (f : Nat) : Nat := if f = 3 ∨ f = 4 then 1 else if f = 7 then 4 else 2

/-- The value of an FP32 code, infinities standing for ±2^128. -/
def f32Value (c : Nat) : NumVal := if c % 2 ^ 31 = fp32.infCode then .fin (2 ^ 31 ≤ c) 1 128 else fp32.decode c

/-- FP32 codes within `k` units of the last place of a value, in ascending order. -/
def f32Near (k : Nat) (v : NumVal) : List Nat :=
  let c0 := (fp32.encode false 1 0 v).v
  let o0 : Int := if 2 ^ 31 ≤ c0 then -((c0 - 2 ^ 31 : Nat) : Int) else c0
  let u : Int := if v.isZero then -149 else max (v.log2 - 23) (-149)
  let codes (o : Int) : List Nat := if o < 0 then [2 ^ 31 + o.natAbs] else if o = 0 then [2 ^ 31, 0] else [o.toNat]
  ((List.range (4 * k + 1)).flatMap (fun (i : Nat) => codes (o0 + (i : Int) - 2 * (k : Int)))).filter (fun c =>
    c % 2 ^ 31 ≤ fp32.infCode && ((f32Value c).sub v).abs.le (.fin false k u))

/-- FUNC of an FP32 code: the result's FP32 code, and whether the input lies outside the domain. -/
def funcCode (f c : Nat) : Nat × Bool :=
  match ofF32 c with
  | .nan n p => (toF32 (NumVal.nan n p).quiet, false)
  | .inf n => if n ∧ (f = 2 ∨ f = 4) then (toF32 .qnan, true) else (Config.funcPole f c % 2 ^ 32, false)
  | x =>
    match funcValue f x with
    | .domain => (toF32 .qnan, true)
    | .open_ => (Config.funcPole f c % 2 ^ 32, false)
    | .val v =>
      if fp32.infCode ≤ (fp32.encode false 0 0 v.abs).v ∧ (v.abs).lt (.fin false 1 129) = false then (toF32 v, false)
      else
        let l := f32Near (funcUlps f) v
        (l.getD (Config.funcPick f c % l.length) (toF32 v), false)

end Sys2Proof.Machine
end

