-- ==== Sys2Proof/Machine/Pointwise.lean ====
section
/-! DEFINITION. Sys2Proof/Machine/Pointwise.lean: the Pointwise Engine's operations (R134–R137). One command runs one
iteration of the step in force of SEQ[t][2]. -/
namespace Sys2Proof.Machine

def ptwQ (t : Fin 160) : SeqId := .tile t 2

/-- FUNC, BCAST, TOKSCALE and RND of MODE. -/
def ptwFunc (st : Step) : Nat := bits st.mode 0 4
def ptwBcast (st : Step) : Bool := bit st.mode 4
def ptwTokscale (st : Step) : Bool := bit st.mode 5
def ptwRnd (st : Step) : Nat := bits st.mode 6 2

/-- OPERAND_PLACE of the Pointwise Engine (R72, R134). -/
def ptwPlace (s : State) (t : Fin 160) (a : Nat) : State :=
  noteStatus ((Blk.ptw t).raise s 0x0103 (seqPart s (ptwQ t)) (offOf a % 2 ^ 32)) (ptwQ t) tkMemory

/-- An input as FP32: exactly where FP32 holds it, to nearest even otherwise. -/
def ptwIn (c v : Nat) : NumVal :=
  match fpOf c with
  | some f => f.decode v
  | none => r32 (elemDecode c v)

/-- Elements of `n` bytes. -/
def ptwCount (c n : Nat) : Nat := if cellBits c = 0 then 0 else n * 8 / cellBits c

/-- Free draws for stochastic rounding: the spec names no key record for this engine. -/
def freeDraws (s : State) : Nat → List Nat × State
  | 0 => ([], s)
  | n + 1 =>
    let f := fresh s
    let r := freeDraws f.2 n
    (f.1 % 2 ^ 24 :: r.1, r.2)

/-- Round results into D's format (R100–R102), count, and write them. -/
def ptwOut (t : Fin 160) (s : State) (st : Step) (l : List NumVal) : State :=
  let b := Blk.ptw t
  let c := st.d.format
  let rnd := ptwRnd st
  let dr := if rnd = 2 then freeDraws s l.length else (List.replicate l.length 0, s)
  let es := List.zipWith (fun x r => elemEncode c rnd r x) l dr.1
  let s := b.sat dr.2 0x4C (es.filter (fun e => e.saturated c)).length
  let s := b.sat s 0x40 (es.filter (·.special)).length
  writeD s (ptwQ t) st.d 0 (packElems (elemBits c) (es.map (·.v)))

/-- The reads of an iteration, each in the tile's own slot, then its work; `n` elements are processed. An operand outside the
slot ends the iteration with no access; after a read that fails it writes nothing (Table 6.8). -/
def ptwRead (t : Fin 160) (s : State) (st : Step) (outLen n : Nat) (spans : List Span)
    (k : List (List Byte) → State → State) : IterResult :=
  let q := ptwQ t
  let aD := opAddr s q st.d
  match (spans.map (fun p => (p.addr, p.len)) ++ [(aD, outLen)]).find? (fun p => !inSlot s t.val p.1 p.2) with
  | some p => .ran (ptwPlace s t p.1) aD
  | none =>
    let f := fetchSpans s q spans
    if !f.1 then .hold f.2
    else
      let r := readSpans f.2 q spans
      .ran (if r.2.1 then k r.1 ((Blk.ptw t).add r.2.2 0x50 n) else r.2.2) aD

/-- The span of an operand's `len` bytes. -/
def ptwSpan (s : State) (t : Fin 160) (operand : Nat) (o : Operand) (len : Nat) : Span :=
  { operand := operand, addr := opAddr s (ptwQ t) o, len := len, fmt := o.format, ep := opEpoch s (ptwQ t) o }

/-- Elements of a read span as FP32 values. -/
def ptwVals (c n : Nat) (bs : List Byte) : List NumVal := (unpackElems (elemBits c) n bs).map (ptwIn c)

/-- Busy cycles: one per element group. -/
def ptwBusy (t : Fin 160) (s : State) (n times : Nat) : State := (Blk.cntT t).add s 0x50 (times * ((n + 127) / 128))

/-- An element-wise operation of two or three operands (Table 6.4). Formats with no defined conversion give free values. -/
def ptwElems (t : Fin 160) (useB useD : Bool) (f : NumVal → NumVal → NumVal → NumVal) (s : State) (st : Step) : IterResult :=
  let n := ptwCount st.d.format st.d.length
  let nb := if ptwBcast st then min n 1 else n
  let ok := convertible st.a.format && convertible st.d.format && (!useB || convertible st.b.format)
  let len := cellBytes st.d.format n
  let spans := [ptwSpan s t 0 st.a (cellBytes st.a.format n)] ++
    (if useB then [ptwSpan s t 1 st.b (cellBytes st.b.format nb)] else []) ++ (if useD then [ptwSpan s t 2 st.d len] else [])
  ptwRead t s st len n spans (fun l s =>
    let s := ptwBusy t s n 1
    if !ok then let y := freeBytes s len; writeD y.2 (ptwQ t) st.d 0 y.1
    else
      let a := ptwVals st.a.format n (l.getD 0 [])
      let b := if useB then ptwVals st.b.format nb (l.getD 1 []) else []
      let d := if useD then ptwVals st.d.format n (l.getD 2 []) else []
      ptwOut t s st ((List.range n).map (fun i =>
        f (a.getD i .zero) (b.getD (if ptwBcast st then 0 else i) .zero) (d.getD i .zero))))

/-- FUNC (R135): inputs outside the domain are counted. -/
def ptwFuncIter (t : Fin 160) (s : State) (st : Step) : IterResult :=
  let n := ptwCount st.d.format st.d.length
  let len := cellBytes st.d.format n
  ptwRead t s st len n [ptwSpan s t 0 st.a (cellBytes st.a.format n)] (fun l s =>
    let s := ptwBusy t s n 1
    if !(convertible st.a.format && convertible st.d.format) then let y := freeBytes s len; writeD y.2 (ptwQ t) st.d 0 y.1
    else
      let rs := (ptwVals st.a.format n (l.getD 0 [])).map (fun x => funcCode (ptwFunc st) (toF32 x))
      let s := (Blk.ptw t).sat s 0x48 (rs.filter (·.2)).length
      ptwOut t s st (rs.map (fun r => ofF32 r.1)))

/-! ### Row operations (R136, R137) -/

/-- FP32 addition. -/
def add32 (a b : NumVal) : NumVal := r32 (a.add b)
/-- FP32 subtraction, multiplication, division, square root, each rounded to nearest-even. -/
def sub32 (a b : NumVal) : NumVal := r32 (a.sub b)
def mul32 (a b : NumVal) : NumVal := r32 (a.mul b)
def div32 (a b : NumVal) : NumVal := r32 (a.div b)
def sqrt32 (a : NumVal) : NumVal := r32 a.sqrt

/-- Halve the lanes: lane l adds lane l + k for l below k, for k = 64, 32, … 1 (R136). -/
def foldLanes : Nat → List NumVal → List NumVal
  | 0, l => l
  | n + 1, l =>
    let k := 2 ^ n
    foldLanes n (List.zipWith add32 (l.take k) ((l.drop k).take k))

/-- The fixed order of R136: lane l takes elements l, l + 128, … with `f`, then the lanes are added. -/
def laneSum (f : NumVal → NumVal → NumVal) (l : List NumVal) : NumVal :=
  let lanes := (List.range 128).map (fun i =>
    ((l.zipIdx.filter (fun e => e.2 % 128 = i)).map (·.1)).foldl f NumVal.zero)
  (foldLanes 7 lanes).headD .zero

/-- Σ A and Σ A². -/
def rowSum (l : List NumVal) : NumVal := laneSum add32 l
def rowSumSq (l : List NumVal) : NumVal := laneSum (fun acc x => r32 (x.fma x acc)) l

/-- MAX over a row (R107). -/
def rowMax : List NumVal → NumVal
  | [] => .inf true
  | x :: xs => xs.foldl NumVal.maxn x

/-- A row operation that delivers one element. -/
def ptwRow (t : Fin 160) (f : List NumVal → NumVal) (s : State) (st : Step) : IterResult :=
  let n := ptwCount st.a.format st.a.length
  let len := cellBytes st.d.format 1
  if n = 0 then .ran s (opAddr s (ptwQ t) st.d)
  else
    ptwRead t s st len n [ptwSpan s t 0 st.a (cellBytes st.a.format n)] (fun l s =>
      let s := ptwBusy t s n 1
      if !(convertible st.a.format && convertible st.d.format) then let y := freeBytes s len; writeD y.2 (ptwQ t) st.d 0 y.1
      else ptwOut t s st [f (ptwVals st.a.format n (l.getD 0 []))])

/-- exp as FUNC gives it. -/
def exp32 (x : NumVal) : NumVal := ofF32 (funcCode 0 (toF32 x)).1

/-- The probabilities of a row (R137): NaN rows, wholly masked rows, masked elements. -/
def softmaxRow (l : List NumVal) : List NumVal :=
  if l.any NumVal.isNan then l.map (fun _ => .qnan)
  else
    let m := rowMax l
    if m = .inf true then l.map (fun _ => .zero)
    else
      let es := l.map (fun x => if x = .inf true then NumVal.zero else exp32 (r32 (x.sub m)))
      let sum := rowSum es
      List.zipWith (fun x e => if x = .inf true then NumVal.zero else e.div sum) l es

/-- SOFTMAX (R137): with TOKSCALE, B's byte of each element scales its probability. -/
def ptwSoftmaxIter (t : Fin 160) (s : State) (st : Step) : IterResult :=
  let b := Blk.ptw t
  let n := ptwCount st.a.format st.a.length
  let len := cellBytes st.d.format n
  let tok := ptwTokscale st
  if n = 0 then .ran s (opAddr s (ptwQ t) st.d)
  else
    ptwRead t s st len n ([ptwSpan s t 0 st.a (cellBytes st.a.format n)] ++
        (if tok then [{ ptwSpan s t 1 st.b n with fmt := 7 }] else [])) (fun l s =>
      let s := ptwBusy t s n 2
      if !(convertible st.a.format && convertible st.d.format) then let y := freeBytes s len; writeD y.2 (ptwQ t) st.d 0 y.1
      else
        let a := ptwVals st.a.format n (l.getD 0 [])
        let scale := (l.getD 1 []).map (·.toNat)
        let nan := a.any NumVal.isNan
        let s := if nan then b.event (b.sat s 0x40) 16 else s
        let s := if !nan ∧ rowMax a = .inf true then b.sat s 0x44 else s
        let p := softmaxRow a
        if tok then
          let s := b.sat s 0x40 (scale.filter (· = 255)).length
          ptwOut t s st (p.zipIdx.map (fun e => unscale (scale.getD e.2 127) e.1))
        else ptwOut t s st p)

/-! ### The commands -/

/-- An operation of the Pointwise Engine's step in force. -/
def runPtw (t : Fin 160) (op : Nat) (body : State → Step → IterResult) (s : State) : Out := .next (runIter (ptwQ t) op body s)

/-- PTW_ADD (R134). -/
def execPtwAdd (t : Fin 160) (s : State) : Out := runPtw t 0x10 (ptwElems t true false (fun a b _ => a.add b)) s

/-- PTW_SUB (R134). -/
def execPtwSub (t : Fin 160) (s : State) : Out := runPtw t 0x11 (ptwElems t true false (fun a b _ => a.sub b)) s

/-- PTW_MUL (R134). -/
def execPtwMul (t : Fin 160) (s : State) : Out := runPtw t 0x12 (ptwElems t true false (fun a b _ => a.mul b)) s

/-- PTW_FMA (R134): D is read and written. -/
def execPtwFma (t : Fin 160) (s : State) : Out := runPtw t 0x13 (ptwElems t true true (fun a b d => a.fma b d)) s

/-- PTW_MAX (R107, R134). -/
def execPtwMax (t : Fin 160) (s : State) : Out := runPtw t 0x14 (ptwElems t true false (fun a b _ => a.maxn b)) s

/-- PTW_MIN (R107, R134). -/
def execPtwMin (t : Fin 160) (s : State) : Out := runPtw t 0x15 (ptwElems t true false (fun a b _ => a.minn b)) s

/-- PTW_FUNC (R135). -/
def execPtwFunc (t : Fin 160) (s : State) : Out := runPtw t 0x18 (ptwFuncIter t) s

/-- ROWSUM (R136). -/
def execRowsum (t : Fin 160) (s : State) : Out := runPtw t 0x20 (ptwRow t rowSum) s

/-- ROWSUMSQ (R136). -/
def execRowsumsq (t : Fin 160) (s : State) : Out := runPtw t 0x21 (ptwRow t rowSumSq) s

/-- ROWMAX (R107, R134). -/
def execRowmax (t : Fin 160) (s : State) : Out := runPtw t 0x22 (ptwRow t rowMax) s

/-- SOFTMAX (R137). -/
def execSoftmax (t : Fin 160) (s : State) : Out := runPtw t 0x28 (ptwSoftmaxIter t) s

end Sys2Proof.Machine
end

