-- ==== Sys2Proof/Machine/Embedding.lean ====
section
/-! DEFINITION. Sys2Proof/Machine/Embedding.lean: tables, shards and row records (R166–R170), PREP, the Grinder, GATHER, POOL and
SCATTER (R171–R178), the hot headers (R184, R185). Words of a step: 10 and 11 valid indices and bags so far, 100 waiting (1) or
past its wait (2), 104 since when, 200 the next row of GATHER, 201 its tries, 202 the VERSION first read plus 1,
5000 + 8t + f what is to be added to field f of TSTAT record t at the step's end. -/
namespace Sys2Proof.Machine

def embQ (d : Fin 2) (j : Fin 4) : SeqId := .die d ⟨4 + j.val, by omega⟩
def embBlk (d : Fin 2) (j : Fin 4) : Blk := .eng d ⟨4 + j.val, by omega⟩
def grdQ (d : Fin 2) (j : Fin 4) : SeqId := .die d ⟨j.val, by omega⟩
def grdBlk (d : Fin 2) (j : Fin 4) : Blk := .eng d ⟨j.val, by omega⟩

def dEmb (_ : Nat) : Emb := {}
def getEmb (s : State) (d : Fin 2) (j : Fin 4) : Emb := SMap.get dEmb s.embs (4 * d.val + j.val)
def setEmb (s : State) (d : Fin 2) (j : Fin 4) (x : Emb) : State := { s with embs := SMap.set dEmb s.embs (4 * d.val + j.val) x }

/-! ### The record (Table 8.5) -/

/-- The fields of an embedding engine record. -/
structure EmbRec where
  m : Nat
  self : Nat
  hrd : Bool
  step : Nat
  urowPitch : Nat
  outPitch : Nat
  gradPitch : Nat
  outFmt : Nat
  pool : Nat
  weighted : Bool
  nMax : Nat
  inboxRows : Nat
  hrdFirst : Nat
  hrdCount : Nat
  hrdPitch : Nat
  seed : Nat
  members : Nat
  tdir : Nat
  tstat : Nat
  feats : Nat
  keys : Nat
  kinfo : Nat
  vcnt : Nat
  nWord : Nat
  ukeys : Nat
  segs : Nat
  perm : Nat
  inv : Nat
  uWord : Nat
  urows : Nat
  out : Nat
  dy : Nat
  grad : Nat
  inbox : Nat
  hrdBase : Nat
  deriving DecidableEq, Repr

def embRec (r : List Nat) : EmbRec :=
  let o (i : Nat) : Nat := fld r (5 + i) 0 41
  { m := fld r 0 0 15, self := fld r 0 16 15, hrd := fld r 0 31 1 = 1, step := fld r 0 32 32, urowPitch := fld r 1 0 16,
    outPitch := fld r 1 16 16, gradPitch := fld r 1 32 16, outFmt := fld r 1 48 8, pool := fld r 1 56 2,
    weighted := fld r 1 58 1 = 1, nMax := fld r 2 0 25, inboxRows := fld r 2 32 24, hrdFirst := fld r 3 0 16,
    hrdCount := fld r 3 16 17, hrdPitch := fld r 3 48 16, seed := r.getD 4 0, members := o 0, tdir := o 1, tstat := o 2,
    feats := o 3, keys := o 4, kinfo := o 5, vcnt := o 6, nWord := o 7, ukeys := o 8, segs := o 9, perm := o 10, inv := o 11,
    uWord := o 12, urows := o 13, out := o 14, dy := o 15, grad := o 16, inbox := o 17, hrdBase := o 18 }

/-- Bytes of the hot area: the headers and two parities of 65,536 entries (R170). -/
def EmbRec.hotBytes (r : EmbRec) : Nat := 16 * r.m + 131072 * r.hrdPitch

/-- A span of local offsets lies wholly in HBM or in one Near Memory slot. -/
def inMemory (o n : Nat) : Bool :=
  match placeOf o, placeOf (o + (n - 1)) with
  | .hbm _, .hbm _ => true
  | .nm u _, .nm v _ => u = v
  | _, _ => false

/-- The checks on the record alone (R170, R152). -/
def EmbRec.formOk (r : EmbRec) : Bool :=
  r.m ≠ 0 && r.self < r.m && r.nMax ≤ 2 ^ 24 && r.urowPitch % 8 = 0 && r.gradPitch % 8 = 0 && (r.outFmt = 1 || r.outFmt = 2) &&
    r.hrdFirst + r.hrdCount ≤ 65536 && r.hrdPitch % 16 = 0 && (!r.hrd || (r.hrdBase % 64 = 0 && inMemory r.hrdBase r.hotBytes))

/-- The checks on the MEMBERS table (R152). -/
def membersOk (m self dev : Nat) (ms : List Byte) : Bool :=
  (List.range m).all (fun i => bit (word 4 ms i) 31) &&
  (List.range (m - 1)).all (fun i => memberDev ms i < memberDev ms (i + 1)) && memberDev ms self = dev

/-- CONFIG (R170). -/
def embConfigIter (d : Fin 2) (j : Fin 4) : State → Step → IterResult :=
  let q := embQ d j
  configIter (embBlk d j) q 192 0x40 0x48 20 0x0101 (fun s rq k =>
    let r := embRec rq
    if !r.formOk then k false s
    else readStage s s q [locSpan s r.members (4 * r.m)] (fun l ok s =>
      k (ok && membersOk r.m r.self (bits (Blk.svc.rd s 0x1048) 0 17) (l.headD [])) s))

/-- The members in order from SELF + 1 upward, wrapping (R179). -/
def EmbRec.order (r : EmbRec) : List Nat := (List.range r.m).map (fun i => (r.self + 1 + i) % r.m)

/-! ### Tables, shards, records (R167–R169) -/

/-- A table descriptor (Table 8.1). -/
structure TableDesc where
  rowBytes : Nat
  cyclic : Bool
  fmt : Nat
  opt : Nat
  det : Bool
  row : Bool
  isolated : Bool
  sr : Bool
  valid : Bool
  hot : Nat
  headroom : Nat
  rows : Nat
  smap : Nat
  shards : Nat
  shardRows : Nat
  tver : Nat
  lr : Nat
  eps : Nat
  beta1 : Nat
  beta2 : Nat
  deriving DecidableEq, Repr

def tableDesc (bs : List Byte) : TableDesc :=
  let q := qw bs
  { rowBytes := bits (q 0) 0 13, cyclic := bit (q 0) 13, fmt := bits (q 0) 16 8, opt := bits (q 0) 24 3, det := bit (q 0) 27,
    row := bit (q 0) 28, isolated := bit (q 0) 29, sr := bit (q 0) 30, valid := bit (q 0) 31, hot := bits (q 0) 32 25,
    headroom := bits (q 0) 58 3, rows := bits (q 1) 0 41, smap := bits (q 2) 0 41, shards := bits (q 2) 48 16,
    shardRows := bits (q 3) 0 41, tver := bits (q 4) 0 32, lr := bits (q 5) 0 32, eps := bits (q 5) 32 32,
    beta1 := bits (q 6) 0 32, beta2 := bits (q 6) 32 32 }

/-- Bytes of an element of ROW_FMT, 0 for a code outside the table. -/
def TableDesc.elem (t : TableDesc) : Nat := if t.fmt = 0x17 ∨ (1 ≤ t.fmt ∧ t.fmt ≤ 5) then elemBits t.fmt / 8 else 0

/-- Elements of a row. -/
def TableDesc.n (t : TableDesc) : Nat := t.rowBytes / t.elem

/-- A descriptor in use that is not invalid (R167). -/
def TableDesc.ok (t : TableDesc) : Bool :=
  t.valid && t.elem ≠ 0 && 4 ≤ t.rowBytes && t.rowBytes ≤ 4096 && t.rowBytes % 4 = 0 && t.rowBytes % t.elem = 0 && t.opt ≤ 4 &&
    t.rows ≠ 0 && t.shards ≠ 0 && (t.cyclic || t.rows ≤ t.shards * t.shardRows)

/-- The shard and the local row of a global row (R168), and back. -/
def TableDesc.place (t : TableDesc) (r : Nat) : Nat × Nat :=
  if t.cyclic then (r % t.shards, r / t.shards) else (r / t.shardRows, r % t.shardRows)
def TableDesc.globalRow (t : TableDesc) (sh q : Nat) : Nat := if t.cyclic then q * t.shards + sh else sh * t.shardRows + q
/-- Rows of a shard. -/
def TableDesc.rowsOf (t : TableDesc) (sh : Nat) : Nat :=
  if t.cyclic then (t.rows - sh + t.shards - 1) / t.shards else min t.shardRows (t.rows - sh * t.shardRows)

/-- The layout of a record (R169, Table 8.4). -/
def TableDesc.dataBytes (t : TableDesc) : Nat := (t.rowBytes + 7) / 8 * 8
def TableDesc.stateBytes (t : TableDesc) : Nat :=
  match t.opt with
  | 1 => 8 | 2 => (4 * t.n + 7) / 8 * 8 | 3 => 8 * t.n | _ => 0
def TableDesc.slotBytes (t : TableDesc) : Nat := 8 + t.dataBytes + t.stateBytes
def TableDesc.slots (t : TableDesc) : Nat := if t.row then 2 else 1
def TableDesc.gacc (t : TableDesc) : Nat := 8 + t.slots * t.slotBytes
def TableDesc.recBytes (t : TableDesc) : Nat := t.gacc + (if t.det then 0 else 4 * t.n)
def TableDesc.slotAt (t : TableDesc) (k : Nat) : Nat := 8 + k * t.slotBytes

/-- A shard map entry (Table 8.2). -/
structure ShardEnt where
  owner : Nat
  valid : Bool
  epoch : Nat
  base0 : Nat
  base1 : Nat
  list : Nat
  deriving DecidableEq, Repr

def shardEnt (bs : List Byte) : ShardEnt :=
  let q := qw bs
  { owner := bits (q 0) 0 17, valid := bit (q 0) 31, epoch := bits (q 0) 32 32, base0 := bits (q 1) 0 41,
    base1 := bits (q 2) 0 41, list := bits (q 3) 0 41 }

/-- The local offset of a row's record on its owner, under the TVER in force. -/
def recordAt (t : TableDesc) (e : ShardEnt) (tver q : Nat) : Nat :=
  ((if t.row ∨ tver % 2 = 0 then e.base0 else e.base1) + q * t.recBytes) % 2 ^ 41

/-- A span of a shard on this device, asked for in the shard's placement epoch (R168). -/
def shardLoc (s : State) (e : ShardEnt) (o n : Nat) (fmt : Nat := 0) : Span := { locSpan s o n fmt with pep := some e.epoch }

/-- A write to a shard on this device in its placement epoch (R168). -/
def shardWrite (s : State) (q : SeqId) (e : ShardEnt) (o : Nat) (bs : List Byte) : State :=
  writeOp s q (ownAddr s (o % 2 ^ 41)) bs none none (some e.epoch)

def descSpan (s : State) (r : EmbRec) (t : Nat) : Span := locSpan s (r.tdir + 64 * t) 64
def shardSpan (s : State) (t : TableDesc) (sh : Nat) : Span := locSpan s (t.smap + 32 * sh) 32

/-- This device holds what stands at a local offset: Near Memory, or HBM in no placement range or in one not given away. -/
def heldHere (s : State) (o : Nat) : Bool :=
  match placeOf o with
  | .nm _ _ => true
  | .hbm _ =>
    let i := entryOf s o
    i = 0 || [plFree, plOwned, plDraining, plCopying].contains (entryState s i)
  | _ => false

/-- The table directory's bytes as they stand (R186), where this device holds the directory. -/
def dirSnap (s : State) (r : EmbRec) : Option (List (Nat × Byte)) :=
  if heldHere s r.tdir && heldHere s (r.tdir + 262143) then
    some (s.mem.filter (fun e => r.tdir ≤ e.1 && e.1 < r.tdir + 262144))
  else none

/-- The table directory as a step finds it at its start, the only time that it reads TVER (R174, R183, R186). DESIGN CHOICE (log entry
190): a directory that has moved to another device is loaded whole before the step does anything else. -/
def bindDir (s0 s : State) (q : SeqId) (r : EmbRec) (k : List (Nat × Byte) → State → IterResult) : IterResult :=
  match dirSnap s r with
  | some l => k l s
  | none => readStage s0 s q [locSpan s r.tdir 262144] (fun l _ s =>
      k ((l.headD []).zipIdx.map (fun e => (r.tdir + e.2, e.1))) s)

/-- TVER of a table in an image of the directory. -/
def snapTver (r : EmbRec) (snap : List (Nat × Byte)) (t : Nat) : Nat := leNat (SMap.getMany memDefault snap (r.tdir + 64 * t + 32) 4)

/-- The TVER that a step has bound for a table, out of its image of the directory (R174, R186); without one, the descriptor's. -/
def boundTver (r : EmbRec) (snap : Option (List (Nat × Byte))) (t : Nat) (desc : TableDesc) : Nat :=
  match snap with
  | some l => snapTver r l t
  | none => desc.tver

/-! ### Statistics (R188) -/

/-- Add to field `f` of table `t`'s TSTAT record at the step's end. -/
def tstat (s : State) (q : SeqId) (t f n : Nat) : State :=
  if n = 0 then s else let k := 5000 + 8 * t + f; setScr s q k (scr0 s q k + n)

/-- The additions that wait: table, field, number. -/
def tstatDue (s : State) (q : SeqId) : List (Nat × Nat × Nat) :=
  ((getSeq s q).scratch.filter (fun e => 5000 ≤ e.1 && e.1 < 100000)).map (fun e => ((e.1 - 5000) / 8, (e.1 - 5000) % 8, e.2))

/-- At the step's end the records are updated. -/
def tstatFlush (s0 : State) (q : SeqId) (tstatAt : Nat) (s : State) (aD : Nat) : IterResult :=
  let x := getSeq s q
  if flatIter x + 1 ≠ x.b0 * x.b1 * x.b2 then .ran s aD
  else
    let due := tstatDue s q
    readStage s0 s q (due.map (fun e => locSpan s (tstatAt + 32 * e.1 + 4 * e.2.1) 4)) (fun l _ s =>
      .ran (forEach (due.zip l) s (fun s e =>
        locWrite s q (tstatAt + 32 * e.1.1 + 4 * e.1.2.1) (leBytes 4 (min (leNat e.2 + e.1.2.2) 0xFFFFFFFF)))) aD)

/-- An iteration under the record in force (R170). Without one only the operation's own command (`main`) runs the iteration,
which accesses nothing. -/
def embUnder (d : Fin 2) (j : Fin 4) (main : Bool) (body : EmbRec → State → Step → IterResult) (s : State) (st : Step) : IterResult :=
  let q := embQ d j
  match recOf s (embBlk d j) with
  | [] =>
    if !main then .hold s
    else if emptyStep (getSeq s q) then .hold (retireStep (noteStatus s q tkMemory) q true)
    else .ran (noteStatus s q tkMemory) (opAddr s q st.d)
  | rq =>
    let r := embRec rq
    match body r s st with
    | .hold s => .hold s
    | .ran s1 aD => tstatFlush s q r.tstat s1 aD

/-- One operation of an embedding engine. -/
def runEmb (d : Fin 2) (j : Fin 4) (op : Nat) (main : Bool) (body : EmbRec → State → Step → IterResult) (s : State) : Out :=
  .next (runIter (embQ d j) op (embUnder d j main body) s)

/-! ### PREP (R171, R172) -/

/-- What PREP makes of one index. -/
inductive IndexClass where
  | valid | missing | negative | range
  deriving DecidableEq, Repr

/-- The class of an index, given as 64 bits (R171). -/
def indexClass (t : TableDesc) (shardOk : Bool) (x : Nat) : IndexClass :=
  if x = 2 ^ 63 then .missing
  else if 2 ^ 63 ≤ x then .negative
  else if !t.ok || t.rows ≤ x || !shardOk then .range
  else .valid

/-- The bags of a feature (R172): start and end of each, and the number with decreasing offsets. The last offset is the index
count, to which all are clamped. -/
def bagRanges (bags : Nat) (offs : List Byte) : List (Nat × Nat) × Nat :=
  let cnt := word 4 offs bags
  let o (b : Nat) : Nat := min (word 4 offs b) cnt
  ((List.range bags).map (fun b => (o b, max (o b) (o (b + 1)))),
   ((List.range bags).filter (fun b => o (b + 1) < o b)).length)

/-- One bag's indices and weights put down: key and information of each that is valid and fits, VCNT, what is counted. -/
def prepBag (d : Fin 2) (j : Fin 4) (r : EmbRec) (t : Nat) (desc : TableDesc) (shardOk : Nat → Bool) (s : State)
    (l : List (Nat × Nat)) : State :=
  let q := embQ d j
  let bag := scr0 s q 11
  let k0 := scr0 s q 10
  let s := forEach l s (fun s e =>
    let drop (f : Nat) (s : State) : State := (embBlk d j).event ((embBlk d j).add (tstat s q t f 1) 0x58 1) 16
    match indexClass desc (shardOk e.1) e.1 with
    | .missing => drop 0 s
    | .negative => drop 1 s
    | .range => drop 2 s
    | .valid =>
      let k := scr0 s q 10
      if r.nMax ≤ k then noteStatus ((embBlk d j).add (tstat s q t 2 1) 0x58 1) q tkCountRange
      else
        let s := locWrite s q (r.keys + 8 * k) (leBytes 8 (t * 2 ^ 40 + e.1))
        let s := locWrite s q (r.kinfo + 8 * k) (leBytes 8 (bag % 2 ^ 24 + e.2 * 2 ^ 32))
        setScr s q 10 (k + 1))
  let s := locWrite s q (r.vcnt + 4 * bag) (leBytes 4 (scr0 s q 10 - k0))
  setScr s q 11 (bag + 1)

/-- One PREP iteration: one feature descriptor. -/
def prepIter (d : Fin 2) (j : Fin 4) (r : EmbRec) (s : State) (st : Step) : IterResult :=
  let q := embQ d j
  let b := embBlk d j
  let s0 := s
  let x := getSeq s q
  let first := flatIter x = 0
  let last := flatIter x + 1 = x.b0 * x.b1 * x.b2
  readStage s0 s q [locSpan s (r.feats + 32 * flatIter x) 32] (fun l _ s =>
    let f := qw (l.headD [])
    let t := bits (f 0) 0 12
    let bags := bits (f 0) 16 24
    readStage s0 s q [descSpan s r t, { operand := 0, addr := f 1, len := if bags = 0 then 0 else 4 * (bags + 1) }] (fun l _ s =>
      let desc := tableDesc (l.getD 0 [])
      let rg := bagRanges bags (l.getD 1 [])
      let useW := r.weighted && f 3 ≠ 0
      let spanOf (base w : Nat) (e : Nat × Nat) : Span := { operand := 0, addr := (base + w * e.1) % 2 ^ 64, len := w * (e.2 - e.1) }
      readStage s0 s q (rg.1.map (spanOf (f 2) 8) ++ (if useW then rg.1.map (spanOf (f 3) 4) else [])) (fun l _ s =>
        let items := rg.1.zipIdx.map (fun e => (List.range (e.1.2 - e.1.1)).map (fun i =>
          (word 8 (l.getD e.2 []) i, if useW then word 4 (l.getD (bags + e.2) []) i else 0x3F800000)))
        let items := if r.pool = 0 then items.flatten.map (fun e => [e]) else items
        let cand := (items.flatten.filter (fun e => indexClass desc true e.1 = .valid)).map (fun e => (desc.place e.1).1)
        let shards := cand.eraseDups
        readStage s0 s q (shards.map (shardSpan s desc)) (fun l _ s =>
          let good := ((shards.zip l).filter (fun e => (shardEnt e.2).valid)).map (·.1)
          let s := forEach (List.range rg.2) (b.sat s 0x80 rg.2) (fun s _ => b.raise s 0x0105 (seqPart s q) 0)
          let s := forEach items s (prepBag d j r t desc (fun x => good.contains (desc.place x).1))
          let e := getEmb s d j
          let s := setEmb s d j { e with bags := (if first then [] else e.bags) ++ [(t, items.length)] }
          let n := scr0 s q 10
          .ran (if last then locWrite (b.wr s 0x4C n) q r.nWord (leBytes 4 n) else s) (opAddr s q st.d)))))

/-! ### The Grinder (R173) -/

/-- Digit `i` of a key. -/
def digit (i k : Nat) : Nat := k / 256 ^ i % 256

/-- The passes that are run: those whose digit is not the same in every key. -/
def radixPasses (l : List Nat) : List Nat :=
  (List.range 8).filter (fun i => !(l.all (fun k => digit i k = digit i (l.headD 0))))

/-- One pass: stable, by one digit, keys with their payloads. -/
def radixPass (l : List (Nat × Nat)) (i : Nat) : List (Nat × Nat) :=
  (List.range 256).flatMap (fun b => l.filter (fun e => digit i e.1 = b))

/-- The sorted keys with their payloads, equal keys in ascending payload order. -/
def radixSort (keys : List Nat) : List (Nat × Nat) := (radixPasses keys).foldl radixPass keys.zipIdx

/-- The segments of a sorted list: key, COUNT, START. -/
def segmentsOf (l : List Nat) : List (Nat × Nat × Nat) :=
  (l.foldl (fun (a : List (Nat × Nat × Nat)) k =>
    match a with
    | (k', c, st) :: rest => if k = k' then (k, c + 1, st) :: rest else (k, 1, st + c) :: a
    | [] => [(k, 1, 0)]) []).reverse

/-- SORT (R173). -/
def sortIter (d : Fin 2) (j : Fin 4) (s : State) (st : Step) : IterResult :=
  let q := grdQ d j
  let b := grdBlk d j
  let aD := opAddr s q st.d
  let s0 := s
  let aA := opAddr s q st.a
  readStage s0 s q [{ operand := 0, addr := aA, len := 64, fmt := st.a.format, ep := opEpoch s q st.a }] (fun l ok s =>
    let s := b.wr s 0x40 (aA % 2 ^ 41)
    if !ok then .ran (noteStatus s q tkMemory) aD
    else
    let r := quads (l.headD [])
    let nMax := fld r 0 0 25
    if 2 ^ 24 < nMax then .ran (noteStatus (b.raise (b.event s 16) 0x0101 (seqPart s q) 0) q tkMemory) aD
    else
    let o (i : Nat) : Nat := fld r i 0 41
    readStage s0 s q [locSpan s (o 2) 4] (fun l _ s =>
      let n0 := leNat (l.headD [])
      let n := min n0 nMax
      let s := if nMax < n0 then noteStatus (b.sat s 0x60) q tkCountRange else s
      readStage s0 s q [locSpan s (o 1) (8 * n)] (fun l _ s =>
        let keys := (List.range n).map (word 8 (l.headD []))
        let sorted := radixSort keys
        let segs := segmentsOf (sorted.map (·.1))
        let u := segs.length
        let s := forEach segs.zipIdx s (fun s e =>
          locWrite (locWrite s q (o 3 + 8 * e.2) (leBytes 8 e.1.1)) q (o 4 + 8 * e.2) (leBytes 8 (e.1.2.1 + e.1.2.2 * 2 ^ 32)))
        let s := if o 5 = 0 then s else forEach sorted.zipIdx s (fun s e => locWrite s q (o 5 + 4 * e.2) (leBytes 4 e.1.2))
        let s := if o 6 = 0 then s else forEach segs.zipIdx s (fun s g =>
          forEach ((sorted.drop g.1.2.2).take g.1.2.1) s (fun s e => locWrite s q (o 6 + 4 * e.2) (leBytes 4 g.2)))
        let s := locWrite s q (o 7) (leBytes 4 u)
        let s := b.wr (b.wr (b.wr s 0x48 n) 0x4C u) 0x50 (radixPasses keys).length
        let s := b.wr s 0x54 (segs.foldl (fun m e => max m e.2.1) 0)
        .ran (b.add s 0x58 n) aD)))

/-! ### The hot headers and the directory (R184, R185) -/

def dHot (_ : Nat) : Option (Nat × Nat) := none

/-- A header word of R179: STEP, ENTRIES, KIND, ZERO. -/
def embHeader (step entries kind : Nat) : Nat :=
  step % 2 ^ 32 + entries % 2 ^ 24 * 2 ^ 32 + kind * 2 ^ 56 + b2n (entries = 0) * 2 ^ 63

/-- The hot header of member `m`, when it is current for STEP: ENTRIES and HRD_FIRST. -/
def currentHot (s : State) (d : Fin 2) (j : Fin 4) (r : EmbRec) (m : Nat) : Option (Nat × Nat) :=
  match (getEmb s d j).hots.find? (fun e => e.1 = m) with
  | some e => if bits e.2.1 0 32 = r.step ∧ bits e.2.1 56 6 = 3 then some (bits e.2.1 32 24, bits e.2.2 0 16) else none
  | none => none

/-- The local offset of an entry of the hot area: parity of an epoch, slot. -/
def hotEntry (r : EmbRec) (epoch slot : Nat) : Nat := r.hrdBase + 16 * r.m + epoch % 2 * 65536 * r.hrdPitch + slot * r.hrdPitch

/-- HOT_HEADER_ARRIVE: member `m`'s hot header, just stored in its slot, is taken. -/
def hotHeaderArrive (d : Fin 2) (j : Fin 4) (m : Nat) (s : State) : State :=
  match recOf s (embBlk d j) with
  | [] => s
  | rq =>
    let r := embRec rq
    if r.m ≤ m ∨ !r.hrd then s
    else
      let e := getEmb s d j
      let o := r.hrdBase + 16 * m
      (embBlk d j).add (setEmb s d j { e with hots := (m, readNat s o 8, readNat s (o + 8) 8) :: e.hots.filter (fun h => !(h.1 == m)) })
        0x98 16

/-- The first slot whose tag matches a key for STEP. -/
def hotLookup (s : State) (step key : Nat) : Option Nat := (s.hotDir.find? (fun e => e.2 = some (key, step))).map (·.1)

/-- EMB_HOT_HEADERS_RECEIVED (R185): once all M are current, tags of older epochs go and those of the named entries are installed;
GATHER proceeds. -/
def hotReceivedIter (d : Fin 2) (j : Fin 4) (r : EmbRec) (s : State) (_st : Step) : IterResult :=
  let q := embQ d j
  let hs := (List.range r.m).map (currentHot s d j r)
  if scr0 s q 100 ≠ 1 ∨ hs.any (·.isNone) then .hold s
  else
    let slots := hs.flatMap (fun h => (List.range (h.getD (0, 0)).1).map (fun i => (h.getD (0, 0)).2 + i))
    let slots := slots.filter (· < 65536)
    readStage s s q (slots.map (fun k => locSpan s (hotEntry r r.step k) 16)) (fun l _ s =>
      let s := { s with hotDir := s.hotDir.filter (fun e =>
        match e.2 with
        | some (_, ep) => ep = r.step || 2 ^ 31 ≤ (r.step + 2 ^ 32 - ep) % 2 ^ 32
        | none => false) }
      .hold (setScr (forEach (slots.zip l) s (fun s e =>
        { s with hotDir := SMap.set dHot s.hotDir e.1 (some (qw e.2 0, bits (qw e.2 1) 0 32)) })) q 100 2))

/-! ### GATHER (R174, R175) -/

/-- A load of a row's owner in the shard's placement epoch: its bytes once they have come, at once where no request is needed. -/
def fetchFar (s : State) (q : SeqId) (a n fmt ep : Nat) (iso : Bool) : Option (List Byte) × State :=
  if isDirect s a then let r := readOp s q 0 a n fmt none (some iso); (some r.1, r.2.2)
  else match fromBuf (getSeq s q) a n with
  | some bs => (some bs, s)
  | none =>
    if loadsOut s q then (none, s)
    else
      let s := issue s (seqIssuer s q (some iso)) { op := 0x00, addr := a, size := n, epv := true, epoch := ep } (.operand q.inst fmt)
      (fromBuf (getSeq s q) a n, s)

/-- Forget the bytes that have come of a span. -/
def dropBuf (s : State) (q : SeqId) (a n : Nat) : State :=
  modSeq s q (fun x => { x with rbuf := x.rbuf.filter (fun e => e.1 < a || a + n ≤ e.1) })

/-- A row read by R175 from its owner, as far as the answers go: its slot word and data, or none after 16 torn reads. -/
def fetchRow (d : Fin 2) (j : Fin 4) (t : TableDesc) (e : ShardEnt) (rec_ : Nat) (s : State) : Option (Option (List Byte)) × State :=
  let q := embQ d j
  let a := 2 ^ 41 * e.owner + rec_
  let n := 8 + t.dataBytes
  let far (s : State) (o n : Nat) : Option (List Byte) × State := fetchFar s q (a + o) n t.fmt e.epoch t.isolated
  if !t.row then
    let x := far s 8 n
    match x.1 with
    | some bs => (some (some bs), dropBuf x.2 q (a + 8) n)
    | none => (none, x.2)
  else
    let v0 : Option Nat × State :=
      match scr s q 202 with
      | some v => (some (v - 1), s)
      | none =>
        let x := fetchFar s q a 4 0 e.epoch t.isolated
        match x.1 with
        | some bs => (some (leNat bs), dropBuf (setScr x.2 q 202 (leNat bs + 1)) q a 4)
        | none => (none, x.2)
    match v0.1 with
    | none => (none, v0.2)
    | some v0v =>
      let o := t.slotAt (v0v % 2)
      let x := far v0.2 o n
      match x.1 with
      | none => (none, x.2)
      | some bs =>
        let y := fetchFar x.2 q a 4 0 e.epoch t.isolated
        match y.1 with
        | none => (none, y.2)
        | some v1 =>
          let s := delScr (dropBuf (dropBuf y.2 q (a + o) n) q a 4) q 202
          if leNat v1 = v0v then (some (some bs), delScr s q 201)
          else
            let s := (embBlk d j).sat s 0x70
            let tries := scr0 s q 201 + 1
            if 16 ≤ tries then (some none, delScr s q 201) else (none, setScr s q 201 tries)

/-- Read spans of this device when they have come. -/
def nearRead (s : State) (q : SeqId) (l : List Span) : Option (List (List Byte)) × State :=
  let f := fetchSpans s q l
  if f.1 then let r := readSpans f.2 q l; (some r.1, r.2.2) else (none, f.2)

/-- Fetch row `u`, of key `key`, into UROWS: whether it is there now. -/
def gatherRow (d : Fin 2) (j : Fin 4) (r : EmbRec) (key u : Nat) (s : State) : Bool × State :=
  let q := embQ d j
  let b := embBlk d j
  let t := key / 2 ^ 40
  let row := key % 2 ^ 40
  let put (s : State) (bs : List Byte) : Bool × State := (true, locWrite s q (r.urows + u * r.urowPitch) bs)
  match nearRead s q [descSpan s r t] with
  | (none, s) => (false, s)
  | (some dl, s) =>
    let desc := tableDesc (dl.headD [])
    if 4096 ≤ t ∨ !desc.ok then (true, s)
    else
      let n := 8 + desc.dataBytes
      let m := getEmb s d j
      let tver := boundTver r m.gsnap t desc
      let s := if desc.row then s else
        setEmb s d j { m with gstep := r.step, gbind := (t, tver) :: (if m.gstep = r.step then m.gbind else []).filter (fun x => !(x.1 == t)) }
      match (if r.hrd ∧ desc.hot ≠ 0 then hotLookup s r.step key else none) with
      | some slot =>
        match nearRead s q [locSpan s (hotEntry r r.step slot + 16) n desc.fmt] with
        | (none, s) => (false, s)
        | (some l, s) => put (b.add (tstat s q t 4 1) 0x60 1) (l.headD [])
      | none =>
        let pl := desc.place row
        match nearRead s q [shardSpan s desc pl.1] with
        | (none, s) => (false, s)
        | (some sl, s) =>
          let e := shardEnt (sl.headD [])
          if !e.valid then (true, s)
          else
            match fetchRow d j desc e (recordAt desc e tver pl.2) s with
            | (none, s) => (false, s)
            | (some got, s) =>
              let s := if e.owner = selfId s then s else b.add (b.add s 0x68 1) 0x98 n
              match got with
              | some bs => put s bs
              | none =>
                let s := b.raise (b.event (noteStatus s q tkMemory) 17) 0x0102 (seqPart s q) 0
                let f := freeBytes s 8
                put f.2 (f.1 ++ packElems (elemBits desc.fmt) (List.replicate desc.n (nanOf desc.fmt)))

/-- Go on with the next row once this one is there. -/
def ifRead (x : Bool × State) (k : State → Bool × State) : Bool × State := if x.1 then k x.2 else x

/-- Fetch rows from word 200 on, as far as it goes; `n` bounds the rows. -/
def gatherRows (d : Fin 2) (j : Fin 4) (r : EmbRec) (keys : List Byte) : Nat → Nat → State → Bool × State
  | 0, _, s => (true, s)
  | n + 1, u, s =>
    ifRead (gatherRow d j r (word 8 keys u) u s) (fun s => gatherRows d j r keys n (u + 1) (setScr s (embQ d j) 200 (u + 1)))

/-- GATHER's wait for hot headers, and its rows. -/
def gatherOn (d : Fin 2) (j : Fin 4) (r : EmbRec) (s : State) (st : Step) : IterResult :=
  let q := embQ d j
  if scr0 s q 100 = 1 then .hold s
  else readStage s s q [locSpan s r.uWord 4] (fun l _ s =>
    let n := leNat (l.headD [])
    readStage s s q [locSpan s r.ukeys (8 * n)] (fun l _ s =>
      let u := scr0 s q 200
      let x := gatherRows d j r (l.headD []) (n - u) u s
      if x.1 then .ran (delScr ((embBlk d j).wr x.2 0x50 n) q 200) (opAddr x.2 q st.d) else .hold x.2))

/-- GATHER: its start, which binds the images of the tables, and what follows. -/
def gatherIter (d : Fin 2) (j : Fin 4) (r : EmbRec) (s : State) (st : Step) : IterResult :=
  let q := embQ d j
  if (scr s q 100).isSome then gatherOn d j r s st
  else bindDir s s q r (fun snap s =>
    gatherOn d j r (setScr (setScr (setEmb s d j { getEmb s d j with gsnap := some snap }) q 100 (if r.hrd then 1 else 2)) q 104 s.now) st)

/-! ### POOL (R177) -/

/-- The elements of a gathered row: its slot word's SCALE, then its data (R177). -/
def rowValues (t : TableDesc) (bs : List Byte) : List NumVal :=
  (unpackElems (elemBits t.fmt) t.n (bs.drop 8)).map (fun v => unscale (leNat (bs.take 1)) (elemDecode t.fmt v))

/-- The tables of the global bags of the last PREP. -/
def bagTables (e : Emb) : List Nat := e.bags.flatMap (fun x => List.replicate x.2 x.1)

/-- The first valid index of each bag, from the bags' counts. -/
def startsOf (l : List Nat) : List Nat := (l.foldl (fun (a : List Nat × Nat) c => (a.1 ++ [a.2], a.2 + c)) ([], 0)).1

/-- One bag's row: the weighted sum of its rows in order, divided for MEAN. -/
def poolBag (r : EmbRec) (n : Nat) (l : List (NumVal × List NumVal)) : List Nat :=
  (List.range n).map (fun e =>
    let acc := l.foldl (fun a x => r32 (x.1.fma (x.2.getD e .zero) a)) .zero
    let acc := if r.pool = 2 ∧ l ≠ [] then div32 acc (.ofInt l.length) else acc
    (elemEncode r.outFmt 0 0 acc).v)

/-- POOL. -/
def poolIter (d : Fin 2) (j : Fin 4) (r : EmbRec) (s : State) (st : Step) : IterResult :=
  let q := embQ d j
  let s0 := s
  let tabs := bagTables (getEmb s d j)
  readStage s0 s q [locSpan s r.vcnt (4 * tabs.length)] (fun l _ s =>
    let cnts := (List.range tabs.length).map (word 4 (l.headD []))
    let total := cnts.foldl (· + ·) 0
    let ts := tabs.eraseDups
    readStage s0 s q ([locSpan s r.inv (4 * total), locSpan s r.kinfo (8 * total)] ++ ts.map (descSpan s r)) (fun l _ s =>
      let inv := word 4 (l.getD 0 [])
      let kinfo := word 8 (l.getD 1 [])
      let desc (t : Nat) : TableDesc := tableDesc (l.getD (2 + ts.findIdx (· = t)) [])
      let bags := (tabs.zip cnts).zip (startsOf cnts)
      readStage s0 s q (bags.flatMap (fun e => (List.range e.1.2).map (fun i =>
          locSpan s (r.urows + inv (e.2 + i) * r.urowPitch) (8 + (desc e.1.1).dataBytes) (desc e.1.1).fmt))) (fun rl _ s =>
        .ran (forEach bags.zipIdx s (fun s e =>
          let t := e.1.1.1
          let n := e.1.1.2
          let rows := (List.range n).map (fun i =>
            (ofF32 (bits (kinfo (e.1.2 + i)) 32 32), rowValues (desc t) (rl.getD (e.1.2 + i) [])))
          let s := if n = 0 then tstat s q t 3 1 else s
          locWrite s q (r.out + e.2 * r.outPitch) (packElems (elemBits r.outFmt) (poolBag r (desc t).n rows)))) (opAddr s q st.d))))

/-! ### SCATTER (R178) -/

/-- The extended format: a sign, 8 bits of exponent, a 40-bit significand. -/
def extFmt : FpFmt := ⟨8, 39, 127, false⟩
def rExt (x : NumVal) : NumVal := extFmt.decode (extFmt.encode false 0 0 x).v

/-- The element index of a chunk's rounding draw. -/
def scatterIdx (row chunk e : Nat) : Nat := row * 2 ^ 24 + chunk % 2 ^ 12 * 2 ^ 12 + e

/-- One element of one segment: chunks of 4,096 terms, each added to the partial and rounded once. `draw` is the draw of a
chunk. -/
def scatterElem (draw : Nat → Nat) (terms : List (NumVal × NumVal)) : NumVal :=
  let sr (part ext : NumVal) (chunk : Nat) : NumVal := ofF32 (fp32.encode false 2 (draw chunk) (part.add ext)).v
  let a := terms.foldl (fun (a : NumVal × NumVal × Nat × Nat) x =>
    let ext := rExt (x.1.fma x.2 a.2.1)
    if a.2.2.1 + 1 = 4096 then (sr a.1 ext a.2.2.2, NumVal.zero, 0, a.2.2.2 + 1) else (a.1, ext, a.2.2.1 + 1, a.2.2.2))
    (NumVal.zero, NumVal.zero, 0, 0)
  if a.2.2.1 = 0 then a.1 else sr a.1 a.2.1 a.2.2.2

/-- SCATTER. -/
def scatterIter (d : Fin 2) (j : Fin 4) (r : EmbRec) (s : State) (st : Step) : IterResult :=
  let q := embQ d j
  let s0 := s
  readStage s0 s q [locSpan s r.uWord 4] (fun l _ s =>
    let n := leNat (l.headD [])
    readStage s0 s q [locSpan s r.ukeys (8 * n), locSpan s r.segs (8 * n)] (fun l _ s =>
      let segs := (List.range n).map (fun u =>
        let g := word 8 (l.getD 1 []) u
        (word 8 (l.getD 0 []) u, bits g 0 25, bits g 32 25))
      let ts := (segs.map (fun g => g.1 / 2 ^ 40)).eraseDups
      readStage s0 s q (ts.map (descSpan s r) ++ segs.map (fun g => locSpan s (r.perm + 4 * g.2.2) (4 * g.2.1))) (fun l _ s =>
        let desc (t : Nat) : TableDesc := tableDesc (l.getD (ts.findIdx (· = t)) [])
        let ks := segs.zipIdx.flatMap (fun g => (List.range g.1.2.1).map (fun i => (g.2, word 4 (l.getD (ts.length + g.2) []) i)))
        readStage s0 s q (ks.map (fun e => locSpan s (r.kinfo + 8 * e.2) 8)) (fun il _ s =>
          let info := ks.zip (il.map leNat)
          let bag (v : Nat) : Nat := bits v 0 24
          let fmtBytes := elemBits r.outFmt / 8
          readStage s0 s q (info.map (fun e => locSpan s (r.vcnt + 4 * bag e.2) 4) ++
              info.map (fun e => locSpan s (r.dy + bag e.2 * r.outPitch) (fmtBytes * (desc ((segs.getD e.1.1 (0, 0, 0)).1 / 2 ^ 40)).n)
                r.outFmt)) (fun dl _ s =>
            let terms := info.zipIdx.map (fun e =>
              let w := if r.weighted then ofF32 (bits e.1.2 32 32) else NumVal.one
              let coef := if r.pool = 2 then div32 w (.ofInt (leNat (dl.getD e.2 []))) else w
              (e.1.1.1, coef, dl.getD (info.length + e.2) []))
            .ran (forEach segs.zipIdx s (fun s g =>
              let t := g.1.1 / 2 ^ 40
              let row := g.1.1 % 2 ^ 40
              let dt := desc t
              let mine := (terms.filter (fun e => e.1 = g.2)).map (fun e =>
                (e.2.1, (unpackElems (elemBits r.outFmt) dt.n e.2.2).map (elemDecode r.outFmt)))
              if 4096 ≤ t ∨ !dt.ok then s
              else locWrite s q (r.grad + g.2 * r.gradPitch) ((List.range dt.n).flatMap (fun e =>
                leBytes 4 (toF32 (scatterElem (fun c => srDraw r.seed r.step t (scatterIdx row c e))
                  (mine.map (fun x => (x.1, x.2.getD e .zero))))))))) (opAddr s q st.d))))))

/-! ### The commands -/

/-- EMB_CONFIG (R170). -/
def execEmbConfig (d : Fin 2) (j : Fin 4) (s : State) : Out := .next (runIter (embQ d j) 0x10 (embConfigIter d j) s)
/-- PREP (R171). -/
def execPrep (d : Fin 2) (j : Fin 4) (s : State) : Out := runEmb d j 0x11 true (prepIter d j) s
/-- SORT (R173). -/
def execSort (d : Fin 2) (j : Fin 4) (s : State) : Out := .next (runIter (grdQ d j) 0x11 (sortIter d j) s)
/-- GATHER (R174). -/
def execGather (d : Fin 2) (j : Fin 4) (s : State) : Out := runEmb d j 0x12 true (gatherIter d j) s
/-- EMB_HOT_HEADERS_RECEIVED (R185). -/
def execEmbHotHeadersReceived (d : Fin 2) (j : Fin 4) (s : State) : Out := runEmb d j 0x12 false (hotReceivedIter d j) s
/-- POOL (R177). -/
def execPool (d : Fin 2) (j : Fin 4) (s : State) : Out := runEmb d j 0x13 true (poolIter d j) s
/-- SCATTER (R178). -/
def execScatter (d : Fin 2) (j : Fin 4) (s : State) : Out := runEmb d j 0x14 true (scatterIter d j) s
/-- HOT_HEADER_ARRIVE (R184). -/
def execHotHeaderArrive (d : Fin 2) (j : Fin 4) (m : Nat) (s : State) : Out := .next (hotHeaderArrive d j m s)

end Sys2Proof.Machine
end

