-- ==== Sys2Proof/Machine/Router.lean ====
section
/-! DEFINITION. Sys2Proof/Machine/Router.lean: the router: combining (R205–R207), the choice of a port (R234, R235),
deficit round robin and credits (R231–R233). -/
namespace Sys2Proof.Machine

/-! ### Routing (R209, R230–R236) -/

/-- HST.LINK shows the PCIe link up (Table 10.12). -/
def pcieUp (s : State) : Bool := bit (Blk.hst.rd s 0x44) 16

/-- The ports of a set that are UP; bit 32 is the host, on a bridge device (R235, R236, R241). -/
def setUp (s : State) (mask : Nat) : List Nat :=
  ((List.range 32).filter (fun p => bit mask p && portUp s p)) ++ (if bit mask 32 ∧ isBridge s ∧ pcieUp s then [32] else [])

/-- The mask of a port set; set 0 is empty (R234). -/
def psetMask (s : State) (n : Nat) : Nat := if n = 0 then 0 else SMap.get d0 s.psets n

/-- Packets of a VC queued at an output port. -/
def queuedAt (s : State) (p vc : Nat) : Nat :=
  ((if p = 32 then s.hostQ else (getPort s p).outq).filter (fun k => pktVc k = vc)).length

/-- The least queued member of a set, the lower port on a tie. -/
def leastQueued (s : State) (vc : Nat) : List Nat → Option Nat
  | [] => none
  | p :: ps => some (ps.foldl (fun best q => if queuedAt s q vc < queuedAt s best vc then q else best) p)

/-- A packet's source device and context, as the request's. -/
def pktSrc : Packet → Nat × Nat
  | .req r _ _ => (r.src, r.ctx)
  | .rep r _ _ _ => (r.dst, r.ctx)

/-- The request's flow has no other request awaiting its final outcome here, held ones among them, and no earlier copy (R235). -/
def flowIdle (s : State) (r : Request) : Bool :=
  ((s.outs.filter (fun o => sameFlow o.req r)).map (fun o => max 1 o.copies)).sum ≤ 1

/-- The port a packet for another device takes; 32 is the host; none without a route (R235). A reissued copy takes the
alternate set when one is enabled (R201). -/
def choosePort (s : State) (k : Packet) : Option Nat :=
  let e := SMap.get d0 s.routes (pktDest k)
  if bit e 22 then none
  else
    let prim := psetMask s (bits e 0 10)
    let alt := psetMask s (bits e 10 10)
    let retry := match k with
      | .req r _ _ => r.retry
      | .rep _ _ _ _ => false
    let useAlt := (retry && alt ≠ 0) || (setUp s prim = [] && !retry)
    let set := setUp s (if useAlt then alt else prim)
    let adaptive := bit e (if useAlt then 21 else 20)
    let may := match k with
      | .rep _ _ _ _ => true
      | .req r _ _ => r.src = selfId s && flowIdle s r
    if adaptive && may then leastQueued s (pktVc k) set
    else if set = [] then none
    else
      let h := fold64 ((pktSrc k).1 * 2 ^ 32 + ((pktSrc k).2 * 2 ^ 16 ||| pktVc k * 2 ^ 13 ||| pktSub k))
      set[h % set.length]?

/-- The die port a packet for this device leaves by: that of its target's die, West's for the Junction die; a reply's is
its context's. -/
def diePort (s : State) : Packet → Nat
  | .req r _ _ =>
    match dieOfOffset s (offOf r.addr) with
    | some d => 32 + d
    | none =>
      match placeOf (offOf r.addr) with
      | .reg o => if 0x10000000 ≤ o then tilePort s ((o - 0x10000000) / 0x10000) else if 0x2000000 ≤ o then 33 else 32
      | _ => 32
  | .rep r _ _ _ => max 32 (portOfCtx s r.ctx)

/-- The answer a router forms when it cannot deliver a request, to the issuer or, for a combined atomic, to each constituent (R209,
R235): it enters the router as a reply. -/
def noRoute (s : State) (k : Packet) : State :=
  match k with
  | .rep _ _ _ _ => Blk.fab.sat s 0x4C
  | .req r _ _ =>
    let s := Blk.fab.raise (Blk.fab.event (Blk.fab.sat s 0x48) 22) 0x0108 r.part (devOf r.addr)
    { s with toRoute := s.toRoute ++ [.rep { replyTo r stNotApplied with router := true } r.part 0 routerPort] }

/-- Put a packet in the queue of the output port it takes. -/
def forward (s : State) (k : Packet) : State :=
  if pktDest k = selfId s then
    let p := diePort s k
    modPort s p (fun x => { x with outq := x.outq ++ [k] })
  else
    match choosePort s k with
    | none => noRoute s k
    | some p =>
      if p = 32 then { s with hostQ := s.hostQ ++ [k] }
      else noteBlocked (modPort s p (fun x => { x with outq := x.outq ++ [k] })) p

/-! ### Combining (R205–R207) -/

/-- A request that may be combined (R205). -/
def combinable (r : Request) : Bool :=
  !r.det && !r.retry && r.more.isEmpty &&
  ((reqLoad r && r.comb && r.size ≤ 64) || (reqAtomic r && !reqFetch r && [1, 2, 3, 6, 7, 8].contains (reqKind r)))

/-- Two requests that may be merged (R205). -/
def combines (a b : Request) : Bool :=
  a.addr = b.addr && a.size = b.size && a.op = b.op && a.part = b.part && a.isolated = b.isolated && a.epv = b.epv &&
  a.epoch = b.epoch

/-- One atomic of the collected ones, in arrival order, carrying every tag (R206, R207). -/
def combined (l : List Request) : Option Request :=
  match l with
  | [] => none
  | a :: rest =>
    some { a with
      data := leBytes a.size (rest.foldl (fun v r => atomicResult a.op v (leNat r.data) 0) (leNat a.data)),
      more := rest.map ownTag }

/-- Forward what an entry has collected, in the subclass its constituents have reached (R232). -/
def flushComb (s : State) (e : CombEntry) (port : Nat) : State :=
  match combined e.collected with
  | none => s
  | some r =>
    let s := if r.more = [] then s else { s with combOut := s.combOut.filter (fun c => !(decide (ownTag c = ownTag r))) ++ [r] }
    forward s (.req r e.sub port)

/-- Change the first entry that satisfies `p`. -/
def modComb (s : State) (p : CombEntry → Bool) (f : CombEntry → CombEntry) : State :=
  { s with comb := s.comb.map (fun e => if p e then f e else e) }

/-- A reply as it answers another request (R206, R207). -/
def answerTo (rep : Reply) (src ctx seq : Nat) : Reply := { rep with dst := src, ctx := ctx, seq := seq % 65536, more := [] }

/-- The first load's reply answers a load that joined it (R206); it enters the router. -/
def answerFollower (rep : Reply) (s : State) (r : Request) : State :=
  { s with toRoute := s.toRoute ++ [.rep (answerTo rep r.src r.ctx r.seq) r.part 0 routerPort] }

/-- A combinable request at the router (R206): a load is answered from the first one's reply or waits for it, an atomic
joins the open collection, which goes at 8 constituents; the first opens an entry and is forwarded. -/
def combine (s : State) (r : Request) (sub port : Nat) : State :=
  match s.comb.find? (fun e => combines e.first r && s.now - e.openedAt ≤ 2) with
  | none =>
    let s := if s.comb.length < combEntries s then setComb s (s.comb ++ [{ first := r, openedAt := s.now, bank := combBank s }])
      else Blk.fab.add s 0x8070 1
    forward s (.req r sub port)
  | some e =>
    let s := Blk.fab.add s 0x8068 1
    if reqLoad r then
      match e.reply with
      | some rep => answerFollower rep s r
      | none => modComb s (fun x => x = e) (fun x => { x with followers := x.followers ++ [r] })
    else
      let l := e.collected ++ [r]
      let sub := max e.sub sub
      if l.length < 8 then modComb s (fun x => x = e) (fun x => { x with collected := l, sub := sub })
      else
        let s := modComb s (fun x => x = e) (fun x => { x with collected := [], sub := 0, openedAt := s.now })
        flushComb s { e with collected := l, sub := sub } port

/-- Before a flag passes, held constituents of its flow are forwarded (R206). -/
def flushFlow (s : State) (f : Request) (port : Nat) : State :=
  forEach (s.comb.filter (fun e => e.collected.any (fun r => r.src = f.src && sameFlow r f))) s (fun s e =>
    flushComb (modComb s (fun x => x = e) (fun x => { x with collected := [], sub := 0 })) e port)

/-- A reply passing a router (R206, R207): it answers the loads that wait for it, and one to a combined atomic is split
among its constituents, each with its own status, which such a reply carries; a reply to the first constituent's own reissue carries
none and is that one's alone. -/
def passReply (s : State) (rep : Reply) (part sub port : Nat) : State :=
  let isFirst (e : CombEntry) : Bool :=
    reqLoad e.first && e.reply.isNone && e.first.src = rep.dst && e.first.ctx = rep.ctx && e.first.seq % 65536 = rep.seq
  let s : State :=
    match s.comb.find? isFirst with
    | none => s
    | some e =>
      let s := forEach e.followers s (answerFollower rep)
      if s.now - e.openedAt ≤ 2 then modComb s (fun x => x = e) (fun x => { x with reply := some rep, followers := [] })
      else setComb s (s.comb.filter (fun x => !(decide (x = e))))
  let whole (r : Request) : Bool :=
    r.src = rep.dst && r.ctx = rep.ctx && decide (r.seq % 65536 = rep.seq) && decide (rep.more.length = r.more.length)
  match s.combOut.find? whole with
  | none => forward s (.rep rep part sub port)
  | some r =>
    let s := forward { s with combOut := s.combOut.erase r } (.rep { rep with more := [] } part sub port)
    forEach (r.more.zipIdx) s (fun s t =>
      forward s (.rep { answerTo rep t.1.src t.1.ctx t.1.seq with status := rep.more.getD t.2 rep.status } part sub port))

/-- ROUTE_PACKET (R235): the first packet that came in by `port` and may be forwarded is routed. Before SELF_ID is VALID
only VC0 is forwarded; an atomic's copy older than 500,000 µs is discarded (R201). -/
def execRoutePacket (port : Fin 34) (s : State) : Out :=
  .next (
    let joined := bit (Blk.fab.rd s 0x40) 31
    match s.toRoute.find? (fun k => pktInPort k = port.val && (joined || pktVc k = 0)) with
    | none => s
    | some k =>
      let s := freeInput { s with toRoute := s.toRoute.erase k } k
      match k with
      | .rep r p sub i => passReply s r p sub i
      | .req r sub i =>
        if reqAtomic r ∧ 500000 < ageOf s r.issueTime then Blk.fab.sat s 0x80A4
        else
          let s := if reqFlag r then flushFlow s r i else s
          if s.passBy.contains r then forward { s with passBy := s.passBy.erase r } k
          else if combinable r then combine s r sub i else forward s k)

/-- COMB_WINDOW_CLOSE (R206): 2 µs after it opened, an entry's collection is forwarded and the entry ends; one whose loads
still wait for the first reply stays until it comes. -/
def execCombWindowClose (i : Nat) (s : State) : Out :=
  .next (match s.comb[i]? with
    | none => s
    | some e =>
      if s.now - e.openedAt < 2 then s
      else
        let keep := !e.followers.isEmpty
        let s := if keep then modComb s (fun x => x = e) (fun x => { x with collected := [], sub := 0 })
          else setComb s (s.comb.filter (fun x => !(decide (x = e))))
        flushComb s e (portOfCtx s e.first.ctx))

/-! ### Sending (R231, R233) -/

/-- The head packet of a VC with credit: SUB 1 before SUB 0. -/
def headOf (x : Port) (die : Bool) (vc : Nat) : Option Packet :=
  match nextInput x vc 1, nextInput x vc 0 with
  | some a, some b => if hasCredit x die a then some a else if hasCredit x die b then some b else none
  | some a, none => if hasCredit x die a then some a else none
  | none, some b => if hasCredit x die b then some b else none
  | none, none => none

/-- A port none of whose VCs can send: the deficits of those found empty are 0 (R233). -/
def idleDeficits (x : Port) : Port :=
  { x with deficit := x.deficit.mapIdx (fun v d => if x.outq.any (fun k => pktVc k = v) then d else 0) }

/-- One visit of deficit round robin, and the next, until a packet is found: the packet and the port (R233). -/
def drr (die : Bool) (weights : Nat) : Nat → Port → Option (Packet × Port)
  | 0, _ => none
  | n + 1, x =>
    let v := x.drrVc % 8
    let next (x : Port) : Port := { x with drrVc := (v + 1) % 8, drrAdded := false }
    if !x.outq.any (fun k => pktVc k = v) then drr die weights n (next { x with deficit := x.deficit.set v 0 })
    else
      match headOf x die v with
      | none => drr die weights n (next x)
      | some k =>
        let d := x.deficit.getD v 0 + (if x.drrAdded then 0 else max 1 (bits weights (8 * v) 8) * 64)
        if pktSize k ≤ d then
          some (k, { x with drrVc := v, drrAdded := true, deficit := x.deficit.set v (d - pktSize k) })
        else drr die weights n (next { x with deficit := x.deficit.set v d })

/-- Put bytes into a port's payload stream (R224, R225): whole payloads become DATA flits of the replay buffer and go on the lanes;
with `flush` the last one is filled with quadwords of no packet (log entry 198). -/
def toFlits (x : Port) (bs : List Byte) (flush : Bool) : Port :=
  let l := x.fill ++ bs
  let l := if flush then l ++ List.replicate ((l.length + 247) / 248 * 248 - l.length) 0xFF else l
  let n := l.length / 248
  let fl := (List.range n).map (fun i =>
    let q := (x.nextSeq + i) % 4096
    ({ seq := q, bytes := flitBytes flitData q (l.drop (248 * i)) } : TxFlit))
  { x with txBuf := x.txBuf ++ fl, fill := l.drop (248 * n), wire := x.wire ++ fl.map (fun f => f.bytes), nextSeq := (x.nextSeq + n) % 4096 }

/-- Flits that the stream makes of `n` further bytes. -/
def newFlits (x : Port) (n : Nat) : Nat := (x.fill.length + n + 247) / 248

/-- Take a packet out of a port's queue: the input port it came by has been served, and the credit of the subclass it goes on in is
used. -/
def takeOut (x : Port) (die : Bool) (k : Packet) : Port :=
  let i := creditIndex x k
  { x with
    outq := x.outq.erase k, rrIn := x.rrIn.set (2 * pktVc k + pktSub k) (pktInPort k),
    credit := if die then x.credit else x.credit.set i (x.credit.getD i 0 - pktFlits k) }

/-- A packet as it leaves through a port: through a DATELINE port it goes on in SUB 1 (R232). -/
def outPacket (x : Port) (k : Packet) : Packet := if x.dateline then pktMoved k 1 (pktInPort k) else k

/-- A request queued at a link port for a device that the destination table has since marked DEAD (R209). -/
def deadAt (s : State) (x : Port) : Option Packet := x.outq.find? (fun k => bit (SMap.get d0 s.routes (pktDest k)) 22)

/-- A link port that is UP sends (R224, R225, R233): the packet that deficit round robin chooses goes into the payload stream while
the replay buffer has room; when no other packet can follow it, the flit is filled up and leaves. -/
def linkSend (s : State) (port : Nat) : State :=
  let x := getPort s port
  let w := Blk.fab.rd s (0x100 + 8 * port)
  match drr false w 100 x with
  | none =>
    let x := idleDeficits x
    setPort s port (if x.fill = [] ∨ 512 < x.txBuf.length + 1 then x else toFlits x [] true)
  | some (k, y) =>
    if 512 < x.txBuf.length + newFlits x (pktSize k) then s
    else
      let y := takeOut y false k
      noteBlocked (countPacket (setPort s port (toFlits y (encodePacket (outPacket x k)) (drr false w 100 y).isNone)) port k false) port

/-- PACKET_SEND (R233): a port sends the packet deficit round robin chooses, into flits or to the die. A packet at a port that is not
UP is routed again (R235); one for a device that has been marked DEAD is answered (R209). -/
def execPacketSend (port : Fin 34) (s : State) : Out :=
  .next (
    let x := getPort s port.val
    if 32 ≤ port.val then
      match drr true (Blk.fab.rd s (0x100 + 8 * port.val)) 100 x with
      | none => setPort s port.val (idleDeficits x)
      | some (k, y) => countPacket { setPort s port.val (takeOut y true k) with arrived := s.arrived ++ [k] } port.val k false
    else if !portUp s port.val then
      match x.outq with
      | [] => s
      | k :: rest => forward (setPort s port.val { x with outq := rest }) k
    else
      match deadAt s x with
      | some k => noRoute (setPort s port.val { x with outq := x.outq.erase k }) k
      | none => linkSend s port.val)

/-- CREDIT_TIMEOUT (R231): a VC has held a packet for want of credit beyond FAB.CREDIT_TIMEOUT. It goes on holding it. -/
def execCreditTimeout (port : Fin 34) (vc : Fin 8) (s : State) : Out :=
  .next (
    let x := getPort s port.val
    let limit := Blk.fab.rd s 0x44
    match x.blockedSince.find? (fun e => e.1 / 2 = vc.val && !x.creditRaised.contains e.1) with
    | none => s
    | some e =>
      if limit = 0 ∨ s.now - e.2 ≤ limit then s
      else
        let s := setPort s port.val { x with creditRaised := x.creditRaised ++ [e.1] }
        Blk.fab.raise (Blk.fab.event s 23) 0x0109 0 (port.val + 2 ^ 8 * vc.val))

end Sys2Proof.Machine
end

