-- ==== Sys2Proof/Machine/HostBridge.lean ====
section
/-! DEFINITION. Sys2Proof/Machine/HostBridge.lean: the host function (R236–R242, R246). -/
namespace Sys2Proof.Machine

def hst : Blk := .hst

/-- Count bytes from the host. -/
def inBytes (s : State) (n : Nat) : State := hst.add s 0x70 n

/-- Unsupported Request (R237, R239). -/
def unsupported (s : State) (tag : Option Nat) : State :=
  let s := hst.event (hst.sat s 0x64) 17
  match tag with
  | some t => { s with hostOut := s.hostOut ++ [.unsupported t] }
  | none => s

/-- The bytes of the HST page the host reaches without R28's check (R238). -/
def hostDirect (off : Nat) : Bool :=
  (0x20100 ≤ off && off < 0x20300) || (0x20800 ≤ off && off < 0x20C08)

/-- HOST_BAR0_ACCESS (R238). -/
def execHostBar0Access (write : Bool) (off size : Nat) (val : Word64) (s : State) : Out :=
  .next (
    if !serving s ∨ !isBridge s ∨ 0x400000 ≤ off then s
    else
      let p := bits (hst.rd s 0x4C) 0 12
      let s := if write then inBytes s size else outBytes s size
      if hostDirect off ∧ (size = 4 ∨ size = 8) ∧ off % size = 0 then
        let o := off - 0x20000
        if write then answered (writeAt s 0 hst o size val.toNat) stOk []
        else let x := readAt s 0 hst o size; answered x.2 stOk (leBytes size x.1)
      else if write then cmdWrite s p off size val.toNat
      else cmdRead s p off size)

/-- The window of a BAR2 offset: its slot, the global address, MODE; none without VALID (R239). -/
def window (s : State) (off : Nat) : Option (Nat × Nat × Nat) :=
  let k := off / 2 ^ 30
  let w := hst.rd s (0x100 + 8 * k)
  if k < 64 ∧ bit w 63 then some (k, bits w 0 28 * 2 ^ 30 + off % 2 ^ 30, bits w 60 2) else none

/-- The bridge takes host requests. -/
def hostServed (s : State) : Bool := serving s && isBridge s

/-- HOST_BAR2_READ (R239): held behind the writes of its slot; 0xFF bytes when it fails (R240). -/
def execHostBar2Read (off size tag : Nat) (s : State) : Out :=
  .next (
    if !hostServed s then s
    else
      match window s off with
      | none => unsupported s (some tag)
      | some (k, a, _) => issue (outBytes s size) (hostIssuer s k) { op := 0x00, addr := a, size := size } (.hostRead k tag a size))

/-- HOST_BAR2_WRITE (R239): a STORE, or in a flag slot an FSTORE of 4 or 8 bytes; any other write there is dropped. -/
def execHostBar2Write (off : Nat) (data : List Byte) (s : State) : Out :=
  .next (
    if !hostServed s then s
    else
      match window s off with
      | none => unsupported s none
      | some (k, a, mode) =>
        let n := data.length
        let s := inBytes s n
        if mode = 1 ∨ mode = 2 then
          if (n = 4 ∨ n = 8) ∧ a % n = 0 then
            issue s (hostIssuer s k) { op := 0x20, addr := a, size := n, data := data, flagAll := mode = 2 } (.hostWrite k)
          else hst.event (hst.sat s 0x68) 18
        else issue s (hostIssuer s k) { op := 0x10, addr := a, size := n, data := data } (.hostWrite k))

/-- The OP of a PCIe AtomicOp: FETCH 1 (R239). -/
def hostOp (kind : HostAtomic) (size : Nat) : Nat :=
  0x80 + (if size = 8 then 0x10 else 0) + (match kind with | .fetchAdd => 1 | .swap => 4 | .cas => 5)

/-- HOST_BAR2_ATOMIC (R239). -/
def execHostBar2Atomic (kind : HostAtomic) (off size : Nat) (val cmp : Word64) (tag : Nat) (s : State) : Out :=
  .next (
    if !hostServed s then s
    else
      match window s off with
      | none => unsupported s (some tag)
      | some (k, a, _) =>
        issue (inBytes s size) (hostIssuer s k)
          { op := hostOp kind size, addr := a, size := size, data := leBytes size val.toNat, cmp := cmp.toNat % 2 ^ (8 * size) }
          (.hostRead k tag a size))

/-- HOST_READ_RELEASE (R239): every earlier write of the slot has its final outcome, and its oldest held read goes. -/
def execHostReadRelease (slot : Fin 64) (s : State) : Out :=
  .next (match s.outs.find? (fun o => o.req.ctx = 0x7C0 + slot.val && reqLoad o.req && o.phase = .rowHeld) with
    | none => s
    | some o => if mustHold s o then s else settleOuts (releaseOne s o))

/-- HOST_UR (R237, R239): a request that needs what is not implemented, or that meets a slot without VALID. -/
def execHostUr (off : Option Nat) (s : State) : Out :=
  .next (
    if !hostServed s then s
    else match off with
      | some o => if (window s o).isNone then unsupported s none else s
      | none => unsupported s none)

/-! ### Device to host (R241) -/

/-- The PCIe atomic of an OP, none for what the host cannot do. -/
def hostAtomicOf (r : Request) : Option HostAtomic :=
  match reqKind r with
  | 1 => if reqType r ≤ 1 then some .fetchAdd else none
  | 4 => if reqType r ≤ 1 then some .swap else none
  | 5 => if reqType r ≤ 1 then some .cas else none
  | _ => none

/-- The parts of `n` bytes at a host address that take at most `m` bytes each: offset and length. -/
def hostParts (m n : Nat) : List (Nat × Nat) :=
  (List.range ((n + max 1 m - 1) / max 1 m)).map (fun i => (i * max 1 m, min (max 1 m) (n - i * max 1 m)))

/-- A request for the host becomes PCIe requests, split at the host's max payload and max read request size: its reply (R241). What
the host returns is free. DEDUCED (log entry 253): a request any byte of which lies at or above OUT_LIMIT is not performed. -/
def toHost (s : State) (r : Request) : Reply × State :=
  let a := offOf r.addr
  let h := (hst.rd s 0x50 + a) % 2 ^ 64
  if hst.rd s 0x58 < a + max 1 r.size then (replyTo r stUnmapped, s)
  else if !opValid r ∨ (reqAtomic r ∧ (hostAtomicOf r).isNone) then (replyTo r stBadAtomic, fabRaise s 0x0101 r)
  else if r.size = 0 then (replyTo r stOk, s)
  else if reqAtomic r then
    filtered s r (fun s =>
      let f := fresh (outBytes { s with hostOut := s.hostOut ++ [.atomic r.op h r.data r.cmp] } r.size)
      (some (f.1 % 2 ^ (8 * r.size)), f.2))
  else if reqLoad r then
    let ps := hostParts s.pcieCfg.maxRead r.size
    let x := freeBytes (inBytes { s with hostOut := s.hostOut ++ ps.map (fun p => .read ((h + p.1) % 2 ^ 64) p.2) } r.size) r.size
    (replyTo r stOk x.1, x.2)
  else
    let ps := hostParts s.pcieCfg.maxPayload r.size
    let out := ps.map (fun p => HostMsg.write ((h + p.1) % 2 ^ 64) (((sized r.size r.data).drop p.1).take p.2))
    (replyTo r stOk, outBytes { s with hostOut := s.hostOut ++ out } r.size)

/-- The device ID of the host function: HOST_ID, when it is valid (R241). -/
def isHostId (s : State) (d : Nat) : Bool := bit (hst.rd s 0x48) 31 && bits (hst.rd s 0x48) 0 17 = d

/-- DEVICE_TO_HOST_REQUEST (R241): the oldest packet at the HOST port goes to the host. While the PCIe link is down it is routed
again (R235); DESIGN CHOICE (log entry 202): one whose device is not the host ID is answered as undeliverable. -/
def execDeviceToHostRequest (s : State) : Out :=
  .next (match s.hostQ with
    | [] => s
    | k :: rest =>
      let s := { s with hostQ := rest }
      if !pcieUp s then forward s k
      else
        match k with
        | .rep _ _ _ _ => noRoute s k
        | .req r _ _ =>
          if !isHostId s (devOf r.addr) then noRoute s k
          else
            let x := toHost s r
            if r.src = selfId s then settleOuts (onReply x.2 x.1)
            else { x.2 with toRoute := x.2.toRoute ++ [.rep x.1 r.part 0 30] })

/-- PCIE_LINK_CHANGE (R236, R237, R241): HST.LINK shows the link, and the host's settings of the function take effect; while it is
down the HOST port is not UP. -/
def execPcieLinkChange (up : Bool) (rate width : Nat) (shown : PcieShown) (s : State) : Out :=
  .next (
    if !isBridge s then s
    else
      let was := pcieUp s
      let s := hst.wr { s with pcieCfg := shown.cfg } 0x44 (rate % 16 + width % 32 * 2 ^ 4 + shown.ltssm % 16 * 2 ^ 12 + b2n up * 2 ^ 16)
      let s := sendPending (hst.event s 16)
      if was = up then s else Blk.fab.event s 24)

/-! ### The function's configuration space (R237, Table 10.9) -/

/-- The capabilities of the function. -/
inductive PcieCap where
  | pciExpress | msix | powerManagement | aer | serialNumber | flitMode | physical16 | physical32 | physical64 | laneMargining
  deriving DecidableEq, Repr

/-- What the host reads in the configuration space beyond the vendor's ID: device ID, class code, the sizes of BAR0 and BAR2, the
capabilities, the AtomicOps (sizes in bytes), and its own settings. The spec's table of commands has no configuration access, so no
command reads it; PCI_ID shows the IDs. DESIGN CHOICE (log entry 252): no rule gives the power state, AER, the serial number or lane
margining an effect on the device, and they have none. -/
structure HostFunction where
  deviceId : Nat := 0x7D10
  classCode : Nat := 0x120000
  bar0 : Nat := 0x400000
  bar2 : Nat := 0x1000000000
  vectors : Nat := 64
  tagBits : Nat := 10
  payloads : List Nat := [128, 256, 512]
  maxReadLimit : Nat := 4096
  atomics : List (HostAtomic × Nat) := [(.fetchAdd, 4), (.fetchAdd, 8), (.swap, 4), (.swap, 8), (.cas, 4), (.cas, 8)]
  caps : List PcieCap :=
    [.pciExpress, .msix, .powerManagement, .aer, .serialNumber, .flitMode, .physical16, .physical32, .physical64, .laneMargining]
  settings : PcieCfg
  deriving DecidableEq, Repr

/-- The host function as it stands. -/
def hostFunction (s : State) : HostFunction := { settings := s.pcieCfg }

end Sys2Proof.Machine
end

