-- ==== Sys2Proof/Machine/ArrayFmt.lean ====
section
/-! DEFINITION. Sys2Proof/Machine/ArrayFmt.lean: the array's precision codes (R65, R66, R70), its streamed and stationary
layouts (R78, R80) and the 2:4 rules (R82–R84). -/
namespace Sys2Proof.Machine

/-! ### Precision codes (Tables 4.1 and 4.2) -/

/-- The element format code (Table 5.1) of an array precision code. -/
def arrFmt (c : Nat) : Nat :=
  match c with
  | 0 => 5 | 1 => 4 | 2 => 2 | 3 => 3 | 4 => 1
  | n => n

/-- An integer code. -/
def arrInt (c : Nat) : Bool := 0x10 ≤ c && c ≤ 0x31

/-- A stationary operand held in pieces (R87). -/
def arrWide (sp : Nat) : Bool := sp = 4 || sp = 0x30 || sp = 0x31

/-- Stationary integers of at most 8 bits are paired (R66). -/
def arrPaired (sp : Nat) : Bool := (0x10 ≤ sp && sp ≤ 0x17) || (0x20 ≤ sp && sp ≤ 0x27)

/-- R70: the pair of codes is valid. -/
def arrCodesOk (prec sprec : Nat) (sparse : Bool) (vecs : Nat) : Bool :=
  (prec ≤ 4 || (0x10 ≤ prec && prec < 0x30)) && (sprec ≤ 4 || (0x10 ≤ sprec && sprec ≤ 0x31)) &&
    (arrInt prec == arrInt sprec) && !(sparse && arrWide sprec) && vecs ≤ 4096

/-- Cycles per product (Table 4.1). -/
def arrCycles (prec : Nat) : Nat :=
  match prec with
  | 0 => 3 | 1 => 4 | 2 => 8 | 3 => 11 | 4 => 24
  | n => if n < 0x20 then n - 0x0F else n - 0x1F

/-- Stationary pieces. -/
def arrPieces (sp : Nat) : Nat := if sp = 4 then 2 else if sp = 0x30 ∨ sp = 0x31 then 3 else 1

/-- Outputs per vector. -/
def arrOutputs (sp : Nat) : Nat := if arrPaired sp then 512 else 256

/-- c_eff (R66). -/
def arrPeriod (prec sp : Nat) : Nat := max (arrPieces sp * arrCycles prec) ((arrOutputs sp + 255) / 256)

/-- The slot width of a stationary value (R80). -/
def slotWidth (sp : Nat) : Nat := if sp ≤ 1 then 8 else if arrWide sp then 32 else 16

/-! ### The streamed layout (R78) -/

/-- Lanes, elements of a lane, and the row a lane leads at. -/
def lanesOf (sparse : Bool) : Nat := if sparse then 128 else 256
def laneElems (sparse : Bool) : Nat := if sparse then 4 else 1
def laneLead (sparse : Bool) (l : Nat) : Nat := if sparse then 2 * l else l

/-- The lanes of residue `r`, in ascending order. -/
def lanesAt (sparse : Bool) (c r : Nat) : List Nat := (List.range (lanesOf sparse)).filter (fun l => laneLead sparse l % c = r)

/-- Bytes of a line. -/
def lineBytes (sparse : Bool) (c w : Nat) : Nat :=
  let slots := (List.range c).foldl (fun m r => max m (lanesAt sparse c r).length) 0
  8 * ((slots * laneElems sparse * w + 63) / 64)

/-- A residue's lines are stored. -/
def storedAt (sparse : Bool) (c r : Nat) : Bool := lanesAt sparse c r ≠ []

/-- Stored residues below `r`. -/
def storedBelow (sparse : Bool) (c r : Nat) : Nat := ((List.range r).filter (storedAt sparse c)).length

/-- Byte offset of line `t` from the operand's base. -/
def lineOffset (sparse : Bool) (c w t : Nat) : Nat :=
  lineBytes sparse c w * (t / c * storedBelow sparse c c + storedBelow sparse c (t % c))

/-- The stored lines of `v` vectors, in order. -/
def storedLines (sparse : Bool) (c v : Nat) : List Nat :=
  (List.range ((v - 1) * c + laneLead sparse (lanesOf sparse - 1) + 1)).filter (fun t => storedAt sparse c (t % c))

/-- A lane streams at line `t`: vector (t − lead) ÷ c exists. -/
def laneActive (sparse : Bool) (c v t l : Nat) : Bool := laneLead sparse l ≤ t && (t - laneLead sparse l) / c < v

/-- Line `t`, from the elements `x vector index`. -/
def streamLine (sparse : Bool) (c w v t : Nat) (x : Nat → Nat → Nat) : List Byte :=
  let n := laneElems sparse
  let slots := (lanesAt sparse c (t % c)).flatMap (fun l => (List.range n).map (fun e =>
    if laneActive sparse c v t l then x ((t - laneLead sparse l) / c) (n * l + e) else 0))
  let bs := packElems w slots
  bs ++ List.replicate (lineBytes sparse c w - bs.length) 0

/-- The bytes of line `t` that the array reads (R79): offset in the line and length, covering the slots that stream. -/
def lineSpan (sparse : Bool) (c w v t : Nat) : Nat × Nat :=
  let k := laneElems sparse * w
  let act := ((lanesAt sparse c (t % c)).zipIdx).filter (fun e => laneActive sparse c v t e.1)
  match act.head?, act.getLast? with
  | some a, some z => (a.2 * k / 8, ((z.2 + 1) * k + 7) / 8 - a.2 * k / 8)
  | _, _ => (0, 0)

/-- Element `i` of vector `v` in the bytes of its lines, `line t` being line t. -/
def streamElem (sparse : Bool) (c w v i : Nat) (line : Nat → Nat) : Nat :=
  let n := laneElems sparse
  let l := i / n
  let t := v * c + laneLead sparse l
  let k := (lanesAt sparse c (t % c)).idxOf l
  elemAt (line t) w (k * n + i % n)

/-! ### The stationary layout (R80) -/

/-- The column that slot `i` of line `m` holds. -/
def slotColumn (i m : Nat) : Nat := (255 + i - m) % 256

/-- Line `m` of a tile of slots of `ws` bits, from the rows' values. -/
def tileLine (ws m : Nat) (x : Nat → Nat → Nat) : List Byte :=
  packElems ws ((List.range 256).map (fun i => x i (slotColumn i m)))

/-- Row `i` of a tile read as 256 lines: its slots in column order. -/
def tileRow (ws i : Nat) (line : Nat → Nat) : List Nat :=
  (List.range 256).map (fun j => elemAt (line ((255 + i + 256 - j) % 256)) ws i)

/-! ### 2:4 sparsity (R82–R84) -/

/-- An integer of a pair: byte `h` of its slot. -/
def pairInt (sp v h : Nat) : Int :=
  let b := bits v (8 * h) 8
  if sp < 0x20 then signed 8 b else (b : Int)

/-- The magnitude of a cell's slot: of a pair, the sum of both (R83). -/
def cellMag (sp v : Nat) : NumVal :=
  if arrPaired sp then .fin false ((pairInt sp v 0).natAbs + (pairInt sp v 1).natAbs) 0
  else if arrInt sp then (if sp < 0x20 then .fin false (signed 16 v).natAbs 0 else .fin false (v % 65536) 0)
  else ((elemDecode (arrFmt sp) v).abs)

/-- A magnitude exceeds another; a NaN is the largest. -/
def magGt (a b : NumVal) : Bool :=
  if a.isNan then !b.isNan else if b.isNan then false else a.cmp b == .gt

/-- A group of four compressed (R83): the kept positions and the non-zero values dropped. -/
def compress4 (m : List NumVal) : Nat × Nat × Nat :=
  let at_ (p : Nat) : NumVal := m.getD p .zero
  let first := ([1, 2, 3] : List Nat).foldl (fun f p => if magGt (at_ p) (at_ f) then p else f) 0
  let second := (List.range 4).foldl (fun g p => if p ≠ first ∧ magGt (at_ p) (at_ g) then p else g) (if first = 0 then 1 else 0)
  let lo := min first second
  let hi := max first second
  (lo, hi, ((List.range 4).filter (fun p => p ≠ lo && p ≠ hi && !(at_ p).isZero)).length)

/-- A group and column of a compressed tile: the two slots and codes, the non-zero values dropped, re-formed or not. -/
structure Group24 where
  v0 : Nat
  v1 : Nat
  c0 : Nat
  c1 : Nat
  dropped : Nat := 0
  fixed : Bool := false
  deriving DecidableEq, Repr

/-- The check of R84 on one group and column: equal or decreasing codes are re-formed, or zeroed under STRICT. -/
def checkGroup (sp : Nat) (strict : Bool) (v0 v1 c0 c1 : Nat) : Group24 :=
  if c0 < c1 then { v0 := v0, v1 := v1, c0 := c0, c1 := c1 }
  else if strict then { v0 := 0, v1 := 0, c0 := 0, c1 := 1, fixed := true }
  else
    let m0 := cellMag sp v0
    let m1 := cellMag sp v1
    let win0 := !(magGt m1 m0)
    let place (p : Nat) : Nat :=
      if c0 = c1 then (if p = c0 then (if win0 then v0 else v1) else 0)
      else if p = c0 then v0 else if p = c1 then v1 else 0
    let lost := if c0 = c1 then b2n (!(if win0 then m1 else m0).isZero) else 0
    let r := compress4 ((List.range 4).map (fun p => cellMag sp (place p)))
    { v0 := place r.1, v1 := place r.2.1, c0 := r.1, c1 := r.2.1, dropped := lost + r.2.2, fixed := true }

end Sys2Proof.Machine
end

