-- ==== Sys2Proof/Machine/Tamper.lean ====
section
/-! DEFINITION. Sys2Proof/Machine/Tamper.lean: the Tamper's operations (R126–R133, R390). One command runs one iteration of the
step in force of SEQ[t][3]. -/
namespace Sys2Proof.Machine

def layQ (t : Fin 160) : SeqId := .tile t 3

/-! ### The record (Table 6.2) -/

/-- The fields of a record's quadwords. -/
structure LayRec where
  rows : Nat
  cols : Nat
  src : Nat
  dst : Nat
  prec : Nat
  sprec : Nat
  srcPitch : Nat
  dstPitch : Nat
  gRows : Nat
  gCols : Nat
  headroom : Nat
  sparse : Bool
  vecs : Nat
  key : Nat
  deriving DecidableEq, Repr

def layRec (r : List Nat) : LayRec :=
  { rows := fld r 0 0 16, cols := fld r 0 16 16, src := fld r 0 32 8, dst := fld r 0 40 8, prec := fld r 0 48 6,
    sprec := fld r 0 56 6, srcPitch := fld r 1 0 32, dstPitch := fld r 1 32 32, gRows := fld r 2 0 16, gCols := fld r 2 16 16,
    headroom := fld r 2 32 3, sparse := fld r 2 35 1 = 1, vecs := fld r 2 36 13, key := fld r 3 0 41 }

/-- A record is valid (R126). -/
def LayRec.valid (t : Nat) (r : LayRec) : Bool :=
  fmtOk r.src && fmtOk r.dst && r.gRows ≠ 0 && r.gCols ≠ 0 && (r.key = 0 || localInSlot t r.key 16)

/-- The array fields of a record are valid (R70, R126). -/
def LayRec.arrayOk (r : LayRec) : Bool := arrCodesOk r.prec r.sprec r.sparse r.vecs

/-- CFG_INVALID of the Tamper. -/
def layCfgInvalid (s : State) (t : Fin 160) : State :=
  let q := layQ t
  noteStatus ((Blk.lay t).raise ((Blk.lay t).event s 20) 0x0102 (seqPart s q) 0) q tkMemory

/-- TILE_HDR (R131, R132). -/
def layTileHdr (s : State) (t : Fin 160) : State :=
  let q := layQ t
  let b := Blk.lay t
  noteStatus (b.raise (b.event (b.sat s 0x64) 19) 0x0103 (seqPart s q) 0) q tkMemory

/-! ### Iterations -/

/-- The flattened iteration of the step. -/
def layIter (s : State) (t : Fin 160) : Nat := flatIter (getSeq s (layQ t)) % 2 ^ 32

/-- Write bytes at an operand, counted in BYTES_OUT. -/
def layWrite (t : Fin 160) (o : Operand) (off : Nat) (s : State) (bs : List Byte) : State :=
  (Blk.lay t).add (writeD s (layQ t) o off bs) 0x78 bs.length

/-- Write rows of bytes `pitch` apart. -/
def layRows (t : Fin 160) (o : Operand) (pitch : Nat) (s : State) (rows : List (List Byte)) : State :=
  forEach rows.zipIdx s (fun s e => layWrite t o (e.2 * pitch) s e.1)

/-- Count saturations and NaNs that became integers. -/
def layCount (t : Fin 160) (s : State) (sat special : Nat) : State := (Blk.lay t).sat ((Blk.lay t).sat s 0x5C sat) 0x60 special

/-- Read spans, and the step's key where it is wanted, then go on with what was read; a failed read ends the iteration
with nothing written (R126). -/
def layRead (t : Fin 160) (s : State) (aD : Nat) (key : Option Nat) (spans : List Span)
    (k : Key → List (List Byte) → State → IterResult) : IterResult :=
  let q := layQ t
  let f := fetchSpans s q spans
  if !f.1 then .hold f.2
  else
    let y : Key × Bool × State := match key with
      | some o => stepKey f.2 q o
      | none => ({}, true, f.2)
    let r := readSpans y.2.2 q spans
    let s := (Blk.lay t).add r.2.2 0x70 ((spans.map (fun p => p.len)).foldl (· + ·) 0)
    if y.2.1 && r.2.1 then k y.1 r.1 s else .ran (noteStatus s q tkMemory) aD

/-- The rows of A: `n` rows of `c` elements. -/
def laySource (s : State) (t : Fin 160) (st : Step) (r : LayRec) (n c : Nat) : List Span :=
  rowSpans s (layQ t) 0 st.a 0 n (cellBytes r.src c) r.srcPitch r.src

/-- The key a conversion needs: under stochastic rounding, when values are converted at all. -/
def layKey (r : LayRec) (st : Step) (converts : Bool) : Option Nat :=
  if bits st.mode 0 2 = 2 ∧ converts then some r.key else none

/-- Rows of elements, converted, with what conversion counted; none where the spec defines no conversion (R99–R101). -/
def convRows (src dst rnd : Nat) (k : Key) (iter : Nat) (rows : List (List Nat)) : Option (List (List Nat) × Nat × Nat) :=
  if src = dst then some (rows, 0, 0)
  else if convertible src ∧ convertible dst then
    let cs := rows.zipIdx.map (fun e =>
      convertList dst rnd k (fun c => iter * 2 ^ 32 + e.2 * 2 ^ 16 + c) countAll (e.1.map (elemDecode src)))
    some (cs.map (·.codes), (cs.map (·.sat)).foldl (· + ·) 0, (cs.map (·.special)).foldl (· + ·) 0)
  else none

/-- Rows of free elements: an undefined conversion's result. -/
def freeRows (s : State) (w : Nat) : List (List Nat) → List (List Nat) × State
  | [] => ([], s)
  | r :: rs =>
    let f := freeBytes s ((r.length * w + 7) / 8)
    let t := freeRows f.2 w rs
    (unpackElems w r.length f.1 :: t.1, t.2)

/-- Convert rows and count; an undefined conversion gives free values. -/
def layConvert (t : Fin 160) (s : State) (src dst rnd : Nat) (k : Key) (rows : List (List Nat)) : List (List Nat) × State :=
  match convRows src dst rnd k (layIter s t) rows with
  | some r => (r.1, layCount t s r.2.1 r.2.2)
  | none => freeRows s (cellBits dst) rows

/-- Unpack the rows read. -/
def layUnpack (c n : Nat) (l : List (List Byte)) : List (List Nat) := l.map (unpackElems (cellBits c) n)

/-! ### The operations -/

/-- CONFIG (R126): the record is loaded for the next step. -/
def layConfigIter (t : Fin 160) (s : State) (st : Step) : IterResult :=
  let q := layQ t
  let b := Blk.lay t
  let aD := opAddr s q st.d
  layRead t s aD none [{ operand := 0, addr := opAddr s q st.a, len := 32, fmt := st.a.format, ep := opEpoch s q st.a }]
    (fun _ l s =>
      let r := quads (l.headD [])
      if (layRec r).valid t.val then .ran (b.wr (b.wr (setRec s b r) 0x40 (r.getD 0 0)) 0x48 1) aD
      else .ran (layCfgInvalid (b.wr (setRec s b []) 0x48 0) t) aD)

/-- COPY and TRANSPOSE (Table 6.1). -/
def layCopyIter (t : Fin 160) (transpose : Bool) (r : LayRec) (s : State) (st : Step) : IterResult :=
  let q := layQ t
  let aD := opAddr s q st.d
  let okW (c : Nat) : Bool := [8, 16, 32, 64].contains (cellBits c)
  if r.rows = 0 ∨ r.cols = 0 then .ran s aD
  else if transpose ∧ !(okW r.src && okW r.dst) then .ran (noteStatus s q tkMemory) aD
  else
    layRead t s aD (layKey r st (r.src ≠ r.dst)) (laySource s t st r r.rows r.cols) (fun k l s =>
      let y := layConvert t s r.src r.dst (bits st.mode 0 2) k (layUnpack r.src r.cols l)
      let rows := if transpose then transposeRows r.cols y.1 else y.1
      .ran (layRows t st.d r.dstPitch y.2 (rows.map (packElems (cellBits r.dst)))) aD)

/-- SKEW_STREAM (R78, R390). -/
def laySkewStreamIter (t : Fin 160) (r : LayRec) (s : State) (st : Step) : IterResult :=
  let q := layQ t
  let aD := opAddr s q st.d
  if !r.arrayOk then .ran (layCfgInvalid s t) aD
  else if r.vecs = 0 then .ran s aD
  else
    let n := if r.sparse then 512 else 256
    let f := arrFmt r.prec
    layRead t s aD (layKey r st (r.src ≠ f)) (laySource s t st r r.vecs n) (fun k l s =>
      let y := layConvert t s r.src f (bits st.mode 0 2) k (layUnpack r.src n l)
      let c := arrPeriod r.prec r.sprec
      let lines := (storedLines r.sparse c r.vecs).map (fun m =>
        streamLine r.sparse c (elemBits f) r.vecs m (fun v i => (y.1.getD v []).getD i 0))
      .ran (layWrite t st.d 0 y.2 lines.flatten) aD)

/-- An integer code sign- or zero-extended to `n` bits. -/
def extendCode (c n v : Nat) : Nat := if intSigned c then unsigned n (signed (elemBits c) v) else v

/-- The slots of a stationary row from its values: pairs share a slot (R80). -/
def statSlots (sp : Nat) (row : List Nat) : List Nat :=
  let f := arrFmt sp
  (List.range 256).map (fun j =>
    if arrPaired sp then extendCode f 8 (row.getD (2 * j) 0) + 2 ^ 8 * extendCode f 8 (row.getD (2 * j + 1) 0)
    else if arrInt sp && !arrWide sp then extendCode f 16 (row.getD j 0)
    else row.getD j 0)

/-- The 256 lines of a tile, and its metadata plane where there are codes (R80). -/
def statLines (ws : Nat) (slots codes : List (List Nat)) : List Byte :=
  (List.range 256).flatMap (fun m => tileLine ws m (fun i j => (slots.getD i []).getD j 0)) ++
  (if codes = [] then []
   else (List.range 256).flatMap (fun m => tileLine 2 m (fun i j => (codes.getD i []).getD j 0)))

/-- SKEW_STAT (R80, R390). -/
def laySkewStatIter (t : Fin 160) (r : LayRec) (s : State) (st : Step) : IterResult :=
  let q := layQ t
  let aD := opAddr s q st.d
  if !r.arrayOk then .ran (layCfgInvalid s t) aD
  else
    let n := if arrPaired r.sprec then 512 else 256
    let f := arrFmt r.sprec
    layRead t s aD (layKey r st (r.src ≠ f)) (laySource s t st r 256 n) (fun k l s =>
      let y := layConvert t s r.src f (bits st.mode 0 2) k (layUnpack r.src n l)
      .ran (layWrite t st.d 0 y.2 (statLines (slotWidth r.sprec) (y.1.map (statSlots r.sprec)) [])) aD)

/-- A dense group of one column compressed (R83, R129): slots, codes and non-zero values dropped, or the STRICT form. -/
def packGroup (sp : Nat) (strict : Bool) (v : List Nat) : Group24 :=
  let m := v.map (cellMag sp)
  if strict ∧ 2 < (m.filter (fun x => !x.isZero)).length then { v0 := 0, v1 := 0, c0 := 0, c1 := 1, fixed := true }
  else
    let r := compress4 m
    { v0 := v.getD r.1 0, v1 := v.getD r.2.1 0, c0 := r.1, c1 := r.2.1, dropped := r.2.2 }

/-- PACK24's groups (R129): of dense rows, or of compressed rows with their codes under PRECOMP. -/
def packGroups (sp : Nat) (strict precomp : Bool) (slots codes : List (List Nat)) : List (List Group24) :=
  (List.range 128).map (fun g => (List.range 256).map (fun j =>
    let v (i : Nat) : Nat := (slots.getD i []).getD j 0
    let c (i : Nat) : Nat := (codes.getD i []).getD j 0
    if precomp then checkGroup sp strict (v (2 * g)) (v (2 * g + 1)) (c (2 * g)) (c (2 * g + 1))
    else packGroup sp strict [v (4 * g), v (4 * g + 1), v (4 * g + 2), v (4 * g + 3)]))

/-- The compressed rows of groups, slots or codes. -/
def groupRows (gs : List (List Group24)) (a b : Group24 → Nat) : List (List Nat) :=
  gs.flatMap (fun g => [g.map a, g.map b])

/-- PACK24 (R129, R390). Under PRECOMP a group holds two values, so dropping one is counted and is no prune event; a group with wrong
codes is counted also where STRICT zeroes it (Table 6.8). -/
def layPack24Iter (t : Fin 160) (r : LayRec) (s : State) (st : Step) : IterResult :=
  let q := layQ t
  let b := Blk.lay t
  let aD := opAddr s q st.d
  let strict := bit st.mode 2
  let precomp := bit st.mode 3
  if !r.arrayOk then .ran (layCfgInvalid s t) aD
  else
    let n := if arrPaired r.sprec then 512 else 256
    let nr := if precomp then 256 else 512
    let f := arrFmt r.sprec
    let plane := if precomp then rowSpans s q 0 st.a (256 * r.srcPitch) 256 64 64 0 else []
    layRead t s aD (layKey r st (r.src ≠ f)) (laySource s t st r nr n ++ plane) (fun k l s =>
      let y := layConvert t s r.src f (bits st.mode 0 2) k (layUnpack r.src n (l.take nr))
      let slots := y.1.map (statSlots r.sprec)
      let codes := (l.drop nr).map (unpackElems 2 256)
      let gs := packGroups r.sprec strict precomp slots codes
      let all := gs.flatten
      let bad := (all.filter (·.fixed)).length
      let dropped := (all.map (·.dropped)).foldl (· + ·) 0
      let s := y.2
      let s := if dropped = 0 then s else if precomp then b.sat s 0x4C dropped else b.event (b.sat s 0x4C dropped) 16
      let s := if bad = 0 ∨ !precomp then s else b.sat s 0x50 bad
      let s := if bad = 0 then s
        else if strict then noteStatus (b.raise (b.event s 18) 0x0101 (seqPart s q) 0) q tkMemory
        else b.event s 17
      .ran (layWrite t st.d 0 s (statLines (slotWidth r.sprec) (groupRows gs (·.v0) (·.v1)) (groupRows gs (·.c0) (·.c1)))) aD)

/-- The scale byte of element (r, c) (R130). -/
def scaleIndex (r : LayRec) (row col : Nat) : Nat := row / r.gRows * ((r.cols + r.gCols - 1) / r.gCols) + col / r.gCols

/-- QUANT and DEQUANT (R117, R130): each element meets its group's byte; a group under byte 255 is counted once. -/
def layQuantIter (t : Fin 160) (dequant : Bool) (r : LayRec) (s : State) (st : Step) : IterResult :=
  let q := layQ t
  let aD := opAddr s q st.d
  if r.rows = 0 ∨ r.cols = 0 then .ran s aD
  else
    let ng := ((r.rows + r.gRows - 1) / r.gRows) * ((r.cols + r.gCols - 1) / r.gCols)
    let scales : Span := { operand := 1, addr := opAddr s q st.b, len := ng, fmt := 7, ep := opEpoch s q st.b }
    let rnd := bits st.mode 0 2
    layRead t s aD (layKey r st true) (scales :: laySource s t st r r.rows r.cols) (fun k l s =>
      let bytes := (l.headD []).map (·.toNat)
      let rows := layUnpack r.src r.cols (l.drop 1)
      let bad := (bytes.filter (· = 255)).length
      if !(convertible r.src && convertible r.dst) then
        let y := freeRows s (cellBits r.dst) rows
        .ran (layRows t st.d r.dstPitch y.2 (y.1.map (packElems (cellBits r.dst)))) aD
      else
        let iter := layIter s t
        let cs := rows.zipIdx.map (fun e =>
          let byteOf (c : Nat) : Nat := bytes.getD (scaleIndex r e.2 c) 0
          convertList r.dst rnd k (fun c => iter * 2 ^ 32 + e.2 * 2 ^ 16 + c) (fun c => byteOf c ≠ 255)
            (e.1.zipIdx.map (fun x =>
              let v := elemDecode r.src x.1
              if dequant then unscale (byteOf x.2) v else divScale (byteOf x.2) v)))
        let s := layCount t s ((cs.map (·.sat)).foldl (· + ·) 0) (bad + (cs.map (·.special)).foldl (· + ·) 0)
        .ran (layRows t st.d r.dstPitch s (cs.map (fun c => packElems (cellBits r.dst) c.codes))) aD)

/-- ROWQUANT (R110, R130). -/
def layRowQuantIter (t : Fin 160) (r : LayRec) (s : State) (st : Step) : IterResult :=
  let q := layQ t
  let aD := opAddr s q st.d
  if !isScaled r.dst then .ran (layCfgInvalid s t) aD
  else if r.rows = 0 ∨ r.cols = 0 then .ran s aD
  else
    let rnd := bits st.mode 0 2
    layRead t s aD (layKey r st true) (laySource s t st r r.rows r.cols) (fun k l s =>
      let rows := layUnpack r.src r.cols l
      if !(convertible r.src) then
        let f := freeBytes s r.rows
        let y := freeRows f.2 (cellBits r.dst) rows
        .ran (layRows t st.d r.dstPitch (layWrite t st.b 0 y.2 f.1) (y.1.map (packElems (cellBits r.dst)))) aD
      else
        let iter := layIter s t
        let vals := rows.map (fun row => row.map (elemDecode r.src))
        let bytes := vals.map (fun row => scaleByte (boundExp row) r.headroom (topOf r.dst))
        let cs := (vals.zip bytes).zipIdx.map (fun e =>
          convertList r.dst rnd k (fun c => iter * 2 ^ 32 + e.2 * 2 ^ 16 + c) countAll (e.1.1.map (divScale e.1.2)))
        let s := layCount t s ((cs.map (·.sat)).foldl (· + ·) 0) ((cs.map (·.special)).foldl (· + ·) 0)
        let s := layWrite t st.b 0 s (bytes.map (BitVec.ofNat 8))
        .ran (layRows t st.d r.dstPitch s (cs.map (fun c => packElems (cellBits r.dst) c.codes))) aD)

/-! ### Packed tiles (R131, R132) -/

/-- Bytes padded with zeros to a multiple of 8. -/
def padQw (bs : List Byte) : List Byte := bs ++ List.replicate ((8 - bs.length % 8) % 8) 0

/-- The shape and format of a packed tile are allowed. -/
def tileShapeOk (rows cols c : Nat) : Bool :=
  fmtOk c && [8, 16, 32].contains (elemBits c) && rows * cols * (elemBits c / 8) ≤ 262144

/-- Bytes of the bitmap of `n` elements, padded. -/
def bitmapBytes (n : Nat) : Nat := 8 * ((n + 63) / 64)

/-- The dense and the compressed payload of elements of `w` bits. -/
def densePayload (w : Nat) (l : List Nat) : List Byte := padQw (packElems w l)
def compPayload (w : Nat) (l : List Nat) : List Byte :=
  padQw (packElems 1 (l.map (fun v => b2n (v ≠ 0)))) ++ padQw (packElems w (l.filter (· ≠ 0)))

/-- The header of a packed tile (Table 6.3). -/
def tileHeader (comp : Bool) (c rows cols qws : Nat) : List Byte :=
  leBytes 8 (b2n comp + c * 2 ^ 8 + rows * 2 ^ 16 + cols * 2 ^ 32 + qws * 2 ^ 48)

/-- TILE_PACK (R131). -/
def layTilePackIter (t : Fin 160) (r : LayRec) (s : State) (st : Step) : IterResult :=
  let q := layQ t
  let b := Blk.lay t
  let aD := opAddr s q st.d
  if r.rows = 0 ∨ r.cols = 0 then .ran s aD
  else if !tileShapeOk r.rows r.cols r.src then .ran (layTileHdr s t) aD
  else
    layRead t s aD none (laySource s t st r r.rows r.cols) (fun _ l s =>
      let w := elemBits r.src
      let es := (layUnpack r.src r.cols l).flatten
      let dense := densePayload w es
      let comp := compPayload w es
      let small : Bool := comp.length < dense.length
      let p := if small then comp else dense
      let s := b.sat s (if small then 0x54 else 0x58)
      .ran (layWrite t st.d 0 s (tileHeader small r.src r.rows r.cols (p.length / 8) ++ p)) aD)

/-- The elements of a payload: none when its length is not what the header implies. -/
def unpackPayload (comp : Bool) (w n : Nat) (p : List Byte) : Option (List Nat) :=
  if comp then
    let m := bitmapBytes n
    if p.length < m then none
    else
      let present := unpackElems 1 n (p.take m)
      let k := present.foldl (· + ·) 0
      if p.length ≠ m + 8 * ((k * w + 63) / 64) then none
      else
        let vals := unpackElems w k (p.drop m)
        some ((present.foldl (fun a x => if x = 1 then (a.1 ++ [vals.getD a.2 0], a.2 + 1) else (a.1 ++ [0], a.2)) ([], 0)).1)
  else if p.length ≠ 8 * ((n * w + 63) / 64) then none
  else some (unpackElems w n p)

/-- TILE_UNPACK (R132): the header, then the payload it names. -/
def layTileUnpackIter (t : Fin 160) (r : LayRec) (s : State) (st : Step) : IterResult :=
  let q := layQ t
  let aA := opAddr s q st.a
  let aD := opAddr s q st.d
  let span (off n : Nat) : Span := { operand := 0, addr := (aA + off) % 2 ^ 64, len := n, fmt := st.a.format, ep := opEpoch s q st.a }
  let s0 := s
  layRead t s aD none [span 0 8] (fun _ l s =>
    let h := leNat (l.headD [])
    let c := bits h 8 8
    let rows := bits h 16 16
    let cols := bits h 32 16
    let n := 8 * bits h 48 16
    if bits h 1 7 ≠ 0 ∨ rows = 0 ∨ cols = 0 ∨ !tileShapeOk rows cols c then .ran (layTileHdr s t) aD
    else if !bit h 0 ∧ n ≠ 8 * ((rows * cols * elemBits c + 63) / 64) then .ran (layTileHdr s t) aD
    else if !(fetchSpans s q [span 8 n]).1 then .hold (fetchSpans s0 q [span 8 n]).2
    else
      layRead t s aD none [span 8 n] (fun _ l s =>
        match unpackPayload (bit h 0) (elemBits c) (rows * cols) (l.headD []) with
        | none => .ran (layTileHdr s t) aD
        | some es =>
          .ran (layRows t st.d r.dstPitch s
            ((List.range rows).map (fun i => packElems (elemBits c) ((es.drop (i * cols)).take cols)))) aD))

/-- The block list of a bitmap's rows (R85, R133). -/
def blockEntries (rows : List (List Nat)) : List Nat :=
  rows.zipIdx.flatMap (fun e =>
    let ks := (e.1.zipIdx.filter (fun x => x.1 = 1)).map (·.2)
    ks.zipIdx.map (fun x => x.1 + e.2 * 2 ^ 16 + b2n (x.2 = 0) * 2 ^ 32))

/-- BLOCKLIST (R127, R133). -/
def layBlockListIter (t : Fin 160) (r : LayRec) (s : State) (st : Step) : IterResult :=
  let q := layQ t
  let aD := opAddr s q st.d
  if r.rows = 0 ∨ r.cols = 0 then .ran (layWrite t st.b 0 s (leBytes 4 0)) aD
  else
    layRead t s aD none (rowSpans s q 0 st.a 0 r.rows ((r.cols + 7) / 8) r.srcPitch 0) (fun _ l s =>
      let es := blockEntries (l.map (unpackElems 1 r.cols))
      let cap := st.d.length / 8
      let s := if cap < es.length then (Blk.lay t).countErr (noteStatus s q tkCountRange) else s
      let out := es.take cap
      let s := if out = [] then s else layWrite t st.d 0 s (out.flatMap (leBytes 8))
      .ran (layWrite t st.b 0 s (leBytes 4 out.length)) aD)

/-! ### The commands -/

/-- An iteration of an operation other than CONFIG: under a valid record (R126), below the limit of 64 in flight (R128).
Word 9 says since when the issue is held. -/
def layUnder (t : Fin 160) (body : LayRec → State → Step → IterResult) (s : State) (st : Step) : IterResult :=
  let q := layQ t
  match recOf s (.lay t) with
  | [] => .ran (noteStatus s q tkMemory) (opAddr s q st.d)
  | r =>
    if (scr s q 9).isSome then .hold s
    else if 64 ≤ (inFlightIters s q).length then .hold (setScr s q 9 s.now)
    else
      match body (layRec r) s st with
      | .hold s => .hold s
      | .ran s' d =>
        let s' := (Blk.cntT t).add s' 0x58 st.cycles
        .ran (modSeq s' q (fun x => { x with flight := inFlightIters s' q ++ [(s.nextOut, s'.nextOut)] })) d

/-- An operation of the Tamper's step in force. -/
def runLay (t : Fin 160) (op : Nat) (body : LayRec → State → Step → IterResult) (s : State) : Out :=
  .next (runIter (layQ t) op (layUnder t body) s)

/-- LAY_CONFIG (R126). -/
def execLayConfig (t : Fin 160) (s : State) : Out := .next (runIter (layQ t) 0x10 (layConfigIter t) s)

/-- COPY (R126). -/
def execCopy (t : Fin 160) (s : State) : Out := runLay t 0x11 (layCopyIter t false) s

/-- TRANSPOSE (R126). -/
def execTranspose (t : Fin 160) (s : State) : Out := runLay t 0x12 (layCopyIter t true) s

/-- SKEW_STREAM (R390). -/
def execSkewStream (t : Fin 160) (s : State) : Out := runLay t 0x13 (laySkewStreamIter t) s

/-- SKEW_STAT (R390). -/
def execSkewStat (t : Fin 160) (s : State) : Out := runLay t 0x14 (laySkewStatIter t) s

/-- PACK24 (R129). -/
def execPack24 (t : Fin 160) (s : State) : Out := runLay t 0x15 (layPack24Iter t) s

/-- QUANT (R130). -/
def execQuant (t : Fin 160) (s : State) : Out := runLay t 0x16 (layQuantIter t false) s

/-- DEQUANT (R130). -/
def execDequant (t : Fin 160) (s : State) : Out := runLay t 0x17 (layQuantIter t true) s

/-- ROWQUANT (R130). -/
def execRowquant (t : Fin 160) (s : State) : Out := runLay t 0x18 (layRowQuantIter t) s

/-- TILE_PACK (R131). -/
def execTilePack (t : Fin 160) (s : State) : Out := runLay t 0x19 (layTilePackIter t) s

/-- TILE_UNPACK (R132). -/
def execTileUnpack (t : Fin 160) (s : State) : Out := runLay t 0x1A (layTileUnpackIter t) s

/-- BLOCKLIST (R133). -/
def execBlocklist (t : Fin 160) (s : State) : Out := runLay t 0x1B (layBlockListIter t) s

/-- LAY_INFLIGHT_RELEASE (R128): an earlier iteration has completed, and the held one may issue; the cycles it was held are
counted. -/
def execLayInflightRelease (t : Fin 160) (s : State) : Out :=
  .next (
    let q := layQ t
    match scr s q 9 with
    | some since =>
      if (inFlightIters s q).length < 64 then
        let w := (s.now - since) * seqMhz s q
        (Blk.lay t).sat (delScr s q 9) 0x68 w
      else s
    | none => s)

end Sys2Proof.Machine
end

