-- ==== Sys2Proof/Machine/Drain.lean ====
section
/-! DEFINITION. Sys2Proof/Machine/Drain.lean: a column's accumulator (R67, R68), the drain's stages (R89, R90, R112–R114) and the
scale block (R111, R115). -/
namespace Sys2Proof.Machine

/-! ### Columns (R67, R68) -/

/-- A column's accumulator: its 40-bit sum in grid units and its sticky flags. -/
structure Col where
  sum : Int := 0
  ovf : Bool := false
  nan : Bool := false
  pinf : Bool := false
  ninf : Bool := false
  deriving DecidableEq, Repr

/-- Add to the sum: outside 40 bits the adder saturates and OVF is set. -/
def Col.add (c : Col) (x : Int) : Col :=
  let y := c.sum + x
  if y < -(2 ^ 39 : Int) then { c with sum := -(2 ^ 39 : Int), ovf := true }
  else if (2 ^ 39 : Int) ≤ y then { c with sum := 2 ^ 39 - 1, ovf := true }
  else { c with sum := y }

/-- A product that is no finite value sets a flag and adds 0. -/
def Col.flag (c : Col) (p : NumVal) : Col :=
  match p with
  | .nan _ _ => { c with nan := true }
  | .inf n => if n then { c with ninf := true } else { c with pinf := true }
  | .fin _ _ _ => c

/-- One piece's product, truncated to the grid 2^(E − 158); `w` is the whole stationary value, whose kind sets the flags. -/
def Col.product (e : Nat) (c : Col) (w piece x : NumVal) : Col :=
  if w.isFin && x.isFin then c.add (gridFloor (piece.mul x) e) else c.flag (w.mul x)

/-- A partial sum's element converted into the grid (R69, R74). -/
def psumCol (fmt e v : Nat) : Col :=
  if fmt % 128 = 6 then
    let s := signed 32 (bits v 0 32)
    let c : Col := { nan := bit v 40, pinf := bit v 41, ninf := bit v 42 }
    c.add (gridFloor (.fin (s < 0) s.natAbs ((bits v 32 8 : Nat) - 158)) e)
  else
    let x := elemDecode fmt v
    if x.isFin then ({} : Col).add (gridFloor x e) else ({} : Col).flag x

/-- A column's sum with a partial sum added in the drain. -/
def Col.plus (c p : Col) : Col :=
  let d := c.add p.sum
  { d with ovf := d.ovf || p.ovf, nan := d.nan || p.nan, pinf := d.pinf || p.pinf, ninf := d.ninf || p.ninf }

/-- The value a column delivers at capture (R89). -/
def Col.value (e : Nat) (c : Col) : NumVal :=
  if c.nan || (c.pinf && c.ninf) then .qnan
  else if c.pinf then .inf false
  else if c.ninf then .inf true
  else .fin (c.sum < 0) c.sum.natAbs ((e : Int) - 158)

/-- The accumulator shortfall (R90): 0 when the sum fits S; a NaN or infinity delivered overflows nothing. -/
def Col.shortfall (c : Col) : Nat :=
  if c.nan || c.pinf || c.ninf then 0
  else if c.ovf then 8
  else ((List.range 9).find? (fun k => decide (-(2 ^ (31 + k) : Int) ≤ c.sum ∧ c.sum < 2 ^ (31 + k)))).getD 8

/-! ### Output range (R90, R101, R113) -/

/-- The largest finite value of a format. -/
def largestOf (c : Nat) : NumVal :=
  match fpOf c with
  | some f => f.decode f.maxCode
  | none => if intSigned c then .fin false (2 ^ (elemBits c - 1) - 1) 0 else .fin false (2 ^ elemBits c - 1) 0

/-- A finite value exceeds a format's range; a negative value meeting an unsigned format becomes 0 (R101). -/
def outOfRange (c : Nat) (x : NumVal) : Bool :=
  if !x.isFin then false
  else if (fpOf c).isSome then (largestOf c).lt x.abs
  else if x.isNeg then intSigned c && x.lt (.fin true (2 ^ (elemBits c - 1)) 0)
  else (largestOf c).lt x

/-- The smallest s of 0–8 for which every magnitude, divided by 2^(b − 127 + s), is at most the largest finite value; 8 when
there is none (R113). -/
def outputNeed (c b : Nat) (mags : List NumVal) : Nat :=
  ((List.range 9).find? (fun (k : Nat) => mags.all (fun x => !(largestOf c).lt ((x.abs).scale (127 - (b : Int) - k))))).getD 8

/-- Conversion at the drain: out-of-range finite values saturate (R90, R100). -/
def drainEncode (c rnd r : Nat) (x : NumVal) : Nat :=
  match fpOf c with
  | some f => (f.encodeSat rnd r x).v
  | none => (intEncode (elemBits c) (intSigned c) rnd r x).v

/-- An integer clamped to 32 signed bits. -/
def clamp32 (x : Int) : Int := max (-(2 ^ 31 : Int)) (min (2 ^ 31 - 1) x)

/-- An ACC40 element of a column whose value after the stages is `y` (R69, R101). -/
def acc40Column (e : Nat) (c : Col) (y : NumVal) (beyond : Bool) : Nat :=
  let y0 := c.value e
  let kind (x : NumVal) : Bool × Bool × Bool := (x.isNan, x.isInf && !x.isNeg, x.isInf && x.isNeg)
  let f := if !y0.isFin && kind y = kind y0 then (c.nan, c.pinf, c.ninf) else kind y
  let s := if !y.isFin then clamp32 c.sum
    else if beyond then (if y.isNeg then -(2 ^ 31 : Int) else 2 ^ 31 - 1)
    else clamp32 (gridFloor y e)
  acc40Of s e + b2n f.1 * 2 ^ 40 + b2n f.2.1 * 2 ^ 41 + b2n f.2.2 * 2 ^ 42

/-! ### The stages (R112–R114) -/

/-- What the drain applies to a vector's values. -/
structure Stage where
  /-- D's format, RND and the key record. -/
  fmt : Nat
  rnd : Nat
  key : Key
  /-- The element index of channel 0 (R105). -/
  idx : Nat
  /-- The write is final. -/
  final : Bool
  /-- The exponent of stages 1 and 2; none under an invalid scale. -/
  shift : Option Int
  /-- Stage 3's channel scales; none without CHSCALE. -/
  ch : Option (List NumVal)
  /-- The block scale byte, when stage 5 divides by it. -/
  blockByte : Nat
  /-- A row scale byte is chosen with this head-room (R114). -/
  rowScale : Option Nat
  /-- An overflow may be mended by a block scale byte (R113). -/
  mendable : Bool
  deriving DecidableEq, Repr

/-- What draining one vector gives. -/
structure Drained where
  codes : List Nat := []
  /-- The largest accumulator shortfall. -/
  acc : Nat := 0
  /-- A value exceeds D's range where a block scale byte may mend it, and the s that all values need. -/
  beyond : Bool := false
  need : Nat := 0
  /-- Values written saturated. -/
  saturated : Nat := 0
  special : Nat := 0
  /-- A of the observed magnitudes (R110), and the largest captured sum. -/
  seen : Nat := 0
  sumMax : Nat := 0
  rowByte : Nat := 0
  deriving DecidableEq, Repr

/-- The values of a vector after stages 1 to 3. -/
def Stage.values (g : Stage) (e : Nat) (cols : List Col) : List NumVal :=
  cols.zipIdx.map (fun c =>
    let y := c.1.value e
    if !g.final then y
    else match g.shift with
      | none => .qnan
      | some k =>
        let y := y.scale k
        match g.ch with
        | none => y
        | some l => y.mul (l.getD c.2 .one))

/-- Drain one vector's columns. For a format without a conversion (RAW, SCALE8, BFP) the codes have no meaning; no value exceeds its
range. -/
def Stage.drain (g : Stage) (e : Nat) (cols : List Col) : Drained :=
  let ys := g.values e cols
  let seen := if g.final then ys.filter (·.isFin) else []
  let rowByte : Nat := match g.rowScale with
    | some h => scaleByte (boundExp seen) h (topOf g.fmt)
    | none => 0
  let div : Int :=
    if g.final && isScaled g.fmt then (if g.rowScale.isSome then (rowByte : Int) else g.blockByte) - 127 else 0
  let l := (cols.zip ys).zipIdx
  let bad (x : (Col × NumVal) × Nat) : Bool := x.1.2.isFin && x.1.1.shortfall ≠ 0
  let out (x : (Col × NumVal) × Nat) : Bool :=
    if g.fmt % 128 = 6 then x.1.2.isFin && !fits32 (gridFloor x.1.2 e)
    else convertible g.fmt && outOfRange g.fmt (x.1.2.scale (-div))
  { codes := l.map (fun x =>
      if g.fmt % 128 = 6 then acc40Column e x.1.1 x.1.2 (bad x)
      else
        let v := if bad x then .fin x.1.2.isNeg 1 10000 else x.1.2.scale (-div)
        drainEncode g.fmt g.rnd (g.key.draw g.rnd (g.idx + x.2)) v),
    acc := cols.foldl (fun m c => max m c.shortfall) 0,
    beyond := g.mendable && l.any out,
    need := if g.mendable then outputNeed g.fmt g.blockByte seen else 0,
    saturated := (l.filter (fun x => bad x || out x)).length,
    special := (l.filter (fun x => !(x.1.1.value e).isFin || (g.shift.isSome && !x.1.2.isFin))).length +
      b2n (g.final && g.shift.isNone),
    seen := boundExp seen,
    sumMax := cols.foldl (fun m c => max m c.sum.natAbs) 0,
    rowByte := rowByte }

/-! ### The scale block (R111) -/

/-- The header of the scale block as a step holds it (Table 5.5). -/
structure Head where
  base : Nat := 0
  out : Nat := 127
  amax : Nat := 0
  inExp : Nat := 127
  auto : Bool := false
  q0 : Nat := 0
  block : Nat := 0
  row : Nat := 0
  input : Nat := 0
  key : Key := {}
  deriving DecidableEq, Repr

/-- The header from its six quadwords; without a scale block, the defaults (R111). -/
def scaleHeadOf (base : Nat) (q : List Nat) : Head :=
  if base = 0 then {}
  else
    let w (i : Nat) : Nat := q.getD i 0
    { base := base, out := bits (w 0) 0 8, amax := bits (w 0) 8 8, inExp := bits (w 0) 16 8, auto := bit (w 0) 24, q0 := w 0,
      block := bits (w 1) 0 41, row := bits (w 2) 0 41, input := bits (w 3) 0 41, key := keyOf (w 4) (w 5) }

/-- The header's Q0 at step end (R115): `seen` is A over what the step observed. -/
def Head.atEnd (h : Head) (fmt headroom seen : Nat) : Nat :=
  let amax := max seen (h.amax - 1)
  let out := if h.auto && isScaled fmt then scaleByte amax headroom (topOf fmt) else h.out
  putBits (putBits (putBits h.q0 0 8 out) 8 8 amax) 32 8 seen

/-- EXP_EST at step end (R115). -/
def estAtEnd (e sumMax headroom est : Nat) : Nat :=
  let bl := if sumMax = 0 then 0 else Nat.log2 sumMax + 1
  max (max 0 (min 255 ((e : Int) + bl + headroom - 31))).toNat (est - 1)

end Sys2Proof.Machine
end

