-- ==== Sys2Proof/Machine/Matrix.lean ====
section
/-! DEFINITION. Sys2Proof/Machine/Matrix.lean: the Matrix Array's operations (R71–R88) and the drain's verdict (R90, R91). A PASS
iteration runs in two commands: MXA_PASS streams and drains it, DRAIN_VERDICT ends it or has it replayed. -/
namespace Sys2Proof.Machine

def mxaQ (t : Fin 160) (a : Fin 2) : SeqId := .tile t ⟨a.val, by omega⟩

/-! ### The record (Table 4.3) -/

/-- The fields of a record. -/
structure MxaRec where
  prec : Nat
  sprec : Nat
  sparse : Bool
  strict : Bool
  blocked : Bool
  expSrc : Bool
  accExp : Nat
  vecs : Nat
  kbGrid : Nat
  nbGrid : Nat
  blist : Nat
  deriving DecidableEq, Repr

def mxaRec (r : List Nat) : MxaRec :=
  { prec := fld r 0 0 6, sprec := fld r 0 8 6, sparse := fld r 0 16 1 = 1, strict := fld r 0 17 1 = 1, blocked := fld r 0 18 1 = 1,
    expSrc := fld r 0 19 1 = 1, accExp := fld r 0 24 8, vecs := fld r 0 32 13, kbGrid := fld r 1 0 16, nbGrid := fld r 1 16 16,
    blist := fld r 2 0 41 }

/-- A record is valid (R70). -/
def MxaRec.valid (r : MxaRec) : Bool := arrCodesOk r.prec r.sprec r.sparse r.vecs

/-- Outputs per vector, and the bytes of a stationary tile with its metadata plane (R80). -/
def MxaRec.outputs (r : MxaRec) : Nat := arrOutputs r.sprec
def MxaRec.tileBytes (r : MxaRec) (diag : Bool) : Nat :=
  let ws := slotWidth r.sprec
  if diag then 32 * ws else 8192 * ws + (if r.sparse then 16384 else 0)

/-- The registers' state in an array's page. -/
def arrKey (t : Fin 160) (a : Fin 2) : Nat := 2 * t.val + a.val
def dArr (_ : Nat) : Arr := {}
def getArr (s : State) (t : Fin 160) (a : Fin 2) : Arr := SMap.get dArr s.arrs (arrKey t a)

/-- Set the array's registers; STAT shows them (Table 4.13). DESIGN CHOICE (log entry 187): WIDE and DIAG describe the active tile
alone, and SHADOW_VALID is 0 once the shadow has become active. -/
def setArr (s : State) (t : Fin 160) (a : Fin 2) (x : Arr) : State :=
  let act := match x.active with
    | some c => 2 + (if c.ws = 32 then 4 else 0) + 8 * b2n c.diag
    | none => 0
  (Blk.mxa t a).wr { s with arrs := SMap.set dArr s.arrs (arrKey t a) x } 0x58 (b2n x.shadow.isSome + act)

/-- CONFIG (R71): the record is loaded for the next LOAD or PASS. -/
def mxaConfigIter (t : Fin 160) (a : Fin 2) (s : State) (st : Step) : IterResult :=
  let q := mxaQ t a
  let b := Blk.mxa t a
  let aD := opAddr s q st.d
  let sp : Span := { operand := 0, addr := opAddr s q st.a, len := 32, fmt := st.a.format, ep := opEpoch s q st.a }
  let f := fetchSpans s q [sp]
  if !f.1 then .hold f.2
  else
    let x := readSpans f.2 q [sp]
    let s := x.2.2
    if !x.2.1 then .ran (noteStatus s q tkMemory) aD
    else
      let r := quads (x.1.headD [])
      if (mxaRec r).valid then
        let s := b.wr (setRec s b r) 0x40 ((r.getD 0 0) &&& 0x1FFFFF0F3F3F ||| 2 ^ 63)
        .ran (b.wr (b.wr s 0x48 (fld r 1 0 32)) 0x50 (fld r 2 0 41)) aD
      else
        let s := b.wr (setRec s b []) 0x40 ((b.rd s 0x40) % 2 ^ 63)
        .ran (noteStatus (b.raise (b.event s 20) 0x0102 (seqPart s q) 0) q tkMemory) aD

/-! ### Block lists (R85, R86) -/

/-- The word of a step that keeps entry `i` of its block list; bit 40 marks one that could not be read. -/
def entryWord (i : Nat) : Nat := 1000 + i

/-- Entry `i` as read by this step: KB, NB, FIRST. -/
def blockEntry (s : State) (q : SeqId) (i : Nat) : Option (Nat × Nat × Bool) :=
  match scr s q (entryWord i) with
  | some v => if bit v 40 then none else some (bits v 0 16, bits v 16 16, bit v 32)
  | none => none

/-- Where entry `i` lies. -/
def entrySpan (s : State) (r : MxaRec) (i : Nat) : Span := { operand := 0, addr := ownAddr s ((r.blist + 8 * i) % 2 ^ 41), len := 8 }

/-- Read the entries of a list that the step has not read yet. -/
def readEntries (s : State) (q : SeqId) (r : MxaRec) (l : List Nat) : State :=
  forEach (l.filter (fun i => (scr s q (entryWord i)).isNone)) s (fun s i =>
    let sp := entrySpan s r i
    let x := readOp s q 0 sp.addr 8 0 none
    setScr x.2.2 q (entryWord i) (if x.2.1 then leNat x.1 % 2 ^ 40 else 2 ^ 40))

/-- The address of an operand whose level-0 term takes `k` in place of i0, and level 2 `n` in place of i2. -/
def termAddr (s : State) (q : SeqId) (o : Operand) (k i1 n : Nat) : Nat := operandAddr (getSeq s q) o k i1 n

/-- The epoch of an operand at an iteration, when its tags are in use. -/
def termEpoch (s : State) (q : SeqId) (o : Operand) (i0 i1 i2 : Nat) : Option Nat :=
  if o.epochEn then some (operandEpoch (getSeq s q) o i0 i1 i2) else none

/-! ### Loading a stationary tile (R76, R80, R81, R84) -/

/-- Values of `w` bits packed into one number, the first lowest. -/
def packNat (w : Nat) (l : List Nat) : Nat := l.foldr (fun v acc => v % 2 ^ w + acc * 2 ^ w) 0

/-- The spans of a tile in the order R81 reads them: the first half of each line with its metadata line, then the second
halves. -/
def tileSpans (ws : Nat) (sparse : Bool) (addr : Nat) (ep : Option Nat) : List Span :=
  let sp (o n : Nat) : Span := { operand := 0, addr := (addr + o) % 2 ^ 64, len := n, ep := ep }
  let half (m : Nat) : Nat := (m + 1) * ws / 8
  (List.range 256).flatMap (fun m =>
    sp (m * (32 * ws)) (half m) :: (if sparse then [sp (256 * (32 * ws) + 64 * m) 64] else [])) ++
  (List.range 255).map (fun m => sp (m * (32 * ws) + half m) (32 * ws - half m))

/-- Line `m` and metadata line `m` of a tile from what its spans gave. -/
def tileLines (sparse : Bool) (l : List (List Byte)) : (Nat → Nat) × (Nat → Nat) :=
  let k := if sparse then 2 else 1
  (fun m => leNat (l.getD (k * m) [] ++ l.getD (k * 256 + m) []), fun m => leNat (l.getD (k * m + 1) []))

/-- The check of a compressed tile (R84): its slots and codes as loaded, counted and raised. DESIGN CHOICE (log entry 248): under
STRICT a tile with several failing groups raises its error once. -/
def mxaCheck (t : Fin 160) (a : Fin 2) (r : MxaRec) (slots codes : List (List Nat)) (s : State) :
    (List (List Nat) × List (List Nat)) × State :=
  let b := Blk.mxa t a
  let q := mxaQ t a
  let gs := packGroups r.sprec r.strict true slots codes
  let all := gs.flatten
  let fixed := (all.filter (·.fixed)).length
  let dropped := (all.map (·.dropped)).foldl (· + ·) 0
  let s := if dropped = 0 then s else b.event (b.sat s 0x60 dropped) 16
  let s := if fixed = 0 then s
    else if r.strict then noteStatus (b.raise (b.event s 19) 0x0101 (seqPart s q) 0) q tkMemory
    else b.event (b.sat s 0x64 fixed) 17
  ((groupRows gs (·.v0) (·.v1), groupRows gs (·.c0) (·.c1)), s)

/-- Load the tile at an address, which lies in the slot, into the shadow. -/
def loadTile (t : Fin 160) (a : Fin 2) (r : MxaRec) (diag : Bool) (addr : Nat) (ep : Option Nat) (s : State) : State :=
  let q := mxaQ t a
  let ws := slotWidth r.sprec
  if diag then
    let x := readOp s q 0 addr (32 * ws) 0 ep
    let row := leNat x.1
    let rows := (List.range 256).map (fun i => elemAt row ws i * 2 ^ (i * ws))
    let codes := if r.sparse then (List.range 256).map (fun i => packNat 2 (List.replicate 256 (i % 2))) else []
    setArr x.2.2 t a { getArr x.2.2 t a with shadow := some { ws := ws, diag := true, rows := rows, codes := codes } }
  else
    let x := readSpans s q (tileSpans ws r.sparse addr ep)
    let ln := tileLines r.sparse x.1
    let slots := (List.range 256).map (fun i => tileRow ws i ln.1)
    let y := if r.sparse then mxaCheck t a r slots ((List.range 256).map (fun i => tileRow 2 i ln.2)) x.2.2
      else ((slots, []), x.2.2)
    setArr y.2 t a { getArr y.2 t a with
      shadow := some { ws := ws, rows := y.1.1.map (packNat ws), codes := y.1.2.map (packNat 2) } }

/-- LOAD (R72, R76, R81). In BLOCKED mode its level 0 walks the block list too. -/
def mxaLoadIter (t : Fin 160) (a : Fin 2) (s : State) (st : Step) : IterResult :=
  let q := mxaQ t a
  let b := Blk.mxa t a
  let aD := opAddr s q st.d
  match recOf s b with
  | [] => .ran (noteStatus s q tkMemory) aD
  | rq =>
    let r := mxaRec rq
    let x := getSeq s q
    let f := if r.blocked then fetchSpans s q [entrySpan s r x.i0] else (true, s)
    if !f.1 then .hold f.2
    else
      let s := (Blk.cntT t).add (if r.blocked then readEntries f.2 q r [x.i0] else f.2) (0x40 + 8 * a.val) st.cycles
      let en := blockEntry s q x.i0
      let absent := r.blocked && (match en with
        | some e => r.kbGrid ≤ e.1 || r.nbGrid ≤ e.2.1
        | none => true)
      if absent then .ran s aD
      else
        let k := match en with | some e => (if r.blocked then (e.1, e.2.1) else (x.i0, x.i2)) | none => (x.i0, x.i2)
        let addr := termAddr s q st.a k.1 x.i1 k.2
        let aD := termAddr s q st.d k.1 x.i1 k.2
        let diag := bit st.mode 0
        if !inSlot s t.val addr (r.tileBytes diag) then
          .ran (noteStatus (b.raise s 0x0103 (seqPart s q) (addr % 2 ^ 32)) q tkMemory) aD
        else .ran (loadTile t a r diag addr (termEpoch s q st.a x.i0 x.i1 x.i2) s) aD

/-! ### A PASS iteration (R73–R75, R85–R88, R112) -/

/-- What an iteration of a PASS does. -/
structure Plan where
  r : MxaRec
  i0 : Nat
  i1 : Nat
  i2 : Nat
  /-- A and B are accessed and contribute. -/
  contrib : Bool := true
  /-- D is written. -/
  write : Bool := true
  /-- The partial sum is read. -/
  psum : Bool := false
  final : Bool := false
  /-- The output block's column NB, and the output block (R112). -/
  nb : Nat := 0
  ob : Nat := 0
  aAddr : Nat := 0
  bAddr : Nat := 0
  dAddr : Nat := 0
  pAddr : Nat := 0
  /-- Epochs of A, B, D and the partial sum. -/
  aEp : Option Nat := none
  bEp : Option Nat := none
  dEp : Option Nat := none
  pEp : Option Nat := none
  /-- The entry is out of the grid; it runs as though FIRST were set (R86). -/
  outOfGrid : Bool := false
  order : Bool := false
  deriving DecidableEq, Repr

/-- The plan of the iteration in force, its entries having been read. DESIGN CHOICE (log entry 186): an iteration whose block-list
entry could not be read accesses and writes nothing. -/
def passPlan (s : State) (q : SeqId) (r : MxaRec) (st : Step) : Plan :=
  let x := getSeq s q
  let acc := bit st.mode 0
  let pp := bit st.mode 5
  let en := blockEntry s q x.i0
  let pe := if x.i0 = 0 then none else blockEntry s q (x.i0 - 1)
  let ne := if x.i0 + 1 < x.b0 then blockEntry s q (x.i0 + 1) else none
  let kn : Nat × Nat := if r.blocked then (match en with | some e => (e.1, e.2.1) | none => (x.i0, x.i2)) else (x.i0, x.i2)
  let pk : Nat × Nat := if r.blocked then (match pe with | some e => (e.1, e.2.1) | none => (x.i0 - 1, x.i2)) else (x.i0 - 1, x.i2)
  let order := r.blocked && (match en, pe with
    | some e, some p => !e.2.2 && e.2.1 != p.2.1
    | _, _ => false)
  let first := x.i0 = 0 || order || (r.blocked && (match en with | some e => e.2.2 | none => false))
  let final := x.i0 + 1 = x.b0 || (r.blocked && (match ne with
    | some e => e.2.2 || e.2.1 != kn.2
    | none => true))
  let dead := r.blocked && en.isNone
  let kOut := r.blocked && r.kbGrid ≤ kn.1
  let nOut := r.blocked && r.nbGrid ≤ kn.2
  { r := r, i0 := x.i0, i1 := x.i1, i2 := x.i2, contrib := !dead && !kOut && !nOut, write := !dead && !nOut,
    psum := acc && !first && !dead && !nOut, final := final, nb := kn.2, ob := x.i1 + x.b1 * kn.2,
    aAddr := termAddr s q st.a kn.1 x.i1 kn.2, bAddr := termAddr s q st.b kn.1 x.i1 kn.2,
    dAddr := termAddr s q st.d (if pp then x.i0 % 2 else kn.1) x.i1 kn.2,
    pAddr := termAddr s q st.d (if pp then (x.i0 - 1) % 2 else pk.1) x.i1 pk.2,
    aEp := termEpoch s q st.a x.i0 x.i1 x.i2, bEp := termEpoch s q st.b x.i0 x.i1 x.i2,
    dEp := termEpoch s q st.d x.i0 x.i1 x.i2, pEp := termEpoch s q st.d (x.i0 - 1) x.i1 x.i2,
    outOfGrid := !dead && (kOut || nOut), order := !dead && order }

/-- The iteration after the one in force, in loop order. -/
def nextIter (x : SeqSt) : Option (Nat × Nat × Nat) :=
  if x.i0 + 1 < x.b0 then some (x.i0 + 1, x.i1, x.i2)
  else if x.i1 + 1 < x.b1 then some (0, x.i1 + 1, x.i2)
  else if x.i2 + 1 < x.b2 then some (0, 0, x.i2 + 1)
  else none

/-- Load the A tile of an iteration into the shadow, unless it is an absent block or lies outside the slot (R72, R73). -/
def loadFor (t : Fin 160) (a : Fin 2) (r : MxaRec) (st : Step) (it : Nat × Nat × Nat) (diag : Bool) (s : State) : State :=
  let q := mxaQ t a
  let en := blockEntry s q it.1
  let kn : Option (Nat × Nat) :=
    if r.blocked then (match en with | some e => if e.1 < r.kbGrid && e.2.1 < r.nbGrid then some (e.1, e.2.1) else none | none => none)
    else some (it.1, it.2.2)
  match kn with
  | none => s
  | some k =>
    let addr := termAddr s q st.a k.1 it.2.1 k.2
    if inSlot s t.val addr (r.tileBytes diag) then loadTile t a r diag addr (termEpoch s q st.a it.1 it.2.1 it.2.2) s else s

/-- The next iteration's tile is loaded. DESIGN CHOICE (log entry 182): as a full tile, also where the step's LOAD had DIAG (R73). -/
def loadNext (t : Fin 160) (a : Fin 2) (r : MxaRec) (st : Step) (s : State) : State :=
  match nextIter (getSeq s (mxaQ t a)) with
  | some it => loadFor t a r st it false s
  | none => s

/-- The lines of the streamed operand that are read, with the spans that stream (R78, R79). -/
def streamSpans (p : Plan) : List (Nat × Nat × Span) :=
  let r := p.r
  let c := arrPeriod r.prec r.sprec
  let w := elemBits (arrFmt r.prec)
  (storedLines r.sparse c r.vecs).map (fun l =>
    let sp := lineSpan r.sparse c w r.vecs l
    (l, sp.1, { operand := 1, addr := (p.bAddr + lineOffset r.sparse c w l + sp.1) % 2 ^ 64, len := sp.2, fmt := 0, ep := p.bEp }))

/-- A line's content as read. -/
def lineOf (l : List (Nat × Nat)) (t : Nat) : Nat := ((l.find? (fun e => e.1 = t)).map (·.2)).getD 0

/-- The values of vector `v` from the lines read. -/
def streamVector (r : MxaRec) (lines : List (Nat × Nat)) (v : Nat) : List NumVal :=
  let c := arrPeriod r.prec r.sprec
  let f := arrFmt r.prec
  (List.range (lanesOf r.sparse * laneElems r.sparse)).map (fun i =>
    elemDecode f (streamElem r.sparse c (elemBits f) v i (lineOf lines)))

/-- A stationary slot's whole value for output `h` of its pair, and its pieces, least significant first (R87). -/
def slotValue (sp v h : Nat) : NumVal :=
  if arrPaired sp then .ofInt (pairInt sp v h) else elemDecode (arrFmt sp) (v % 2 ^ elemBits (arrFmt sp))
def slotPieces (sp v h : Nat) : List NumVal :=
  if sp = 4 then
    match slotValue sp v h with
    | .fin n m e => [.fin n (m % 4096) e, .fin n (m / 4096) (e + 12)]
    | x => [x]
  else if sp = 0x30 ∨ sp = 0x31 then
    let top : Int := if sp = 0x30 then signed 8 (bits v 24 8) else (bits v 24 8 : Nat)
    [.fin false (bits v 0 12) 0, .fin false (bits v 12 12) 12, .fin (top < 0) top.natAbs 24]
  else [slotValue sp v h]

/-- The streamed value that meets row `i` of a column: under 2:4, the one its code names (R82). -/
def rowInput (k : ArrTile) (x : List NumVal) (sparse : Bool) (i j : Nat) : NumVal :=
  if sparse then x.getD (4 * (i / 2) + elemAt (k.codes.getD i 0) 2 j) .zero else x.getD i .zero

/-- A column's accumulator for output `h` of column `j`: the products of each piece, row by row (R67, R87). -/
def columnSum (r : MxaRec) (k : ArrTile) (x : List NumVal) (e j h : Nat) : Col :=
  (List.range (arrPieces r.sprec)).foldl (fun c p =>
    (List.range 256).foldl (fun c i =>
      let v := elemAt (k.rows.getD i 0) k.ws j
      match (slotPieces r.sprec v h)[p]? with
      | some piece => c.product e (slotValue r.sprec v h) piece (rowInput k x r.sparse i j)
      | none => c) c) {}

/-- The columns of a vector in output order (R66). -/
def vectorSums (r : MxaRec) (k : ArrTile) (x : List NumVal) (e : Nat) : List Col :=
  (List.range r.outputs).map (fun ch => if arrPaired r.sprec then columnSum r k x e (ch / 2) (ch % 2) else columnSum r k x e ch 0)

/-- Entries in force of the channel table (R89, Table 4.14). -/
def chCount (s : State) (t : Fin 160) (a : Fin 2) : Nat := min 4096 (bits ((Blk.dqu t a).rd s 0x60) 0 13)

/-- The header as the step holds it: words 10 to 17. -/
def stepHead (s : State) (q : SeqId) : Head := scaleHeadOf (scr0 s q 10) ((List.range 6).map (fun i => scr0 s q (11 + i)))

/-- The header is read at the step's first iteration (R116). -/
def readHead (t : Fin 160) (a : Fin 2) (s : State) : State :=
  let q := mxaQ t a
  if (scr s q 17).isSome then s
  else
    let base := (Blk.dqu t a).rd s 0x58
    let s := setScr (setScr s q 17 1) q 10 base
    if base = 0 ∨ !localInSlot t.val base 64 then s
    else
      let x := readOp s q 0 (ownAddr s base) 48 0 none (page := .dqu t a)
      forEach (List.range 6) x.2.2 (fun s i => setScr s q (11 + i) (qw x.1 i))

/-- The first channel of the iteration, and how many of its channels the table holds. -/
def chSpan (s : State) (t : Fin 160) (a : Fin 2) (p : Plan) : Nat × Nat :=
  (p.nb * p.r.outputs, min p.r.outputs (chCount s t a - p.nb * p.r.outputs))

/-- A row scale byte is chosen, a block scale byte is written (R113, R114). -/
def rowScaled (p : Plan) (st : Step) (h : Head) : Bool := p.final && isScaled st.d.format && bit st.mode 4 && h.row ≠ 0
def blockScaled (p : Plan) (st : Step) (h : Head) : Bool := p.final && isScaled st.d.format && h.block ≠ 0

/-- The output scale byte of an iteration: OUT, or in a replay OUT plus the output shortfall, clamped to 254 (R113). -/
def outByte (p : Plan) (st : Step) (h : Head) (replay : Bool) (raise : Nat) : Nat :=
  if replay && blockScaled p st h then min 254 (h.out + raise) else h.out

/-- The scale block, whole, as an operand of every PASS iteration (R111). -/
def scaleBlockSpan (s : State) (t : Fin 160) (a : Fin 2) : List (Nat × Nat) :=
  let base := (Blk.dqu t a).rd s 0x58
  if base = 0 then [] else [(base, 0x40 + 4 * chCount s t a)]

/-- The iteration's parts of the regions that the header names, operands of every PASS iteration whether or not it writes a byte
there (R111). -/
def regionSpans (p : Plan) (h : Head) : List (Nat × Nat) :=
  let v := p.r.vecs
  (if h.block = 0 then [] else [(h.block + p.ob, 1)]) ++ (if h.row = 0 then [] else [(h.row + v * p.ob, v)]) ++
    (if h.input = 0 then [] else [(h.input + v * p.i1, v)])

/-- The first of some spans of local offsets that lies outside the tile's slot, as an address. -/
def outsideSlot (s : State) (t : Fin 160) (l : List (Nat × Nat)) : Option Nat :=
  ((l.map (fun e => (ownAddr s e.1, e.2))).find? (fun e => !inSlot s t.val e.1 e.2)).map (·.1)

/-- The first operand of the iteration outside the tile's slot, of those known before the scale block's header is read: A, B, D, the
partial sum and the scale block (R72, R111). -/
def misplaced (s : State) (t : Fin 160) (a : Fin 2) (p : Plan) (st : Step) (diag : Bool) : Option Nat :=
  let v := p.r.vecs
  let c := arrPeriod p.r.prec p.r.sprec
  let rb := cellBytes st.d.format p.r.outputs
  let bLen := lineBytes p.r.sparse c (elemBits (arrFmt p.r.prec)) * (storedLines p.r.sparse c v).length
  let g := (if p.contrib then [(p.aAddr, p.r.tileBytes diag), (p.bAddr, bLen)] else []) ++
    (if p.write then [(p.dAddr, v * rb)] else []) ++ (if p.psum then [(p.pAddr, v * rb)] else [])
  ((g.find? (fun e => !inSlot s t.val e.1 e.2)).map (·.1)).or (outsideSlot s t (scaleBlockSpan s t a))

/-- What draining an iteration has gathered. -/
structure Tally where
  acc : Nat := 0
  beyond : Bool := false
  need : Nat := 0
  saturated : Nat := 0
  special : Nat := 0
  seen : Nat := 0
  sumMax : Nat := 0
  deriving DecidableEq, Repr

/-- Add one vector's. -/
def Tally.plus (x : Tally) (d : Drained) : Tally :=
  { acc := max x.acc d.acc, beyond := x.beyond || d.beyond, need := max x.need d.need, saturated := x.saturated + d.saturated,
    special := x.special + d.special, seen := max x.seen d.seen, sumMax := max x.sumMax d.sumMax }

/-- The output shortfall of an iteration (R113). -/
def Tally.short (x : Tally) : Nat := if x.beyond then max 1 x.need else 0

/-- The channel scales of the iteration, from the table's bytes (R89, R112). -/
def chScales (n : Nat) (bs : List Byte) : List NumVal :=
  (List.range n).map (fun k => ofF32 (leNat ((bs.drop (4 * k)).take 4)))

/-- The columns that a partial sum's bytes add (R74); of a format without a conversion each sum is a free value (log entry 244). -/
def psumCols (fmt e o : Nat) (bs : List Byte) (s : State) : List Col × State :=
  if convertible fmt ∨ bs.isEmpty then ((unpackElems (elemBits fmt) o bs).map (psumCol fmt e), s)
  else
    let f := freeBytes s (4 * o)
    ((unpackElems 32 o f.1).map (fun v => { sum := signed 32 v }), f.2)

/-- Drain vectors `v`, `v + 1`, …: partial sum, stages, scale bytes, row (R74, R89, R112, R114, Table 4.5). DESIGN CHOICE (log
entry 244): with D in a format without a conversion the vector is observed and counted as with any other, and its row is free
bytes. -/
def drainVectors (t : Fin 160) (a : Fin 2) (p : Plan) (st : Step) (h : Head) (e raise : Nat) (ch : Option (List NumVal))
    (tile : Option ArrTile) (lines : List (Nat × Nat)) : Nat → Nat → Tally → State → Tally × State
  | 0, _, y, s => (y, s)
  | n + 1, v, y, s =>
    let q := mxaQ t a
    let o := p.r.outputs
    let fmt := st.d.format
    let rb := cellBytes fmt o
    let cols := match tile with
      | some k => if p.contrib then vectorSums p.r k (streamVector p.r lines v) e else List.replicate o {}
      | none => List.replicate o {}
    let x := if p.psum then readOp s q 2 ((p.pAddr + v * rb) % 2 ^ 64) rb fmt p.pEp else ([], true, s)
    let y1 := psumCols fmt e o x.1 x.2.2
    let cols := if p.psum then List.zipWith Col.plus cols y1.1 else cols
    let z := if p.final ∧ h.input ≠ 0 then readOp y1.2 q 0 (ownAddr s (h.input + v + p.r.vecs * p.i1)) 1 0 none (page := .dqu t a) else ([], true, y1.2)
    let b := leNat z.1
    let bad := h.inExp = 255 || (h.input ≠ 0 && b = 255)
    let g : Stage :=
      { fmt := fmt, rnd := bits st.mode 1 2, key := h.key, final := p.final,
        idx := p.i0 * 2 ^ 40 + p.ob % 2 ^ 19 * 2 ^ 21 + v * 2 ^ 9,
        shift := if bad then none else some ((h.inExp : Int) - 127 + (if h.input = 0 then 0 else (b : Int) - 127)),
        ch := ch, blockByte := outByte p st h (getSeq s q).replaying raise,
        rowScale := if rowScaled p st h then some (bits ((Blk.dqu t a).rd s 0x54) 0 3) else none,
        mendable := blockScaled p st h && !rowScaled p st h }
    let s := z.2.2
    let d := g.drain e cols
    let w : List Byte × State := if convertible fmt then (packElems (elemBits fmt) d.codes, s) else freeBytes s rb
    let s := if rowScaled p st h then writeOp w.2 q (ownAddr s (h.row + v + p.r.vecs * p.ob)) [BitVec.ofNat 8 d.rowByte] none
      else w.2
    let s := writeOp s q ((p.dAddr + v * rb) % 2 ^ 64) w.1 p.dEp
    drainVectors t a p st h e raise ch tile lines n (v + 1) (y.plus d) ((Blk.dqu t a).sat s 0x68)

/-- Stream and drain an iteration whose operands lie in the slot: its tally and the exponent it ran with, kept in words 20 to
24 for the verdict. DESIGN CHOICE (log entry 184): CHSCALE_OOR counts an iteration's channels once, SPECIAL_COUNT counts a replay's
special values again (R89). DESIGN CHOICE (log entry 245): the sums captured by a first run that is replayed count toward B with the
replay's, each as the plain number of its own grid's units, beside the last E (R115). -/
def streamIter (t : Fin 160) (a : Fin 2) (p : Plan) (st : Step) (tile : Option ArrTile) (s : State) : State :=
  let q := mxaQ t a
  let b := Blk.dqu t a
  let r := p.r
  let h := stepHead s q
  let replay := (getSeq s q).replaying
  let e := if replay then scr0 s q 25 else if r.expSrc then bits (b.rd s 0x50) 0 8 else r.accExp
  let raise := if replay then scr0 s q 26 else 0
  let spans := if p.contrib then streamSpans p else []
  let x := readSpans s q (spans.map (·.2.2))
  let lines := (spans.zip x.1).map (fun y => (y.1.1, leNat y.2 * 2 ^ (8 * y.1.2.1)))
  let s := if p.contrib then seqEnergy x.2.2 q .cell (r.vecs * (arrPieces r.sprec * arrCycles r.prec) * 65536) else x.2.2
  let c := chSpan s t a p
  let table := p.final && bit st.mode 3 && h.base ≠ 0
  let y := if table ∧ c.2 ≠ 0 then readOp s q 0 (ownAddr s (h.base + 0x40 + 4 * c.1)) (4 * c.2) 0 none (page := .dqu t a) else ([], true, s)
  let s := if table && !replay then b.sat y.2.2 0x64 (r.outputs - c.2) else y.2.2
  let s := if blockScaled p st h then
      writeOp s q (ownAddr s (h.block + p.ob)) [BitVec.ofNat 8 (outByte p st h replay raise)] none
    else s
  let z := drainVectors t a p st h e raise (if table then some (chScales c.2 y.1) else none) tile lines r.vecs 0 {} s
  let k := z.1
  let s := if k.special = 0 then z.2 else b.event (b.sat z.2 0x4C k.special) 18
  let s := setScr (setScr (setScr (setScr s q 20 k.acc) q 21 k.short) q 22 k.saturated) q 24 e
  let s := setScr (setScr s q 32 (max (scr0 s q 32) k.sumMax)) q 33 (e + 1)
  if p.final then setScr (setScr s q 30 1) q 31 (max (scr0 s q 31) k.seen) else s

/-- The step's last iteration is in force. -/
def atLast (x : SeqSt) : Bool := (nextIter x).isNone

/-- At the end of a PASS step with a final write, the header and EXP_EST are updated (R115). -/
def endPass (t : Fin 160) (a : Fin 2) (r : MxaRec) (st : Step) (s : State) : State :=
  let q := mxaQ t a
  let b := Blk.dqu t a
  if !atLast (getSeq s q) ∨ scr0 s q 30 = 0 then s
  else
    let h := stepHead s q
    let hr := bits (b.rd s 0x54) 0 3
    let s := if h.base = 0 then s else writeOp s q (ownAddr s h.base) (leBytes 8 (h.atEnd st.d.format hr (scr0 s q 31))) none
    if r.expSrc then b.wr s 0x50 (estAtEnd (scr0 s q 33 - 1) (scr0 s q 32) hr (bits (b.rd s 0x50) 0 8)) else s

/-- The block entries an iteration needs: its own, the next, and entry 0 for the tile after it. -/
def neededEntries (s : State) (q : SeqId) : List Nat :=
  let x := getSeq s q
  ([x.i0] ++ (if x.i0 + 1 < x.b0 then [x.i0 + 1] else [0])).filter (fun i => (scr s q (entryWord i)).isNone)

/-- A PASS iteration (R73). While its verdict is awaited nothing more runs. DESIGN CHOICE (log entry 183): a replayed iteration counts
its block entry and its diagonal tile again (R86, R88). DESIGN CHOICE (log entry 246): BLK_ERR_INFO1 of the array's and the drain's
errors is 0 but for an address error (R35, R92). -/
def mxaPassIter (t : Fin 160) (a : Fin 2) (s : State) (st : Step) : IterResult :=
  let q := mxaQ t a
  let b := Blk.mxa t a
  match recOf s b with
  | [] => .ran (noteStatus s q tkMemory) (opAddr s q st.d)
  | rq =>
    let r := mxaRec rq
    let need := if r.blocked then neededEntries s q else []
    let f := fetchSpans s q (need.map (entrySpan s r))
    if (scr s q 20).isSome then .hold s
    else if !f.1 then .hold f.2
    else
      let s := readEntries f.2 q r need
      let p := passPlan s q r st
      let arr := getArr s t a
      let tile := arr.shadow
      let s := b.sat (setArr s t a { arr with shadow := none, active := tile }) 0x5C
      let diag := match tile with | some k => k.diag | none => false
      let s := if diag then b.sat s 0x70 else s
      let s := if p.order then b.sat s 0x6C else s
      let s := if p.outOfGrid then b.raise (b.event (b.sat s 0x68) 18) 0x0104 (seqPart s q) 0 else s
      let s := (Blk.cntT t).add s (0x40 + 8 * a.val) st.cycles
      let s := if st.replayable ∨ arrWide r.sprec then s else loadNext t a r st s
      let idle := r.vecs = 0 || !(p.contrib || p.write)
      let early := if idle then none else misplaced s t a p st diag
      let s := if idle || early.isSome then s else readHead t a s
      let bad := if idle || early.isSome then early else outsideSlot s t (regionSpans p (stepHead s q))
      let s := match bad with
        | some o => noteStatus (b.raise s 0x0103 (seqPart s q) (o % 2 ^ 32)) q tkMemory
        | none => s
      let runs := !idle && bad.isNone
      let s := if runs then streamIter t a p st tile s else s
      let s := if (st.replayable && !runs) || (!st.replayable && arrWide r.sprec) then loadNext t a r st s else s
      if runs then .hold (modSeq s q (fun x => { x with rbuf := [], rfail := false }))
      else .ran (endPass t a r st s) p.dAddr

/-! ### The verdict (R90, R91, R50) -/

/-- The verdict stands: its saturated values are counted, and an overflow that stands, or a value written saturated, is raised,
also where a column that overflowed delivers a NaN or an infinity (R90). -/
def verdictStands (t : Fin 160) (a : Fin 2) (s : State) : State :=
  let q := mxaQ t a
  let b := Blk.dqu t a
  let n := scr0 s q 22
  let s := if n = 0 ∧ scr0 s q 20 = 0 ∧ scr0 s q 21 = 0 then s
    else noteStatus (b.raise (b.event (b.sat s 0x48 n) 17) 0x0101 (seqPart s q) 0) q tkSaturated
  if (getSeq s q).replaying ∧ (scr0 s q 20 ≠ 0 ∨ scr0 s q 21 ≠ 0) then
    (Blk.seq q).raise (noteStatus s q tkSaturated) 0x010A (seqPart s q) 0
  else s

/-- The sequencer counts a replay; beyond REPLAY_ALLOW it raises REPLAY_EXCESS, whose energy reaches the next request by
the settlement of R313. -/
def countReplay (s : State) (q : SeqId) : State :=
  let b := Blk.seq q
  let s := modSeq (b.sat s 0x84) q (fun x => { x with replaysInTable := x.replaysInTable + 1 })
  let x := getSeq s q
  let allow := match x.table with | some t => t.replayAllow | none => 0
  if allow < x.replaysInTable then b.raise (b.event s 21) 0x010B (seqPart s q) 0 else s

/-- DRAIN_VERDICT: the iteration streamed last ends, or is replayed. DESIGN CHOICE (log entry 185): the raised ACC_EXP and EXP_EST are
clamped at 255, the largest value of their fields (R91). DESIGN CHOICE (log entry 247): OVF.REPLAYED is set when a replay follows, and
clear with SATURATED 1 for an overflow within the replay (R93). -/
def verdictIter (t : Fin 160) (a : Fin 2) (s : State) (st : Step) : IterResult :=
  let q := mxaQ t a
  let b := Blk.dqu t a
  let r := mxaRec (recOf s (.mxa t a))
  match scr s q 20 with
  | none => .hold s
  | some acc =>
    let out := scr0 s q 21
    let x := getSeq s q
    let beyond := acc ≠ 0 || out ≠ 0
    let replay := beyond && st.replayable && !x.replaying
    let s := if beyond then
        b.sat (b.wr s 0x40 (acc + out * 2 ^ 4 + b2n replay * 2 ^ 8 + b2n (!replay) * 2 ^ 9 + flatIter x % 2 ^ 16 * 2 ^ 16)) 0x44
      else s
    if replay then
      let s := countReplay (b.event s 16) q
      let s := b.wr s 0x50 (min 255 (bits (b.rd s 0x50) 0 8 + acc))
      let s := setScr (setScr s q 25 (min 255 (scr0 s q 24 + acc))) q 26 out
      let diag := match (getArr s t a).active with | some k => k.diag | none => false
      let s := loadFor t a r st (x.i0, x.i1, x.i2) diag s
      .hold (modSeq (delScr s q 20) q (fun x => { x with replaying := true, cycles := x.cycles + st.cycles }))
    else
      let s := verdictStands t a s
      let p := passPlan s q r st
      let s := if st.replayable then loadNext t a r st s else s
      .ran (endPass t a r st (delScr s q 20)) p.dAddr

/-! ### The commands -/

/-- MXA_CONFIG (R71). -/
def execMxaConfig (t : Fin 160) (a : Fin 2) (s : State) : Out := .next (runIter (mxaQ t a) 0x10 (mxaConfigIter t a) s)

/-- MXA_LOAD (R81). -/
def execMxaLoad (t : Fin 160) (a : Fin 2) (s : State) : Out := .next (runIter (mxaQ t a) 0x11 (mxaLoadIter t a) s)

/-- MXA_PASS (R73). -/
def execMxaPass (t : Fin 160) (a : Fin 2) (s : State) : Out := .next (runIter (mxaQ t a) 0x12 (mxaPassIter t a) s)

/-- DRAIN_VERDICT (R90). -/
def execDrainVerdict (t : Fin 160) (a : Fin 2) (s : State) : Out := .next (runIter (mxaQ t a) 0x12 (verdictIter t a) s)

end Sys2Proof.Machine
end

