-- ==== Sys2Proof/Machine/Updates.lean ====
section
/-! DEFINITION. Sys2Proof/Machine/Updates.lean: carrying updates to their owners, the row optimisers and hot rows: PUSH, APPLY,
REFRESH (R179–R185). Words of a step: 100 PUSH: owners done; APPLY: awaiting headers (1) or merged (2); 101 PUSH awaits replies
of this owner, plus 1 its stage; 103 whether the header's KIND is DET, 105 its ENTRIES, 106 its class, 104 since when,
100000 + 4i and on: of the i-th FAST row its LIST's address, local row, epoch, class. -/
namespace Sys2Proof.Machine

/-! ### PUSH (R179, R180) -/

/-- Bytes of a DET entry. -/
def EmbRec.entryBytes (r : EmbRec) : Nat := 16 + r.gradPitch

/-- A sender's area in an owner's INBOX (R180). -/
def EmbRec.areaAt (r : EmbRec) (m : Nat) : Nat := r.inbox + 8 * r.m + m * (r.inboxRows * r.entryBytes)

/-- A row to push. -/
structure PushRow where
  key : Nat
  count : Nat
  owner : Nat
  epoch : Nat
  list : Nat
  rec_ : Nat
  localRow : Nat
  desc : TableDesc
  grad : List Byte
  deriving DecidableEq, Repr

/-- Send to another device or to this one, as a store of class `iso`. -/
def embSend (d : Fin 2) (j : Fin 4) (a : Nat) (bs : List Byte) (flag : Bool) (ep : Option Nat) (iso : Option Bool) (s : State) : State :=
  let q := embQ d j
  if bs = [] then s
  else
    issue ((embBlk d j).add s 0x90 bs.length) (seqIssuer s q iso)
      { op := if flag then 0x20 else 0x10, addr := a, size := bs.length, data := bs, epv := ep.isSome, epoch := ep.getD 0 }
      (.store q.inst)

/-- Send an atomic on a shard; `tag` waits for its old value. -/
def embAtomic (d : Fin 2) (j : Fin 4) (op a : Nat) (bs : List Byte) (ep : Nat) (iso : Bool) (tag : Option Nat) (s : State) : State :=
  let q := embQ d j
  issue ((embBlk d j).add s 0x90 bs.length) (seqIssuer s q (some iso))
    { op := op, addr := a, size := bs.length, data := bs, epv := true, epoch := ep }
    (match tag with
     | some t => .value q.inst t
     | none => .store q.inst)

/-- The rows of the unique list that can be sent, in key order, none in a step whose bound is 0 (R187): read in full before anything
is sent. -/
def pushRows (d : Fin 2) (j : Fin 4) (r : EmbRec) (s0 s : State) (k : List Byte → List PushRow → State → IterResult) : IterResult :=
  let q := embQ d j
  readStage s0 s q [locSpan s r.uWord (if emptyStep (getSeq s q) then 0 else 4), locSpan s r.members (4 * r.m)] (fun l _ s =>
    let n := leNat (l.getD 0 [])
    let ms := l.getD 1 []
    readStage s0 s q [locSpan s r.ukeys (8 * n), locSpan s r.segs (8 * n)] (fun l _ s =>
      let rows := (List.range n).map (fun u => (u, word 8 (l.getD 0 []) u, bits (word 8 (l.getD 1 []) u) 0 25))
      let ts := (rows.map (fun e => e.2.1 / 2 ^ 40)).eraseDups
      readStage s0 s q (ts.map (descSpan s r)) (fun dl _ s =>
        let desc (t : Nat) : TableDesc := tableDesc (dl.getD (ts.findIdx (· = t)) [])
        let rows := rows.filter (fun e => let t := e.2.1 / 2 ^ 40; t < 4096 && (desc t).ok && (desc t).opt ≠ 4)
        readStage s0 s q (rows.map (fun e => let t := desc (e.2.1 / 2 ^ 40); shardSpan s t (t.place (e.2.1 % 2 ^ 40)).1)
            ++ rows.map (fun e => locSpan s (r.grad + e.1 * r.gradPitch) (4 * (desc (e.2.1 / 2 ^ 40)).n) 1)) (fun rl _ s =>
          k ms (rows.zipIdx.filterMap (fun e =>
            let t := desc (e.1.2.1 / 2 ^ 40)
            let sh := shardEnt (rl.getD e.2 [])
            let q := (t.place (e.1.2.1 % 2 ^ 40)).2
            if sh.valid then
              some { key := e.1.2.1, count := e.1.2.2, owner := sh.owner, epoch := sh.epoch, list := sh.list,
                     rec_ := recordAt t sh t.tver q, localRow := q, desc := t, grad := rl.getD (rows.length + e.2) [] }
            else none)) s))))

/-- The header that ends an owner's rows. -/
def pushHeader (d : Fin 2) (j : Fin 4) (r : EmbRec) (dev : Nat) (det : Bool) (entries : Nat) (iso : Option Bool) (s : State) : State :=
  embSend d j (2 ^ 41 * dev + r.inbox + 8 * r.self) (leBytes 8 (embHeader r.step entries (if det then 1 else 2))) true none iso s

/-- One row by DET: entry `n` of the sender's area, or dropped when the area is full. -/
def pushDet (d : Fin 2) (j : Fin 4) (r : EmbRec) (dev n : Nat) (w : PushRow) (s : State) : State :=
  let q := embQ d j
  let b := embBlk d j
  if r.inboxRows ≤ n then
    let s := noteStatus (b.sat (tstat s q (w.key / 2 ^ 40) 6 1) 0x74) q tkCountRange
    b.raise (b.event s 18) 0x0103 (seqPart s q) 0
  else
    embSend d j (2 ^ 41 * dev + r.areaAt r.self + n * r.entryBytes)
      (leBytes 8 w.key ++ leBytes 8 w.count ++ w.grad) false none (some w.desc.isolated) s

/-- One row by FAST: its adds, and the fetch-and-add of TOUCH, the `i`-th of this owner. -/
def pushFast (d : Fin 2) (j : Fin 4) (dev n : Nat) (w : PushRow) (s : State) : State :=
  let q := embQ d j
  let a := 2 ^ 41 * dev + w.rec_
  let iso := w.desc.isolated
  let s := forEach (List.range w.desc.n) s (fun s i =>
    embAtomic d j 0x41 (a + w.desc.gacc + 4 * i) (leBytes 4 (word 4 w.grad i)) w.epoch iso none s)
  let s := setScr (setScr s q (100000 + 4 * n) (2 ^ 41 * dev + w.list)) q (100001 + 4 * n) w.localRow
  let s := setScr (setScr s q (100002 + 4 * n) w.epoch) q (100003 + 4 * n) (b2n iso)
  embAtomic d j 0x81 (a + 4) (leBytes 4 w.count) w.epoch iso (some (3 * n)) s

/-- One row by its table's mode, behind `a.1` DET rows and `a.2.1` FAST rows of its owner. -/
def pushRow (d : Fin 2) (j : Fin 4) (r : EmbRec) (dev : Nat) (a : Nat × Nat × State) (w : PushRow) : Nat × Nat × State :=
  if w.desc.det then (a.1 + 1, a.2.1, pushDet d j r dev a.1 w a.2.2) else (a.1, a.2.1 + 1, pushFast d j dev a.2.1 w a.2.2)

/-- The rows of one owner, ascending, and its header unless replies must come first: KIND is DET when a DET entry went there. -/
def pushOwner (d : Fin 2) (j : Fin 4) (r : EmbRec) (ms : List Byte) (rows : List PushRow) (m : Nat) (s : State) : State :=
  let q := embQ d j
  let dev := memberDev ms m
  let mine := rows.filter (fun w => w.owner = dev)
  let iso := mine.getLast?.map (fun w => w.desc.isolated)
  let x := mine.foldl (pushRow d j r dev) (0, 0, s)
  let n := min x.1 r.inboxRows
  let s := x.2.2
  if x.2.1 = 0 then pushHeader d j r dev (n ≠ 0) n iso s
  else
    let s := setScr (setScr s q 101 1) q 103 (b2n (n ≠ 0))
    setScr (setScr s q 105 n) q 106 (match iso with | some i => b2n i | none => 2)

/-- The owners in order from the `p`-th on, until one must wait for replies. -/
def pushOwners (d : Fin 2) (j : Fin 4) (r : EmbRec) (ms : List Byte) (rows : List PushRow) : Nat → Nat → State → State
  | 0, _, s => s
  | n + 1, p, s =>
    let q := embQ d j
    let s := setScr (pushOwner d j r ms rows (r.order.getD p 0) s) q 100 (p + 1)
    if (scr s q 101).isSome then s else pushOwners d j r ms rows n (p + 1) s

/-- The step is over: its words of owners go. -/
def pushEnd (s : State) (q : SeqId) : State := delScr s q 100

/-- PUSH: goes on from the owner it has reached. -/
def pushIter (d : Fin 2) (j : Fin 4) (r : EmbRec) (s : State) (st : Step) : IterResult :=
  let q := embQ d j
  if (scr s q 101).isSome then .hold s
  else pushRows d j r s s (fun ms rows s =>
    let p := scr0 s q 100
    let s := pushOwners d j r ms rows (r.m - p) p s
    if (scr s q 101).isSome then .hold s
    else if emptyStep (getSeq s q) then .hold (retireStep (pushEnd s q) q true)
    else .ran (pushEnd s q) (opAddr s q st.d))

/-- Replies or acknowledgements of the step's requests are still to come. -/
def pushAwaits (s : State) (q : SeqId) : Bool :=
  s.outs.any (fun o => match o.waiter with
    | .store n => n = q.inst
    | .value n _ => n = q.inst
    | _ => false)

/-- The answer with a tag, when it is good. -/
def goodValue (x : SeqSt) (tag : Nat) : Option Nat := (x.vals.find? (fun v => v.1 = tag && outcomeOk v.2.1)).map (·.2.2)

/-- What follows the answers of a stage: after the TOUCHes (1) the TAILs of rows touched first, after these (2) the list entries
below CAP; stage 3 awaits the entries' acknowledgements. -/
def pushStage (d : Fin 2) (j : Fin 4) (s : State) : State :=
  let q := embQ d j
  let x := getSeq s q
  let stage := scr0 s q 101
  let s := modSeq (setScr s q 101 (stage + 1)) q (fun x => { x with vals := [] })
  let row (i f : Nat) : Nat := scr0 s q (100000 + 4 * i + f)
  if stage = 1 then
    forEach ((x.vals.filter (fun v => v.1 % 3 = 0 && goodValue x v.1 = some 0)).map (fun v => v.1 / 3)) s (fun s i =>
      let s := embAtomic d j 0x81 (row i 0) (leBytes 4 1) (row i 2) (row i 3 = 1) (some (3 * i + 1)) s
      issue s (seqIssuer s q (some (decide (row i 3 = 1))))
        { op := 0x00, addr := row i 0 + 4, size := 4, epv := true, epoch := row i 2 } (.value q.inst (3 * i + 2)))
  else if stage = 2 then
    forEach ((x.vals.filter (fun v => v.1 % 3 = 1)).map (fun v => v.1 / 3)) s (fun s i =>
      match goodValue x (3 * i + 1), goodValue x (3 * i + 2) with
      | some t, some cap =>
        if t < cap then embSend d j (row i 0 + 8 + 8 * t) (leBytes 8 (row i 1)) false (some (row i 2)) (some (decide (row i 3 = 1))) s else s
      | _, _ => s)
  else s

/-- Stages one after the other, until some reply is awaited; then, past the last, the header. -/
def pushAdvance (d : Fin 2) (j : Fin 4) (r : EmbRec) (ms : List Byte) : Nat → State → State
  | 0, s => s
  | n + 1, s =>
    let q := embQ d j
    if pushAwaits s q then s
    else if 3 ≤ scr0 s q 101 then
      let iso := match scr0 s q 106 with | 0 => some false | 1 => some true | _ => none
      let s := pushHeader d j r (memberDev ms (r.order.getD (scr0 s q 100 - 1) 0)) (scr0 s q 103 = 1) (scr0 s q 105) iso s
      modSeq s q (fun x => { x with scratch := x.scratch.filter (fun e => e.1 < 100000 && e.1 ≠ 101) })
    else pushAdvance d j r ms n (pushStage d j s)

/-- PUSH_REPLIES_DONE: every reply and acknowledgement of an owner's FAST rows has arrived; its header goes, and after the last
owner's the iteration is over. -/
def pushRepliesIter (d : Fin 2) (j : Fin 4) (r : EmbRec) (s : State) (st : Step) : IterResult :=
  let q := embQ d j
  if (scr s q 101).isNone ∨ pushAwaits s q then .hold s
  else readStage s s q [locSpan s r.members (4 * r.m)] (fun l _ s =>
    let s := pushAdvance d j r (l.headD []) 3 s
    if (scr s q 101).isNone ∧ r.m ≤ scr0 s q 100 then .ran (pushEnd s q) (opAddr s q st.d) else .hold s)

/-! ### Update headers (R179) -/

/-- EMB_HEADER_ARRIVE: the header just stored in slot `m` of INBOX is taken, or ignored and counted when it is of another STEP. -/
def embHeaderArrive (d : Fin 2) (j : Fin 4) (m : Nat) (s : State) : State :=
  let b := embBlk d j
  match recOf s b with
  | [] => s
  | rq =>
    let r := embRec rq
    let w := readNat s (r.inbox + 8 * m) 8
    let kind := bits w 56 6
    if r.m ≤ m ∨ (kind ≠ 1 ∧ kind ≠ 2) then s
    else if bits w 0 32 ≠ r.step then b.event (b.sat s 0x84) 22
    else
      let e := getEmb s d j
      b.add (setEmb s d j { e with hdrs := (m, w) :: e.hdrs.filter (fun h => !(h.1 == m)) }) 0x98 (8 + bits w 32 24 * r.entryBytes)

/-- The update header of member `m`, when it is current: its ENTRIES. -/
def currentUpd (s : State) (d : Fin 2) (j : Fin 4) (r : EmbRec) (m : Nat) : Option Nat :=
  match (getEmb s d j).hdrs.find? (fun e => e.1 = m) with
  | some e => if bits e.2 0 32 = r.step then some (bits e.2 32 24) else none
  | none => none

/-! ### Row optimisers (R182, R183) -/

/-- β^T by square-and-multiply, most significant bit first; `n` bits. -/
def powBits (beta : NumVal) (t : Nat) : Nat → NumVal → NumVal
  | 0, x => x
  | n + 1, x => let y := mul32 x x; powBits beta t n (if bit t n then mul32 y beta else y)
def powT (beta : NumVal) (t : Nat) : NumVal := powBits beta t (Nat.log2 t + 1) .one

/-- A row's update (R182): from its elements, its FP32 state, the gradient and T already incremented. -/
def rowUpdate (t : TableDesc) (tn : Nat) (w st g : List NumVal) : List NumVal × List NumVal :=
  let lr := ofF32 t.lr
  let eps := ofF32 t.eps
  let n := t.n
  let at_ (l : List NumVal) (i : Nat) : NumVal := l.getD i .zero
  let idx := List.range n
  let step (i : Nat) (den : NumVal) : NumVal := sub32 (at_ w i) (div32 (mul32 lr (at_ g i)) (add32 den eps))
  match t.opt with
  | 1 =>
    let gs := add32 (at_ st 0) (div32 (rowSumSq (g.take n)) (.ofInt n))
    (idx.map (fun i => step i (sqrt32 gs)), [gs, .zero])
  | 2 =>
    let gs := idx.map (fun i => add32 (at_ st i) (mul32 (at_ g i) (at_ g i)))
    (idx.map (fun i => step i (sqrt32 (at_ gs i))), gs ++ st.drop n)
  | 3 =>
    let b1 := ofF32 t.beta1
    let b2 := ofF32 t.beta2
    let m := idx.map (fun i => add32 (mul32 b1 (at_ st i)) (mul32 (sub32 .one b1) (at_ g i)))
    let v := idx.map (fun i => add32 (mul32 b2 (at_ st (n + i))) (mul32 (sub32 .one b2) (mul32 (at_ g i) (at_ g i))))
    let c1 := sub32 .one (powT b1 tn)
    let c2 := sub32 .one (powT b2 tn)
    (idx.map (fun i => sub32 (at_ w i)
      (div32 (mul32 lr (div32 (at_ m i) c1)) (add32 (sqrt32 (div32 (at_ v i) c2)) eps))), m ++ v)
  | _ => (idx.map (fun i => sub32 (at_ w i) (mul32 lr (at_ g i))), st)

/-- A slot's new bytes (R183), from the old ones: the slot word, the data, the state. `row` is the global row. -/
def newSlot (r : EmbRec) (t : TableDesc) (tab row : Nat) (old : List Byte) (g : List NumVal) : List Byte :=
  let tn := (bits (qw old 0) 32 32 + 1) % 2 ^ 32
  let stBytes := (old.drop (8 + t.dataBytes)).take t.stateBytes
  let st := (unpackElems 32 (t.stateBytes / 4) stBytes).map ofF32
  let x := rowUpdate t tn (rowValues t old) st g
  let scale := if isScaled t.fmt then scaleByte (boundExp x.1) t.headroom (topOf t.fmt) else 127
  let rnd := if t.sr then 2 else 0
  let codes := x.1.zipIdx.map (fun e =>
    (elemEncode t.fmt rnd (if t.sr then srDraw r.seed r.step tab (row * 2 ^ 12 + e.2) else 0)
      (if isScaled t.fmt then divScale scale e.1 else e.1)).v)
  leBytes 8 (scale + tn * 2 ^ 32) ++ packElems (elemBits t.fmt) codes ++ (old.drop (8 + t.rowBytes)).take (t.dataBytes - t.rowBytes) ++
    (x.2.flatMap (fun v => leBytes 4 (toF32 v))).take t.stateBytes

/-- A row found to be applied. -/
structure ApplyRow where
  key : Nat
  count : Nat
  grad : List NumVal
  deriving DecidableEq, Repr

/-- A candidate for the hot rows (R184). -/
def addCandidate (d : Fin 2) (j : Fin 4) (r : EmbRec) (t : TableDesc) (c key : Nat) (s : State) : State :=
  let e := getEmb s d j
  if t.hot = 0 ∨ c < t.hot then s
  else setEmb s d j { e with cstep := r.step, cands := (if e.cstep = r.step then e.cands else []) ++ [(c, key)] }

/-- The tables of which APPLY binds another image than the one that GATHER bound in the same STEP (R183): each is counted for the step,
whether or not a row of it is applied. -/
def noteSkew (d : Fin 2) (j : Fin 4) (r : EmbRec) (snap : List (Nat × Byte)) (s : State) : State :=
  let e := getEmb s d j
  forEach (if e.gstep = r.step then e.gbind else []) s (fun s x =>
    if x.2 ≠ snapTver r snap x.1 then setScr s (embQ d j) (5000 + 8 * x.1 + 7) 1 else s)

/-- A ROW record's VERSION, by a flagged store of DEVICE scope behind its new slot (R183). -/
def storeVersion (d : Fin 2) (j : Fin 4) (e : ShardEnt) (t : TableDesc) (rec_ v : Nat) (s : State) : State :=
  let q := embQ d j
  issue s (seqIssuer s q (some t.isolated))
    { op := 0x20, addr := ownAddr s rec_, size := 4, data := leBytes 4 v, epv := true, epoch := e.epoch } (.store q.inst)

/-- apply_row (R182, R183). -/
def applyRow (d : Fin 2) (j : Fin 4) (r : EmbRec) (s0 s : State) (w : ApplyRow) (k : State → IterResult) : IterResult :=
  let q := embQ d j
  let tab := w.key / 2 ^ 40
  let row := w.key % 2 ^ 40
  readStage s0 s q [descSpan s r tab] (fun l _ s =>
    let t := tableDesc (l.headD [])
    if 4096 ≤ tab ∨ !t.ok ∨ t.opt = 4 ∨ t.rows ≤ row then k s
    else
      let pl := t.place row
      readStage s0 s q [shardSpan s t pl.1] (fun l _ s =>
        let e := shardEnt (l.headD [])
        if !e.valid then k s
        else
          let rec_ := recordAt t e (boundTver r (getEmb s d j).asnap tab t) pl.2
          readStage s0 s q [shardLoc s e rec_ 4] (fun l _ s =>
            let v := leNat (l.headD [])
            let cur := if t.row then v % 2 else 0
            readStage s0 s q [shardLoc s e (rec_ + t.slotAt cur) t.slotBytes] (fun l _ s =>
              let bs := newSlot r t tab row (l.headD []) w.grad
              let s := if t.row then
                  storeVersion d j e t rec_ (v + 1) (shardWrite s q e (rec_ + t.slotAt ((v + 1) % 2)) bs)
                else shardWrite s q e (rec_ + t.slotAt 0) bs
              k (addCandidate d j r t w.count w.key ((embBlk d j).add s 0x88 1))))))

def applyRows (d : Fin 2) (j : Fin 4) (r : EmbRec) (s0 : State) : List ApplyRow → State → (State → IterResult) → IterResult
  | [], s, k => k s
  | w :: ws, s, k => applyRow d j r s0 s w (fun s => applyRows d j r s0 ws s k)

/-! ### APPLY: the DET merge (R181) -/

/-- A DET entry: key, COUNT, gradient bytes. -/
structure DetEntry where
  key : Nat
  count : Nat
  grad : List Byte
  deriving DecidableEq, Repr

/-- A sender's entries that ascend, and the keys of those that do not. -/
def ascending (l : List DetEntry) : List DetEntry × List Nat :=
  let x := l.foldl (fun (a : List DetEntry × List Nat × Option Nat) e =>
    match a.2.2 with
    | some k => if k < e.key then (e :: a.1, a.2.1, some e.key) else (a.1, e.key :: a.2.1, some k)
    | none => (e :: a.1, a.2.1, some e.key)) ([], [], none)
  (x.1.reverse, x.2.1.reverse)

/-- Put a number into an ascending list without repeats. -/
def insertKey (k : Nat) : List Nat → List Nat
  | [] => [k]
  | x :: xs => if k < x then k :: x :: xs else if k = x then x :: xs else x :: insertKey k xs

/-- The merged rows: for each key ascending, the gradients of the members in member order (R181). -/
def mergeDet (senders : List (List DetEntry)) : List ApplyRow :=
  let keys := (senders.flatten.map (·.key)).foldr insertKey []
  keys.map (fun k =>
    let es := senders.filterMap (fun l => l.find? (fun e => e.key = k))
    let gs := es.map (fun e => (unpackElems 32 (e.grad.length / 4) e.grad).map ofF32)
    { key := k, count := (es.map (·.count)).foldl (· + ·) 0,
      grad := match gs with
        | [] => []
        | g :: rest => rest.foldl (fun a x => List.zipWith add32 a x) g })

/-- The DET entries of the members whose headers are current, merged and applied; then iteration 0 is over. -/
def applyDet (d : Fin 2) (j : Fin 4) (r : EmbRec) (s0 s : State) (st : Step) : IterResult :=
  let q := embQ d j
  let b := embBlk d j
  let n := r.gradPitch / 4 * 4
  let spans := (List.range r.m).flatMap (fun m =>
    (List.range ((currentUpd s d j r m).getD 0)).map (fun i => locSpan s (r.areaAt m + i * r.entryBytes) (16 + n)))
  readStage s0 s q spans (fun l _ s =>
    let entry (bs : List Byte) : DetEntry := { key := qw bs 0, count := bits (qw bs 1) 0 25, grad := bs.drop 16 }
    let x := (List.range r.m).foldl (fun (a : List (List DetEntry) × List (List Byte)) m =>
      let c := (currentUpd s d j r m).getD 0
      (a.1 ++ [(a.2.take c).map entry], a.2.drop c)) ([], l)
    let ok := x.1.map ascending
    let bad := ok.flatMap (·.2)
    let s := forEach bad s (fun s k => b.event (b.sat (tstat s q (k / 2 ^ 40 % 4096) 6 1) 0x74) 18)
    applyRows d j r s0 (mergeDet (ok.map (·.1))) s (fun s => .ran (setScr s q 100 2) (opAddr s q st.d)))

/-- APPLY's start, and then one FAST pair for each iteration after the first: iteration i ≥ 1 takes pair i − 1 of A. -/
def applyFast (d : Fin 2) (j : Fin 4) (r : EmbRec) (s0 s : State) (st : Step) : IterResult :=
  let q := embQ d j
  let b := embBlk d j
  let x := getSeq s q
  let aD := opAddr s q st.d
  let ep := if st.a.epochEn then some (operandEpoch x st.a 0 0 0) else none
  readStage s0 s q [{ operand := 0, addr := (operandAddr x st.a 0 0 0 + 4 * (flatIter x - 1)) % 2 ^ 64, len := 4, fmt := st.a.format,
                      ep := ep }] (fun l _ s =>
    let pair := leNat (l.headD [])
    let tab := bits pair 0 12
    let sh := bits pair 12 14
    readStage s0 s q [descSpan s r tab] (fun l _ s =>
      let t := tableDesc (l.headD [])
      if !t.ok ∨ t.opt = 4 ∨ t.det ∨ t.shards ≤ sh then .ran s aD
      else
        readStage s0 s q [shardSpan s t sh] (fun l _ s =>
          let e := shardEnt (l.headD [])
          if !e.valid then .ran s aD
          else
            let tver := boundTver r (getEmb s d j).asnap tab t
            readStage s0 s q [shardLoc s e e.list 8] (fun l _ s =>
              let h := qw (l.headD []) 0
              let tail := bits h 0 32
              let cap := bits h 32 32
              let sweep := cap < tail
              let s := if sweep then b.event (b.sat s 0x78) 19 else s
              readStage s0 s q (if sweep then [] else [shardLoc s e (e.list + 8) (8 * tail)]) (fun l _ s =>
                let rows := if sweep then List.range (t.rowsOf sh) else (List.range tail).map (word 8 (l.headD []))
                readStage s0 s q (rows.map (fun x => shardLoc s e (recordAt t e tver x + 4) 4) ++
                    rows.map (fun x => shardLoc s e (recordAt t e tver x + t.gacc) (4 * t.n))) (fun l _ s =>
                  let found := rows.zipIdx.map (fun x => (x.1, leNat (l.getD x.2 []), l.getD (rows.length + x.2) []))
                  let found := if sweep then found.filter (fun x => x.2.1 ≠ 0) else found
                  applyRows d j r s0 (found.map (fun x =>
                      ApplyRow.mk (tab * 2 ^ 40 + t.globalRow sh x.1) x.2.1 ((unpackElems 32 t.n x.2.2).map ofF32))) s (fun s =>
                    let s := forEach found s (fun s x =>
                      let a := recordAt t e tver x.1
                      shardWrite (shardWrite s q e (a + t.gacc) (List.replicate (4 * t.n) 0)) q e (a + 4) (leBytes 4 0))
                    .ran (shardWrite s q e e.list (leBytes 4 0)) aD)))))))

/-- APPLY: it binds the images of the tables and starts to wait for the update headers, or, past the merge, applies its next FAST
pair. -/
def applyIter (d : Fin 2) (j : Fin 4) (r : EmbRec) (s : State) (st : Step) : IterResult :=
  let q := embQ d j
  match scr s q 100 with
  | none => bindDir s s q r (fun snap s =>
      .hold (setScr (setScr (noteSkew d j r snap (setEmb s d j { getEmb s d j with asnap := some snap })) q 100 1) q 104 s.now))
  | some 2 => applyFast d j r s s st
  | some _ => .hold s

/-- EMB_UPDATE_HEADERS_RECEIVED (R181): all M update headers are current. -/
def updatesReceivedIter (d : Fin 2) (j : Fin 4) (r : EmbRec) (s : State) (st : Step) : IterResult :=
  if scr0 s (embQ d j) 100 ≠ 1 ∨ (List.range r.m).any (fun m => (currentUpd s d j r m).isNone) then .hold s
  else applyDet d j r s s st

/-- EMB_PHASE_TIMEOUT (R181): what has arrived is applied, and the step's status becomes TIMEOUT. -/
def embTimeoutIter (d : Fin 2) (j : Fin 4) (r : EmbRec) (s : State) (st : Step) : IterResult :=
  let q := embQ d j
  let b := embBlk d j
  let lim := 1024 * b.rd s 0x54
  if scr0 s q 100 ≠ 1 ∨ lim = 0 ∨ (s.now - scr0 s q 104) * seqMhz s q ≤ lim ∨
      (List.range r.m).all (fun m => (currentUpd s d j r m).isSome) then .hold s
  else applyDet d j r s (b.raise (b.event (noteStatus s q tkTimeout) 21) 0x0104 (seqPart s q) 0) st

/-! ### REFRESH (R184) -/

/-- A candidate ranks before another: higher count, then lower key. -/
def candBefore (a b : Nat × Nat) : Bool := b.1 < a.1 || (a.1 = b.1 && a.2 < b.2)

def insertCand (c : Nat × Nat) : List (Nat × Nat) → List (Nat × Nat)
  | [] => [c]
  | x :: xs => if candBefore c x then c :: x :: xs else x :: insertCand c xs

/-- REFRESH: the best candidates that fit go to every member, then the hot headers. -/
def refreshIter (d : Fin 2) (j : Fin 4) (r : EmbRec) (s : State) (st : Step) : IterResult :=
  let q := embQ d j
  let b := embBlk d j
  let s0 := s
  let aD := opAddr s q st.d
  let e := getEmb s d j
  let empty := emptyStep (getSeq s q)
  let ranked := (if e.cstep = r.step ∧ !empty then e.cands else []).foldr insertCand []
  let ts := (ranked.map (fun c => c.2 / 2 ^ 40)).eraseDups
  if !r.hrd then (if empty then .hold (retireStep s q true) else .ran s aD)
  else readStage s0 s q (locSpan s r.members (4 * r.m) :: ts.map (descSpan s r)) (fun l _ s =>
    let ms := l.headD []
    let desc (t : Nat) : TableDesc := tableDesc (l.getD (1 + ts.findIdx (· = t)) [])
    let fits (c : Nat × Nat) : Bool := 24 + (desc (c.2 / 2 ^ 40)).dataBytes ≤ r.hrdPitch
    let pick := ranked.foldl (fun (a : List (Nat × Nat) × Nat) c =>
      if r.hrdCount ≤ a.1.length then a else if fits c then (a.1 ++ [c], a.2) else (a.1, a.2 + 1)) ([], 0)
    let best := pick.1
    let s := b.sat s 0x7C pick.2
    readStage s0 s q (best.map (fun c => let t := desc (c.2 / 2 ^ 40); shardSpan s t (t.place (c.2 % 2 ^ 40)).1)) (fun sl _ s =>
      let recs := best.zipIdx.map (fun c =>
        let tab := c.1.2 / 2 ^ 40
        let t := desc tab
        (c.1.2, t, recordAt t (shardEnt (sl.getD c.2 [])) (boundTver r e.asnap tab t) (t.place (c.1.2 % 2 ^ 40)).2))
      let ent (i : Nat) : ShardEnt := shardEnt (sl.getD i [])
      readStage s0 s q (recs.zipIdx.map (fun x => shardLoc s (ent x.2) x.1.2.2 4)) (fun vl _ s =>
        readStage s0 s q (recs.zipIdx.map (fun x =>
            let cur := if x.1.2.1.row then leNat (vl.getD x.2 []) % 2 else 0
            shardLoc s (ent x.2) (x.1.2.2 + x.1.2.1.slotAt cur) (8 + x.1.2.1.dataBytes))) (fun dl _ s =>
          let ep := (r.step + 1) % 2 ^ 32
          let iso := (recs.getLast?).map (fun x => x.2.1.isolated)
          let s := forEach r.order s (fun s m =>
            let dev := 2 ^ 41 * memberDev ms m
            let s := forEach recs.zipIdx s (fun s x =>
              embSend d j (dev + hotEntry r ep (r.hrdFirst + x.2))
                (leBytes 8 x.1.1 ++ leBytes 8 ep ++ dl.getD x.2 []) false none (some x.1.2.1.isolated) s)
            let o := dev + r.hrdBase + 16 * r.self
            let s := embSend d j (o + 8) (leBytes 8 r.hrdFirst) false none iso s
            embSend d j o (leBytes 8 (embHeader ep recs.length 3)) true none iso s)
          if empty then .hold (retireStep s q true)
          else .ran (forEach recs s (fun s x => tstat s q (x.1 / 2 ^ 40) 5 1)) aD))))

/-! ### The commands -/

/-- PUSH (R179). -/
def execPush (d : Fin 2) (j : Fin 4) (s : State) : Out := runEmb d j 0x15 true (pushIter d j) s
/-- PUSH_REPLIES_DONE (R180). -/
def execPushRepliesDone (d : Fin 2) (j : Fin 4) (s : State) : Out := runEmb d j 0x15 false (pushRepliesIter d j) s
/-- EMB_HEADER_ARRIVE (R179). -/
def execEmbHeaderArrive (d : Fin 2) (j : Fin 4) (m : Nat) (s : State) : Out := .next (embHeaderArrive d j m s)
/-- APPLY (R181). -/
def execApply (d : Fin 2) (j : Fin 4) (s : State) : Out := runEmb d j 0x16 true (applyIter d j) s
/-- EMB_UPDATE_HEADERS_RECEIVED (R181). -/
def execEmbUpdateHeadersReceived (d : Fin 2) (j : Fin 4) (s : State) : Out := runEmb d j 0x16 false (updatesReceivedIter d j) s
/-- EMB_PHASE_TIMEOUT (R181). -/
def execEmbPhaseTimeout (d : Fin 2) (j : Fin 4) (s : State) : Out := runEmb d j 0x16 false (embTimeoutIter d j) s
/-- REFRESH (R184). -/
def execRefresh (d : Fin 2) (j : Fin 4) (s : State) : Out := runEmb d j 0x17 true (refreshIter d j) s

end Sys2Proof.Machine
end

