-- ==== Sys2Proof/Machine/Optimiser.lean ====
section
/-! DEFINITION. Sys2Proof/Machine/Optimiser.lean: the optimiser engine (R271–R280, R282): its record, UPDATE, CAST, COPY. Words of a
step: 1 and 2 the gradient scale and the gate word of the step, 100 the bound is set, 101 tokens taken for iterations so far, 120
CONFIG found its record invalid, 200 bytes copied, 900 LENGTH of the step's entries. -/
namespace Sys2Proof.Machine

def optQ (d : Fin 2) (j : Fin 4) : SeqId := .die d ⟨16 + j.val, by omega⟩
def optBlk (d : Fin 2) (j : Fin 4) : Blk := .eng d ⟨16 + j.val, by omega⟩

/-! ### The record (Table 12.2) -/

/-- The fields of an optimiser record. -/
structure OptRec where
  alg : Nat
  nesterov : Bool
  zskip : Bool
  nfskip : Bool
  rnd : Nat
  gradFmt : Nat
  wfmt : Nat
  headroom : Nat
  scaleForm : Nat
  tensor : Nat
  pb : Nat
  wpb : Nat
  shard : Nat
  ch : Nat
  step : Nat
  lr : Nat
  wd : Nat
  beta1 : Nat
  beta2 : Nat
  eps : Nat
  mu : Nat
  seed : Nat
  gradBase : Nat
  master : Nat
  state : Nat
  work : Nat
  gscale : Nat
  gate : Nat
  deriving DecidableEq, Repr

def optRec (r : List Nat) : OptRec :=
  { alg := fld r 0 0 3, nesterov := fld r 0 3 1 = 1, zskip := fld r 0 4 1 = 1, nfskip := fld r 0 5 1 = 1, rnd := fld r 0 6 2,
    gradFmt := fld r 0 8 8, wfmt := fld r 0 16 8, headroom := fld r 0 24 3, scaleForm := fld r 0 27 1, tensor := fld r 0 32 16,
    pb := fld r 1 0 12, wpb := fld r 1 16 12, shard := fld r 1 32 15, ch := fld r 2 0 16, step := fld r 2 32 32,
    lr := fld r 3 0 32, wd := fld r 3 32 32, beta1 := fld r 4 0 32, beta2 := fld r 4 32 32, eps := fld r 5 0 32,
    mu := fld r 5 32 32, seed := r.getD 6 0, gradBase := fld r 7 0 41, master := fld r 8 0 41, state := fld r 9 0 41,
    work := fld r 10 0 41, gscale := fld r 11 0 41, gate := fld r 12 0 41 }

/-- Elements of a piece; bytes of a gradient piece, of a state piece (R278), of a working piece (R279). -/
def OptRec.n (r : OptRec) : Nat := 32 * r.pb
def OptRec.gradBytes (r : OptRec) : Nat := r.n * (elemBits r.gradFmt / 8)
def OptRec.arrays (r : OptRec) : Nat := if r.alg = 1 ∨ r.alg = 2 then 2 else 1
def OptRec.stateBytes (r : OptRec) : Nat := 16 + 4 * r.n * r.arrays
def OptRec.workBytes (r : OptRec) : Nat := 128 * r.wpb
def OptRec.workAt (r : OptRec) (k : Nat) : Nat := r.work + r.workBytes * k

/-- The content of a working piece: elements, then channel scales (R279). -/
def OptRec.content (r : OptRec) : Nat :=
  rowBytes r.wfmt r.n + (if isScaled r.wfmt then r.n / r.ch * (if r.scaleForm = 1 then 4 else 1) else 0)

/-- A span lies in this device's HBM or in Near Memory of the engine's own die (R272). -/
def optPlace (s : State) (d : Fin 2) (a n : Nat) : Bool :=
  n = 0 ||
  (addrOk a && devOf a = selfId s &&
   (match placeOf (offOf a), placeOf (offOf a + (n - 1)) with
    | .hbm _, .hbm _ => true
    | .nm u _, .nm v _ => u = v && physOf s u / 80 = d.val
    | _, _ => false))

/-- The checks of R274. -/
def OptRec.valid (s : State) (d : Fin 2) (r : OptRec) : Bool :=
  let base (o : Nat) : Bool := o % 64 = 0 && optPlace s d (ownAddr s o) 1
  r.alg ≤ 3 && (r.rnd = 0 || r.rnd = 2) && (r.gradFmt = 1 || r.gradFmt = 2) &&
    ((1 ≤ r.wfmt && r.wfmt ≤ 5) || (0x11 ≤ r.wfmt && r.wfmt ≤ 0x1F)) && 1 ≤ r.pb && r.pb ≤ 2048 && 1 ≤ r.wpb &&
    r.shard ≤ 16384 && 1 ≤ r.ch && (!isScaled r.wfmt || r.n % r.ch = 0) && r.content ≤ r.workBytes &&
    base r.gradBase && base r.master && base r.state && base r.work

/-- An operand outside R272's places: nothing is accessed. -/
def optMisplaced (s : State) (d : Fin 2) (j : Fin 4) : State := (optBlk d j).countErr (noteStatus s (optQ d j) tkMemory)

/-- CONFIG (R273, R274). After an invalid record a single word stands for it. -/
def optConfigIter (d : Fin 2) (j : Fin 4) (s : State) (st : Step) : IterResult :=
  let q := optQ d j
  let b := optBlk d j
  let aD := opAddr s q st.d
  if !optPlace s d (opAddr s q st.a) 128 then .ran (optMisplaced s d j) aD
  else
    match configIter b q 128 0x40 0x48 19 0x0101 (fun s rq k =>
        let r := optRec rq
        if r.valid s d then k true s else k false (setScr s q 120 1)) s st with
    | .ran s aD => .ran (if scr0 s q 120 = 1 then setRec (delScr s q 120) b [0] else s) aD
    | .hold s => .hold s

/-- An iteration under the record in force. Without one it accesses nothing. -/
def optUnder (d : Fin 2) (j : Fin 4) (body : OptRec → State → Step → IterResult) (s : State) (st : Step) : IterResult :=
  let q := optQ d j
  match recOf s (optBlk d j) with
  | r0 :: r1 :: rest => body (optRec (r0 :: r1 :: rest)) s st
  | _ =>
    if emptyStep (getSeq s q) then .hold (retireStep (noteStatus s q tkMemory) q true)
    else idleIter s q st (some tkMemory)

/-- The level-0 bound: SHARD_PIECES clamped to L0 (R273). The step has processed no piece yet. -/
def boundShard (d : Fin 2) (j : Fin 4) (r : OptRec) (st : Step) (s : State) : State :=
  let q := optQ d j
  if (scr s q 100).isSome then s
  else
    let s := modSeq (setScr ((optBlk d j).wr s 0x4C 0) q 100 1) q (fun x => { x with b0 := min r.shard st.l0 })
    if st.l0 < r.shard then (optBlk d j).countErr (noteStatus s q tkCountRange) else s

/-! ### Working pieces (R279) -/

/-- The bytes of working piece `k` from its masters, and the values out of range (R286): those that saturate, and finite ones whose
conversion overflows to infinity (Table 5.3). -/
def workPiece (r : OptRec) (k : Nat) (w : List NumVal) : List Byte × Nat :=
  let key : Key := { seed := r.seed, step := r.step, tensor := r.tensor }
  let scaled := isScaled r.wfmt
  let chs := if scaled then (List.range (r.n / r.ch)).map (fun c => scaleByte (boundExp ((w.drop (c * r.ch)).take r.ch)) r.headroom (topOf r.wfmt)) else []
  let vals := if scaled then w.zipIdx.map (fun e => divScale (chs.getD (e.2 / r.ch) 127) e.1) else w
  let x := convertList r.wfmt r.rnd key (fun i => k * 2 ^ 16 + i) countAll vals
  let scales := if r.scaleForm = 1 then chs.flatMap (fun b => leBytes 4 (toF32 (unscale b .one))) else chs.flatMap (leBytes 1)
  let bs := packElems (elemBits r.wfmt) x.codes ++ scales
  (bs ++ List.replicate (r.workBytes - bs.length) 0, x.ofl)

/-- Write working piece `k`. -/
def writeWork (d : Fin 2) (j : Fin 4) (r : OptRec) (k : Nat) (w : List NumVal) (s : State) : State :=
  let b := optBlk d j
  let x := workPiece r k w
  let s := locWrite s (optQ d j) (r.workAt k) x.1
  if x.2 = 0 then s else b.event (b.sat s 0x60 x.2) 17

/-- The iteration is over, with the entry of its working piece `k` (R275, R280). -/
def pieceEntry (d : Fin 2) (j : Fin 4) (r : OptRec) (k : Nat) (s : State) : IterResult :=
  .ran (setScr s (optQ d j) 900 r.workBytes) (ownAddr s (r.workAt k % 2 ^ 41))

/-- The piece is done: PIECES_LAST counts it. -/
def pieceDone (d : Fin 2) (j : Fin 4) (r : OptRec) (k : Nat) (s : State) : IterResult :=
  pieceEntry d j r k ((optBlk d j).add s 0x4C 1)

/-! ### UPDATE (R275–R277) -/

/-- sign(c): +1.0, −1.0, +0 for ±0, NaN for NaN. -/
def signOf (c : NumVal) : NumVal := if c.isNan then .qnan else if c.isZero then .zero else if c.isNeg then NumVal.one.negate else .one

/-- One element's update (R276): from g (scaled), w and its state; `c1` and `c2` are the bias corrections. -/
def elemUpdate (r : OptRec) (c1 c2 g w a b : NumVal) : NumVal × NumVal × NumVal :=
  let f := ofF32
  let lr := f r.lr
  let wd := f r.wd
  let b1 := f r.beta1
  let b2 := f r.beta2
  let mix (x y : NumVal) (beta : NumVal) : NumVal := add32 (mul32 beta x) (mul32 (sub32 .one beta) y)
  match r.alg with
  | 0 =>
    let v := add32 (mul32 (f r.mu) a) g
    let dd := if r.nesterov then add32 g (mul32 (f r.mu) v) else v
    (sub32 w (mul32 lr (add32 dd (mul32 wd w))), v, b)
  | 3 =>
    let c := mix a g b1
    (sub32 w (mul32 lr (add32 (signOf c) (mul32 wd w))), mix a g b2, b)
  | alg =>
    let g := if alg = 1 then add32 g (mul32 wd w) else g
    let m := mix a g b1
    let v := mix b (mul32 g g) b2
    let u := div32 (div32 m c1) (add32 (sqrt32 (div32 v c2)) (f r.eps))
    (sub32 w (mul32 lr (if alg = 2 then add32 u (mul32 wd w) else u)), m, v)

/-- The scale and the gate word, read at the step's first iteration and kept (R277). -/
def stepWords (d : Fin 2) (j : Fin 4) (r : OptRec) (s0 s : State) (k : Nat → Nat → State → IterResult) : IterResult :=
  let q := optQ d j
  let b := optBlk d j
  match scr s q 1, scr s q 2 with
  | some g, some w => k g w s
  | _, _ =>
    readStage s0 s q [locSpan s r.gscale (if r.gscale = 0 then 0 else 4) 1, locSpan s r.gate (if r.gate = 0 then 0 else 4)] (fun l _ s =>
      let g := if r.gscale = 0 then 0x3F800000 else leNat (l.getD 0 [])
      let w := leNat (l.getD 1 [])
      let s := b.wr (setScr (setScr s q 1 g) q 2 w) 0x6C w
      k g w (if w = 0 then s else b.event (b.sat s 0x68) 18))

/-- The arithmetic of one piece: new masters and new state bytes, header included; whether it is applied; whether an element of g
is not finite. -/
def pieceUpdate (r : OptRec) (gscale gate : Nat) (grad master state : List Byte) : List NumVal × List Byte × Bool × Bool :=
  let f32s (bs : List Byte) : List NumVal := (unpackElems 32 r.n bs).map ofF32
  let raw := (unpackElems (elemBits r.gradFmt) r.n grad).map (elemDecode r.gradFmt)
  let g := raw.map (fun x => mul32 x (ofF32 gscale))
  let w := f32s master
  let nonfinite := g.any (fun x => !x.isFin)
  let skip := gate ≠ 0 || (r.zskip && raw.all (·.isZero)) || (r.nfskip && nonfinite)
  let h := qw state 0
  if skip then (w, leBytes 8 (putBits h 32 32 (bits h 32 32 + 1)) ++ state.drop 8, false, nonfinite)
  else
    let t := (bits h 0 32 + 1) % 2 ^ 32
    let c1 := sub32 .one (powT (ofF32 r.beta1) t)
    let c2 := sub32 .one (powT (ofF32 r.beta2) t)
    let a := f32s (state.drop 16)
    let b := if r.arrays = 2 then f32s (state.drop (16 + 4 * r.n)) else []
    let out := (List.range r.n).map (fun i =>
      elemUpdate r c1 c2 (g.getD i .zero) (w.getD i .zero) (a.getD i .zero) (b.getD i .zero))
    let bytes (l : List NumVal) : List Byte := packElems 32 (l.map toF32)
    (out.map (·.1), leBytes 8 (putBits h 0 32 t) ++ (state.drop 8).take 8 ++ bytes (out.map (·.2.1)) ++
      (if r.arrays = 2 then bytes (out.map (·.2.2)) else []), true, nonfinite)

/-- UPDATE. DESIGN CHOICE (log entry 189): where ADDR lies below GRAD_BASE the entry of BAD_PIECE names working piece 0. -/
def updateIter (d : Fin 2) (j : Fin 4) (r : OptRec) (s : State) (st : Step) : IterResult :=
  let q := optQ d j
  let b := optBlk d j
  let s := boundShard d j r st s
  if emptyStep (getSeq s q) then .hold (retireStep s q true)
  else takeIter s q st (fun s =>
    let s0 := s
    let a := opAddr s q st.a
    let o := offOf a
    let k := (o - r.gradBase) / r.gradBytes
    if !addrOk a ∨ devOf a ≠ selfId s ∨ o < r.gradBase ∨ (o - r.gradBase) % r.gradBytes ≠ 0 ∨ r.shard ≤ k then
      pieceEntry d j r k (noteStatus (b.raise (b.event (b.sat s 0x64) 20) 0x0102 (seqPart s q) (a % 2 ^ 32)) q tkMemory)
    else
      let mA := r.master + 4 * r.n * k
      let sA := r.state + r.stateBytes * k
      let place (o n : Nat) : Bool := optPlace s d (ownAddr s (o % 2 ^ 41)) n
      if !(optPlace s d a r.gradBytes && place mA (4 * r.n) && place sA r.stateBytes && place (r.workAt k) r.workBytes &&
          (r.gscale = 0 || place r.gscale 4) && (r.gate = 0 || place r.gate 4)) then
        pieceEntry d j r k (optMisplaced s d j)
      else stepWords d j r s0 s (fun gscale gate s =>
        readStage s0 s q [{ operand := 0, addr := a, len := r.gradBytes, fmt := r.gradFmt }, locSpan s mA (4 * r.n) 1,
            locSpan s sA r.stateBytes] (fun l _ s =>
          let x := pieceUpdate r gscale gate (l.getD 0 []) (l.getD 1 []) (l.getD 2 [])
          let s := if x.2.2.2 then b.event (b.sat s 0x5C) 16 else s
          let s := if x.2.2.1 then b.add (locWrite s q mA (packElems 32 (x.1.map toF32))) 0x50 r.n else b.sat s 0x58
          pieceDone d j r k (writeWork d j r k x.1 (locWrite s q sA x.2.1)))))

/-! ### CAST (R280) -/

/-- CAST: shard piece k = i0. -/
def castIter (d : Fin 2) (j : Fin 4) (r : OptRec) (s : State) (st : Step) : IterResult :=
  let q := optQ d j
  let s := boundShard d j r st s
  let s0 := s
  let k := (getSeq s q).i0
  let mA := r.master + 4 * r.n * k
  let place (o n : Nat) : Bool := optPlace s d (ownAddr s (o % 2 ^ 41)) n
  if emptyStep (getSeq s q) then .hold (retireStep s q true)
  else if !(place mA (4 * r.n) && place (r.workAt k) r.workBytes) then pieceEntry d j r k (optMisplaced s d j)
  else readStage s0 s q [locSpan s mA (4 * r.n) 1] (fun l _ s =>
    pieceDone d j r k (writeWork d j r k ((unpackElems 32 r.n (l.headD [])).map ofF32) s))

/-! ### COPY (R282) -/

/-- Copy from byte `off` on, in pieces that cross no 4 KiB boundary of either address, as far as what is loaded and the limit of 64
requests in flight allow: whether all is copied. -/
def copyFrom (d : Fin 2) (j : Fin 4) (src dst len : Nat) (epA epD : Option Nat) (fmt : Nat) : Nat → Nat → State → Bool × State
  | 0, _, s => (true, s)
  | n + 1, off, s =>
    let q := optQ d j
    if len ≤ off then (true, s)
    else if 64 ≤ (s.outs.filter (fun o => o.waiter.inst = some q.inst)).length then (false, s)
    else
      let a := (src + off) % 2 ^ 64
      let b := (dst + off) % 2 ^ 64
      let m := min (len - off) (min (4096 - a % 4096) (4096 - b % 4096))
      match nearRead s q [{ operand := 0, addr := a, len := m, fmt := fmt, ep := epA }] with
      | (none, s) => (false, s)
      | (some l, s) =>
        let s := (optBlk d j).add (writeOp (dropBuf s q a m) q b (l.headD []) epD) 0x70 m
        copyFrom d j src dst len epA epD fmt n (off + m) (setScr s q 200 (off + m))

/-- COPY: A LENGTH bytes from A's address to D's. -/
def optCopyIter (d : Fin 2) (j : Fin 4) (s : State) (st : Step) : IterResult :=
  let q := optQ d j
  let b := optBlk d j
  let aD := opAddr s q st.d
  match recOf s b with
  | [_] => .ran (noteStatus s q tkMemory) aD
  | _ =>
    let off := scr0 s q 200
    let x := copyFrom d j (opAddr s q st.a) aD st.a.length (opEpoch s q st.a) (opEpoch s q st.d) st.a.format (st.a.length - off) off s
    if x.1 then .ran (b.wr (delScr x.2 q 200) 0x4C (flatIter (getSeq s q) + 1)) aD else .hold x.2

/-! ### The commands -/

/-- OPT_CONFIG (R273). -/
def execOptConfig (d : Fin 2) (j : Fin 4) (s : State) : Out := .next (runIter (optQ d j) 0x10 (optConfigIter d j) s)
/-- UPDATE (R275). -/
def execUpdate (d : Fin 2) (j : Fin 4) (s : State) : Out := .next (runIter (optQ d j) 0x11 (optUnder d j (updateIter d j)) s)
/-- CAST (R280). -/
def execCast (d : Fin 2) (j : Fin 4) (s : State) : Out := .next (runIter (optQ d j) 0x12 (optUnder d j (castIter d j)) s)
/-- OPT_COPY (R282). -/
def execOptCopy (d : Fin 2) (j : Fin 4) (s : State) : Out := .next (runIter (optQ d j) 0x13 (optCopyIter d j) s)

end Sys2Proof.Machine
end

