-- ==== Sys2Proof/Machine/PoolOps.lean ====
section
/-! DEFINITION. Sys2Proof/Machine/PoolOps.lean: the Buffer Pool Manager's own operations (R141, Table 6.9). -/
namespace Sys2Proof.Machine

/-- Four bytes of an operand lie in Near Memory or HBM of die `d` of this device (R141). -/
def poolOperandOk (s : State) (d a : Nat) : Bool :=
  addrOk a && devOf a = selfId s && dieOfOffset s (offOf a) = some d && dieOfOffset s (offOf a + 3) = some d

/-- One ALLOC iteration: reads a size from A, allocates it as an engine request, and writes the handle to D; while the
request waits for a buffer it holds. Word 0 says that the request is waiting. After a read that fails the iteration acts on nothing
(Table 6.8). -/
def allocIter (d : Fin 2) (s : State) (st : Step) : IterResult :=
  let q := SeqId.die d 20
  let aA := opAddr s q st.a
  let aD := opAddr s q st.d
  if !poolOperandOk s d.val aA ∨ !poolOperandOk s d.val aD then .ran (noteStatus s q tkMemory) aD
  else
    let answer (s : State) (h : Nat) : IterResult := .ran (writeD (delScr s q 0) q st.d 0 (leBytes 4 h)) aD
    if (scr s q 0).isSome then
      match takeAnswer s q.inst 0 with
      | some (h, s) => answer s h
      | none => .hold s
    else
      let f := prefetch s q [{ operand := 0, addr := aA, len := 4, fmt := st.a.format }]
      if !f.1 then .hold f.2
      else
        let r := readAB f.2 q 0 st.a 0 4 st.a.format
        if !r.2.1 then .ran r.2.2 aD
        else
          let w := engineAlloc r.2.2 d q.inst 0 (leNat r.1)
          match w.1 with
          | some h => answer w.2 h
          | none => .hold (setScr w.2 q 0 1)

/-- One FREE iteration: reads a handle from A and frees it (R140). -/
def freeIter (d : Fin 2) (s : State) (st : Step) : IterResult :=
  let q := SeqId.die d 20
  let aA := opAddr s q st.a
  let aD := opAddr s q st.d
  if !poolOperandOk s d.val aA then .ran (noteStatus s q tkMemory) aD
  else
    let f := prefetch s q [{ operand := 0, addr := aA, len := 4, fmt := st.a.format }]
    if !f.1 then .hold f.2
    else
      let r := readAB f.2 q 0 st.a 0 4 st.a.format
      .ran (if r.2.1 then freeHandle r.2.2 d (leNat r.1) else r.2.2) aD

/-- BPM_ALLOC_OP (R141). -/
def execBpmAllocOp (d : Fin 2) (s : State) : Out := .next (runIter (.die d 20) 0x10 (allocIter d) s)

/-- BPM_FREE_OP (R141). -/
def execBpmFreeOp (d : Fin 2) (s : State) : Out := .next (runIter (.die d 20) 0x11 (freeIter d) s)

end Sys2Proof.Machine
end

