-- ==== Sys2Proof/Machine/Loader.lean ====
section
/-! DEFINITION. Sys2Proof/Machine/Loader.lean: the Wypen loader's commands (R60–R62): reading an image, checks 1, 4 and 5 of Table
3.12, and loading. Checks 2, 3 and 6 to 13 are in Verify.lean. -/
namespace Sys2Proof.Machine

/-! ### Reading an image (Table 3.11) -/

/-- An image's tables as bytes, each header with its steps, from the bytes of the tables section. -/
def cutTables (bs : List Byte) : Nat → List (List Byte)
  | 0 => []
  | n + 1 =>
    let len := 128 + 128 * bits (qw bs 0) 48 8
    bs.take len :: cutTables (bs.drop len) n

/-- The pages listed, up to the terminating 0; none when no 0 ends the list. -/
def cutPages : Nat → List Byte → Option (List Nat)
  | 0, _ => none
  | n + 1, bs => if bs.length < 8 then none else if qw bs 0 = 0 then some [] else (cutPages n (bs.drop 8)).map (qw bs 0 :: ·)

/-- The bindings are well-formed: no unit twice, table indices in the image, at most 64 tables a schedule and four schedules for
each sequencer of the unit, at most eight entry points, each in the code. -/
def bindsOk (binds : List LoadBind) (tables codeBytes : Nat) : Bool :=
  decide ((binds.map (·.unit)).Nodup) && binds.all (fun b =>
    b.scheds.length ≤ (match b.unit with | .tile _ => 4 | .engine _ => 1) &&
    b.scheds.all (fun l => l.length ≤ 4 && l.all (fun k => k.length ≤ 64 && k.all (fun i => i < tables))) &&
    b.entries.length ≤ (match b.unit with | .tile _ => 8 | .engine _ => 0) &&
    b.entries.all (fun e => match e with | some o => o < codeBytes | none => true))

/-- An image as the command names it, with its tables' bytes; none when check 1, IMAGE_FORM, fails: the image must lie in the
partition's HBM, its magic, version and sections must be right. -/
def readImage (s : State) (part addr result first count : Nat) (binds : List LoadBind) : Option (Image × List (List Byte)) :=
  let a := offOf addr
  let inHbm (n : Nat) : Bool := a + n ≤ 0x8000000000 && allotted s part a n
  if !addrOk addr || devOf addr ≠ selfId s || !inHbm 0x58 then none
  else
    let f (o n : Nat) : Nat := readNat s (a + o) n
    let len := f 0x08 8
    let sect (o n : Nat) : Bool := o + n ≤ len
    let setN := f 0x20 2
    let tabN := f 0x22 2
    let sets := f 0x28 8
    let tabs := f 0x30 8
    let code := f 0x40 8
    let codeN := f 0x48 8
    let pages := f 0x50 8
    if f 0 4 ≠ 0x57504E31 || f 4 2 ≠ 1 || len < 0x58 || !inHbm len || !sect sets (4 * setN) || !sect tabs 0 || !sect (f 0x38 8) 0 ||
        !sect code codeN || !sect pages 8 then none
    else
      let raw := cutTables (readBytes s (a + tabs) (len - tabs)) tabN
      match cutPages ((len - pages) / 8) (readBytes s (a + pages) (len - pages)) with
      | none => none
      | some pgs =>
        if raw.any (fun t => t.length < 128 || t.length < 128 + 128 * bits (qw t 0) 48 8) || !bindsOk binds tabN codeN then none
        else
          some ({ part := part, addr := addr, result := result, first := first, count := count, minTiles := f 0x10 2,
                  minPorts := f 0x12 1, minEng := f 0x14 4, minHbm := f 0x18 2,
                  sets := (List.range setN).map (fun i => (readNat s (a + sets + 4 * i) 1, readNat s (a + sets + 4 * i + 1) 1)),
                  tables := raw.map (fun t => parseTable (t.take 128) (t.drop 128)), binds := binds, codeSrc := a + code,
                  codeBytes := codeN, pages := pgs }, raw)

/-! ### Check 4, TABLE_FORM -/

/-- The bits of a quadword that a layout names, from its list of fields. -/
def onlyBits (v : Nat) (fields : List (Nat × Nat)) : Bool :=
  v = (fields.map (fun f => bits v f.1 f.2 * 2 ^ f.1)).foldl (· + ·) 0

/-- A table header's reserved bits are 0, its magic, version and engine are right (Table 3.3). -/
def headerOk (h : List Byte) : Bool :=
  bits (qw h 0) 0 32 = 0x53544442 && bits (qw h 0) 40 8 = 1 && bits (qw h 0) 48 8 ≤ 128 &&
    [0x12, 0x14, 0x15, 0x20, 0x21, 0x22, 0x23, 0x24, 0x25, 0x26, 0x27].contains (bits (qw h 0) 32 8) &&
    onlyBits (qw h 1) [(0, 48)] && onlyBits (qw h 2) [(0, 48)] && onlyBits (qw h 3) [(0, 48)] &&
    (List.range 16).all (fun m => onlyBits (leNat ((h.drop (32 + 4 * m)).take 4)) [(0, 22)]) &&
    (h.drop 96).all (fun b => b = 0)

/-- A step's reserved bits are 0 (Tables 3.4, 3.5). -/
def stepBitsOk (b : List Byte) : Bool :=
  let operand (i : Nat) : Bool :=
    onlyBits (qw b i) [(0, 58)] && onlyBits (qw b (i + 2)) [(0, 46), (48, 8)] && onlyBits (qw b (i + 3)) [(0, 32)]
  onlyBits (qw b 0) [(0, 23), (24, 23), (48, 2)] && onlyBits (qw b 1) [(0, 56)] && onlyBits (qw b 2) [(0, 60)] &&
    onlyBits (qw b 3) [(0, 41)] && operand 4 && operand 8 && operand 12

/-- An operand's codes are of Table 3.5 and Table 5.1. -/
def operandForm (waits : Bool) (o : Operand) : Bool := o.kind ≤ 3 && o.bsel ≤ 5 && fmtOk o.format && (o.bsel ≠ 5 || waits)

/-- A link is VALID and names a sequencer of the partition (R388). -/
def linkOk (s : State) (p : Nat) (l : Link) : Bool :=
  l.valid && (match seqOfInst l.dest with
    | some q => seqPart s q = p && (match q with | .tile t i => t.val < logicalTiles s && i.val < 4 | .die _ _ => true)
    | none => false)

/-- The rules of Table 3.4 that hold for every engine. -/
def stepForm (s : State) (p : Nat) (t : Table) (st : Step) : Bool :=
  let inNear : Bool := match placeOf st.countAddr, placeOf (st.countAddr + 3) with
    | .nm a _, .nm b _ => a = b
    | _, _ => false
  (st.op = 0 || 0x10 ≤ st.op) && 1 ≤ st.cycles && (!st.waitEn || 1 ≤ st.waitCount) &&
    operandForm st.waitEn st.a && operandForm st.waitEn st.b && operandForm st.waitEn st.d &&
    (!st.emitEn || (linkOk s p (t.links.getD st.emitLink {}) && (st.emitPer = 0 || st.emitPer ≠ st.countLevel))) &&
    (st.countLevel = 0 || inNear)

/-- Rounded-up quotient. -/
def ceilDiv (a b : Nat) : Nat := (a + b - 1) / b

/-- The MODE bits that an operation uses, and its least CYCLES; none for an OP the engine does not know (Tables 4.4, 6.1, 6.4,
6.9, 7.1, 7.5, 8.7, 11.2, 12.1, R128, R166, R173, R268). A minimum that rests on a record counts when the record is static. -/
def opForm (s : State) (im : Image) (t : Table) (i : Nat) (st : Step) : Option (Nat × Nat) :=
  let elems (o : Operand) : Nat := 8 * o.length / max 1 (elemBits o.format)
  let groups (o : Operand) : Nat := ceilDiv (elems o) 128
  match t.engine with
  | 0x12 =>
    match st.op with
    | 0x10 => some (0, 8)
    | 0x11 => some (0x01, 256)
    | 0x12 =>
      let r := staticRec s im t i 32
      let vc := match r with | some r => (mxaRec r).vecs * arrPeriod (mxaRec r).prec (mxaRec r).sprec | none => 0
      let wide : Bool := match r with | some r => arrWide (mxaRec r).sprec | none => false
      some (0x3F, if st.replayable then vc + 519 else if wide then vc + 256 else max vc 256)
    | _ => none
  | 0x14 =>
    match st.op with
    | 0x10 => some (0xFF, groups st.d) | 0x11 => some (0xFF, groups st.d) | 0x12 => some (0xFF, groups st.d)
    | 0x13 => some (0xFF, groups st.d) | 0x14 => some (0xFF, groups st.d) | 0x15 => some (0xFF, groups st.d)
    | 0x18 => some (0xFF, groups st.d)
    | 0x20 => some (0xFF, groups st.a) | 0x21 => some (0xFF, groups st.a) | 0x22 => some (0xFF, groups st.a)
    | 0x28 => some (0xFF, 2 * groups st.a + 20)
    | _ => none
  | 0x15 =>
    if 0x10 ≤ st.op ∧ st.op ≤ 0x1B then
      let dense := match staticRec s im t i 32 with
        | some r => 8 + (ceilDiv ((layRec r).rows * (layRec r).cols * elemBits (layRec r).src) 64) * 8
        | none => 0
      some (0x0F, ceilDiv (if st.op = 0x19 then max dense (if dense = 0 then st.d.length else 0)
        else if st.d.kind = 0 then 0 else st.d.length) 256)
    else none
  | 0x20 => if st.op = 0x11 then some (0, 64) else none
  | 0x21 => if st.op = 0x10 then some (0, 8) else if 0x11 ≤ st.op ∧ st.op ≤ 0x17 then some (0, 64) else none
  | 0x22 =>
    match st.op with
    | 0x10 => some (0, 8)
    | 0x11 => some (0, match staticRec s im t i 64 with
        | some r => (rteRec r).tokens * (ceilDiv (rteRec r).e 128 + (rteRec r).k) + ceilDiv (rteRec r).e 16 + 64
        | none => 65)
    | _ => none
  | 0x23 =>
    let r := (staticRec s im t i 128).map xchRec
    let own := if st.op = 0x10 ∧ isStatic st.a ∧ addrOk st.a.base ∧ devOf st.a.base = selfId s
      then (staticBytes s im (offOf st.a.base) 128).map (fun b => xchRec (quads b)) else none
    match st.op with
    | 0x10 => some (0, match own with | some r => ceilDiv r.e 8 + ceilDiv r.m 8 + 64 | none => 66)
    | 0x11 => some (0, match r with | some r => 4 * r.m + 2 * r.e + 256 | none => 262)
    | 0x12 => some (1, 64) | 0x13 => some (3, 64)
    | 0x14 => some (5, match r with | some r => ceilDiv (r.k * r.hidden) 128 + 1 | none => 1)
    | 0x15 => some (0, match r with | some r => ceilDiv r.localE 8 + 8 | none => 8)
    | _ => none
  | 0x24 =>
    match st.op with
    | 0x10 => some (0, 64) | 0x11 => some (0, 16) | 0x12 => some (0, 16)
    | _ => none
  | 0x25 =>
    let pb := match staticRec s im t i 128 with | some r => (optRec r).pb | none => 1
    match st.op with
    | 0x10 => some (0, 16) | 0x11 => some (0, pb + 64) | 0x12 => some (0, pb + 64)
    | 0x13 => some (1, ceilDiv st.a.length 128 + 64)
    | _ => none
  | 0x26 => if st.op = 0x10 ∨ st.op = 0x11 then some (0, 4) else none
  | 0x27 => if st.op = 0x10 then some (0, 1) else none
  | _ => none

/-- Every entry of a static block list is in the grid (R86). -/
def blocksOk (s : State) (im : Image) (r : MxaRec) (st : Step) : Bool :=
  if r.blocked && st.countLevel ≠ 1 then
    match staticBytes s im r.blist (8 * st.l0) with
    | some bs => (List.range st.l0).all (fun i => bits (word 8 bs i) 0 16 < r.kbGrid && bits (word 8 bs i) 16 16 < r.nbGrid)
    | none => true
  else true

/-- The rules of one engine beyond OP, MODE bits and CYCLES: R72, R73, R76, R86, R91, R114, R126, R130, R131, R135. DESIGN CHOICE
(log entry 249): a LOAD names the A of the PASS when its BSEL and its base are A's; strides, bounds and epochs are not compared. -/
def engineForm (s : State) (im : Image) (t : Table) (i : Nat) (st : Step) : Bool :=
  match t.engine with
  | 0x12 =>
    if st.op = 0x10 then st.a.length = 32
    else if st.op = 0x12 then
      let prev := t.steps.getD (i - 1) {}
      bits st.mode 1 2 ≠ 3 && 1 ≤ i && prev.op = 0x11 && prev.a.bsel = st.a.bsel && prev.a.base = st.a.base &&
        (!bit st.mode 4 || isScaled st.d.format) && !(st.replayable && bit st.mode 0 && !bit st.mode 5) &&
        (match staticRec s im t i 32 with | some r => blocksOk s im (mxaRec r) st | none => true)
    else true
  | 0x14 => st.op ≠ 0x18 || bits st.mode 0 4 ≤ 8
  | 0x15 =>
    bits st.mode 0 2 ≠ 3 &&
      (match staticRec s im t i 32 with
       | some r =>
         let r := layRec r
         if st.op = 0x18 then isScaled r.dst
         else if st.op = 0x19 then
           let eb := elemBits r.src
           (eb = 8 || eb = 16 || eb = 32) && r.rows * r.cols * (eb / 8) ≤ 262144 &&
             8 + ceilDiv (r.rows * r.cols * eb) 64 * 8 ≤ st.d.length
         else true
       | none => true)
  | _ => true

/-- One step against check 4: NOP steps have no engine rule. -/
def stepOk (s : State) (im : Image) (t : Table) (i : Nat) : Bool :=
  let st := t.steps.getD i {}
  stepForm s im.part t st && (st.op = 0 ||
    (match opForm s im t i st with
     | some (mask, least) => st.mode &&& mask = st.mode && least ≤ st.cycles && engineForm s im t i st
     | none => false))

/-- A table against check 4. -/
def tableOk (s : State) (im : Image) (t : Table) (raw : List Byte) : Bool :=
  headerOk (raw.take 128) &&
    (List.range t.steps.length).all (fun i => stepBitsOk ((raw.drop (128 + 128 * i)).take 128) && stepOk s im t i) &&
    (List.range 16).all (fun m => !((t.links.getD m {}).valid || bit t.completionLinks m) || linkOk s im.part (t.links.getD m {}))

/-- The ENGINE of the tables that sequencer `j` of a unit runs (Table 3.3). -/
def unitEngine (j : Nat) : LoadUnit → Nat
  | .tile _ => if j < 2 then 0x12 else if j = 2 then 0x14 else 0x15
  | .engine i => (engKind (i.val % 22)).code

/-- The placement rule at the load (R72): every static operand of step `i` of a table lies where `place` says at every iteration. -/
def placedOk (s : State) (im : Image) (tb : Table) (i : Nat) (place : Operand → Nat → Bool) : Bool :=
  let st := tb.steps.getD i {}
  let fits (o : Operand) (pp : Bool) : Bool := !isStatic o || everyAddr (walkOf s im tb i) st o pp (place o)
  fits st.a false && fits st.b false && fits st.d (pingpong tb st)

/-- Static operands bound to a tile lie in the tile's own slot: those of a LOAD or PASS (R72), and those of the Pointwise Engine (R134);
those of the BPM of die `d` lie in Near Memory or HBM of that die (R141). -/
def slotOk (s : State) (im : Image) (u : LoadUnit) (tb : Table) : Bool :=
  (List.range tb.steps.length).all (fun i =>
    let op := (tb.steps.getD i {}).op
    match u with
    | .tile t =>
      !((tb.engine = 0x12 && (op = 0x11 || op = 0x12)) || (tb.engine = 0x14 && op ≠ 0)) ||
        placedOk s im tb i (fun o a => inSlot s t.val a o.length)
    | .engine e => !(tb.engine = 0x26 && op ≠ 0) || placedOk s im tb i (fun _ a => poolOperandOk s (e.val / 22) a))

/-- The table at index `i` may run where sequencer `j` of a unit's binding runs it. -/
def boundOk (s : State) (im : Image) (u : LoadUnit) (j i : Nat) : Bool :=
  let t := im.tables.getD i {}
  t.engine = unitEngine j u && slotOk s im u t

/-- Check 4, TABLE_FORM. -/
def checkTables (s : State) (im : Image) (raw : List (List Byte)) : Verdict :=
  let ids := im.tables.map (·.tableId)
  let bad (i : Nat) : Bool :=
    !tableOk s im (im.tables.getD i {}) (raw.getD i []) || (ids.take i).contains (ids.getD i 0) ||
      im.binds.any (fun b => (List.range b.scheds.length).any (fun j =>
        (b.scheds.getD j []).any (fun l => l.contains i && !boundOk s im b.unit j i)))
  failAt 0x0104 ((List.range im.tables.length).find? bad)

/-! ### Check 5, PARAM_ZERO -/

/-- A CONFIG record that is static holds no zero parameter (R10, R156, R252, R274): K of a routing record; CF and K of an exchange
record; PIECE_BLOCKS and RX_SLOTS of a collective record; PIECE_BLOCKS and CH_ELEMS of an optimiser record. -/
def paramsOk (s : State) (im : Image) (t : Table) : Bool :=
  t.steps.all (fun st =>
    let rec? (len : Nat) : Option (List Nat) :=
      if st.op = 0x10 ∧ isStatic st.a ∧ addrOk st.a.base ∧ devOf st.a.base = selfId s
      then (staticBytes s im (offOf st.a.base) len).map quads else none
    match t.engine with
    | 0x22 => (match rec? 64 with | some r => (rteRec r).k ≠ 0 | none => true)
    | 0x23 => (match rec? 128 with | some r => (xchRec r).cf ≠ 0 && (xchRec r).k ≠ 0 | none => true)
    | 0x24 => (match rec? 128 with | some r => (colRec r).pb ≠ 0 && (colRec r).rxSlots ≠ 0 | none => true)
    | 0x25 => (match rec? 128 with | some r => (optRec r).pb ≠ 0 && (optRec r).ch ≠ 0 | none => true)
    | _ => true)

/-- A ring of the chain from entry `idx` of a ring table that is static has no member (R249). -/
def ringZero (s : State) (im : Image) (base : Nat) : Nat → Nat → Bool
  | 0, _ => false
  | n + 1, idx =>
    match staticBytes s im (base + 64 * idx) 64 with
    | none => false
    | some bs => bits (qw bs 0) 0 13 = 0 || (bit (qw bs 0) 38 && ringZero s im base n (bits (qw bs 0) 32 6))

/-- A table that a collective engine runs names, by a static CONFIG record, a ring with a static member count of 0; the ring table
is the one RING_BASE names at the load. -/
def ringsOk (s : State) (im : Image) (i : Nat) : Bool :=
  let t := im.tables.getD i {}
  im.binds.all (fun b =>
    match b.unit with
    | .tile _ => true
    | .engine e =>
      t.engine ≠ 0x24 || engKind (e.val % 22) ≠ .col || !b.scheds.any (fun l => l.any (fun k => k.contains i)) ||
        t.steps.all (fun st =>
          match (if st.op = 0x10 ∧ isStatic st.a ∧ addrOk st.a.base ∧ devOf st.a.base = selfId s
              then staticBytes s im (offOf st.a.base) 128 else none) with
          | some bs => !ringZero s im (bits ((Blk.eng ⟨e.val / 22, by omega⟩ ⟨e.val % 22, by omega⟩).rd s 0x50) 0 41) 4 (bits (qw bs 0) 8 6)
          | none => true))

/-- Check 5, PARAM_ZERO. -/
def checkZero (s : State) (im : Image) : Verdict :=
  failAt 0x0105 ((List.range im.tables.length).find? (fun i => !(paramsOk s im (im.tables.getD i {}) && ringsOk s im i)))

/-! ### Loading (R60, R62) -/

/-- The bytes of binding block `i` (Table 3.2). -/
def bindBytes (im : Image) (i : Nat) (b : LoadBind) : List Byte :=
  let sched (j k : Nat) : List Byte :=
    let l := ((b.scheds.getD j []).getD k [])
    if l = [] then leBytes 16 0 else leBytes 8 (listAt im i j k) ++ leBytes 8 l.length
  let seqs (n : Nat) : List Byte := (List.range n).flatMap (fun j => (List.range 4).flatMap (sched j))
  match b.unit with
  | .tile _ => seqs 4 ++ (List.range 8).flatMap (fun n => leBytes 8 (match b.entries.getD n none with
      | some o => codeAt im + o
      | none => 0))
  | .engine _ => seqs 1

/-- The offset of table `i` in the code segments. -/
def tableAtOffset (im : Image) (i : Nat) : Nat :=
  im.first * 0x10000000 + ((im.tables.take i).map (fun t => 128 + 128 * t.steps.length)).foldl (· + ·) 0

/-- Step 1: the tables and the code are copied into the offered segments. -/
def copyImage (s : State) (im : Image) (raw : List (List Byte)) : State :=
  writeBytes (writeBytes s (im.first * 0x10000000) raw.flatten) (codeAt im) (readBytes s im.codeSrc im.codeBytes)

/-- Step 3: binding blocks, schedule lists, BIND and DBIND. -/
def writeBindings (s : State) (im : Image) : State :=
  forEach (List.range im.binds.length) s (fun s i =>
    match im.binds[i]? with
    | none => s
    | some b =>
      let s := forEach (List.range b.scheds.length) s (fun s j =>
        forEach (List.range 4) s (fun s k =>
          writeBytes s (listAt im i j k) (((b.scheds.getD j []).getD k []).flatMap (fun t => leBytes 8 (tableAtOffset im t)))))
      let s := writeBytes s (blockAt im i) (bindBytes im i b)
      match b.unit with
      | .tile t => Blk.svc.wr s (0x3200 + 8 * t.val) (blockAt im i)
      | .engine e => Blk.svc.wr s (0x3800 + 8 * e.val) (blockAt im i))

/-- TIL.TILE_SET of every tile of the partition (R62); a tile last written for another partition has its counters zeroed (R361). -/
def writeTileSets (s : State) (im : Image) : State :=
  forEach (allTiles.filter (fun t => ownsTile s im.part t.val)) s (fun s t =>
    let s := if SMap.get d0 s.tileHeld t.val = im.part + 1 then s
      else { zeroTileCounters s t with tileHeld := SMap.set d0 s.tileHeld t.val (im.part + 1) }
    match im.sets.findIdx? (fun e => (setTiles e).contains t.val) with
    | some i => (Blk.til t).wr s 0x5C (i % 32 + 128)
    | none => (Blk.til t).put s 0x5C 7 1 0)

/-- A command of the loader's flag (R42, R193): stored by the Barista. DESIGN CHOICE (log entry 179): STATUS_IN_FLAG puts OK into it
also when the image is rejected; the result record carries the code. -/
def loaderFlag (s : State) (c : Cmd) : State :=
  if !c.flagEn then s
  else if !addrOk c.flagAddr then Blk.svc.raise s 0x0004 0 (c.flagAddr % 2 ^ 32)
  else
    let v := if c.statusInFlag then putBits c.flagValue 0 4 tkOk else c.flagValue
    issue s (baristaIssuer 0 0) { op := 0x20, addr := c.flagAddr, size := 8, data := leBytes 8 v, flagAll := c.flagAll } .posted

/-- The image's checks in the order of Table 3.12. -/
def loadVerdict (s : State) (im : Image) (raw : List (List Byte)) : Verdict :=
  (checkFeature s im).or ((checkSets s im).or ((checkTables s im raw).or ((checkZero s im).or (checksFrom6 s im))))

/-- An image that passes is loaded (R60): it replaces any image whose segments it takes. -/
def acceptImage (s : State) (im : Image) (raw : List (List Byte)) : State :=
  let s := markCode (copyImage s im raw) (offered im) 1
  let s := writeTileSets (writeBindings s im) im
  let s := { s with images := s.images.filter (fun x => !(offered x).any (fun n => (offered im).contains n)) ++ [im] }
  writeResult s im.result 0 (some 0)

/-- A loader ring's partition, when its LDR is VALID (Table 3.2). -/
def ringPart (s : State) (k : Fin 16) : Option Nat :=
  let l := Blk.svc.rd s (0x3140 + 8 * k.val)
  if bit l 63 && serving s then some (bits l 41 12) else none

/-- LOADER_LOAD (R60–R62): the command block of ring `k`, with the image's binding records as read. -/
def execLoaderLoad (k : Fin 16) (block : List Byte) (binds : List LoadBind) (s : State) : Out :=
  .next (
    let c := parseCmd block
    match ringPart s k with
    | none => s
    | some p =>
      if c.cmd ≠ 0x10 then s
      else
        match readImage s p c.p0 c.p1 (bits c.p2 0 11) (bits c.p2 11 11) binds with
        | none => loaderFlag (writeResult (Blk.svc.countErr s) c.p1 0x0101 none) c
        | some (im, raw) =>
          match loadVerdict s im raw with
          | none => loaderFlag (acceptImage s im raw) c
          | some (code, idx) => loaderFlag (writeResult (Blk.svc.countErr s) c.p1 code idx) c)

/-- LOADER_UNLOAD (R60): the partition's image at the address named is unloaded; for an address with no loaded image the spec gives
no code, and the record's is free. -/
def execLoaderUnload (k : Fin 16) (block : List Byte) (s : State) : Out :=
  .next (
    let c := parseCmd block
    match ringPart s k with
    | none => s
    | some p =>
      if c.cmd ≠ 0x11 then s
      else
        match s.images.find? (fun im => im.part = p && im.addr = c.p0) with
        | some im => loaderFlag (writeResult (unloadImage s im) c.p1 0 (some 0)) c
        | none => loaderFlag (writeResult (fresh s).2 c.p1 (fresh s).1 none) c)

end Sys2Proof.Machine
end

