-- ==== Sys2Proof/Machine/Package.lean ====
section
/-! DEFINITION. Sys2Proof/Machine/Package.lean: package interfaces (chapter 18): system time (R373), rails (R371), thermal
thresholds (R377). -/
namespace Sys2Proof.Machine

/-- The µs between expected TPULSE edges (R373). -/
def tpulsePeriod : Nat := 2 ^ 20

/-- TPULSE_EDGE (R373): the first edge aligns SYSTIME; a later one within 2 µs of its wrap sets it to 0; any other is
counted OFF_SCHEDULE. -/
def execTpulseEdge (s : State) : Out :=
  .next (
    let v := Blk.svc.rd s 0xD8
    let t := Blk.fab.rd s 0x804C
    let count := min 0xFFFF (bits v 16 16 + 1)
    if s.held then s
    else if !bit v 0 ∨ tpulsePeriod - 2 ≤ t ∨ t ≤ 2 then
      { Blk.fab.wr (Blk.svc.wr s 0xD8 (putBits (putBits v 16 16 count) 0 1 1)) 0x804C 0 with lastEdge := s.now }
    else Blk.svc.wr s 0xD8 (putBits v 8 8 (min 0xFF (bits v 8 8 + 1))))

/-- TPULSE_LOST (R373): two expected edges in a row have not arrived; SYSTIME runs on. -/
def execTpulseLost (s : State) : Out :=
  .next (if bit (Blk.svc.rd s 0xD8) 0 ∧ s.lastEdge + 2 * tpulsePeriod + 2 < s.now then alert s 5 else s)

/-- RAIL_FAULT (R371): the rails are compared, whether or not the device is in reset; one that is out of tolerance for 10 µs while PWRGD
is high raises the alert. The device does not reset itself. -/
def execRailFault (r : RailsShown) (s : State) : Out :=
  .next (
    let s := Blk.svc.wr s 0xD4 (r.stat % 16)
    if r.long ∧ r.stat % 16 ≠ 15 ∧ s.pwrgd then alert s 2 else s)

/-- Show the hottest die sensor in TJ and its highest value (Table 18.5). -/
def showTj (s : State) : State :=
  let m := (List.range 21).foldl (fun m n => if SMap.get d0 s.temps m < SMap.get d0 s.temps n then n else m) 0
  let t := min 255 (SMap.get d0 s.temps m)
  Blk.svc.wr s 0xD0 (t + 256 * max t (bits (Blk.svc.rd s 0xD0) 8 8) + 65536 * (if m = 20 then 31 else m))

/-- Show a stack's temperature on its four pages; above 85 °C raises THERMAL (R302, R377). -/
def showStackTemp (s : State) (k old new : Nat) : State :=
  forEach (List.range 4) s (fun s i =>
    let b : Blk := .hbm ⟨(4 * k + i) % 32, Nat.mod_lt _ (by decide)⟩
    let t := min 255 new
    let s := b.wr s 0x54 (t + 256 * max t (bits (b.rd s 0x54) 8 8))
    if old ≤ 85 ∧ 85 < new then b.event s 23 else s)

/-- THERMAL_THRESHOLD (R377, R378): a sensor's new reading, in °C: `sensor` n < 20 a district, 20 the Junction die, 32 + k
stack k. Throttling stands from 100 °C until the reading falls below 97 °C; the trip itself is THERMTRIP. -/
def execThermalThreshold (sensor temp : Nat) (s : State) : Out :=
  .next (
    let old := SMap.get d0 s.temps sensor
    let set (s : State) (k v : Nat) : State := { s with temps := SMap.set d0 s.temps k v }
    if sensor < 21 then
      let s := showTj (set s sensor temp)
      let s := if 100 ≤ temp then set s (64 + sensor) 1 else if temp < 97 then set s (64 + sensor) 0 else s
      if old < 105 ∧ 105 ≤ temp then alert s 1 else s
    else if 32 ≤ sensor ∧ sensor < 40 then
      let s := showStackTemp (set s sensor temp) (sensor - 32) old temp
      if old < 95 ∧ 95 ≤ temp then alert s 1 else s
    else s)

end Sys2Proof.Machine
end

