-- ==== Sys2Proof/Machine/Sequencer.lean ====
section
/-! DEFINITION. Sys2Proof/Machine/Sequencer.lean: what a sequencer does with its ring, its schedules and its tables (R40–R53,
R59, R387–R389). -/
namespace Sys2Proof.Machine

/-! ### The completion of a command (R40, R42) -/

/-- Store a command's flag (R42, R193): an embedding engine's takes the partition's default class. -/
def storeFlag (s : State) (q : SeqId) (c : Cmd) (status : Nat) : State :=
  if !c.flagEn then s
  else if !addrOk c.flagAddr then seqRaise s q none 0x0004 (c.flagAddr % 2 ^ 32)
  else
    let v := if c.statusInFlag then putBits c.flagValue 0 4 status else c.flagValue
    issue s (seqIssuer s q) { op := 0x20, addr := c.flagAddr, size := 8, data := leBytes 8 v, flagAll := c.flagAll } (.flag q.inst)

/-- RING_HEAD advances, and is stored at HEAD_ADDR unless that is 0 (R40). -/
def advanceHead (s : State) (q : SeqId) : State :=
  let b := Blk.seq q
  let h := (b.rd s 0x4C + 1) % 2 ^ 32
  let s := b.wr s 0x4C h
  let a := b.rd s 0x58
  if a = 0 then s
  else
    let p := seqPart s q
    let st := spanStatus s a 4 p true
    if st = stOk then (writeLocal (accessEnergy (countAccess s q a 4 true) q a 4 true (engineBlk q)) p a (leBytes 4 h)).2
    else secError s (if st = stUnmapped then 2 else 1) p a

/-- A command is complete: its flag is stored and RING_HEAD advances; LAST_STATUS and LAST_USER show it; a drain point is
reached when DRAIN is set (R59). -/
def completeCmd (s : State) (q : SeqId) (c : Cmd) (status origin : Nat) : State :=
  let b := Blk.seq q
  let s := advanceHead (storeFlag s q c status) q
  let s := b.wr (b.wr s 0x80 (status % 16 + origin % 2 ^ 16 * 2 ^ 16)) 0xA0 c.user
  if b.draining s then b.event s 1 else s

/-! ### Taking a command (R40, R41, R43, R44, R46) -/

/-- Command intake stops until SOFT_RESET. -/
def holdIntake (s : State) (q : SeqId) : State := modSeq s q (fun x => { x with intake := .held })

/-- Commands taken and not yet complete: the one whose table runs, and those whose tables wait in a slot (R48). -/
def takenCmds (x : SeqSt) : Nat := (if x.phase = .idle then 0 else 1) + x.loaded.length

/-- The command a sequencer takes next: none when there is none, when both table slots are in use (R48), or when it is held; a
ring overrun and an unreadable block hold it (R41, R387). DESIGN CHOICE (log entry 27): a tail word that cannot be read, for want of
privilege or for its ECC, shows no command, and nothing is raised. -/
def nextCmd (s : State) (q : SeqId) : Option Cmd × State :=
  let b := Blk.seq q
  let x := getSeq s q
  if !b.enabled s ∨ b.draining s ∨ 2 ≤ takenCmds x ∨ x.intake ≠ .open ∨ !serving s then (none, s)
  else
    let p := seqPart s q
    let t := b.rd s 0x50
    let tail : Option Nat := if spanStatus s t 4 p false = stOk then (readLocal s p t 4).1.map leNat else none
    let n := 2 ^ bits (b.rd s 0x48) 0 4
    let head := b.rd s 0x4C
    let diff := (tail.getD head + 2 ^ 32 - head) % 2 ^ 32
    if diff ≤ takenCmds x then (none, s)
    else if n < diff then (none, holdIntake (seqRaise s q (some 22) 0x0106 0) q)
    else
      let a := b.rd s 0x40 + 64 * ((head + takenCmds x) % n)
      let st := spanStatus s a 64 p false
      let r := if st = stOk then readLocal (countAccess s q a 64 false) p a 64
        else (none, secError s (if st = stUnmapped then 2 else 1) p a)
      match r.1 with
      | some bs => (some (parseCmd bs), r.2)
      | none => (none, holdIntake (seqRaise r.2 q none 0x0107 (a % 2 ^ 32)) q)

/-- A command that is neither NOP nor RUN: RING_CFG. -/
def badCmd (s : State) (q : SeqId) : State := holdIntake (seqRaise s q none 0x0107 0) q

/-- The schedule and the position that the next command meets: those behind the last command taken (R43). -/
def schedAfter (s : State) (q : SeqId) : Nat × Nat :=
  let x := getSeq s q
  let st := (Blk.seq q).rd s 0x60
  match x.loaded.getLast? with
  | some (c, _, pos) => (c.sched, pos)
  | none => if x.phase = .idle then (bits st 0 2, bits st 2 6) else (x.cmd.sched, x.nextPos)

/-- A command's SCHED differs from the active schedule away from position 0 (R43). -/
def schedWrong (s : State) (q : SeqId) (c : Cmd) : Bool := c.sched ≠ (schedAfter s q).1 && (schedAfter s q).2 ≠ 0

/-- SCHED_ORDER: the command is rejected and the sequencer holds (R43). -/
def schedOrder (s : State) (q : SeqId) : State := holdIntake (seqRaise s q (some 20) 0x0105 0) q

/-- CMD_NOP (R42): with every earlier command complete, the flag is stored without a table. R43 rejects a command whose SCHED
differs away from position 0, a NOP too; DESIGN CHOICE (log entry 176): a NOP leaves SCHED_STATE as it is. -/
def execCmdNop (q : SeqId) (s : State) : Out :=
  .next (
    if takenCmds (getSeq s q) ≠ 0 then s
    else
      let r := nextCmd s q
      match r.1 with
      | none => r.2
      | some c =>
        if c.cmd = 1 then s
        else if c.cmd ≠ 0 then badCmd r.2 q
        else if schedWrong r.2 q c then schedOrder r.2 q
        else completeCmd r.2 q c tkOk q.inst)

/-- TABLE_SOURCE (R44). -/
def tableSource (s : State) (q : SeqId) : State := holdIntake (seqRaise s q none 0x0109 0) q

/-- Where the binding block's part for a sequencer lies; 0 means no binding (R44, Table 3.2). -/
def bindingOf (s : State) (q : SeqId) : Nat :=
  match q with
  | .tile t i =>
    let b := Blk.svc.rd s (0x3200 + 8 * t.val)
    if i.val < 4 ∧ b ≠ 0 then b + 64 * i.val else 0
  | .die d e => Blk.svc.rd s (0x3800 + 8 * (22 * d.val + e.val))

/-- Bytes of a CODE segment, for the sequencer's partition. -/
def readCode (s : State) (q : SeqId) (o n : Nat) : Option (List Byte) × State :=
  let p := seqPart s q
  if isCode s o p ∧ isCode s (o + (n - 1)) p then readLocal s p o n else (none, s)

/-- The schedule that a command runs: its list and length. -/
def scheduleOf (s : State) (q : SeqId) (k : Nat) : Option (Nat × Nat) × State :=
  let b := bindingOf s q
  if b = 0 then (none, s)
  else
    let r := readCode s q (b + 16 * k) 16
    (r.1.map (fun bs => (bits (qw bs 0) 0 41, bits (qw bs 1) 0 7)), r.2)

/-- The table at a position of a schedule list. -/
def tableAt (s : State) (q : SeqId) (list pos : Nat) : Option Table × State :=
  let e := readCode s q (list + 8 * pos) 8
  match e.1 with
  | none => (none, e.2)
  | some bs =>
    let h := leNat bs % 2 ^ 41
    let x := readCode e.2 q h 128
    match x.1 with
    | none => (none, x.2)
    | some hb =>
      let n := bits (qw hb 0) 48 8
      let y := if n = 0 then (some [], x.2) else readCode x.2 q (h + 128) (128 * n)
      (y.1.map (fun sb => parseTable hb sb), y.2)

/-- A table is loaded for a command: with no step it has ended; otherwise its credit is asked for (R46, R48, R310). A
charge of 0 needs no wait, but for a pending frequency change (R315). -/
def loadTable (s : State) (q : SeqId) (c : Cmd) (t : Table) (nextPos : Nat) : State :=
  let b := Blk.seq q
  let s := modSeq (b.wr s 0x68 t.tableId) q (fun x =>
    { x with cmd := c, table := some t, nextPos := nextPos, status := tkOk, origin := q.inst, cycles := 0, waitCycles := 0,
             liveEnergy := 0, charge := 0, refused := false, step := 0 })
  if t.steps = [] then modSeq s q (fun x => { x with phase := .ended })
  else
    let c := (creditRequest s q t).1
    let s := modSeq s q (fun x => { x with phase := .credit })
    if c.charge = 0 ∧ freqSettled s c then grantCredit s q c else { s with creditQ := s.creditQ ++ [c] }

/-- At the table boundary the table that waits in a slot, if any, becomes the table in flight (R48); DRAIN holds before it
(R59). -/
def startLoaded (s : State) (q : SeqId) : State :=
  let b := Blk.seq q
  let x := getSeq s q
  if !b.enabled s ∨ b.draining s ∨ x.phase ≠ .idle then s
  else match x.loaded with
    | [] => s
    | (c, t, pos) :: rest => loadTable (b.put (modSeq s q (fun x => { x with loaded := rest })) 0x60 0 2 c.sched) q c t pos

/-- CMD_RUN (R43, R44, R46, R48): the table at the schedule's position is loaded and, at the table boundary, its credit asked
for; while the previous table runs, it waits in the other table slot. A RUN on a schedule of length 0 waits until every earlier
command is complete. -/
def execCmdRun (q : SeqId) (s : State) : Out :=
  .next (
    if (getSeq s q).phase = .idle ∧ (getSeq s q).loaded ≠ [] then (if serving s then startLoaded s q else s)
    else
      let r := nextCmd s q
      match r.1 with
      | none => r.2
      | some c =>
        if c.cmd = 0 then s
        else if c.cmd ≠ 1 then badCmd r.2 q
        else if schedWrong r.2 q c then schedOrder r.2 q
        else
          let free := takenCmds (getSeq s q) = 0
          let pos := (schedAfter r.2 q).2
          let l := scheduleOf r.2 q c.sched
          match l.1 with
          | none => tableSource l.2 q
          | some (list, len) =>
            if len = 0 then
              (if free then completeCmd ((Blk.seq q).wr l.2 0x60 (c.sched + 4 * pos)) q c tkOk q.inst else s)
            else
              let t := tableAt l.2 q list pos
              match t.1 with
              | none => tableSource t.2 q
              | some tb =>
                if free then loadTable ((Blk.seq q).wr t.2 0x60 (c.sched + 4 * pos)) q c tb ((pos + 1) % len)
                else modSeq t.2 q (fun x => { x with loaded := x.loaded ++ [(c, tb, (pos + 1) % len)] }))

/-! ### Steps (R48, R49, R51, R53) -/

/-- The count word (R49): the bound at the chosen level, clamped to the static one; a failed fetch gives 0. -/
def countBound (s : State) (q : SeqId) (st : Step) (max : Nat) : Nat × State :=
  let p := seqPart s q
  let isNm : Bool := match placeOf st.countAddr with
    | .nm _ _ => true
    | _ => false
  let fail (s : State) : Nat × State := (0, noteStatus s q tkMemory)
  if !isNm then fail (secError s (if placeOf st.countAddr = .unmapped then 2 else 1) p st.countAddr)
  else if spanStatus s st.countAddr 4 p false ≠ stOk then
    fail (secError s (if spanStatus s st.countAddr 4 p false = stUnmapped then 2 else 1) p st.countAddr)
  else
    let r := readLocal (accessEnergy (countAccess s q st.countAddr 4 false) q st.countAddr 4 false) p st.countAddr 4
    match r.1 with
    | none => fail r.2
    | some bs =>
      let v := leNat bs
      if max < v then (max, seqRaise (noteStatus r.2 q tkCountRange) q (some 18) 0x0103 0) else (v, r.2)

/-- The count of the engine's own record that stands in place of L0: LOCAL_E for DISPATCH and RETURN (R151), the pieces for CONTRIB and
FINISH (R252), SHARD_PIECES for UPDATE and CAST (R273). -/
def recordCount (s : State) (q : SeqId) (op : Nat) : Option Nat :=
  match q with
  | .tile _ _ => none
  | .die d e =>
    let rq := recOf s (.eng d e)
    if rq = [] then none
    else match engKind e.val with
      | .xch => if op = 0x12 ∨ op = 0x13 then some (xchRec rq).localE else none
      | .col =>
        let r := colRec rq
        let n := (ownedPieces (getCol s d (Fin.ofNat 4 e.val)).rings r.pieces).length
        if op = 0x11 then some (if r.raw then n else r.pieces)
        else if op = 0x12 then some (if r.kind = 1 then n else r.pieces) else none
      | .opt => if op = 0x11 ∨ op = 0x12 then some (optRec rq).shard else none
      | _ => none

/-- Set the bounds of the step in force: static, but for the level that takes the count word. A refused step reads no count word
(R53), and takes the count of its engine's record, which an engine that performs its operation sets itself. -/
def setBounds (s : State) (q : SeqId) : State :=
  let x := getSeq s q
  let st := curStep x
  let lim := [st.l0, st.l1, st.l2]
  let r := if st.countLevel = 0 ∨ x.refused then (0, s) else countBound s q st (lim.getD (st.countLevel - 1) 0)
  let at_ (k : Nat) : Nat :=
    if st.countLevel = k + 1 ∧ !x.refused then r.1
    else if k = 0 ∧ x.refused then min st.l0 ((recordCount s q st.op).getD st.l0)
    else lim.getD k 0
  modSeq r.2 q (fun x =>
    { x with b0 := at_ 0, b1 := at_ 1, b2 := at_ 2, i0 := 0, i1 := 0, i2 := 0,
             cycles := x.cycles + (if st.countLevel = 0 then 0 else 32) })

/-- An operation whose work does not end with its bounds: an exchange engine's DISPATCH, RETURN and COMBINE (R151, R159,
R161), an embedding engine's PUSH and REFRESH, whose headers go out with a bound of 0 (R187), a collective engine's CONTRIB and FINISH
(R252), an optimiser engine's UPDATE and CAST (R273). With a bound of 0 the engine itself retires the step. -/
def boundByEngine (q : SeqId) (op : Nat) : Bool :=
  match q with
  | .die _ e => (engKind e.val = .xch && 0x12 ≤ op && op ≤ 0x14) || (engKind e.val = .emb && (op = 0x15 || op = 0x17)) || ((engKind e.val = .col || engKind e.val = .opt) && 0x11 ≤ op && op ≤ 0x12)
  | .tile _ _ => false

/-- STEP_WAIT_MET (R51, R53): the step's tokens are consumed; an entry that is not OK refuses the data of this step and of
every later one; then the step begins: at once over when a bound is 0, without an operation when refused or a NOP. A refused step whose
iterations wait each has its iterations run by its operation's command, which takes their tokens. -/
def execStepWaitMet (q : SeqId) (s : State) : Out :=
  .next (
    let x := getSeq s q
    let st := curStep x
    if x.phase ≠ .wait ∨ x.emits ≠ [] ∨ !tokensMet s q then s
    else
      let s := takeTokens (endWait s q) q
      let s := setBounds s q
      let x := getSeq s q
      if x.b0 * x.b1 * x.b2 = 0 ∧ (x.refused ∨ !boundByEngine q st.op) then retireStep s q false
      else if st.op = 0 ∨ (x.refused ∧ !waitsEach q st.op) then idleStep s q
      else modSeq s q (fun x => { x with phase := .iter, waitFrom := s.now, outFrom := List.replicate 4 s.nextOut }))

/-- EMIT_AFTER_QUEUE_SPACE (R51): tokens held for a full queue leave as space allows. -/
def execEmitAfterQueueSpace (q : SeqId) (s : State) : Out := .next (flushEmits s q (getSeq s q).emits.length)

/-- TOKEN_ARRIVE (R51): the oldest token on its way to `q` arrives. -/
def execTokenArrive (q : SeqId) (s : State) : Out :=
  .next (match (getSeq s q).inFlight with
    | [] => s
    | e :: rest => arriveToken (modSeq s q (fun x => { x with inFlight := rest })) q e)

/-- LATE_TOKEN_LEAVE (R77, R128, R166): a late-bound token whose own iteration's, or step's, writes are all performed leaves. -/
def execLateTokenLeave (q : SeqId) (s : State) : Out :=
  .next (
    let x := getSeq s q
    let done (l : LateTok) : Bool := !s.outs.any (fun o => match o.waiter with
      | .store n => n = q.inst && l.first ≤ o.id && o.id < l.bound
      | _ => false)
    match x.late.find? done with
    | none => s
    | some l => emitToken (modSeq s q (fun x => { x with late := x.late.erase l })) q l.link l.entry)

/-- The table's end: its credit is settled (R313), the registers show it, the position advances, the command completes. -/
def finishTable (s : State) (q : SeqId) : State :=
  let b := Blk.seq q
  let x := getSeq s q
  let s := settle s q
  let s := b.wr (b.wr s 0x88 x.cycles) 0x90 x.waitCycles
  let s := b.put s 0x60 2 6 x.nextPos
  let s := modSeq s q (fun x => { x with phase := .idle, table := none, taken := [], rbuf := [], rfail := false, vals := [], scratch := [] })
  startLoaded (completeCmd s q x.cmd x.status (if x.status = tkOk then q.inst else x.origin)) q

/-- TABLE_COMPLETE (R42): with every token of the table sent, its completion tokens leave, then the flag, then RING_HEAD
advances; a completion token held for a full queue holds the rest. -/
def execTableComplete (q : SeqId) (s : State) : Out :=
  .next (
    let x := getSeq s q
    if x.emits ≠ [] ∨ x.late ≠ [] then s
    else if x.phase = .completing then finishTable s q
    else if x.phase ≠ .ended then s
    else
      let s := completionTokens s q
      if (getSeq s q).emits = [] then finishTable s q else modSeq s q (fun x => { x with phase := .completing }))

/-- SEQ_WAIT_TIMEOUT (R52): a step's wait, or that of an iteration that takes tokens of its own, has exceeded WAIT_TIMEOUT. The table
is abandoned; its tokens carry TIMEOUT. -/
def execSeqWaitTimeout (q : SeqId) (s : State) : Out :=
  .next (
    let b := Blk.seq q
    let x := getSeq s q
    let st := curStep x
    let lim := 1024 * b.rd s 0x64
    if (x.phase ≠ .wait ∧ !iterWaits s q) ∨ !st.waitEn ∨ st.waitCount ≤ b.rd s (tokenReg st.waitCtr) ∨ lim = 0 ∨ waited s q ≤ lim then s
    else
      let s := seqRaise (noteStatus (endWait s q) q tkTimeout) q (some 19) 0x0104 st.waitCtr
      modSeq s q (fun x => { x with phase := .ended }))

end Sys2Proof.Machine
end

