-- ==== Sys2Proof/Machine/Rv.lean ====
section
/-! DEFINITION. Sys2Proof/Machine/Rv.lean: the RV64IMAC unprivileged instructions that R56 names, and the custom instructions
of R57 and R194, as what one instruction asks of the core. -/
namespace Sys2Proof.Machine

/-- Sign-extend the `n` low bits to 64. -/
def sx (n v : Nat) : Nat := unsigned 64 (signed n v)

/-- What an instruction asks for, its operands read. `wr` writes a register; `jump` also sets the pc. -/
inductive RvOp where
  | wr (rd v : Nat)
  | jump (rd target : Nat)
  | load (rd a w : Nat) (sg : Bool)
  | store (a w v : Nat)
  | lr (rd a w : Nat)
  | sc (rd a w v : Nat)
  | amo (rd a w op v : Nat)
  | waita (rd a ref cond : Nat) (wide : Bool)
  | ramo (rd a op v cmp : Nat)
  | fstore (a w v : Nat) (all : Bool)
  | rfence
  | ecall
  | ebreak
  | illegal
  deriving DecidableEq, Repr

/-! ### Encodings -/

def encR (f7 rs2 rs1 f3 rd op : Nat) : Nat := op + rd * 2 ^ 7 + f3 * 2 ^ 12 + rs1 * 2 ^ 15 + rs2 * 2 ^ 20 + f7 * 2 ^ 25
def encI (imm rs1 f3 rd op : Nat) : Nat := op + rd * 2 ^ 7 + f3 * 2 ^ 12 + rs1 * 2 ^ 15 + imm % 4096 * 2 ^ 20
def encS (imm rs2 rs1 f3 op : Nat) : Nat :=
  op + imm % 32 * 2 ^ 7 + f3 * 2 ^ 12 + rs1 * 2 ^ 15 + rs2 * 2 ^ 20 + imm / 32 % 128 * 2 ^ 25
def encB (imm rs1 f3 : Nat) : Nat :=
  0x63 + bits imm 11 1 * 2 ^ 7 + bits imm 1 4 * 2 ^ 8 + f3 * 2 ^ 12 + rs1 * 2 ^ 15 + bits imm 5 6 * 2 ^ 25 + bits imm 12 1 * 2 ^ 31
def encJ (imm rd : Nat) : Nat :=
  0x6F + rd * 2 ^ 7 + bits imm 12 8 * 2 ^ 12 + bits imm 11 1 * 2 ^ 20 + bits imm 1 10 * 2 ^ 21 + bits imm 20 1 * 2 ^ 31

/-- Bits of a halfword gathered into an immediate: (from, to) pairs. -/
def gatherBits (h : Nat) (l : List (Nat × Nat)) : Nat := l.foldl (fun v e => v + bits h e.1 1 * 2 ^ e.2) 0

/-- Quadrant 0 of the compressed instructions. -/
def expandQ0 (h : Nat) : Option Nat :=
  let rd := 8 + bits h 2 3
  let rs1 := 8 + bits h 7 3
  let w := gatherBits h [(10, 3), (11, 4), (12, 5), (6, 2), (5, 6)]
  let d := gatherBits h [(10, 3), (11, 4), (12, 5), (5, 6), (6, 7)]
  match bits h 13 3 with
  | 0 =>
    let imm := gatherBits h [(11, 4), (12, 5), (7, 6), (8, 7), (9, 8), (10, 9), (6, 2), (5, 3)]
    if imm = 0 then none else some (encI imm 2 0 rd 0x13)
  | 2 => some (encI w rs1 2 rd 0x03)
  | 3 => some (encI d rs1 3 rd 0x03)
  | 6 => some (encS w rd rs1 2 0x23)
  | 7 => some (encS d rd rs1 3 0x23)
  | _ => none

/-- Quadrant 1. -/
def expandQ1 (h : Nat) : Option Nat :=
  let rd := bits h 7 5
  let rs := 8 + bits h 7 3
  let r2 := 8 + bits h 2 3
  let imm6 := bits h 2 5 + bits h 12 1 * 32
  let s6 := sx 6 imm6 % 4096
  match bits h 13 3 with
  | 0 => some (encI s6 rd 0 rd 0x13)
  | 1 => if rd = 0 then none else some (encI s6 rd 0 rd 0x1B)
  | 2 => some (encI s6 0 0 rd 0x13)
  | 3 =>
    if rd = 2 then
      let imm := gatherBits h [(6, 4), (2, 5), (5, 6), (3, 7), (4, 8), (12, 9)]
      if imm = 0 then none else some (encI (sx 10 imm) 2 0 2 0x13)
    else if imm6 = 0 then none
    else some (0x37 + rd * 2 ^ 7 + sx 6 imm6 % 2 ^ 20 * 2 ^ 12)
  | 4 =>
    match bits h 10 2 with
    | 0 => some (encI imm6 rs 5 rs 0x13)
    | 1 => some (encI (imm6 + 0x400) rs 5 rs 0x13)
    | 2 => some (encI s6 rs 7 rs 0x13)
    | _ =>
      match bits h 5 2 + 4 * bits h 12 1 with
      | 0 => some (encR 0x20 r2 rs 0 rs 0x33)
      | 1 => some (encR 0 r2 rs 4 rs 0x33)
      | 2 => some (encR 0 r2 rs 6 rs 0x33)
      | 3 => some (encR 0 r2 rs 7 rs 0x33)
      | 4 => some (encR 0x20 r2 rs 0 rs 0x3B)
      | 5 => some (encR 0 r2 rs 0 rs 0x3B)
      | _ => none
  | 5 => some (encJ (sx 12 (gatherBits h [(3, 1), (4, 2), (5, 3), (11, 4), (2, 5), (7, 6), (6, 7), (9, 8), (10, 9), (8, 10), (12, 11)])) 0)
  | n => some (encB (sx 9 (gatherBits h [(3, 1), (4, 2), (10, 3), (11, 4), (2, 5), (5, 6), (6, 7), (12, 8)])) rs (n - 6))

/-- Quadrant 2. -/
def expandQ2 (h : Nat) : Option Nat :=
  let rd := bits h 7 5
  let rs2 := bits h 2 5
  match bits h 13 3 with
  | 0 => some (encI (bits h 2 5 + bits h 12 1 * 32) rd 1 rd 0x13)
  | 2 => if rd = 0 then none else some (encI (gatherBits h [(4, 2), (5, 3), (6, 4), (12, 5), (2, 6), (3, 7)]) 2 2 rd 0x03)
  | 3 => if rd = 0 then none else some (encI (gatherBits h [(5, 3), (6, 4), (12, 5), (2, 6), (3, 7), (4, 8)]) 2 3 rd 0x03)
  | 4 =>
    if !bit h 12 then
      (if rs2 = 0 then (if rd = 0 then none else some (encI 0 rd 0 0 0x67)) else some (encR 0 rs2 0 0 rd 0x33))
    else if rs2 = 0 then (if rd = 0 then some 0x00100073 else some (encI 0 rd 0 1 0x67))
    else some (encR 0 rs2 rd 0 rd 0x33)
  | 6 => some (encS (gatherBits h [(9, 2), (10, 3), (11, 4), (12, 5), (7, 6), (8, 7)]) rs2 2 2 0x23)
  | 7 => some (encS (gatherBits h [(10, 3), (11, 4), (12, 5), (7, 6), (8, 7), (9, 8)]) rs2 2 3 0x23)
  | _ => none

/-- A compressed instruction's 32-bit form; none when it is reserved or of an extension the core has not. -/
def expand16 (h : Nat) : Option Nat :=
  match h % 4 with
  | 0 => expandQ0 h
  | 1 => expandQ1 h
  | _ => expandQ2 h

/-! ### Arithmetic -/

/-- The result of a 64-bit or, where `w`, 32-bit integer operation without multiplication: funct3, the alternate bit. -/
def aluOp (w : Bool) (f3 : Nat) (alt : Bool) (a b : Nat) : Nat :=
  let n := if w then 32 else 64
  let m := 2 ^ n
  let a' := a % m
  let sh := b % n
  let r : Nat := match f3 with
    | 0 => if alt then (a + 2 ^ 64 - b % 2 ^ 64) % m else (a + b) % m
    | 1 => a' * 2 ^ sh % m
    | 2 => b2n (decide (signed 64 a < signed 64 b))
    | 3 => b2n (decide (a < b))
    | 4 => a ^^^ b
    | 5 => if alt then unsigned n (signed n a' / (2 ^ sh : Nat)) else a' / 2 ^ sh
    | 6 => a ||| b
    | _ => a &&& b
  if w then sx 32 r else r % 2 ^ 64

/-- Division and remainder of integers, truncated, with the results of RISC-V for a divisor of 0. -/
def divOp (f3 n : Nat) (a b : Nat) : Nat :=
  let sa := signed n a
  let sb := signed n b
  match f3 with
  | 4 => if sb = 0 then 2 ^ n - 1 else unsigned n (sa.tdiv sb)
  | 5 => if b % 2 ^ n = 0 then 2 ^ n - 1 else a % 2 ^ n / (b % 2 ^ n)
  | 6 => if sb = 0 then a % 2 ^ n else unsigned n (sa.tmod sb)
  | _ => if b % 2 ^ n = 0 then a % 2 ^ n else a % 2 ^ n % (b % 2 ^ n)

/-- The M extension. -/
def mulOp (w : Bool) (f3 a b : Nat) : Option Nat :=
  if w then
    (if f3 = 0 then some (sx 32 (a * b)) else if 4 ≤ f3 then some (sx 32 (divOp f3 32 a b)) else none)
  else some (match f3 with
    | 0 => a * b % 2 ^ 64
    | 1 => unsigned 64 ((signed 64 a * signed 64 b) / (2 ^ 64 : Nat))
    | 2 => unsigned 64 ((signed 64 a * (b : Int)) / (2 ^ 64 : Nat))
    | 3 => a * b / 2 ^ 64
    | _ => divOp f3 64 a b)

/-- A branch is taken. -/
def branchTaken (f3 a b : Nat) : Option Bool :=
  match f3 with
  | 0 => some (a == b) | 1 => some (a != b)
  | 4 => some (decide (signed 64 a < signed 64 b)) | 5 => some (!decide (signed 64 a < signed 64 b))
  | 6 => some (decide (a < b)) | 7 => some (!decide (a < b))
  | _ => none

/-- The operation code of an AMO without FETCH (Table 9.1), by funct5 and width. -/
def amoCode (f5 w : Nat) : Option Nat :=
  let ty := if w = 8 then 16 else 0
  match f5 with
  | 0x00 => some (1 + ty) | 0x01 => some (4 + ty) | 0x04 => some (8 + ty) | 0x08 => some (7 + ty) | 0x0C => some (6 + ty)
  | 0x10 => some (2 + ty) | 0x14 => some (3 + ty) | 0x18 => some (2 + ty + 0x20) | 0x1C => some (3 + ty + 0x20)
  | _ => none

/-! ### Decoding -/

/-- The immediate forms. -/
def immI (w : Nat) : Nat := sx 12 (bits w 20 12)
def immS (w : Nat) : Nat := sx 12 (bits w 7 5 + bits w 25 7 * 32)
def immB (w : Nat) : Nat := sx 13 (bits w 8 4 * 2 + bits w 25 6 * 32 + bits w 7 1 * 2048 + bits w 31 1 * 4096)
def immU (w : Nat) : Nat := sx 32 (bits w 12 20 * 4096)
def immJ (w : Nat) : Nat := sx 21 (bits w 21 10 * 2 + bits w 20 1 * 2048 + bits w 12 8 * 4096 + bits w 31 1 * 2 ^ 20)

/-- Loads and stores. -/
def rvMem (w : Nat) (x : Nat → Nat) : RvOp :=
  let rd := bits w 7 5
  let f3 := bits w 12 3
  let a := x (bits w 15 5)
  if w % 128 = 0x03 then
    (if f3 = 7 then .illegal else .load rd ((a + immI w) % 2 ^ 64) (2 ^ (f3 % 4)) (f3 < 4))
  else if 3 < f3 then .illegal
  else .store ((a + immS w) % 2 ^ 64) (2 ^ f3) (x (bits w 20 5) % 2 ^ (8 * 2 ^ f3))

/-- Integer computation. -/
def rvAlu (w : Nat) (x : Nat → Nat) : RvOp :=
  let rd := bits w 7 5
  let f3 := bits w 12 3
  let f7 := bits w 25 7
  let a := x (bits w 15 5)
  let b := x (bits w 20 5)
  match w % 128 with
  | 0x13 =>
    if f3 = 1 ∧ bits w 26 6 ≠ 0 then .illegal
    else if f3 = 5 ∧ bits w 26 6 ≠ 0 ∧ bits w 26 6 ≠ 0x10 then .illegal
    else if f3 = 1 ∨ f3 = 5 then .wr rd (aluOp false f3 (bit w 30) a (bits w 20 6))
    else .wr rd (aluOp false f3 false a (immI w))
  | 0x1B =>
    if f3 = 0 then .wr rd (aluOp true 0 false a (immI w))
    else if (f3 = 1 ∧ f7 = 0) ∨ (f3 = 5 ∧ (f7 = 0 ∨ f7 = 0x20)) then .wr rd (aluOp true f3 (f7 = 0x20) a (bits w 20 5))
    else .illegal
  | n =>
    let w32 : Bool := n = 0x3B
    if f7 = 1 then (match mulOp w32 f3 a b with | some v => .wr rd v | none => .illegal)
    else if f7 ≠ 0 ∧ !(f7 = 0x20 ∧ (f3 = 0 ∨ f3 = 5)) then .illegal
    else if w32 ∧ f3 ≠ 0 ∧ f3 ≠ 1 ∧ f3 ≠ 5 then .illegal
    else .wr rd (aluOp w32 f3 (f7 = 0x20) a b)

/-- The A extension. -/
def rvAmo (w : Nat) (x : Nat → Nat) : RvOp :=
  let rd := bits w 7 5
  let f3 := bits w 12 3
  let a := x (bits w 15 5)
  let v := x (bits w 20 5)
  let n := 2 ^ f3
  if f3 ≠ 2 ∧ f3 ≠ 3 then .illegal
  else match bits w 27 5 with
    | 2 => if bits w 20 5 = 0 then .lr rd a n else .illegal
    | 3 => .sc rd a n (v % 2 ^ (8 * n))
    | f5 => match amoCode f5 n with
      | some op => .amo rd a n op (v % 2 ^ (8 * n))
      | none => .illegal

/-- The custom opcodes (R57, R194). -/
def rvCustom (w : Nat) (x : Nat → Nat) : RvOp :=
  let rd := bits w 7 5
  let f3 := bits w 12 3
  let f7 := bits w 25 7
  let a := x (bits w 15 5)
  let v := x (bits w 20 5)
  if w % 128 = 0x0B then (if 3 < f3 ∨ 1 < f7 then .illegal else .waita rd a v f3 (f7 = 1))
  else match f3 with
    | 0 =>
      let k := f7 % 16
      if k = 0 ∨ ((k = 4 ∨ k = 5) ∧ rd = 0) then .illegal
      else .ramo rd a (f7 + (if rd = 0 then 0 else 0x80)) v (x rd)
    | 1 => if rd ≠ 0 ∨ 3 < f7 then .illegal else .fstore a (if bit f7 0 then 8 else 4) (v % 2 ^ (if bit f7 0 then 64 else 32)) (bit f7 1)
    | 2 => .rfence
    | _ => .illegal

/-- One 32-bit instruction of `len` bytes at `pc` (a compressed one expanded), under register values `x`. -/
def rvOp (w len pc : Nat) (x : Nat → Nat) : RvOp :=
  let rd := bits w 7 5
  let f3 := bits w 12 3
  let a := x (bits w 15 5)
  match w % 128 with
  | 0x37 => .wr rd (immU w)
  | 0x17 => .wr rd ((pc + immU w) % 2 ^ 64)
  | 0x6F => .jump rd ((pc + immJ w) % 2 ^ 64)
  | 0x67 => if f3 = 0 then .jump rd ((a + immI w) % 2 ^ 64 / 2 * 2) else .illegal
  | 0x63 =>
    match branchTaken f3 a (x (bits w 20 5)) with
    | some t => if t then .jump 0 ((pc + immB w) % 2 ^ 64) else .jump 0 ((pc + len) % 2 ^ 64)
    | none => .illegal
  | 0x03 => rvMem w x
  | 0x23 => rvMem w x
  | 0x13 => rvAlu w x
  | 0x1B => rvAlu w x
  | 0x33 => rvAlu w x
  | 0x3B => rvAlu w x
  | 0x0F => if f3 = 0 then .wr 0 0 else .illegal
  | 0x2F => rvAmo w x
  | 0x0B => rvCustom w x
  | 0x2B => rvCustom w x
  | 0x73 => if w = 0x00000073 then .ecall else if w = 0x00100073 then .ebreak else .illegal
  | _ => .illegal

end Sys2Proof.Machine
end

