-- ==== Sys2Proof/Machine/Tcc.lean ====
section
/-! DEFINITION. Sys2Proof/Machine/Tcc.lean: the Tile Control Core's threads (R56–R58, R194, R362, R363). -/
namespace Sys2Proof.Machine

/-! ### Fetching -/

/-- The `n` bytes at `pc` lie in CODE segments of the tile's partition. -/
def inCode (s : State) (t : Fin 160) (pc n : Nat) : Bool :=
  decide (pc < 2 ^ 41) && (List.range n).all (fun i => isCode s (pc + i) (tileOwner s t.val))

/-- A fetch of `n` bytes as the HBM code decodes them (R292); none outside CODE, or when uncorrectable. DESIGN CHOICE (log entry 263): a
fetch takes no issue slot of the queues and counts no bytes, as of an instruction buffer. -/
def fetchBytes (s : State) (t : Fin 160) (pc n : Nat) : Option Nat :=
  if inCode s t pc n then (readSpan s (tileOwner s t.val) pc n).1.map leNat else none

/-- The bytes an instruction has: 4 where its first two say so. -/
def fetchLen (s : State) (t : Fin 160) (pc : Nat) : Nat := if (fetchBytes s t pc 2).getD 0 % 4 = 3 then 4 else 2

/-- The instruction at a thread's pc: its 32-bit form and its length. `none` is a fetch that fails; an
instruction that no extension has is given as 0, which is illegal. -/
def fetchInstr (s : State) (t : Fin 160) (pc : Nat) : Option (Nat × Nat) :=
  let n := fetchLen s t pc
  (fetchBytes s t pc n).map (fun w => (if n = 4 then w else (expand16 w).getD 0, n))

/-- What a fetch leaves: corrections and uncorrectable bursts are counted (R292). -/
def fetchDone (s : State) (t : Fin 160) (pc : Nat) : State :=
  let n := fetchLen s t pc
  if inCode s t pc n then (readSpan s (tileOwner s t.val) pc n).2 else s

/-- The cause of a fetch that fails (R58, R292): outside CODE, or uncorrectable. -/
def fetchCause (s : State) (t : Fin 160) (pc : Nat) : Nat := if inCode s t pc (fetchLen s t pc) then causeDenied else causeFetch

/-- The classes of instructions that have a row of their own. -/
inductive TccRow where
  | plain | waita | ecall | ebreak | amo | ramo | fstore | rfence
  deriving DecidableEq, Repr

/-- The row of an instruction. -/
def RvOp.row : RvOp → TccRow
  | .waita _ _ _ _ _ => .waita
  | .ecall => .ecall
  | .ebreak => .ebreak
  | .amo _ _ _ _ _ => .amo
  | .ramo _ _ _ _ _ => .ramo
  | .fstore _ _ _ _ => .fstore
  | .rfence => .rfence
  | _ => .plain

/-! ### Accesses -/

/-- TIL.CYCLE of a tile. -/
def tileCycles (s : State) (t : Fin 160) : Nat := SMap.get d0 s.distCycles (districtOfPhys (physOf s t.val))

/-- An access lies in the tile's own slot (R56). -/
def ownSlot (s : State) (t : Fin 160) (a n : Nat) : Bool :=
  devOf a = selfId s && addrOk a &&
  (match placeOf (offOf a), placeOf (offOf a + (n - 1)) with
   | .nm u _, .nm v _ => u = t.val && v = t.val
   | _, _ => false)

/-- An access to the own slot is counted (Table 17.1). -/
def ownCount (s : State) (t : Fin 160) (n : Nat) (write : Bool) : State :=
  threadEnergy ((Blk.cntT t).add s (if write then 0x80 else 0x78) n) t .bank 1

/-- An access beyond the slot is counted: bytes across the Junction die, and its energy. -/
def farCount (s : State) (t : Fin 160) (a n : Nat) (load : Bool) : State :=
  if devOf a = selfId s then
    let s := crossAccess s (physOf s t.val / 80) (offOf a) n (!load)
    match placeOf (offOf a) with
    | .hbm _ => threadEnergy s t .burst (spanBursts (offOf a) n (!load))
    | .nm _ _ => threadEnergy s t .bank (bankWords (offOf a) n)
    | _ => s
  else threadEnergy s t .link (32 + (if load then 0 else n))

/-- The instruction is complete: rd is written and the next instruction follows. -/
def complete (s : State) (t : Fin 160) (n rd v len : Nat) : State :=
  modThread s t.val n (fun h => { h.setReg rd v with phase := .ready, pc := (h.pc + len) % 2 ^ 64 })

/-- An access of a thread meets a WATCH (R363): the thread stops once the access has completed. -/
def watchHit (s : State) (t : Fin 160) (n a w pc : Nat) (store : Bool) : State :=
  let b := Blk.dbgT t
  let hit (i : Nat) : Bool :=
    let v := b.rd s (0x60 + 8 * i)
    bit v 63 && bit v (48 + n) && bit v (if store then 45 else 44) && addrOk a && devOf a = selfId s &&
      offOf a / 8 ≤ bits v 3 38 && bits v 3 38 ≤ (offOf a + (w - 1)) / 8
  if hit 0 || hit 1 then debugHit s t n 2 pc else s

/-- An address with bits [63:58] set (R19): nothing is performed, ADDR_FORM is raised, a register it would write takes a
free value. -/
def threadAddrForm (s : State) (t : Fin 160) (n rd a len : Nat) : State :=
  let s := (Blk.til t).raise s 0x0004 (tileOwner s t.val) (a % 2 ^ 32)
  let f := fresh s
  complete f.2 t n rd (f.1 % 2 ^ 64) len

/-- Park a thread on a request until its outcome (R56, R194). -/
def parkOn (s : State) (t : Fin 160) (n rd w : Nat) (sg : Bool) (len : Nat) (a : Ask) : State :=
  let s := modThread s t.val n (fun h => { h with phase := .parked len })
  issueOne s (threadIssuer s t.val n) a (.thread t.val n rd w sg)

/-- An access: at once in the own slot, by a request elsewhere. -/
def memAccess (s : State) (t : Fin 160) (n rd a w : Nat) (sg : Bool) (len : Nat) (data : Option (List Byte)) : State :=
  let pc := (getThread s t n).pc
  let s := watchHit s t n a w pc data.isSome
  if !addrOk a then threadAddrForm s t n (if data.isSome then 0 else rd) a len
  else if ownSlot s t a w then
    let s := ownCount s t w data.isSome
    let p := tileOwner s t.val
    match data with
    | none =>
      let r := readNm s (offOf a) w
      match r.1 with
      | some bs => complete r.2 t n rd (extendTo64 w sg (leNat bs)) len
      | none => threadFault r.2 t n causeDenied
    | some bs =>
      let r := writeLocal s p (offOf a) bs
      if r.1 then complete r.2 t n 0 0 len else threadFault r.2 t n causeDenied
  else
    let s := farCount s t a w data.isNone
    parkOn s t n rd w sg len { op := if data.isSome then 0x10 else 0x00, addr := a, size := w, data := data.getD [] }

/-- LR and SC (R56, R194): in the own slot only, naturally aligned. -/
def lrSc (s : State) (t : Fin 160) (n rd a w len : Nat) (sc : Option Nat) : State :=
  if !ownSlot s t a w then threadFault s t n causeLrSc
  else if a % w ≠ 0 then threadFault s t n causeMisaligned
  else
    let p := tileOwner s t.val
    let o := offOf a
    let pc := (getThread s t n).pc
    match sc with
    | none =>
      let r := readNm (ownCount (watchHit s t n a w pc false) t w false) o w
      match r.1 with
      | some bs =>
        modThread (complete r.2 t n rd (extendTo64 w true (leNat bs)) len) t.val n (fun h => { h with rsv := some (o, w) })
      | none => threadFault r.2 t n causeDenied
    | some v =>
      if (getThread s t n).rsv = some (o, w) then
        let r := writeLocal (ownCount (watchHit s t n a w pc true) t w true) p o (leBytes w v)
        if r.1 then modThread (complete r.2 t n rd 0 len) t.val n (fun h => { h with rsv := none })
        else threadFault r.2 t n causeDenied
      else modThread (complete s t n rd 1 len) t.val n (fun h => { h with rsv := none })

/-- An atomic (R56, R191, R194): in the own slot at once, elsewhere by a request; with FETCH 0 the thread goes on. -/
def atomicAccess (s : State) (t : Fin 160) (n rd a op v cmp len : Nat) : State :=
  let w := atomicWidth op
  let watched (s : State) : State :=
    let pc := (getThread s t n).pc
    watchHit (watchHit s t n a w pc false) t n a w pc true
  let data := leBytes w v
  if !addrOk a then threadAddrForm s t n rd a len
  else if ownSlot s t a w ∧ opValid { op := op, addr := a, size := w, src := 0, ctx := 0, part := 0, vc := 0, isolated := false, seq := 0 } then
    if a % w ≠ 0 then threadFault s t n causeMisaligned
    else
      let r := rmwLocal (ownCount (ownCount (watched s) t w false) t w true) (tileOwner s t.val) (offOf a) w
        (atomicBytes op (v % 2 ^ (8 * w)) cmp)
      match r.1 with
      | none => threadFault r.2 t n causeDenied
      | some bs => complete r.2 t n rd (extendTo64 w true (leNat bs)) len
  else
    let s := farCount (watched s) t a w false
    let ask : Ask := { op := op, addr := a, size := w, data := data, cmp := cmp % 2 ^ (8 * w) }
    if bit op 7 then parkOn s t n rd w true len ask
    else complete (issueOne s (threadIssuer s t.val n) ask .posted) t n 0 0 len

/-- An AMO in the own slot is the processor's own, whatever rd (R56); elsewhere FETCH is 1 unless rd is x0 (R194). -/
def amoAccess (s : State) (t : Fin 160) (n rd a op v len : Nat) : State :=
  let own := ownSlot s t a (atomicWidth op)
  atomicAccess s t n rd a (op + (if own ∨ rd ≠ 0 then 0x80 else 0)) v 0 len

/-! ### WAITA (R57) -/

/-- The condition of WAITA. -/
def waitaHolds (cond : Nat) (wide : Bool) (word ref : Nat) : Bool :=
  let r := if wide then ref else ref % 2 ^ 32
  match cond with
  | 0 => word == r | 1 => word != r | 2 => decide (r ≤ word) | _ => decide (word < r)

/-- The word's bytes. -/
def waitaBytes (wide : Bool) : Nat := if wide then 8 else 4

/-- WAITA issues: the thread waits for the word, which must lie in this device's Near Memory, naturally aligned. -/
def waitaIssue (s : State) (t : Fin 160) (n rd a ref cond : Nat) (wide : Bool) : State :=
  let w := waitaBytes wide
  let isNm : Bool := match placeOf (offOf a) with
    | .nm _ _ => true
    | _ => false
  if !addrOk a ∨ devOf a ≠ selfId s ∨ !isNm ∨ a % w ≠ 0 then threadFault s t n causeWaita
  else if spanStatus s (offOf a) w (tileOwner s t.val) false ≠ stOk then
    threadFault (secError s 1 (tileOwner s t.val) (offOf a)) t n causeDenied
  else modThread s t.val n (fun h => { h with phase := .waita (offOf a) cond rd wide ref (tileCycles s t) })

/-- A waiting thread continues with the word as it stands (R57). DESIGN CHOICE (log entry 178): a 32-bit word fills the 64-bit
register sign-extended, as RV64's 32-bit loads are. -/
def waitaEnd (s : State) (t : Fin 160) (n a rd : Nat) (wide : Bool) : State :=
  let w := waitaBytes wide
  let r := readNm s a w
  match r.1 with
  | some bs => complete r.2 t n rd (extendTo64 w true (leNat bs)) 4
  | none => threadFault r.2 t n causeDenied

/-! ### Issue -/

/-- An EBREAK (R362). -/
def ebreakIssue (s : State) (t : Fin 160) (n pc : Nat) : State :=
  if bit ((Blk.dbgT t).rd s 0x70) 10 then debugHit s t n 3 pc else threadFault s t n causeEbreak

/-- What an instruction does. -/
def perform (s : State) (t : Fin 160) (n pc len : Nat) : RvOp → State
  | .wr rd v => complete s t n rd v len
  | .jump rd target => modThread s t.val n (fun h => { h.setReg rd ((pc + len) % 2 ^ 64) with pc := target })
  | .load rd a w sg => memAccess s t n rd a w sg len none
  | .store a w v => memAccess s t n 0 a w false len (some (leBytes w v))
  | .lr rd a w => lrSc s t n rd a w len none
  | .sc rd a w v => lrSc s t n rd a w len (some v)
  | .amo rd a _ op v => amoAccess s t n rd a op v len
  | .waita rd a ref cond wide => waitaIssue s t n rd a ref cond wide
  | .ramo rd a op v cmp => atomicAccess s t n rd a op v cmp len
  | .fstore a w v all =>
    if !addrOk a then threadAddrForm s t n 0 a len
    else parkOn (farCount (watchHit s t n a w pc true) t a w false) t n 0 w false len { op := 0x20, addr := a, size := w, data := leBytes w v, flagAll := all }
  | .rfence => modThread s t.val n (fun h => { h with phase := .fence })
  | .ecall => threadFault s t n causeEcall
  | .ebreak => ebreakIssue s t n pc
  | .illegal => threadFault s t n causeIllegal

/-- The issue slot is taken by thread `n` (R56, Table 17.1); a STEP of it is used up (R363). -/
def slotTaken (s : State) (t : Fin 160) (n : Nat) : State :=
  let s := setTcc s t.val { getTcc s t.val with rr := (n + 1) % 8 }
  let s := (Blk.cntT t).add s 0x60 1
  if (getDbg s t.val).stepping = some n then setDbg s t.val { getDbg s t.val with stepping := none } else s

/-- The state in which the instruction of thread `n` acts: it is fetched, and has the issue slot. -/
def issued (s : State) (t : Fin 160) (n : Nat) : State := slotTaken (fetchDone s t (getThread s t n).pc) t n

/-- The next thread of a tile issues its instruction, when that is of the given row; otherwise nothing happens. A fetch
that fails and a BRK_PC hit belong to the plain row. -/
def issueThread (row : TccRow) (t : Fin 160) (s : State) : State :=
  match nextThread s t with
  | none => s
  | some n =>
    let h := getThread s t n
    match fetchInstr s t h.pc with
    | none => if row = .plain then threadFault (issued s t n) t n (fetchCause s t h.pc) else s
    | some (w, len) =>
      let op := rvOp w len h.pc h.reg
      if brkHit s t n h.pc ∧ dbgPhase s t = 0 then (if row = .plain then debugHit s t n 1 h.pc else s)
      else if op.row = row then perform (issued s t n) t n h.pc len op
      else s

/-- TCC_INSTRUCTION (R56): any instruction that has no row of its own. -/
def execTccInstruction (t : Fin 160) (s : State) : Out := .next (issueThread .plain t s)

/-- WAITA (R57). -/
def execWaita (t : Fin 160) (s : State) : Out := .next (issueThread .waita t s)

/-- ECALL (R58). -/
def execEcall (t : Fin 160) (s : State) : Out := .next (issueThread .ecall t s)

/-- EBREAK (R362). -/
def execEbreak (t : Fin 160) (s : State) : Out := .next (issueThread .ebreak t s)

/-- AMO (R194). -/
def execAmo (t : Fin 160) (s : State) : Out := .next (issueThread .amo t s)

/-- RAMO (R194). -/
def execRamo (t : Fin 160) (s : State) : Out := .next (issueThread .ramo t s)

/-- FSTORE (R194). -/
def execFstore (t : Fin 160) (s : State) : Out := .next (issueThread .fstore t s)

/-- RFENCE (R194). -/
def execRfence (t : Fin 160) (s : State) : Out := .next (issueThread .rfence t s)

/-- WAITA_WAKE (R57): the word satisfies the condition. -/
def execWaitaWake (t : Fin 160) (n : Fin 8) (s : State) : Out :=
  .next (match (getThread s t n.val).phase with
    | .waita a cond rd wide ref _ =>
      if waitaHolds cond wide (readNat s a (waitaBytes wide)) ref then waitaEnd s t n.val a rd wide else s
    | _ => s)

/-- WAITA_TIMEOUT (R57): TIL.WAIT_TIMEOUT has expired. -/
def execWaitaTimeout (t : Fin 160) (n : Fin 8) (s : State) : Out :=
  .next (match (getThread s t n.val).phase with
    | .waita a _ rd wide _ since =>
      let lim := 1024 * (Blk.til t).rd s 0x58
      if lim ≠ 0 ∧ lim ≤ tileCycles s t - since then (Blk.til t).event (waitaEnd s t n.val a rd wide) 17 else s
    | _ => s)

/-- RFENCE_RESUME (R194): every earlier remote operation of the thread has its final outcome. -/
def execRfenceResume (t : Fin 160) (n : Fin 8) (s : State) : Out :=
  .next (match (getThread s t n.val).phase with
    | .fence => if s.outs.any (fun o => o.req.ctx = 12 * t.val + 4 + n.val) then s else complete s t n.val 0 0 4
    | _ => s)

end Sys2Proof.Machine
end

