-- ==== Sys2Proof/Machine/Tick.lean ====
section
/-! DEFINITION. Sys2Proof/Machine/Tick.lean: the 1 µs tick of the block's time. -/
namespace Sys2Proof.Machine

/-- The rows of Near Memory that its reads have condemned are replaced (R125, Table 16.1). -/
def replaceRows (s : State) : State :=
  forEach s.nmRows { s with nmRows := [] } (fun s e =>
    let s := if e.2 = 1 then { s with nmErr := SMap.set d0 s.nmErr e.1 3 } else s
    match bankUnit s e.1 with
    | some u => condemn s 1 u e.2 []
    | none => s)

/-- KETTLE_BIN: the 1 µs tick (R308). The Kettle closes its bin, every link port's time passes, the wear model's minutes count
(R344), and the tags of requests that ended 500,000 µs ago, past the age of any copy (R201), are used again. -/
def execKettleBin (s : State) : Out :=
  .next (
    let s := forEach (List.finRange 32) (closeBin s) portTick
    let s := if s.now % 60000000 = 0 then wearMinute s else s
    let s := if s.nmRows = [] then s else replaceRows s
    { s with spent := s.spent.filter (fun e => s.now - e.since ≤ 500000) })

end Sys2Proof.Machine
end

