-- ==== Sys2Proof/Machine/Dispatch.lean ====
section
/-! DEFINITION. Sys2Proof/Machine/Dispatch.lean: one arm for each command of spec/opcode_table.json. -/
namespace Sys2Proof.Machine

def exec (i : Instr) (s : State) : Host.Outcome State Fault Refusal :=
  match i with
  | .registerWrite p off size val => Sys2Proof.Machine.execRegisterWrite p off size val s
  | .softReset p off val => Sys2Proof.Machine.execSoftReset p off val s
  | .enable p off val => Sys2Proof.Machine.execEnable p off val s
  | .drain p off val => Sys2Proof.Machine.execDrain p off val s
  | .lock p off val => Sys2Proof.Machine.execLock p off val s
  | .segData p val => Sys2Proof.Machine.execSegData p val s
  | .tileOwner p t val => Sys2Proof.Machine.execTileOwner p t val s
  | .engOwner p k val => Sys2Proof.Machine.execEngOwner p k val s
  | .republish => Sys2Proof.Machine.execRepublish s
  | .cmdNop q => Sys2Proof.Machine.execCmdNop q s
  | .cmdRun q => Sys2Proof.Machine.execCmdRun q s
  | .creditGrant q => Sys2Proof.Machine.execCreditGrant q s
  | .stepWaitMet q => Sys2Proof.Machine.execStepWaitMet q s
  | .emitAfterQueueSpace q => Sys2Proof.Machine.execEmitAfterQueueSpace q s
  | .tokenArrive q => Sys2Proof.Machine.execTokenArrive q s
  | .tableComplete q => Sys2Proof.Machine.execTableComplete q s
  | .seqWaitTimeout q => Sys2Proof.Machine.execSeqWaitTimeout q s
  | .tccInstruction t => Sys2Proof.Machine.execTccInstruction t s
  | .waita t => Sys2Proof.Machine.execWaita t s
  | .waitaWake t n => Sys2Proof.Machine.execWaitaWake t n s
  | .waitaTimeout t n => Sys2Proof.Machine.execWaitaTimeout t n s
  | .ecall t => Sys2Proof.Machine.execEcall t s
  | .ebreak t => Sys2Proof.Machine.execEbreak t s
  | .amo t => Sys2Proof.Machine.execAmo t s
  | .ramo t => Sys2Proof.Machine.execRamo t s
  | .fstore t => Sys2Proof.Machine.execFstore t s
  | .rfence t => Sys2Proof.Machine.execRfence t s
  | .rfenceResume t n => Sys2Proof.Machine.execRfenceResume t n s
  | .seqGo p t val => Sys2Proof.Machine.execSeqGo p t val s
  | .thrStart p t val => Sys2Proof.Machine.execThrStart p t val s
  | .loaderLoad k block binds => Sys2Proof.Machine.execLoaderLoad k block binds s
  | .loaderUnload k block => Sys2Proof.Machine.execLoaderUnload k block s
  | .mxaConfig t a => Sys2Proof.Machine.execMxaConfig t a s
  | .mxaLoad t a => Sys2Proof.Machine.execMxaLoad t a s
  | .mxaPass t a => Sys2Proof.Machine.execMxaPass t a s
  | .drainVerdict t a => Sys2Proof.Machine.execDrainVerdict t a s
  | .lateTokenLeave q => Sys2Proof.Machine.execLateTokenLeave q s
  | .layConfig t => Sys2Proof.Machine.execLayConfig t s
  | .copy t => Sys2Proof.Machine.execCopy t s
  | .transpose t => Sys2Proof.Machine.execTranspose t s
  | .skewStream t => Sys2Proof.Machine.execSkewStream t s
  | .skewStat t => Sys2Proof.Machine.execSkewStat t s
  | .pack24 t => Sys2Proof.Machine.execPack24 t s
  | .quant t => Sys2Proof.Machine.execQuant t s
  | .dequant t => Sys2Proof.Machine.execDequant t s
  | .rowquant t => Sys2Proof.Machine.execRowquant t s
  | .tilePack t => Sys2Proof.Machine.execTilePack t s
  | .tileUnpack t => Sys2Proof.Machine.execTileUnpack t s
  | .blocklist t => Sys2Proof.Machine.execBlocklist t s
  | .layInflightRelease t => Sys2Proof.Machine.execLayInflightRelease t s
  | .ptwAdd t => Sys2Proof.Machine.execPtwAdd t s
  | .ptwSub t => Sys2Proof.Machine.execPtwSub t s
  | .ptwMul t => Sys2Proof.Machine.execPtwMul t s
  | .ptwFma t => Sys2Proof.Machine.execPtwFma t s
  | .ptwMax t => Sys2Proof.Machine.execPtwMax t s
  | .ptwMin t => Sys2Proof.Machine.execPtwMin t s
  | .ptwFunc t => Sys2Proof.Machine.execPtwFunc t s
  | .rowsum t => Sys2Proof.Machine.execRowsum t s
  | .rowsumsq t => Sys2Proof.Machine.execRowsumsq t s
  | .rowmax t => Sys2Proof.Machine.execRowmax t s
  | .softmax t => Sys2Proof.Machine.execSoftmax t s
  | .bpmAllocRead p d k => Sys2Proof.Machine.execBpmAllocRead p d k s
  | .allocSz p d k => Sys2Proof.Machine.execAllocSz p d k s
  | .bpmFreeWrite p d val => Sys2Proof.Machine.execBpmFreeWrite p d val s
  | .poolConfigWrite p d off size val => Sys2Proof.Machine.execPoolConfigWrite p d off size val s
  | .bpmAllocOp d => Sys2Proof.Machine.execBpmAllocOp d s
  | .bpmFreeOp d => Sys2Proof.Machine.execBpmFreeOp d s
  | .bpmPortRequest d src word => Sys2Proof.Machine.execBpmPortRequest d src word s
  | .bpmWaiterServed d k => Sys2Proof.Machine.execBpmWaiterServed d k s
  | .rteConfig d j => Sys2Proof.Machine.execRteConfig d j s
  | .route d j => Sys2Proof.Machine.execRoute d j s
  | .xchConfig d j => Sys2Proof.Machine.execXchConfig d j s
  | .counts d j => Sys2Proof.Machine.execCounts d j s
  | .xchCountsReceived d j => Sys2Proof.Machine.execXchCountsReceived d j s
  | .xchGrantsReceived d j => Sys2Proof.Machine.execXchGrantsReceived d j s
  | .dispatch d j => Sys2Proof.Machine.execDispatch d j s
  | .dispatchBwd d j => Sys2Proof.Machine.execDispatchBwd d j s
  | .xchDataIterComplete d j => Sys2Proof.Machine.execXchDataIterComplete d j s
  | .returnRows d j => Sys2Proof.Machine.execReturnRows d j s
  | .returnBwd d j => Sys2Proof.Machine.execReturnBwd d j s
  | .combine d j => Sys2Proof.Machine.execCombine d j s
  | .combineBwd d j => Sys2Proof.Machine.execCombineBwd d j s
  | .xchReturnsReceived d j => Sys2Proof.Machine.execXchReturnsReceived d j s
  | .stepClear d j => Sys2Proof.Machine.execStepClear d j s
  | .xchHeaderArrive d j off => Sys2Proof.Machine.execXchHeaderArrive d j off s
  | .xchPhaseTimeout d j => Sys2Proof.Machine.execXchPhaseTimeout d j s
  | .xseqWrite p d j val => Sys2Proof.Machine.execXseqWrite p d j val s
  | .embConfig d j => Sys2Proof.Machine.execEmbConfig d j s
  | .prep d j => Sys2Proof.Machine.execPrep d j s
  | .sort d j => Sys2Proof.Machine.execSort d j s
  | .gather d j => Sys2Proof.Machine.execGather d j s
  | .embHotHeadersReceived d j => Sys2Proof.Machine.execEmbHotHeadersReceived d j s
  | .pool d j => Sys2Proof.Machine.execPool d j s
  | .scatter d j => Sys2Proof.Machine.execScatter d j s
  | .push d j => Sys2Proof.Machine.execPush d j s
  | .pushRepliesDone d j => Sys2Proof.Machine.execPushRepliesDone d j s
  | .embHeaderArrive d j m => Sys2Proof.Machine.execEmbHeaderArrive d j m s
  | .apply d j => Sys2Proof.Machine.execApply d j s
  | .embUpdateHeadersReceived d j => Sys2Proof.Machine.execEmbUpdateHeadersReceived d j s
  | .embPhaseTimeout d j => Sys2Proof.Machine.execEmbPhaseTimeout d j s
  | .refresh d j => Sys2Proof.Machine.execRefresh d j s
  | .hotHeaderArrive d j m => Sys2Proof.Machine.execHotHeaderArrive d j m s
  | .remoteLoad port r => Sys2Proof.Machine.execRemoteLoad port r s
  | .remoteStore port r => Sys2Proof.Machine.execRemoteStore port r s
  | .flaggedStore port r => Sys2Proof.Machine.execFlaggedStore port r s
  | .flagDevicePerform => Sys2Proof.Machine.execFlagDevicePerform s
  | .flagAllRelease ctx => Sys2Proof.Machine.execFlagAllRelease ctx s
  | .atomicAdd port r => Sys2Proof.Machine.execAtomicAdd port r s
  | .atomicMin port r => Sys2Proof.Machine.execAtomicMin port r s
  | .atomicMax port r => Sys2Proof.Machine.execAtomicMax port r s
  | .atomicSwap port r => Sys2Proof.Machine.execAtomicSwap port r s
  | .atomicCas port r => Sys2Proof.Machine.execAtomicCas port r s
  | .atomicAnd port r => Sys2Proof.Machine.execAtomicAnd port r s
  | .atomicOr port r => Sys2Proof.Machine.execAtomicOr port r s
  | .atomicXor port r => Sys2Proof.Machine.execAtomicXor port r s
  | .replyArrive port r => Sys2Proof.Machine.execReplyArrive port r s
  | .requestReissue id => Sys2Proof.Machine.execRequestReissue id s
  | .waitReissue id => Sys2Proof.Machine.execWaitReissue id s
  | .filterBusyReissue id => Sys2Proof.Machine.execFilterBusyReissue id s
  | .seqHoldRelease ctx => Sys2Proof.Machine.execSeqHoldRelease ctx s
  | .gangLost id => Sys2Proof.Machine.execGangLost id s
  | .isoTimeout id => Sys2Proof.Machine.execIsoTimeout id s
  | .combWindowClose k => Sys2Proof.Machine.execCombWindowClose k s
  | .filterEntryExpire set => Sys2Proof.Machine.execFilterEntryExpire set s
  | .partEntryValidSet p k val => Sys2Proof.Machine.execPartEntryValidSet p k val s
  | .partitionTeardown p k val => Sys2Proof.Machine.execPartitionTeardown p k val s
  | .migDrain p val => Sys2Proof.Machine.execMigDrain p val s
  | .migHandover p val => Sys2Proof.Machine.execMigHandover p val s
  | .migTransfer => Sys2Proof.Machine.execMigTransfer s
  | .migFree p val => Sys2Proof.Machine.execMigFree p val s
  | .replayWindowWrite p val => Sys2Proof.Machine.execReplayWindowWrite p val s
  | .replayWindowLowerDone => Sys2Proof.Machine.execReplayWindowLowerDone s
  | .dataFlitReceive p f => Sys2Proof.Machine.execDataFlitReceive p f s
  | .controlFlitReceive p f => Sys2Proof.Machine.execControlFlitReceive p f s
  | .replayStorm p => Sys2Proof.Machine.execReplayStorm p s
  | .linkUp p reversed lanes => Sys2Proof.Machine.execLinkUp p reversed lanes s
  | .linkTrainTimeout p => Sys2Proof.Machine.execLinkTrainTimeout p s
  | .trainRetryTimer p => Sys2Proof.Machine.execTrainRetryTimer p s
  | .laneFail p lane => Sys2Proof.Machine.execLaneFail p lane s
  | .linkIdent p peer delay => Sys2Proof.Machine.execLinkIdent p peer delay s
  | .lnkRetrain q p val => Sys2Proof.Machine.execLnkRetrain q p val s
  | .lnkSpare q p val => Sys2Proof.Machine.execLnkSpare q p val s
  | .lnkRetry q p val => Sys2Proof.Machine.execLnkRetry q p val s
  | .lnkCfgWrite q p val => Sys2Proof.Machine.execLnkCfgWrite q p val s
  | .creditWrite q p val => Sys2Proof.Machine.execCreditWrite q p val s
  | .routePacket port => Sys2Proof.Machine.execRoutePacket port s
  | .packetSend port => Sys2Proof.Machine.execPacketSend port s
  | .creditTimeout port vc => Sys2Proof.Machine.execCreditTimeout port vc s
  | .rtDataWrite p val => Sys2Proof.Machine.execRtDataWrite p val s
  | .psetDataWrite p val => Sys2Proof.Machine.execPsetDataWrite p val s
  | .weightsWrite p port val => Sys2Proof.Machine.execWeightsWrite p port val s
  | .hostBar0Access write off size val => Sys2Proof.Machine.execHostBar0Access write off size val s
  | .hostBar2Read off size tag => Sys2Proof.Machine.execHostBar2Read off size tag s
  | .hostBar2Write off data => Sys2Proof.Machine.execHostBar2Write off data s
  | .hostBar2Atomic kind off size val cmp tag => Sys2Proof.Machine.execHostBar2Atomic kind off size val cmp tag s
  | .hostReadRelease slot => Sys2Proof.Machine.execHostReadRelease slot s
  | .hostUr off => Sys2Proof.Machine.execHostUr off s
  | .deviceToHostRequest => Sys2Proof.Machine.execDeviceToHostRequest s
  | .msixHoldoffExpire v => Sys2Proof.Machine.execMsixHoldoffExpire v s
  | .pcieLinkChange up rate width shown => Sys2Proof.Machine.execPcieLinkChange up rate width shown s
  | .colConfig d j => Sys2Proof.Machine.execColConfig d j s
  | .contrib d j => Sys2Proof.Machine.execContrib d j s
  | .finish d j => Sys2Proof.Machine.execFinish d j s
  | .colPieceArrive d j off src => Sys2Proof.Machine.execColPieceArrive d j off src s
  | .colReady d j off => Sys2Proof.Machine.execColReady d j off s
  | .colAck d j off => Sys2Proof.Machine.execColAck d j off s
  | .colNak d j off => Sys2Proof.Machine.execColNak d j off s
  | .colExclude d j off => Sys2Proof.Machine.execColExclude d j off s
  | .colRetarget d j off => Sys2Proof.Machine.execColRetarget d j off s
  | .colRack d j off => Sys2Proof.Machine.execColRack d j off s
  | .colDeadline d j => Sys2Proof.Machine.execColDeadline d j s
  | .colPhaseTimeout d j => Sys2Proof.Machine.execColPhaseTimeout d j s
  | .staAmax d => Sys2Proof.Machine.execStaAmax d s
  | .optConfig d j => Sys2Proof.Machine.execOptConfig d j s
  | .update d j => Sys2Proof.Machine.execUpdate d j s
  | .cast d j => Sys2Proof.Machine.execCast d j s
  | .optCopy d j => Sys2Proof.Machine.execOptCopy d j s
  | .hbmIssue pc t arrivals found => Sys2Proof.Machine.execHbmIssue pc t arrivals found s
  | .bulkAgeExpire pc t => Sys2Proof.Machine.execBulkAgeExpire pc t s
  | .hbmRefresh r => Sys2Proof.Machine.execHbmRefresh r s
  | .hbmWriteTraining pc t hold drift eye pin => Sys2Proof.Machine.execHbmWriteTraining pc t hold drift eye pin s
  | .hbmPatrolRead pc x => Sys2Proof.Machine.execHbmPatrolRead pc x s
  | .tgcTestAccess c x => Sys2Proof.Machine.execTgcTestAccess c x s
  | .tgcModeOff p c val => Sys2Proof.Machine.execTgcModeOff p c val s
  | .tgcModeBringup p c val => Sys2Proof.Machine.execTgcModeBringup p c val s
  | .tgcModeIdleFill p c val => Sys2Proof.Machine.execTgcModeIdleFill p c val s
  | .tgcModePatrol p c val => Sys2Proof.Machine.execTgcModePatrol p c val s
  | .hbmRepair pc => Sys2Proof.Machine.execHbmRepair pc s
  | .hbmCmdLaneRepair p k val => Sys2Proof.Machine.execHbmCmdLaneRepair p k val s
  | .hbmCmdRemapRow p k val => Sys2Proof.Machine.execHbmCmdRemapRow p k val s
  | .hbmCmdMarkErasure p k val => Sys2Proof.Machine.execHbmCmdMarkErasure p k val s
  | .hbmCmdRetrain p k val => Sys2Proof.Machine.execHbmCmdRetrain p k val s
  | .kettleBin => Sys2Proof.Machine.execKettleBin s
  | .holdLimitExpire q => Sys2Proof.Machine.execHoldLimitExpire q s
  | .raiseDelayExpire n => Sys2Proof.Machine.execRaiseDelayExpire n s
  | .dtargetWrite p n val => Sys2Proof.Machine.execDtargetWrite p n val s
  | .freqChange n => Sys2Proof.Machine.execFreqChange n s
  | .voltTrimDown k slackSeen => Sys2Proof.Machine.execVoltTrimDown k slackSeen s
  | .voltTrimUp k slackSeen => Sys2Proof.Machine.execVoltTrimUp k slackSeen s
  | .gainUpdate sensed => Sys2Proof.Machine.execGainUpdate sensed s
  | .floorUpdate sensed => Sys2Proof.Machine.execFloorUpdate sensed s
  | .mark p k val => Sys2Proof.Machine.execMark p k val s
  | .vddAonRise => Sys2Proof.Machine.execVddAonRise s
  | .resetNAssert => Sys2Proof.Machine.execResetNAssert s
  | .pwrgdFall => Sys2Proof.Machine.execPwrgdFall s
  | .resetCmd p val => Sys2Proof.Machine.execResetCmd p val s
  | .thermtrip => Sys2Proof.Machine.execThermtrip s
  | .watchdogExpire => Sys2Proof.Machine.execWatchdogExpire s
  | .resetNRelease env => Sys2Proof.Machine.execResetNRelease env s
  | .bootFabricJoin p val => Sys2Proof.Machine.execBootFabricJoin p val s
  | .bootStepTimeout => Sys2Proof.Machine.execBootStepTimeout s
  | .stageGo p val => Sys2Proof.Machine.execStageGo p val s
  | .bootSlotWrite p val => Sys2Proof.Machine.execBootSlotWrite p val s
  | .openSession p val => Sys2Proof.Machine.execOpenSession p val s
  | .installOwner p val => Sys2Proof.Machine.execInstallOwner p val s
  | .transferOwner p val => Sys2Proof.Machine.execTransferOwner p val s
  | .installOperator p val => Sys2Proof.Machine.execInstallOperator p val s
  | .endLease p val => Sys2Proof.Machine.execEndLease p val s
  | .reclaim p val => Sys2Proof.Machine.execReclaim p val s
  | .sessionClose p val => Sys2Proof.Machine.execSessionClose p val s
  | .sessionTimeout => Sys2Proof.Machine.execSessionTimeout s
  | .quoteGo p val => Sys2Proof.Machine.execQuoteGo p val s
  | .wearCondemn cls unit slackSeen trim ends parts => Sys2Proof.Machine.execWearCondemn cls unit slackSeen trim ends parts s
  | .spareBringIn cls unit bad => Sys2Proof.Machine.execSpareBringIn cls unit bad s
  | .unitFail cls u => Sys2Proof.Machine.execUnitFail cls u s
  | .ccacheBankFail bank => Sys2Proof.Machine.execCcacheBankFail bank s
  | .statusRecord => Sys2Proof.Machine.execStatusRecord s
  | .sprReplace p val => Sys2Proof.Machine.execSprReplace p val s
  | .laneClear p val => Sys2Proof.Machine.execLaneClear p val s
  | .regrade p val tests failed => Sys2Proof.Machine.execRegrade p val tests failed s
  | .snap p off val => Sys2Proof.Machine.execSnap p off val s
  | .haltReq p t val => Sys2Proof.Machine.execHaltReq p t val s
  | .resume p t val => Sys2Proof.Machine.execResume p t val s
  | .dbgStep p t val => Sys2Proof.Machine.execDbgStep p t val s
  | .dbgHalted t => Sys2Proof.Machine.execDbgHalted t s
  | .partHalt p val => Sys2Proof.Machine.execPartHalt p val s
  | .partResume p val => Sys2Proof.Machine.execPartResume p val s
  | .regDataAccess p t write val => Sys2Proof.Machine.execRegDataAccess p t write val s
  | .tagDataWrite p t val => Sys2Proof.Machine.execTagDataWrite p t val s
  | .jtagExtest bits => Sys2Proof.Machine.execJtagExtest bits s
  | .jtagSamplePreload bits => Sys2Proof.Machine.execJtagSamplePreload bits s
  | .jtagIdcode => Sys2Proof.Machine.execJtagIdcode s
  | .jtagDbgacc write off size val => Sys2Proof.Machine.execJtagDbgacc write off size val s
  | .jtagBypass code bit => Sys2Proof.Machine.execJtagBypass code bit s
  | .tpulseEdge => Sys2Proof.Machine.execTpulseEdge s
  | .tpulseLost => Sys2Proof.Machine.execTpulseLost s
  | .i3cRead32 off => Sys2Proof.Machine.execI3cRead32 off s
  | .i3cWrite32 off val => Sys2Proof.Machine.execI3cWrite32 off val s
  | .i3cRecovery data => Sys2Proof.Machine.execI3cRecovery data s
  | .railFault g => Sys2Proof.Machine.execRailFault g s
  | .thermalThreshold sensor temp => Sys2Proof.Machine.execThermalThreshold sensor temp s
  | .thermalThrottle n => Sys2Proof.Machine.execThermalThrottle n s
  | .voltageRampEnd n => Sys2Proof.Machine.execVoltageRampEnd n s
  | .vinIvrRemoved => Sys2Proof.Machine.execVinIvrRemoved s
  | .cmdDone scrubUs back => Sys2Proof.Machine.execCmdDone scrubUs back s
  | .quoteDone => Sys2Proof.Machine.execQuoteDone s
  | .stageDone ok => Sys2Proof.Machine.execStageDone ok s

end Sys2Proof.Machine
end

