-- ==== Sys2Proof/Safety.lean ====
section
/-! DEFINITION. Sys2Proof/Safety.lean: the predicates that claims are stated in. -/
namespace Sys2Proof.Machine

/-- The tiles' control cores are in canonical form, and each has its 8 threads (R56). -/
def TccsOk (m : SMap Tcc) : Bool := SMap.wf dTcc m && m.all (fun e => e.2.threads.length == 8)

/-- The registers, the memory, the buffer pools' state bits and the control cores are in canonical form: keys rising, nothing
listed that an unlisted key reads as; every control core has 8 threads. -/
structure State.Canon (s : State) : Prop where
  regs : SMap.wf resetVal s.regs = true
  mem : Memory.wf s.mem = true
  pool : SMap.wf d0 s.poolUsed = true
  tcc : TccsOk s.tccs = true

/-- Partition `p` may access `size` bytes at offset `o` of block `b`, and the device serves accesses (R28, R29, R327). -/
structure Admits (s : State) (p : Nat) (b : Blk) (o size : Nat) (write : Bool) : Prop where
  serves : serving s = true
  inBlock : o < b.pages * 0x1000
  privilege : granted s (b.privNow s (o / 0x1000)) (b.owner s) p write = true
  width : size = 4 ∨ size = 8
  aligned : o % size = 0

/-- A block whose writable registers, the header apart, only hold what is written. -/
def Blk.onlyHolds : Blk → Bool
  | .cal => true | .log => true | .seq _ => true | .mxa _ _ => true | .dqu _ _ => true | .ptw _ => true | .lay _ => true
  | _ => false

/-- Offset `o` of block `b` is the start of element `i` of register `r`, above the header. -/
structure RegAt (b : Blk) (o : Nat) (r : RegDesc) (i : Nat) : Prop where
  found : b.find o = some (r, i)
  start : o = r.off + i * r.stride
  above : 0x40 ≤ o % 0x1000

/-- Thread `n` of tile `t` issues next, and the instruction at its pc is `op`, of `len` bytes, with no breakpoint on it (R56). -/
structure Issues (s : State) (t : Fin 160) (n : Nat) (op : RvOp) (len : Nat) : Prop where
  next : nextThread s t = some n
  fetched : ∃ w, fetchInstr s t (getThread s t n).pc = some (w, len) ∧ rvOp w len (getThread s t n).pc (getThread s t n).reg = op
  noBreak : brkHit s t n (getThread s t n).pc = false

/-- The sequencer runs iterations of its step in force, which satisfies `sel`, and no token of it waits to leave (R48). -/
structure Iterating (s : State) (q : SeqId) (sel : Step → Prop) : Prop where
  running : (getSeq s q).phase = .iter
  noEmits : (getSeq s q).emits = []
  step : sel (curStep (getSeq s q))

/-- Command `c` runs one iteration of `q`'s step in force, which `body` performs: after an iteration that ran comes the next
one or the step's end; one that cannot run yet leaves the state its body left. -/
def RunsIteration (c : Instr) (q : SeqId) (sel : Step → Prop) (body : State → Step → IterResult) : Prop :=
  ∀ s, Iterating s q sel →
    (∀ s1 dAddr, body s (curStep (getSeq s q)) = .ran s1 dAddr →
      exec c s = .next (afterIter (modSeq s1 q (fun x => { x with rbuf := [], rfail := false })) q
        (lateBound q (curStep (getSeq s q)).op) dAddr)) ∧
    (∀ s1, body s (curStep (getSeq s q)) = .hold s1 → exec c s = .next s1)

end Sys2Proof.Machine
end

