-- ==== Sys2Proof/Certificates/Slice0/Obligations.lean ====
section
/-! DEFINITION. Sys2Proof/Certificates/Slice0/Obligations.lean: the statements for the provers, each with the rules and log
entries it rests on. -/
open Sys2Proof Sys2Proof.Machine

/-- O1 (95_what_each_step_holds.md (opening); log entry 1; log entry 2). For every state whose queue is c followed by rest,
step is exec of c on the state with rest as its queue. The queue is the model's own (log entry 1); that a command is one
indivisible step is log entry 2. -/
def Obligations.StepRunsFrontCommand : Prop :=
  ∀ (s : State) (c : Instr) (rest : List Instr),
    s.pending = c :: rest → step s = exec c { s with pending := rest }

/-- O2 (log entry 1; 95_what_each_step_holds.md (opening)). For every state with no command waiting, step answers that state.
This is the model's choice (log entry 1). -/
def Obligations.StepIdlesOnEmptyQueue : Prop :=
  ∀ s : State, s.pending = [] → step s = .next s

/-- O3 (log entry 1; 95_what_each_step_holds.md (opening)). From every canonical state, when step answers a next state, the
queue of that state is the tail of the queue before: no command of the table puts another on the queue or takes one from
it. The queue is the model's own (log entry 1). -/
def Obligations.StepTakesOneCommand : Prop :=
  ∀ s t : State, s.Canon → step s = .next t → t.pending = s.pending.tail

/-- O4 (02_address_space_and_register_pages.md § The common header; 02_address_space_and_register_pages.md § The local map;
03_step_tables_tokens_and_loading.md § Tile Control Core; 06_near_memory_tamper_and_pointwise.md § Buffer pools; log entry
7; log entry 9). From every canonical state, if step answers a next state, that state is canonical: the keys of the
registers, of the memory bytes, of the pools' state bits and of the control cores rise strictly, none of them lists what
an unlisted key reads as, and every listed control core has 8 threads. All 257 commands are covered. The form is the
model's; what unlisted bytes read as is log entry 7. -/
def Obligations.StepKeepsCanon : Prop :=
  ∀ s t : State, s.Canon → step s = .next t → t.Canon

/-- O5 (95_what_each_step_holds.md (opening); log entry 4). For every command of the table, with every operand, and every
state, exec answers a next state: no command faults or is refused. Where a command's condition does not hold, that next
state is the model's choice (log entry 4). -/
def Obligations.NoCommandStops : Prop :=
  ∀ (c : Instr) (s : State), ∃ t, exec c s = .next t

/-- O6 (02_address_space_and_register_pages.md § The common header; 09_remote_memory_operations.md Table 9.13;
14_islands_energy_and_live_calibration.md Table 14.4; 18_package_power_and_board.md Table 18.5;
10_links_router_and_host_bridge.md Table 10.11; log entry 7; log entry 9). The state after reset is canonical, its queue
and its listed memory are empty (unlisted bytes: the model's choice, log entry 7), the device is held in reset, and every
register of every block reads its reset value; among them REPLAY_WINDOW 0x64, PKG_LIMIT 0x0B54_0A28_0960, ALERT_MASK 0x3F
and CREDIT 0x4444_4444. -/
def Obligations.ResetState : Prop :=
  State.reset.Canon ∧ State.reset.pending = [] ∧ State.reset.mem = [] ∧ State.reset.held = true ∧
  (∀ (b : Blk) (o : Nat), b.rd State.reset o = (resetVal (b.base + o)).toNat) ∧
  Blk.fab.rd State.reset 0x8040 = 0x64 ∧ Blk.ktl.rd State.reset 0x3040 = 0x0B540A280960 ∧
  Blk.svc.rd State.reset 0xCC = 0x3F ∧ (∀ n : Fin 32, (Blk.lnk n).rd State.reset 0x64 = 0x44444444)

/-- O7 (00_scope.md § conventions, byte order; 02_address_space_and_register_pages.md § The local map). For every canonical
state, writing bytes at a local offset and reading as many there gives those bytes, and every byte outside them reads as
before. -/
def Obligations.StoredBytesReadBack : Prop :=
  ∀ (s : State) (o : Nat) (bs : List Byte), s.Canon →
    readBytes (writeBytes s o bs) o bs.length = bs ∧
    ∀ a, a < o ∨ o + bs.length ≤ a → SMap.get memDefault (writeBytes s o bs).mem a = SMap.get memDefault s.mem a

/-- O8 (log entry 7; 02_address_space_and_register_pages.md § The local map). If two canonical states agree on the read of
every byte, their memory lists are equal; if they agree on the read of every register offset, their register lists are
equal. The canonical form is the model's. -/
def Obligations.EqualReadsAreEqualMemories : Prop :=
  ∀ s t : State, s.Canon → t.Canon →
    ((∀ a, SMap.get memDefault s.mem a = SMap.get memDefault t.mem a) → s.mem = t.mem) ∧
    ((∀ o, Machine.rd s o = Machine.rd t o) → s.regs = t.regs)

/-- O9 (00_scope.md R5 (byte order)). Byte i of the n bytes of v is v divided by 256^i, modulo 256; the number of those bytes
is v modulo 256^n; and in every canonical state a number of n bytes stored at a local offset reads back modulo 256^n. -/
def Obligations.LittleEndian : Prop :=
  (∀ n v i, i < n → (leBytes n v)[i]? = some (BitVec.ofNat 8 (v / 256 ^ i))) ∧
  (∀ n v, leNat (leBytes n v) = v % 256 ^ n) ∧
  ∀ (s : State) (o n v : Nat), s.Canon → readNat (writeNat s o n v) o n = v % 256 ^ n

/-- O10 (R22). For every tile t below 160, the slot's offsets 0x00_0000 to 0x6F_FFFF are Near Memory bytes of slot t at that
offset, and 0x70_0000 to 0x7F_FFFF are unmapped. -/
def Obligations.NearMemorySlots : Prop :=
  ∀ t i : Nat, t < 160 →
    (i ≤ 0x6FFFFF → placeOf (slotBase t + i) = .nm t i) ∧
    (0x700000 ≤ i → i ≤ 0x7FFFFF → placeOf (slotBase t + i) = .unmapped)

/-- O11 (R26). For die d, row r and column c in range, the tile number 80d + 8r + c is below 160 and its district is 10d + r. -/
def Obligations.DistrictNumbers : Prop :=
  ∀ d r c : Nat, d < 2 → r < 10 → c < 8 →
    80 * d + 8 * r + c < 160 ∧ districtOfPhys (80 * d + 8 * r + c) = 10 * d + r

/-- O12 (R107). With exactly one NaN, MAX and MIN return the other operand; with two, a NaN whose code is the canonical NaN of
each format; of zeros of both signs MAX is +0 and MIN is −0; otherwise the larger and the smaller, and where the operands
compare equal one of them. A reduction folds pairwise and is NaN only when every value is, and the row maximum is that
fold. -/
def Obligations.MaxAndMin : Prop :=
  (∀ a b : NumVal,
    (a.isNan = true → b.isNan = true → a.maxn b = .qnan ∧ a.minn b = .qnan) ∧
    (a.isNan = true → b.isNan = false → a.maxn b = b ∧ b.maxn a = b ∧ a.minn b = b ∧ b.minn a = b) ∧
    (a.lt b = true → a.maxn b = b ∧ b.maxn a = b ∧ a.minn b = a ∧ b.minn a = a) ∧
    (a.eqv b = true → (a.maxn b = a ∨ a.maxn b = b) ∧ (a.minn b = a ∨ a.minn b = b))) ∧
  (∀ e e' : Int,
    NumVal.maxn (.fin false 0 e) (.fin true 0 e') = .fin false 0 e ∧ NumVal.maxn (.fin true 0 e') (.fin false 0 e) = .fin false 0 e ∧
    NumVal.minn (.fin false 0 e) (.fin true 0 e') = .fin true 0 e' ∧ NumVal.minn (.fin true 0 e') (.fin false 0 e) = .fin true 0 e') ∧
  (fp32.nanCode 0x400000 = 0x7FC00000 ∧ bf16.nanCode 0x400000 = 0x7FC0 ∧ fp16.nanCode 0x400000 = 0x7E00 ∧
    e4m3.nanCode 0x400000 = 0x7F ∧ e5m2.nanCode 0x400000 = 0x7E) ∧
  ∀ (x : NumVal) (xs : List NumVal),
    ((xs.foldl NumVal.maxn x).isNan = true ↔ ∀ y ∈ x :: xs, y.isNan = true) ∧
    ((xs.foldl NumVal.minn x).isNan = true ↔ ∀ y ∈ x :: xs, y.isNan = true) ∧
    rowMax (x :: xs) = xs.foldl NumVal.maxn x

/-- O13 (02_address_space_and_register_pages.md R28, R33; 00_scope.md R7). For every block, offset, width and value that the
requester may write (privilege, width 4 or 8, alignment, device serving), REGISTER_WRITE answers the block's own write of
the value, and status OK. -/
def Obligations.RegisterWriteActs : Prop :=
  ∀ (s : State) (p : Nat) (b : Blk) (o size : Nat) (val : Word64), Admits s p b o size true →
    exec (.registerWrite p (b.base + o) size val) s = .next (answered (writeAt s p b o size val.toNat) stOk [])

/-- O14 (02_address_space_and_register_pages.md R21, R28, R29; 02_address_space_and_register_pages.md Table 2.11; log entry
14). While the device serves accesses: a write to an unmapped page answers UNMAPPED and records code 0x0002 in SEC; one
without privilege answers ACCESS_DENIED and records code 0x0001 in SEC; one with privilege whose width is not 4 or 8 bytes
or whose offset is not aligned answers MISALIGNED and records code 3 in its block. Nothing else changes. The order of the
two checks is log entry 14. -/
def Obligations.RefusedRegisterWrites : Prop :=
  ∀ (s : State) (p off size : Nat) (val : Word64), serving s = true →
    (blkAt off = none →
      exec (.registerWrite p off size val) s = .next (answered (secError s 2 p (regBase + off)) stUnmapped [])) ∧
    ∀ (b : Blk) (pg : Nat), blkAt off = some (b, pg) →
      (granted s (b.privNow s pg) (b.owner s) p true = false →
        exec (.registerWrite p off size val) s = .next (answered (secError s 1 p (regBase + off)) stAccessDenied [])) ∧
      (granted s (b.privNow s pg) (b.owner s) p true = true → (size ≠ 4 ∧ size ≠ 8) ∨ off % size ≠ 0 →
        exec (.registerWrite p off size val) s =
          .next (answered (b.raise s 3 p ((regBase + off) % 2 ^ 32)) stMisaligned []))

/-- O15 (00_scope.md R7; 02_address_space_and_register_pages.md R33; 04_bit_serial_matrix_array.md Table 4.14;
03_step_tables_tokens_and_loading.md Table 3.10; 14_islands_energy_and_live_calibration.md Table 14.5). In the blocks CAL,
LOG, SEQ, MXA, DQU, PTW and LAY, above the header: an admitted 4-byte REGISTER_WRITE to an RW register leaves it at the
value masked to the register's bits; every other register, memory, every sequencer and the queue are as before. -/
def Obligations.HeldRegisterTakesMaskedValue : Prop :=
  ∀ (s : State) (p : Nat) (b : Blk) (o : Nat) (r : RegDesc) (i : Nat) (val : Word32),
    s.Canon → b.onlyHolds = true → RegAt b o r i → r.acc = .rw → r.size = 4 → Admits s p b o 4 true →
    ∃ t, exec (.registerWrite p (b.base + o) 4 (val.setWidth 64)) s = .next t ∧
      b.rd t o = val.toNat &&& r.mask ∧
      (∀ k, k ≠ b.base + o → Machine.rd t k = Machine.rd s k) ∧ t.mem = s.mem ∧ t.seqs = s.seqs ∧ t.pending = s.pending

/-- O16 (02_address_space_and_register_pages.md Table 2.7; 02_address_space_and_register_pages.md R34;
03_step_tables_tokens_and_loading.md R387; log entry 16). For every block and page, an admitted SOFT_RESET, ENABLE, DRAIN
or LOCK performs the block's BLK_CTRL write of the value, with SOFT_RESET set or clear, ENABLE set, or LOCK set as the row
says (log entry 16), and answers OK. -/
def Obligations.BlockControlWrites : Prop :=
  ∀ (s : State) (p : Nat) (b : Blk) (pg : Nat) (val : Word32), Admits s p b (0x1000 * pg + 0x10) 4 true →
    exec (.softReset p (b.base + (0x1000 * pg + 0x10)) val) s =
      .next (answered (ctrlWrite s b p (putBits val.toNat 1 1 1)) stOk []) ∧
    exec (.enable p (b.base + (0x1000 * pg + 0x10)) val) s =
      .next (answered (ctrlWrite s b p (putBits (putBits val.toNat 1 1 0) 0 1 1)) stOk []) ∧
    exec (.drain p (b.base + (0x1000 * pg + 0x10)) val) s =
      .next (answered (ctrlWrite s b p (putBits val.toNat 1 1 0)) stOk []) ∧
    exec (.lock p (b.base + (0x1000 * pg + 0x10)) val) s =
      .next (answered (ctrlWrite s b p (putBits (putBits val.toNat 1 1 0) 31 1 1)) stOk [])

/-- O17 (02_address_space_and_register_pages.md R34; 02_address_space_and_register_pages.md Table 2.7; log entry 257). From
every canonical state, an admitted SOFT_RESET of any block that does not read FAULTED, through any of its pages, answers a
state in which the block's ENABLE and DRAIN are 0. A block whose unit failed and reads FAULTED stays as it is (log entry
257). -/
def Obligations.SoftResetLeavesDisabled : Prop :=
  ∀ (s : State) (p : Nat) (b : Blk) (pg : Nat) (val : Word32), s.Canon → Admits s p b (0x1000 * pg + 0x10) 4 true →
    (b.faulted s = false → ∃ t, exec (.softReset p (b.base + (0x1000 * pg + 0x10)) val) s = .next t ∧
      b.enabled t = false ∧ b.draining t = false) ∧
    (b.faulted s = true →
      exec (.softReset p (b.base + (0x1000 * pg + 0x10)) val) s = .next (answered s stOk []))

/-- O18 (02_address_space_and_register_pages.md R23, R24; log entry 174). SEG_DATA without AUTOINC on a segment outside the
reserved slices, TILE_OWNER of a logical tile and ENG_OWNER of any engine set the owner to bits [11:0], except when the
old or the new owner is a valid partition: then the SVC block records ALLOT_BUSY, code 0x0103, and the owner stays. That
BLK_ERR_INFO1 holds the segment, tile or engine index is the model's choice (log entry 174). -/
def Obligations.AllotmentWrites : Prop :=
  ∀ (s : State) (p : Nat) (val : Word32),
    (Admits s p .svc 0x3A04 4 true →
      ∀ n, n = bits (Blk.svc.rd s 0x3A00) 0 11 → bit (Blk.svc.rd s 0x3A00) 16 = false → reservedSeg n = false →
        exec (.segData p val) s = .next (answered (
          if allotBusy s (segOwner s n) (val.toNat % 4096) then Blk.svc.raise s 0x0103 p n
          else { s with segOwner := SMap.set d0 s.segOwner n (val.toNat % 4096) }) stOk [])) ∧
    (∀ t : Fin 160, Admits s p .svc (0x3A40 + 4 * t.val) 4 true → t.val < logicalTiles s →
      exec (.tileOwner p t val) s = .next (answered (
        if allotBusy s (tileOwner s t.val) (val.toNat % 4096) then Blk.svc.raise s 0x0103 p t.val
        else Blk.svc.wr s (0x3A40 + 4 * t.val) (val.toNat % 4096)) stOk [])) ∧
    (∀ i : Fin 44, Admits s p .svc (0x3D00 + 4 * i.val) 4 true →
      exec (.engOwner p i val) s = .next (answered (
        if allotBusy s (engOwner s i.val) (val.toNat % 4096) then Blk.svc.raise s 0x0103 p i.val
        else Blk.svc.wr s (0x3D00 + 4 * i.val) (val.toNat % 4096)) stOk []))

/-- O19 (06_near_memory_tamper_and_pointwise.md R138, R139, R141, R142; 06_near_memory_tamper_and_pointwise.md Table 6.7; log
entry 116). A read of ALLOC or ALLOC_SZ with a free buffer and no waiter answers the handle of the lowest free buffer of
its pool, which is taken. A write of FREE frees, a write of POOL_BASE configures. A request at the allocation port answers
its requester at once or joins the queue. A waiter served takes the lowest free buffer and leaves the queue. That an
answer stands in poolAns until its requester takes it is the model's choice (log entry 116). -/
def Obligations.BufferPoolRequests : Prop :=
  ∀ (s : State) (d : Fin 2),
    (∀ (p : Nat) (k : Fin 4) (i : Nat), Admits s p (bpm d) (0x100 + 4 * k.val) 4 false → waitsOf s d k.val = [] →
      lowestFree s d k.val = some i →
      exec (.bpmAllocRead p d k) s =
        .next (answered (takeBuffer s d k.val i).2 stOk (leBytes 4 (handleOf d.val k.val i)))) ∧
    (∀ (p : Nat) (k : Fin 65) (q i : Nat), Admits s p (bpm d) (0x200 + 4 * k.val) 4 false → poolFor (4096 * k.val) = some q →
      k.val ≠ 0 → waitsOf s d q = [] → lowestFree s d q = some i →
      exec (.allocSz p d k) s =
        .next (answered (takeBuffer s d q i).2 stOk (leBytes 4 (handleOf d.val q i)))) ∧
    (∀ (p : Nat) (val : Word32), Admits s p (bpm d) 0xA0 4 true →
      exec (.bpmFreeWrite p d val) s = .next (answered (freeHandle s d val.toNat) stOk [])) ∧
    (∀ (p : Nat) (k : Fin 4) (val : Word64), Admits s p (bpm d) (0x40 + 8 * k.val) 8 true →
      exec (.poolConfigWrite p d (0x40 + 8 * k.val) 8 val) s =
        .next (answered (poolConfig s d (0x40 + 8 * k.val) (val.toNat &&& 0x1FFFFFFFFFF)) stOk [])) ∧
    (∀ (src : SeqId) (word : Word64) (t : State),
      (∀ h, portRequest s d (putBits (word.toNat % 2 ^ 49) 32 16 src.inst) 0 = (some h, t) →
        exec (.bpmPortRequest d src word) s = .next { t with poolAns := t.poolAns ++ [⟨src.inst, 0, h⟩] }) ∧
      (portRequest s d (putBits (word.toNat % 2 ^ 49) 32 16 src.inst) 0 = (none, t) →
        exec (.bpmPortRequest d src word) s = .next t)) ∧
    (∀ (k : Fin 4) (w : PoolWait) (rest : List PoolWait) (i : Nat),
      waitsOf s d k.val = w :: rest → lowestFree s d k.val = some i →
      exec (.bpmWaiterServed d k) s = .next (
        poolAnswer (setWaits (takeBuffer s d k.val i).2 d k.val rest) w.inst w.tag (handleOf d.val k.val i)))

/-- O20 (R140). In every canonical state: a free of EMPTY changes nothing; a free of an allocated buffer clears its bit and
raises POOL_FREE by one; a free of a free buffer changes no bit and no POOL_FREE, is counted in DFREE_COUNT, raises
DOUBLE_FREE and is captured in LAST_BAD; a free of a handle whose form, die, pool or index does not exist changes no bit
and no POOL_FREE, raises BAD_HANDLE and is captured in LAST_BAD. -/
def Obligations.FreesOfBuffers : Prop :=
  ∀ (s : State) (d : Fin 2) (p i h : Nat), s.Canon →
    freeHandle s d hEmpty = s ∧
    (p < 4 → i < poolCount s d p → i < 2 ^ 16 → h = handleOf d.val p i →
      (bufferUsed s d.val p i = true →
        bufferUsed (freeHandle s d h) d.val p i = false ∧
        (freeHandle s d h).regs = (setFree s d p ((bpm d).rd s (0x70 + 4 * p) + 1)).regs) ∧
      (bufferUsed s d.val p i = false →
        (freeHandle s d h).poolUsed = s.poolUsed ∧ (bpm d).rd (freeHandle s d h) 0xAC = h % 2 ^ 32 ∧
        (bpm d).rd (freeHandle s d h) 0xA4 = min ((bpm d).rd s 0xA4 + 1) 0xFFFFFFFF ∧
        bit ((bpm d).rd (freeHandle s d h) 0x18) 16 = true ∧
        (bpm d).rd (freeHandle s d h) (0x70 + 4 * p) = (bpm d).rd s (0x70 + 4 * p))) ∧
    (h ≠ 0 → h < 2 ^ 32 → bits h 21 11 ≠ 0x400 ∨ bits h 20 1 ≠ d.val ∨ 4 ≤ bits h 16 4 ∨ poolCount s d (bits h 16 4) ≤ bits h 0 16 →
      (freeHandle s d h).poolUsed = s.poolUsed ∧ (bpm d).rd (freeHandle s d h) 0xAC = h ∧
      bit ((bpm d).rd (freeHandle s d h) 0x18) 17 = true ∧
      (∀ k : Fin 4, (bpm d).rd (freeHandle s d h) (0x70 + 4 * k.val) = (bpm d).rd s (0x70 + 4 * k.val)))

/-- O21 (09_remote_memory_operations.md R208, R214, R218, R220; 09_remote_memory_operations.md Tables 9.13, 9.14;
10_links_router_and_host_bridge.md R234, R243; 15_reset_boot_and_trust.md R327; log entry 16; log entry 238). PART entries
take VALID set or clear (that the row forces the bit is log entry 16); MIG_CMD DRAIN moves an OWNED entry to DRAINING,
HANDOVER a DRAINING one to COPYING with the arrivals counted since, FREE any to FREE, and no other entry's move is touched
(that BUSY stands from HANDOVER on, and which entry MIG_STATUS shows, is log entry 238); REPLAY_WINDOW in 10 to 10,000 is
set, a lowered one kept back for the old window; RT_DATA, PSET_DATA and WEIGHTS set their entries, a weight of 0 taken as
1; SELF_ID at boot step 9 joins the fabric. Each under admitted access, answered OK. -/
def Obligations.FabricRegisterWrites : Prop :=
  ∀ (s : State) (p : Nat),
    (∀ (k : Fin 16) (val : Word64), Admits s p .fab (0x8100 + 16 * k.val) 8 true →
      exec (.partEntryValidSet p k val) s = .next (answered (partWrite s k.val (putBits val.toNat 12 1 1)) stOk []) ∧
      exec (.partitionTeardown p k val) s = .next (answered (partWrite s k.val (putBits val.toNat 12 1 0)) stOk [])) ∧
    (∀ (val : Word32) (i : Nat), i = bits val.toNat 0 12 → i ≠ 0 → placeBase s ≠ 0 → Admits s p .fab 0x8098 4 true →
      (entryState s i = plOwned → exec (.migDrain p val) s = .next (answered
        (showMig { setEntryState s i plDraining with migs := migsBut s i ++ [{ entry := i }] } i plDraining false 0) stOk [])) ∧
      (entryState s i = plDraining → exec (.migHandover p val) s = .next (answered
        (showMig { setEntryState s i plCopying with
            migs := migsBut s i ++ [{ entry := i, arrivals := arrivalsOf s i, handover := true }] }
          i plCopying true (arrivalsOf s i)) stOk [])) ∧
      exec (.migFree p val) s = .next (answered
        (showMig { setEntryState s i plFree with migs := migsBut s i } i plFree false (arrivalsOf s i)) stOk [])) ∧
    (∀ val : Word32, Admits s p .fab 0x8040 4 true → 10 ≤ val.toNat % 2 ^ 14 → val.toNat % 2 ^ 14 ≤ 10000 →
      exec (.replayWindowWrite p val) s = .next (answered (Blk.fab.wr
        { s with winHeld := if replayW s ≤ val.toNat % 2 ^ 14 then none else some (replayW s, s.now + replayW s) }
        0x8040 (val.toNat % 2 ^ 14)) stOk [])) ∧
    (∀ val : Word32, Admits s p .fab 0x1044 4 true → bit (Blk.fab.rd s 0x1040) 31 = false →
      exec (.rtDataWrite p val) s = .next (answered
        { s with routes := SMap.set d0 s.routes (bits (Blk.fab.rd s 0x1040) 0 17) (val.toNat % 2 ^ 23) } stOk [])) ∧
    (∀ val : Word64, Admits s p .fab 0x1050 8 true → bits (Blk.fab.rd s 0x1048) 0 10 ≠ 0 →
      exec (.psetDataWrite p val) s = .next (answered
        { s with psets := SMap.set d0 s.psets (bits (Blk.fab.rd s 0x1048) 0 10) (val.toNat % 2 ^ 33) } stOk [])) ∧
    (∀ (port : Fin 34) (val : Word64), Admits s p .fab (0x100 + 8 * port.val) 8 true →
      exec (.weightsWrite p port val) s = .next (answered (Blk.fab.wr s (0x100 + 8 * port.val)
        ((List.range 8).foldl (fun acc i => acc + max 1 (bits val.toNat (8 * i) 8) * 2 ^ (8 * i)) 0)) stOk [])) ∧
    (∀ val : Word32, s.Canon → Admits s p .fab 0x40 4 true → Blk.fab.locked s = false → bits (Blk.svc.rd s 0x40) 0 4 = 9 →
      exec (.bootFabricJoin p val) s = .next (answered (bootJoin (Blk.fab.wr s 0x40 (val.toNat % 2 ^ 17 + 2 ^ 31))) stOk []))

/-- O22 (10_links_router_and_host_bridge.md R228, R229, R231; 10_links_router_and_host_bridge.md Table 10.11; log entry 199).
Admitted writes: RETRAIN of an UP port starts a retrain; SPARE of a full port with a lane below 8 drops that lane; RETRY
of a port that lost lanes offers every lane again (log entry 199) and trains; LNK_CFG holds its low four bits; CREDIT with
a total of at most 64 units of 8 flits is held. -/
def Obligations.LinkRegisterWrites : Prop :=
  ∀ (s : State) (q : Nat) (n : Fin 32) (val : Word32),
    (Admits s q (.lnk n) 0x50 4 true →
      (linkState s n = 6 → exec (.lnkRetrain q n val) s = .next (answered (startRetrain s n) stOk [])) ∧
      ((getPort s n.val).badLanes = [] → bits val.toNat 4 4 < 8 →
        exec (.lnkSpare q n val) s =
          .next (answered (dropLane s n (bits val.toNat 4 4) 0) stOk [])) ∧
      ((getPort s n.val).laneLost = true → exec (.lnkRetry q n val) s =
        .next (answered (startTraining (modPort s n.val (fun x => { x with laneLost := false, badLanes := [] })) n) stOk []))) ∧
    (Admits s q (.lnk n) 0x40 4 true →
      exec (.lnkCfgWrite q n val) s = .next (answered ((Blk.lnk n).wr s 0x40 (val.toNat &&& 0xF)) stOk [])) ∧
    (Admits s q (.lnk n) 0x64 4 true → ((List.range 8).map (fun i => bits val.toNat (4 * i) 4)).sum ≤ 64 →
      exec (.creditWrite q n val) s = .next (answered ((Blk.lnk n).wr s 0x64 val.toNat) stOk []))

/-- O23 (13_hbm4_memory_system.md R297, R298, R300, R301; 13_hbm4_memory_system.md Tables 13.2, 13.3; log entry 193; log entry
237). Admitted writes of TGC.MODE enter OFF, BRINGUP (refused with an event when the stack is allotted), IDLE_FILL and
PATROL at their start positions, with the PRBS31 register at SEED (log entry 193); HBM commands LANE_REPAIR, REMAP_ROW,
MARK_ERASURE and RETRAIN act on the pseudo-channel and pin named, in a stack that is not LOST, while the repair they use
is available. That RETRAIN holds for the whole 2 µs is the model's choice (log entry 237). -/
def Obligations.MemoryControllerWrites : Prop :=
  ∀ (s : State) (p : Nat) (val : Word32),
    (∀ c : Fin 256, Admits s p (.tgc c) 0x40 4 true →
      exec (.tgcModeOff p c val) s = .next (answered ((Blk.tgc c).wr s 0x40 (4 * bits val.toNat 2 2)) stOk []) ∧
      (stackAllotted s (c.val / 32) = false → exec (.tgcModeBringup p c val) s = .next (answered
        { (Blk.tgc c).wr s 0x40 (1 + 4 * bits val.toNat 2 2) with
          tgcPos := SMap.set d0 s.tgcPos c.val (tgcStart ((Blk.tgc c).wr s 0x40 (1 + 4 * bits val.toNat 2 2)) c.val (putBits val.toNat 0 2 1)),
          tgcPrbs := SMap.set d0 s.tgcPrbs c.val ((Blk.tgc c).rd ((Blk.tgc c).wr s 0x40 (1 + 4 * bits val.toNat 2 2)) 0x48 % 2 ^ 31) } stOk [])) ∧
      (stackAllotted s (c.val / 32) = true → exec (.tgcModeBringup p c val) s = .next (answered
        ((Blk.tgc c).countErr ((Blk.tgc c).event s 18)) stOk [])) ∧
      exec (.tgcModeIdleFill p c val) s = .next (answered
        { (Blk.tgc c).wr s 0x40 (2 + 4 * bits val.toNat 2 2) with
          tgcPos := SMap.set d0 s.tgcPos c.val (tgcStart ((Blk.tgc c).wr s 0x40 (2 + 4 * bits val.toNat 2 2)) c.val (putBits val.toNat 0 2 2)),
          tgcPrbs := SMap.set d0 s.tgcPrbs c.val ((Blk.tgc c).rd ((Blk.tgc c).wr s 0x40 (2 + 4 * bits val.toNat 2 2)) 0x48 % 2 ^ 31) } stOk []) ∧
      exec (.tgcModePatrol p c val) s = .next (answered
        { (Blk.tgc c).wr s 0x40 (3 + 4 * bits val.toNat 2 2) with
          tgcPos := SMap.set d0 s.tgcPos c.val (tgcStart ((Blk.tgc c).wr s 0x40 (3 + 4 * bits val.toNat 2 2)) c.val (putBits val.toNat 0 2 3)),
          tgcPrbs := SMap.set d0 s.tgcPrbs c.val ((Blk.tgc c).rd ((Blk.tgc c).wr s 0x40 (3 + 4 * bits val.toNat 2 2)) 0x48 % 2 ^ 31) } stOk [])) ∧
    (∀ (i : Fin 32) (pc pin : Nat), pc = 16 * i.val + bits val.toNat 0 4 → pin = bits val.toNat 8 6 →
      Admits s p (.hbm i) 0x58 4 true → bits ((Blk.hbm i).rd s 0x50) 0 2 ≠ 2 →
      (pin < 36 → bits (pcRepair s pc) 16 2 < 2 →
        exec (.hbmCmdLaneRepair p i val) s = .next (answered (laneRepair s pc pin) stOk [])) ∧
      (∀ n, freeSpare s pc (rowBank ((Blk.hbm i).rd s 0x60)) = some n →
        exec (.hbmCmdRemapRow p i val) s =
          .next (answered (remapRow s pc (rowBank ((Blk.hbm i).rd s 0x60)) n) stOk [])) ∧
      (pin < 36 → (markedPins s pc).contains pin = false → (markedPins s pc).length < 2 →
        exec (.hbmCmdMarkErasure p i val) s = .next (answered (markErasure s pc pin) stOk [])) ∧
      exec (.hbmCmdRetrain p i val) s = .next (answered (retrain s pc (100 * s.now) 200) stOk []))

/-- O24 (14_islands_energy_and_live_calibration.md R315, R321; 14_islands_energy_and_live_calibration.md Table 14.4;
16_spares_wear_and_service_life.md R347, R350, R356; 17_counters_debug_and_observation.md R359; log entry 195). Admitted
writes: DTARGET of 800 to 1,600 MHz in steps of 25, not below the district's clock, is held; MARK closes its slot's step;
REPLACE condemns an ACTIVE unit that exists, with the parts of an HBM_ROW that are to be replaced (log entry 195);
LANE_CLEAR and REGRADE run in an owner session, REGRADE with no valid partition; SNAP copies the tile's counters to their
shadows. -/
def Obligations.PowerAndSpareWrites : Prop :=
  ∀ (s : State) (p : Nat) (val : Word32),
    (∀ n : Fin 20, s.Canon → Admits s p .ktl (0x180 + 4 * n.val) 4 true → 800 ≤ val.toNat % 4096 → val.toNat % 4096 ≤ 1600 →
      val.toNat % 4096 % 25 = 0 → districtMhz s n.val ≤ val.toNat % 4096 →
      exec (.dtargetWrite p n val) s =
        .next (answered (Blk.ktl.wr s (0x180 + 4 * n.val) (val.toNat % 4096)) stOk [])) ∧
    (∀ k : Fin 16, Admits s p .ktl (0x2180 + 4 * k.val) 4 true →
      exec (.mark p k val) s = .next (answered (markWrite s k.val) stOk [])) ∧
    (Admits s p .spr 0x78 4 true →
      (unitExists (bits (Blk.spr.rd s 0x68) 0 3) (bits (Blk.spr.rd s 0x68) 8 24) = true →
        unitState s (bits (Blk.spr.rd s 0x68) 0 3) (bits (Blk.spr.rd s 0x68) 8 24) = 0 →
        ∀ parts t, replaceParts s (bits (Blk.spr.rd s 0x68) 0 3) (bits (Blk.spr.rd s 0x68) 8 24) = (parts, t) →
          exec (.sprReplace p val) s = .next (answered (sprStatus
            (condemn t (bits (Blk.spr.rd s 0x68) 0 3) (bits (Blk.spr.rd s 0x68) 8 24) 3 parts) 2 0) stOk [])) ∧
      (session s = 2 → exec (.laneClear p val) s =
        .next (answered (sprLaneClear s (putBits val.toNat 0 4 2)) stOk [])) ∧
      (∀ (tests : Nat) (failed : List (Nat × FailedUnit)), session s = 2 → validParts s = [] →
        exec (.regrade p val tests failed) s = .next (answered (sprRegrade s tests failed) stOk []))) ∧
    (∀ (t : Fin 160) (o : Nat), o < 0x1000 → Admits s p (.cntT t) 0x7FC 4 true →
      exec (.snap p ((Blk.cntT t).base + o) val) s = .next (answered (snapTile s t) stOk []))

/-- O25 (17_counters_debug_and_observation.md R362, R363, R364; 17_counters_debug_and_observation.md Table 17.3;
03_step_tables_tokens_and_loading.md Table 3.9; 07_expert_routing_and_token_exchange.md Table 7.12; log entry 175).
Admitted writes: DBG_CTRL with HALT_REQ, RESUME or STEP acts on the tile (that the three bits then read 0 is log entry
175); PART_HALT halts or resumes every logical tile of the partition; REG_DATA reads and writes the selected register of a
stopped thread; TAG_DATA sets the selected granule's tag of a halted tile; SEQ_GO and THR_START act; XSEQ of an engine
that is not busy is set. -/
def Obligations.DebugAndThreadWrites : Prop :=
  ∀ (s : State) (p : Nat) (t : Fin 160) (val : Word32),
    (Admits s p (.dbgT t) 0x70 4 true →
      exec (.haltReq p t val) s = .next (answered (haltTile ((Blk.dbgT t).wr s 0x70 (val.toNat &&& 0x770)) t) stOk []) ∧
      exec (.resume p t val) s = .next (answered (resumeTile ((Blk.dbgT t).wr s 0x70 (val.toNat &&& 0x770)) t) stOk []) ∧
      exec (.dbgStep p t val) s = .next (answered (stepTile ((Blk.dbgT t).wr s 0x70 (val.toNat &&& 0x770)) t) stOk [])) ∧
    (Admits s p .dbgD 0x40 4 true →
      exec (.partHalt p val) s = .next (answered (forEach
        (allTiles.filter (fun t => t.val < logicalTiles s && tileOwner s t.val = bits val.toNat 0 12)) s haltTile) stOk []) ∧
      exec (.partResume p val) s = .next (answered (forEach
        (allTiles.filter (fun t => t.val < logicalTiles s && tileOwner s t.val = bits val.toNat 0 12)) s resumeTile) stOk [])) ∧
    (∀ (w : Word64) (n i : Nat), regSel s t = (n, i) → threadStopped s t n = true →
      (Admits s p (.dbgT t) 0x88 8 true → exec (.regDataAccess p t true w) s =
        .next (answered (modThread s t.val n (fun h => h.setReg i w.toNat)) stOk [])) ∧
      (Admits s p (.dbgT t) 0x88 8 false → exec (.regDataAccess p t false w) s =
        .next (answered s stOk (leBytes 8 (((getTcc s t.val).threads.getD n {}).reg i))))) ∧
    (Admits s p (.dbgT t) 0x94 4 true → dbgPhase s t = 2 → exec (.tagDataWrite p t val) s =
      .next (answered { s with tags := SMap.set d0 s.tags (tagKey s t) (val.toNat % 16) } stOk [])) ∧
    (Admits s p (.til t) 0x40 4 true → exec (.seqGo p t val) s = .next (answered (seqGoWrite s t val.toNat) stOk [])) ∧
    (Admits s p (.til t) 0x44 4 true → exec (.thrStart p t val) s = .next (answered (thrStartWrite s t val.toNat) stOk [])) ∧
    (∀ d j : Fin 2, Admits s p (engineBlk (xchQ d j)) 0x4C 4 true → (engineBlk (xchQ d j)).busy s = false →
      exec (.xseqWrite p d j val) s = .next (answered ((engineBlk (xchQ d j)).wr s 0x4C (val.toNat % 2 ^ 16)) stOk []))

/-- O26 (15_reset_boot_and_trust.md R326, R334, R336, R337, R339; 15_reset_boot_and_trust.md Tables 15.10, 15.11; log entry
88). Admitted writes: RESET_CMD with its key resets the device; STAGE_GO and QUOTE_GO begin when none is under way;
BOOT_SLOT is set in a session; SESSION_CLOSE closes one; a write of CMD_GO whose command block carries the row's OP runs
the signed command (the rows by OP: log entry 88). -/
def Obligations.ManagementWrites : Prop :=
  ∀ (s : State) (p : Nat) (val : Word32),
    (Admits s p .svc 0x48 4 true → val.toNat = 0xD1A50001 →
      exec (.resetCmd p val) s = .next (answered (deviceReset s 2) stOk [])) ∧
    (Admits s p .svc 0xA4 4 true → bits (Blk.svc.rd s 0xA8) 0 2 ≠ 1 →
      exec (.stageGo p val) s = .next (answered (Blk.svc.wr s 0xA8 1) stOk [])) ∧
    (Admits s p .svc 0x90 4 true → session s ≠ 0 →
      exec (.bootSlotWrite p val) s = .next (answered (Blk.svc.wr s 0x90 (val.toNat % 2)) stOk [])) ∧
    (Admits s p .sec 0x44 4 true → session s ≠ 0 →
      exec (.sessionClose p val) s = .next (answered (Blk.sec.event (Blk.sec.wr s 0x40 0) 19) stOk [])) ∧
    (Admits s p .sec 0x188 4 true → bits (Blk.sec.rd s 0x18C) 0 2 ≠ 1 →
      exec (.quoteGo p val) s = .next (answered { Blk.sec.wr s 0x18C 1 with quote := some (formQuote s) } stOk [])) ∧
    (Admits s p .sec 0x58 4 true →
      (cmdOpIs s 1 = true → exec (.openSession p val) s = .next (answered (cmdGo s) stOk [])) ∧
      (cmdOpIs s 3 = true → exec (.installOwner p val) s = .next (answered (cmdGo s) stOk [])) ∧
      (cmdOpIs s 4 = true → exec (.transferOwner p val) s = .next (answered (cmdGo s) stOk [])) ∧
      (cmdOpIs s 5 = true → exec (.installOperator p val) s = .next (answered (cmdGo s) stOk [])) ∧
      (cmdOpIs s 6 = true → exec (.endLease p val) s = .next (answered (cmdGo s) stOk [])) ∧
      (cmdOpIs s 7 = true → exec (.reclaim p val) s = .next (answered (cmdGo s) stOk [])))

/-- O27 (18_package_power_and_board.md R374; 17_counters_debug_and_observation.md R365; log entry 162; log entry 261). While
the device serves accesses, READ32 and WRITE32, in I3C mode or at the device's own static address, answer a local access
of 4 bytes with its status, and the bus is in the mode of that transfer (log entry 261); at another address they change
nothing. EXTEST with RESET_N low takes and drives the boundary, and acts as BYPASS with RESET_N high; SAMPLE/PRELOAD,
IDCODE (0x10D1_A8F3) and BYPASS for every unlisted code act on their registers; a DBGACC read or write in a session makes
its access, shifts out the register that the access before left, and leaves its own. What the pins show at EXTEST and
SAMPLE is a free value (log entry 162). -/
def Obligations.ManagementPorts : Prop :=
  ∀ s : State,
    (serving s = true → ∀ (r : I3cAccess) (val : Word32) (u : State), (∀ a, r.addr = some a → a = 0x50 + bits (Blk.svc.rd s 0xC4) 0 3) →
      u = { s with i2cMode := r.addr.isSome } →
      exec (.i3cRead32 r) s = .next (answered (localAccess u r.off 4 none).2.2 (localAccess u r.off 4 none).1 (localAccess u r.off 4 none).2.1) ∧
      exec (.i3cWrite32 r val) s =
        .next (answered (localAccess u r.off 4 (some val.toNat)).2.2 (localAccess u r.off 4 (some val.toNat)).1 [])) ∧
    (∀ (r : I3cAccess) (val : Word32) (a : Nat), r.addr = some a → a ≠ 0x50 + bits (Blk.svc.rd s 0xC4) 0 3 →
      exec (.i3cRead32 r) s = .next s ∧ exec (.i3cWrite32 r val) s = .next s) ∧
    (∀ bits : List Bool, s.resetLow = false → exec (.jtagExtest bits) s = .next (jtagShift s 0 bits)) ∧
    (∀ bits : List Bool, s.resetLow = true → exec (.jtagExtest bits) s = .next
      { s with freeCtr := s.freeCtr + 1,
               jtag := { s.jtag with ir := 0, scan := bits, driven := bits, out := Config.freeValue s.freeCtr % 2 ^ bits.length } }) ∧
    (∀ bits : List Bool, exec (.jtagSamplePreload bits) s = .next
      { s with freeCtr := s.freeCtr + 1,
               jtag := { s.jtag with ir := 1, scan := bits, out := Config.freeValue s.freeCtr % 2 ^ bits.length } }) ∧
    exec .jtagIdcode s = .next { s with jtag := { s.jtag with ir := 2, out := 0x10D1A8F3 } } ∧
    (∀ code bit, [0, 1, 2, 8].contains (code % 32) = false →
      exec (.jtagBypass code bit) s = .next (jtagShift s (code % 32) [bit])) ∧
    (∀ (off size : Nat) (val : Word64), serving s = true → session s ≠ 0 → size = 4 ∨ size = 8 →
      ∀ st bs t, localAccess s off size (some val.toNat) = (st, bs, t) →
        exec (.jtagDbgacc true off size val) s = .next
          { answered t st bs with jtag := { t.jtag with ir := 8, out := t.jtag.dr, dr := dbgaccReg true off size st val.toNat } }) ∧
    (∀ (off size : Nat) (val : Word64), serving s = true → session s ≠ 0 → size = 4 ∨ size = 8 →
      ∀ st bs t, localAccess s off size none = (st, bs, t) →
        exec (.jtagDbgacc false off size val) s = .next
          { answered t st bs with jtag := { t.jtag with ir := 8, out := t.jtag.dr, dr := dbgaccReg false off size st (leNat bs) } })

/-- O28 (03_step_tables_tokens_and_loading.md R41, R43, R44, R48; 03_step_tables_tokens_and_loading.md Table 3.1; log entry
28; log entry 176; log entry 180). When the next command of a sequencer's ring is NOP, nothing runs and its SCHED and
position agree, it completes with status OK and its own instance as origin (SCHED_STATE stays, log entry 176). When it is
RUN: a SCHED that may not be entered at the position held records code 0x0105 with BLK_ERR_INFO1 0 (log entry 180) and
event 20 and holds intake; otherwise the table at that position, or at the one that the table in force will leave (log
entry 28), is loaded at once, with the position one further, wrapping at the list's length, or, while another table is
taken, kept in the second slot. A table kept there starts once the one before has completed. -/
def Obligations.SequencerTakesCommands : Prop :=
  ∀ (s : State) (q : SeqId),
    (∀ (c : Cmd) (s1 : State), nextCmd s q = (some c, s1) →
      (c.cmd = 0 → takenCmds (getSeq s q) = 0 → schedWrong s1 q c = false →
        exec (.cmdNop q) s = .next (completeCmd s1 q c tkOk q.inst)) ∧
      (c.cmd = 1 → (getSeq s q).phase ≠ .idle ∨ (getSeq s q).loaded = [] →
        (schedWrong s1 q c = true →
          exec (.cmdRun q) s = .next (modSeq (seqRaise s1 q (some 20) 0x0105 0) q (fun x => { x with intake := .held }))) ∧
        (∀ (pos list len : Nat) (tb : Table) (s2 s3 : State), schedWrong s1 q c = false → pos = (schedAfter s1 q).2 →
          scheduleOf s1 q c.sched = (some (list, len), s2) → len ≠ 0 → tableAt s2 q list pos = (some tb, s3) →
          (takenCmds (getSeq s q) = 0 →
            exec (.cmdRun q) s = .next (loadTable ((Blk.seq q).wr s3 0x60 (c.sched + 4 * pos)) q c tb ((pos + 1) % len))) ∧
          (takenCmds (getSeq s q) ≠ 0 →
            exec (.cmdRun q) s = .next (modSeq s3 q (fun x => { x with loaded := x.loaded ++ [(c, tb, (pos + 1) % len)] })))))) ∧
    (∀ (c : Cmd) (tb : Table) (pos : Nat) (rest : List (Cmd × Table × Nat)), (getSeq s q).phase = .idle →
      (getSeq s q).loaded = (c, tb, pos) :: rest → serving s = true → (Blk.seq q).enabled s = true → (Blk.seq q).draining s = false →
      exec (.cmdRun q) s = .next (loadTable
        ((Blk.seq q).put (modSeq s q (fun x => { x with loaded := rest })) 0x60 0 2 c.sched) q c tb pos))

/-- O29 (03_step_tables_tokens_and_loading.md R48, R49, R50, R52; 14_islands_energy_and_live_calibration.md R310, R312; log
entry 29; log entry 180). A credit request that can be granted, judged with the present frequency and scale, is granted. A
step's wait that its tokens meet takes them and sets the bounds; a step with iterations then runs them, and where a count
was refused idles them away, unless each of its iterations takes tokens of its own. A wait longer than WAIT_TIMEOUT ×
1,024 cycles raises code 0x0104 and event 19, with the counter waited on in BLK_ERR_INFO1 (log entry 180), and the table
ends with TIMEOUT (that it ends is log entry 29). -/
def Obligations.SequencerStepBegins : Prop :=
  ∀ (s : State) (q : SeqId),
    (∀ c, s.creditQ.find? (fun c => c.inst = q.inst) = some c → (getSeq s q).phase = .credit → canGrant s (askNow s c) = true →
      exec (.creditGrant q) s = .next (grantCredit s q (askNow s c))) ∧
    ((getSeq s q).phase = .wait → (getSeq s q).emits = [] → tokensMet s q = true →
      ∀ t, t = setBounds (takeTokens (endWait s q) q) q →
        ((getSeq t q).refused = false ∨ waitsEach q (curStep (getSeq s q)).op = true → (curStep (getSeq s q)).op ≠ 0 →
          (getSeq t q).b0 * (getSeq t q).b1 * (getSeq t q).b2 ≠ 0 →
          exec (.stepWaitMet q) s = .next (modSeq t q (fun x =>
            { x with phase := .iter, waitFrom := t.now, outFrom := List.replicate 4 t.nextOut }))) ∧
        ((getSeq t q).refused = true → waitsEach q (curStep (getSeq s q)).op = false →
          (getSeq t q).b0 * (getSeq t q).b1 * (getSeq t q).b2 ≠ 0 →
          exec (.stepWaitMet q) s = .next (idleStep t q))) ∧
    ((getSeq s q).phase = .wait → (curStep (getSeq s q)).waitEn = true →
      (Blk.seq q).rd s (tokenReg (curStep (getSeq s q)).waitCtr) < (curStep (getSeq s q)).waitCount →
      (Blk.seq q).rd s 0x64 ≠ 0 → 1024 * (Blk.seq q).rd s 0x64 < waited s q →
      exec (.seqWaitTimeout q) s = .next (modSeq
        (seqRaise (noteStatus (endWait s q) q tkTimeout) q (some 19) 0x0104 (curStep (getSeq s q)).waitCtr) q
        (fun x => { x with phase := .ended })))

/-- O30 (03_step_tables_tokens_and_loading.md R51, R52, R53, R388; log entry 25; log entry 180). A token waiting for space
leaves once its destination's queue has room; an arriving token joins the queue and adds 1 to its counter, or at 0xFFFF
raises event 23, with BLK_ERR_INFO1 0 (log entry 180), and is dropped; a late token leaves when no store of its own
iteration or step is outstanding (log entry 25); a table that has ended, with nothing waiting to leave, completes. -/
def Obligations.TokensMove : Prop :=
  ∀ (s : State) (q : SeqId),
    (∀ (d : SeqId) (e : QEntry), (getSeq s q).emits = [(d.inst, e)] → queueFull s d = false →
      exec (.emitAfterQueueSpace q) s = .next
        (modSeq (modSeq s q (fun x => { x with emits := [] })) d (fun x => { x with inFlight := x.inFlight ++ [e] }))) ∧
    (∀ (e : QEntry) (rest : List QEntry) (s1 : State), (getSeq s q).inFlight = e :: rest →
      s1 = modSeq s q (fun x => { x with inFlight := rest }) →
      ((Blk.seq q).rd s (tokenReg e.counter) ≠ 0xFFFF →
        exec (.tokenArrive q) s = .next (showOcc (modSeq
          ((Blk.seq q).wr s1 (tokenReg e.counter) ((Blk.seq q).rd s (tokenReg e.counter) + 1)) q
          (fun x => { x with queue := x.queue ++ [e] })) q)) ∧
      ((Blk.seq q).rd s (tokenReg e.counter) = 0xFFFF →
        exec (.tokenArrive q) s = .next (seqRaise s1 q (some 23) 0x0108 0))) ∧
    (∀ (l : LateTok) (rest : List LateTok), (getSeq s q).late = l :: rest →
      (∀ o ∈ s.outs, o.waiter = .store q.inst → l.first ≤ o.id → l.bound ≤ o.id) →
      exec (.lateTokenLeave q) s = .next (emitToken (modSeq s q (fun x => { x with late := rest })) q l.link l.entry)) ∧
    ((getSeq s q).phase = .ended → (getSeq s q).emits = [] → (getSeq s q).late = [] →
      (getSeq (completionTokens s q) q).emits = [] →
      exec (.tableComplete q) s = .next (finishTable (completionTokens s q) q))

/-- O31 (03_step_tables_tokens_and_loading.md R56, R57; 09_remote_memory_operations.md R194; 13_hbm4_memory_system.md R292;
17_counters_debug_and_observation.md R362, R363; log entry 36; log entry 37; log entry 263). For the thread that issues
next and the instruction at its pc: the fetch counts what it corrects (R292; log entry 263); register results are written;
loads, stores, LR, SC, AMO, RAMO and FSTORE make their access, an FSTORE that meets a WATCH as one; jumps set the pc and
link; WAITA parks or faults with cause 5; ECALL, EBREAK and illegal instructions fault with their causes, or hit the
debugger; a fetch outside code or beyond correction faults with its cause; RFENCE waits for the thread's requests. Wakes
and timeouts of WAITA and RFENCE release the thread. The encodings are RV64IMAC's (log entries 36 and 37). -/
def Obligations.ThreadInstructions : Prop :=
  ∀ (s : State) (t : Fin 160),
    (∀ (n len : Nat) (op : RvOp), Issues s t n op len →
    (∀ rd v, op = .wr rd v → exec (.tccInstruction t) s = .next (complete (issued s t n) t n rd v len)) ∧
    (∀ rd a w sg, op = .load rd a w sg →
      exec (.tccInstruction t) s = .next (memAccess (issued s t n) t n rd a w sg len none)) ∧
    (∀ a w v, op = .store a w v →
      exec (.tccInstruction t) s = .next (memAccess (issued s t n) t n 0 a w false len (some (leBytes w v)))) ∧
    (∀ rd target, op = .jump rd target → exec (.tccInstruction t) s = .next (modThread (issued s t n) t.val n
      (fun h => { h.setReg rd (((getThread s t n).pc + len) % 2 ^ 64) with pc := target }))) ∧
    (∀ rd a w, op = .lr rd a w → exec (.tccInstruction t) s = .next (lrSc (issued s t n) t n rd a w len none)) ∧
    (∀ rd a w v, op = .sc rd a w v → exec (.tccInstruction t) s = .next (lrSc (issued s t n) t n rd a w len (some v))) ∧
    (op = .illegal → exec (.tccInstruction t) s = .next (threadFault (issued s t n) t n causeIllegal)) ∧
    (∀ rd a ref cond wide, op = .waita rd a ref cond wide → addrOk a = false ∨ a % waitaBytes wide ≠ 0 →
      exec (.waita t) s = .next (threadFault (issued s t n) t n causeWaita)) ∧
    (∀ rd a ref cond wide, op = .waita rd a ref cond wide → addrOk a = true → devOf a = selfId (issued s t n) →
      (∃ u i, placeOf (offOf a) = .nm u i) → a % waitaBytes wide = 0 →
      spanStatus (issued s t n) (offOf a) (waitaBytes wide) (tileOwner (issued s t n) t.val) false = stOk →
      exec (.waita t) s = .next (modThread (issued s t n) t.val n
        (fun h => { h with phase := .waita (offOf a) cond rd wide ref (tileCycles (issued s t n) t) }))) ∧
    (op = .ecall → exec (.ecall t) s = .next (threadFault (issued s t n) t n causeEcall)) ∧
    (op = .ebreak → bit ((Blk.dbgT t).rd (issued s t n) 0x70) 10 = false →
      exec (.ebreak t) s = .next (threadFault (issued s t n) t n causeEbreak)) ∧
    (op = .ebreak → bit ((Blk.dbgT t).rd (issued s t n) 0x70) 10 = true →
      exec (.ebreak t) s = .next (debugHit (issued s t n) t n 3 (getThread s t n).pc)) ∧
    (∀ rd a w aop v, op = .amo rd a w aop v →
      exec (.amo t) s = .next (amoAccess (issued s t n) t n rd a aop v len)) ∧
    (∀ rd a rop v cmp, op = .ramo rd a rop v cmp →
      exec (.ramo t) s = .next (atomicAccess (issued s t n) t n rd a rop v cmp len)) ∧
    (∀ a w v all, op = .fstore a w v all → addrOk a = true →
      exec (.fstore t) s = .next (parkOn
        (farCount (watchHit (issued s t n) t n a w (getThread s t n).pc true) t a w false) t n 0 w false len
        { op := 0x20, addr := a, size := w, data := leBytes w v, flagAll := all })) ∧
    (op = .rfence → exec (.rfence t) s = .next
      (modThread (issued s t n) t.val n (fun h => { h with phase := .fence })))) ∧
    (∀ n, nextThread s t = some n → fetchInstr s t (getThread s t n).pc = none →
      exec (.tccInstruction t) s = .next (threadFault (issued s t n) t n (fetchCause s t (getThread s t n).pc))) ∧
    (∀ n : Fin 8,
    (∀ a cond rd wide ref since, (getThread s t n.val).phase = .waita a cond rd wide ref since →
      (waitaHolds cond wide (readNat s a (waitaBytes wide)) ref = true →
        exec (.waitaWake t n) s = .next (waitaEnd s t n.val a rd wide)) ∧
      ((Blk.til t).rd s 0x58 ≠ 0 → 1024 * (Blk.til t).rd s 0x58 ≤ tileCycles s t - since →
        exec (.waitaTimeout t n) s = .next ((Blk.til t).event (waitaEnd s t n.val a rd wide) 17))) ∧
    ((getThread s t n.val).phase = .fence → (∀ o ∈ s.outs, o.req.ctx ≠ 12 * t.val + 4 + n.val) →
      exec (.rfenceResume t n) s = .next (complete s t n.val 0 0 4)))

/-- O32 (03_step_tables_tokens_and_loading.md R58; 03_step_tables_tokens_and_loading.md Table 3.9; log entry 40; log entry
263). In every canonical state, a fault of thread n stops it and marks it faulted, leaves every other thread of the tile,
and whether it may issue, and every other tile's threads as they were, and records n and the cause in THR_FAULT unless a
fault stands there (log entry 40, from Table 3.9). ECALL stops its thread, leaves the others, records cause 6, and changes
no block's error registers beyond what its fetch counts (log entry 263). -/
def Obligations.FaultingThreadsStop : Prop :=
  ∀ (s : State) (t : Fin 160) (n cause : Nat), s.Canon → n < 8 →
    (getThread (threadFault s t n cause) t n).phase = .stopped ∧ (getThread (threadFault s t n cause) t n).faulted = true ∧
    (∀ m, m ≠ n → getThread (threadFault s t n cause) t m = getThread s t m ∧
      mayIssue (threadFault s t n cause) t m = mayIssue s t m) ∧
    (∀ u : Fin 160, u ≠ t → getTcc (threadFault s t n cause) u.val = getTcc s u.val) ∧
    (bit ((Blk.til t).rd s 0x18) 16 = false → cause < 16 →
      (Blk.til t).rd (threadFault s t n cause) 0x4C = n + 16 * cause) ∧
    (∀ len v, Issues s t n .ecall len → v = fetchDone s t (getThread s t n).pc → ∃ u, exec (.ecall t) s = .next u ∧
      (getThread u t n).phase = .stopped ∧ (∀ m, m ≠ n → getThread u t m = getThread s t m) ∧
      (bit ((Blk.til t).rd v 0x18) 16 = false → (Blk.til t).rd u 0x4C = n + 16 * 6) ∧
      (∀ b : Blk, ∀ o, o = 0x20 ∨ o = 0x24 ∨ o = 0x28 → b.rd u o = b.rd v o))

/-- O33 (03_step_tables_tokens_and_loading.md R60, R61, R62; 03_step_tables_tokens_and_loading.md Tables 3.11, 3.12; log entry
152; log entry 159; log entry 179). For the ring of a slot with a partition: LOAD of a readable image accepts it when
every check passes, and otherwise counts an SVC error and writes the first failing check's code and index; UNLOAD of a
loaded image unloads it and writes result code 0 with index 0 (what it unloads and what it writes is log entry 159). Both
then perform the command's flag (its status: log entry 179). Bindings come with the command (log entry 152). -/
def Obligations.LoaderCommands : Prop :=
  ∀ (s : State) (k : Fin 16) (block : List Byte) (p : Nat), ringPart s k = some p →
    (∀ (binds : List LoadBind) (im : Image) (raw : List (List Byte)), (parseCmd block).cmd = 0x10 →
      readImage s p (parseCmd block).p0 (parseCmd block).p1 (bits (parseCmd block).p2 0 11) (bits (parseCmd block).p2 11 11) binds
        = some (im, raw) →
      (loadVerdict s im raw = none →
        exec (.loaderLoad k block binds) s = .next (loaderFlag (acceptImage s im raw) (parseCmd block))) ∧
      (∀ code idx, loadVerdict s im raw = some (code, idx) →
        exec (.loaderLoad k block binds) s =
          .next (loaderFlag (writeResult (Blk.svc.countErr s) (parseCmd block).p1 code idx) (parseCmd block)))) ∧
    (∀ im, (parseCmd block).cmd = 0x11 →
      s.images.find? (fun im => im.part = p && im.addr = (parseCmd block).p0) = some im →
      exec (.loaderUnload k block) s =
        .next (loaderFlag (writeResult (unloadImage s im) (parseCmd block).p1 0 (some 0)) (parseCmd block)))

/-- O34 (03_step_tables_tokens_and_loading.md R48; 04_bit_serial_matrix_array.md R71, R73, R81, R90; log entry 24; log entry
96). While an array's sequencer runs iterations of a step with the row's OP and no token waits to leave, the command
performs one iteration's body: where the body ran, the next iteration or the step's end follows; where it holds, the
body's state stands. One iteration a command is log entry 24. -/
def Obligations.MatrixIterations : Prop :=
  ∀ (t : Fin 160) (a : Fin 2),
    RunsIteration (.mxaConfig t a) (mxaQ t a) (fun st => st.op = 0x10) (mxaConfigIter t a) ∧
    RunsIteration (.mxaLoad t a) (mxaQ t a) (fun st => st.op = 0x11) (mxaLoadIter t a) ∧
    RunsIteration (.mxaPass t a) (mxaQ t a) (fun st => st.op = 0x12) (mxaPassIter t a) ∧
    RunsIteration (.drainVerdict t a) (mxaQ t a) (fun st => st.op = 0x12) (verdictIter t a)

/-- O35 (03_step_tables_tokens_and_loading.md R48; 06_near_memory_tamper_and_pointwise.md Table 6.1;
06_near_memory_tamper_and_pointwise.md R126, R127, R128; log entry 24). For each of the twelve Tamper operations, while
the Tamper's sequencer runs iterations of a step with its OP, the command performs one iteration's body under the record
in force, and the next iteration or the step's end follows where it ran. One iteration a command is log entry 24. -/
def Obligations.TamperIterations : Prop :=
  ∀ t : Fin 160,
    RunsIteration (.layConfig t) (layQ t) (fun st => st.op = 0x10) (layConfigIter t) ∧
    RunsIteration (.copy t) (layQ t) (fun st => st.op = 0x11) (layUnder t (layCopyIter t false)) ∧
    RunsIteration (.transpose t) (layQ t) (fun st => st.op = 0x12) (layUnder t (layCopyIter t true)) ∧
    RunsIteration (.skewStream t) (layQ t) (fun st => st.op = 0x13) (layUnder t (laySkewStreamIter t)) ∧
    RunsIteration (.skewStat t) (layQ t) (fun st => st.op = 0x14) (layUnder t (laySkewStatIter t)) ∧
    RunsIteration (.pack24 t) (layQ t) (fun st => st.op = 0x15) (layUnder t (layPack24Iter t)) ∧
    RunsIteration (.quant t) (layQ t) (fun st => st.op = 0x16) (layUnder t (layQuantIter t false)) ∧
    RunsIteration (.dequant t) (layQ t) (fun st => st.op = 0x17) (layUnder t (layQuantIter t true)) ∧
    RunsIteration (.rowquant t) (layQ t) (fun st => st.op = 0x18) (layUnder t (layRowQuantIter t)) ∧
    RunsIteration (.tilePack t) (layQ t) (fun st => st.op = 0x19) (layUnder t (layTilePackIter t)) ∧
    RunsIteration (.tileUnpack t) (layQ t) (fun st => st.op = 0x1A) (layUnder t (layTileUnpackIter t)) ∧
    RunsIteration (.blocklist t) (layQ t) (fun st => st.op = 0x1B) (layUnder t (layBlockListIter t))

/-- O36 (03_step_tables_tokens_and_loading.md R48; 06_near_memory_tamper_and_pointwise.md R134, R135, R136, R137; log entry
24). For ADD, SUB, MUL, FMA, MAX and MIN with their arithmetic, FUNC, the row reductions with theirs, and SOFTMAX: while
the Pointwise Engine's sequencer runs iterations of a step with the OP, the command performs one iteration's body, and the
next iteration or the step's end follows where it ran. -/
def Obligations.PointwiseIterations : Prop :=
  ∀ t : Fin 160,
    RunsIteration (.ptwAdd t) (ptwQ t) (fun st => st.op = 0x10) (ptwElems t true false (fun a b _ => a.add b)) ∧
    RunsIteration (.ptwSub t) (ptwQ t) (fun st => st.op = 0x11) (ptwElems t true false (fun a b _ => a.sub b)) ∧
    RunsIteration (.ptwMul t) (ptwQ t) (fun st => st.op = 0x12) (ptwElems t true false (fun a b _ => a.mul b)) ∧
    RunsIteration (.ptwFma t) (ptwQ t) (fun st => st.op = 0x13) (ptwElems t true true (fun a b d => a.fma b d)) ∧
    RunsIteration (.ptwMax t) (ptwQ t) (fun st => st.op = 0x14) (ptwElems t true false (fun a b _ => a.maxn b)) ∧
    RunsIteration (.ptwMin t) (ptwQ t) (fun st => st.op = 0x15) (ptwElems t true false (fun a b _ => a.minn b)) ∧
    RunsIteration (.ptwFunc t) (ptwQ t) (fun st => st.op = 0x18) (ptwFuncIter t) ∧
    RunsIteration (.rowsum t) (ptwQ t) (fun st => st.op = 0x20) (ptwRow t rowSum) ∧
    RunsIteration (.rowsumsq t) (ptwQ t) (fun st => st.op = 0x21) (ptwRow t rowSumSq) ∧
    RunsIteration (.rowmax t) (ptwQ t) (fun st => st.op = 0x22) (ptwRow t rowMax) ∧
    RunsIteration (.softmax t) (ptwQ t) (fun st => st.op = 0x28) (ptwSoftmaxIter t)

/-- O37 (03_step_tables_tokens_and_loading.md R48; 07_expert_routing_and_token_exchange.md R145, R153, R155 to R162; log entry
24). For CONFIG and ROUTE of the routing engine and each operation and phase of the exchange engine, forward and backward
told apart by MODE[0]: while its sequencer runs iterations of a step with the OP, the command performs that body's
iteration, and the next iteration or the step's end follows where it ran. -/
def Obligations.RoutingAndExchangeIterations : Prop :=
  ∀ d j : Fin 2,
    RunsIteration (.rteConfig d j) (rteQ d j) (fun st => st.op = 0x10) (rteConfigIter d j) ∧
    RunsIteration (.route d j) (rteQ d j) (fun st => st.op = 0x11) (routeIter d j) ∧
    RunsIteration (.xchConfig d j) (xchQ d j) (fun st => st.op = 0x10) (xchConfigIter d j) ∧
    RunsIteration (.counts d j) (xchQ d j) (fun st => st.op = 0x11) (xchUnder d j true (countsIter d j)) ∧
    RunsIteration (.xchCountsReceived d j) (xchQ d j) (fun st => st.op = 0x11) (xchUnder d j false (countsReceivedIter d j)) ∧
    RunsIteration (.xchGrantsReceived d j) (xchQ d j) (fun st => st.op = 0x11) (xchUnder d j false (grantsReceivedIter d j)) ∧
    RunsIteration (.dispatch d j) (xchQ d j) (fun st => st.op = 0x12 ∧ bit st.mode 0 = false)
      (xchUnder d j true (dispatchStep d j false)) ∧
    RunsIteration (.dispatchBwd d j) (xchQ d j) (fun st => st.op = 0x12 ∧ bit st.mode 0 = true)
      (xchUnder d j true (dispatchStep d j true)) ∧
    RunsIteration (.xchDataIterComplete d j) (xchQ d j) (fun st => st.op = 0x12) (xchUnder d j false (dataIterDone d j)) ∧
    RunsIteration (.returnRows d j) (xchQ d j) (fun st => st.op = 0x13 ∧ bit st.mode 0 = false)
      (xchUnder d j true (returnIter d j false)) ∧
    RunsIteration (.returnBwd d j) (xchQ d j) (fun st => st.op = 0x13 ∧ bit st.mode 0 = true)
      (xchUnder d j true (returnIter d j true)) ∧
    RunsIteration (.combine d j) (xchQ d j) (fun st => st.op = 0x14 ∧ bit st.mode 0 = false)
      (xchUnder d j true (combineIter d j false)) ∧
    RunsIteration (.combineBwd d j) (xchQ d j) (fun st => st.op = 0x14 ∧ bit st.mode 0 = true)
      (xchUnder d j true (combineIter d j true)) ∧
    RunsIteration (.xchReturnsReceived d j) (xchQ d j) (fun st => st.op = 0x14) (xchUnder d j false (returnsReceivedIter d j)) ∧
    RunsIteration (.stepClear d j) (xchQ d j) (fun st => st.op = 0x15) (xchUnder d j true (stepClearIter d j))

/-- O38 (03_step_tables_tokens_and_loading.md R48; 08_embedding_tables.md R169 to R184; log entry 24). For each operation and
phase of the embedding engine and SORT of the group engine: while its sequencer runs iterations of a step with the OP, the
command performs that body's iteration, and the next iteration or the step's end follows where it ran. -/
def Obligations.EmbeddingIterations : Prop :=
  ∀ (d : Fin 2) (j : Fin 4),
    RunsIteration (.embConfig d j) (embQ d j) (fun st => st.op = 0x10) (embConfigIter d j) ∧
    RunsIteration (.prep d j) (embQ d j) (fun st => st.op = 0x11) (embUnder d j true (prepIter d j)) ∧
    RunsIteration (.sort d j) (grdQ d j) (fun st => st.op = 0x11) (sortIter d j) ∧
    RunsIteration (.gather d j) (embQ d j) (fun st => st.op = 0x12) (embUnder d j true (gatherIter d j)) ∧
    RunsIteration (.embHotHeadersReceived d j) (embQ d j) (fun st => st.op = 0x12) (embUnder d j false (hotReceivedIter d j)) ∧
    RunsIteration (.pool d j) (embQ d j) (fun st => st.op = 0x13) (embUnder d j true (poolIter d j)) ∧
    RunsIteration (.scatter d j) (embQ d j) (fun st => st.op = 0x14) (embUnder d j true (scatterIter d j)) ∧
    RunsIteration (.push d j) (embQ d j) (fun st => st.op = 0x15) (embUnder d j true (pushIter d j)) ∧
    RunsIteration (.pushRepliesDone d j) (embQ d j) (fun st => st.op = 0x15) (embUnder d j false (pushRepliesIter d j)) ∧
    RunsIteration (.apply d j) (embQ d j) (fun st => st.op = 0x16) (embUnder d j true (applyIter d j)) ∧
    RunsIteration (.embUpdateHeadersReceived d j) (embQ d j) (fun st => st.op = 0x16) (embUnder d j false (updatesReceivedIter d j)) ∧
    RunsIteration (.embPhaseTimeout d j) (embQ d j) (fun st => st.op = 0x16) (embUnder d j false (embTimeoutIter d j)) ∧
    RunsIteration (.refresh d j) (embQ d j) (fun st => st.op = 0x17) (embUnder d j true (refreshIter d j))

/-- O39 (03_step_tables_tokens_and_loading.md R48; 11_ring_collectives_and_gradient_reduction.md R252, R253, R268;
12_parameter_lifecycle_and_optimiser.md R275 to R282; 06_near_memory_tamper_and_pointwise.md R139; log entry 24). For
CONFIG, CONTRIB and FINISH of the collective engine, AMAX, the optimiser's CONFIG, UPDATE, CAST and COPY, and ALLOC and
FREE of the pools: while its sequencer runs iterations of a step with the OP, the command performs that body's iteration,
and the next iteration or the step's end follows where it ran. -/
def Obligations.CollectiveAndOptimiserIterations : Prop :=
  ∀ (d : Fin 2) (j : Fin 4),
    RunsIteration (.colConfig d j) (colQ d j) (fun st => st.op = 0x10) (colConfigIter d j) ∧
    RunsIteration (.contrib d j) (colQ d j) (fun st => st.op = 0x11) (colUnder d j true (contribIter d j)) ∧
    RunsIteration (.finish d j) (colQ d j) (fun st => st.op = 0x12) (colUnder d j true (finishIter d j)) ∧
    RunsIteration (.staAmax d) (staQ d) (fun st => st.op = 0x10) (amaxIter d) ∧
    RunsIteration (.optConfig d j) (optQ d j) (fun st => st.op = 0x10) (optConfigIter d j) ∧
    RunsIteration (.update d j) (optQ d j) (fun st => st.op = 0x11) (optUnder d j (updateIter d j)) ∧
    RunsIteration (.cast d j) (optQ d j) (fun st => st.op = 0x12) (optUnder d j (castIter d j)) ∧
    RunsIteration (.optCopy d j) (optQ d j) (fun st => st.op = 0x13) (optCopyIter d j) ∧
    RunsIteration (.bpmAllocOp d) (.die d 20) (fun st => st.op = 0x10) (allocIter d) ∧
    RunsIteration (.bpmFreeOp d) (.die d 20) (fun st => st.op = 0x11) (freeIter d)

/-- O40 (07_expert_routing_and_token_exchange.md R154, R155, R156, R164; log entry 121; log entry 124; log entry 125; log
entry 208). A header of this XSEQ, of a kind that its place can hold and of the direction under way (log entry 208), is
kept and its bytes counted: 8, with its count or grant entries or its rows (log entry 124). One of another XSEQ or kind is
counted in STALE_HDR with event 17 and changes nothing else. A word at a place of the next XSEQ is kept, and counted where
its XSEQ and kind agree. While headers are missing, a phase waiting longer than PHASE_TIMEOUT × 1,024 cycles records code
0x0103 and event 20 and the rest of the step idles (log entries 121 and 125). -/
def Obligations.ExchangeMessages : Prop :=
  ∀ (s : State) (d j : Fin 2) (rq : List Nat), recOf s (xchBlk d j) = rq → rq ≠ [] →
    (∀ off w, w = readNat s off 8 → slotKinds (xchRec rq) (xseqOf s d j) off ≠ [] →
      (bits w 0 16 = xseqOf s d j → (slotKinds (xchRec rq) (xseqOf s d j) off).contains (bits w 16 4) = true →
        ((getXch s d j).bwd = true ↔ 5 ≤ bits w 16 4) →
        ∀ n, (bits w 16 4 = 1 → n = 8 * (xchRec rq).localE) →
          (bits w 16 4 = 2 → n = 16 * (ownedBy (xchRec rq) (readBytes s (xchRec rq).emap (8 * (xchRec rq).e))
            ((off - (xchRec rq).grantHdr (xchRec rq).localE (xseqOf s d j) 0) / 8)).length) →
          (bits w 16 4 = 3 → n = bits w 24 24 * (xchRec rq).rowBytes) →
          (3 < bits w 16 4 → n = bits w 24 24 * ((xchRec rq).hidden * (elemBits (xchRec rq).retFmt / 8))) →
          exec (.xchHeaderArrive d j off) s = .next ((xchBlk d j).add (setXch s d j { getXch s d j with
            hdrs := (off, w) :: (getXch s d j).hdrs.filter (fun e => !(e.1 == off)) }) 0x88 (8 + n))) ∧
      (bits w 0 16 ≠ xseqOf s d j ∨ (slotKinds (xchRec rq) (xseqOf s d j) off).contains (bits w 16 4) = false →
        exec (.xchHeaderArrive d j off) s = .next ((xchBlk d j).event ((xchBlk d j).sat s 0x5C) 17))) ∧
    (∀ off w u, w = readNat s off 8 → u = setXch s d j { getXch s d j with
        hdrs := (off, w) :: (getXch s d j).hdrs.filter (fun e => !(e.1 == off)) } →
      slotKinds (xchRec rq) (xseqOf s d j) off = [] → slotKinds (xchRec rq) (xseqOf s d j + 1) off ≠ [] →
      (bits w 0 16 = (xseqOf s d j + 1) % 2 ^ 16 → (slotKinds (xchRec rq) (xseqOf s d j + 1) off).contains (bits w 16 4) = true →
        exec (.xchHeaderArrive d j off) s =
          .next ((xchBlk d j).add u 0x88 (headerBytes u (xchRec rq) (xseqOf s d j + 1) off w))) ∧
      (bits w 0 16 ≠ (xseqOf s d j + 1) % 2 ^ 16 ∨ (slotKinds (xchRec rq) (xseqOf s d j + 1) off).contains (bits w 16 4) = false →
        exec (.xchHeaderArrive d j off) s = .next u)) ∧
    (∀ since, since = (scr s (xchQ d j) 104).getD (getSeq s (xchQ d j)).waitFrom →
      (headersAwaited s d j).1 < (headersAwaited s d j).2 → (xchBlk d j).rd s 0x58 ≠ 0 →
      1024 * (xchBlk d j).rd s 0x58 < (s.now - since) * seqMhz s (xchQ d j) →
      exec (.xchPhaseTimeout d j) s = .next (idleRest ((xchBlk d j).raise
        ((xchBlk d j).event (noteStatus s (xchQ d j) tkTimeout) 20) 0x0103 (seqPart s (xchQ d j)) 0) (xchQ d j)
        (itersLeft (getSeq s (xchQ d j)) + 1)))

/-- O41 (08_embedding_tables.md R179, R184, R189; log entry 265). An update header of a member with this STEP is taken and
counted with 8 bytes and its entries; one of another STEP is counted and raises event 22. A hot header of a member is
taken, with 16 bytes counted. That BYTES_RECV counts these is the model's choice (log entry 265). -/
def Obligations.EmbeddingMessages : Prop :=
  ∀ (s : State) (d : Fin 2) (j : Fin 4) (rq : List Nat) (m : Nat), recOf s (embBlk d j) = rq → rq ≠ [] →
    m < (embRec rq).m →
    (∀ w, w = readNat s ((embRec rq).inbox + 8 * m) 8 → bits w 56 6 = 1 ∨ bits w 56 6 = 2 →
      (bits w 0 32 = (embRec rq).step → exec (.embHeaderArrive d j m) s = .next ((embBlk d j).add
        (setEmb s d j { getEmb s d j with hdrs := (m, w) :: (getEmb s d j).hdrs.filter (fun h => !(h.1 == m)) }) 0x98
        (8 + bits w 32 24 * (embRec rq).entryBytes))) ∧
      (bits w 0 32 ≠ (embRec rq).step →
        exec (.embHeaderArrive d j m) s = .next ((embBlk d j).event ((embBlk d j).sat s 0x84) 22))) ∧
    ((embRec rq).hrd = true → ∀ o, o = (embRec rq).hrdBase + 16 * m →
      exec (.hotHeaderArrive d j m) s = .next ((embBlk d j).add (setEmb s d j { getEmb s d j with
        hots := (m, readNat s o 8, readNat s (o + 8) 8) :: (getEmb s d j).hots.filter (fun h => !(h.1 == m)) }) 0x98 16))

/-- O42 (11_ring_collectives_and_gradient_reduction.md R251, R255 to R263, R269; 06_near_memory_tamper_and_pointwise.md R128;
log entry 110; log entry 150). A piece, READY, ACK, NAK, EXCLUDE, RETARGET or RACK of the engine's CSEQ is handled by its
kind; any of them of the next CSEQ waits (log entry 150), and any of them of another is counted in STALE_MSG and changes
nothing else. A deadline that is past pumps the engine; a phase beyond PHASE_TIMEOUT records code 0x0104 and event 23 and
the rest of the step idles (R269). A held Tamper iteration issues when fewer than 64 are in flight, and its wait is
counted (log entry 110). -/
def Obligations.CollectiveMessages : Prop :=
  ∀ (s : State) (d : Fin 2) (j : Fin 4) (off : Nat),
    (∀ rq, recOf s (colBlk d j) = rq → rq ≠ [] → bits (readNat s off 8) 0 16 = cseqOf s d j →
      (∀ src, exec (.colPieceArrive d j off src) s = .next (handleMsg d j (colRec rq) 0 off src s)) ∧
      exec (.colReady d j off) s = .next (handleMsg d j (colRec rq) 1 off 0 s) ∧
      exec (.colAck d j off) s = .next (handleMsg d j (colRec rq) 2 off 0 s) ∧
      exec (.colNak d j off) s = .next (handleMsg d j (colRec rq) 3 off 0 s) ∧
      exec (.colExclude d j off) s = .next (handleMsg d j (colRec rq) 4 off 0 s) ∧
      exec (.colRetarget d j off) s = .next (handleMsg d j (colRec rq) 5 off 0 s) ∧
      exec (.colRack d j off) s = .next (handleMsg d j (colRec rq) 6 off 0 s)) ∧
    (∀ held : Nat → Nat → State, (∀ k src, held k src = modCol s d j (fun c => { c with heldMsgs := c.heldMsgs ++ [(k, off, src)] })) →
      bits (readNat s off 8) 0 16 = (cseqOf s d j + 1) % 2 ^ 16 →
      (∀ src, exec (.colPieceArrive d j off src) s = .next (held 0 src)) ∧
      exec (.colReady d j off) s = .next (held 1 0) ∧ exec (.colAck d j off) s = .next (held 2 0) ∧
      exec (.colNak d j off) s = .next (held 3 0) ∧ exec (.colExclude d j off) s = .next (held 4 0) ∧
      exec (.colRetarget d j off) s = .next (held 5 0) ∧ exec (.colRack d j off) s = .next (held 6 0)) ∧
    (bits (readNat s off 8) 0 16 ≠ (cseqOf s d j + 1) % 2 ^ 16 → bits (readNat s off 8) 0 16 ≠ cseqOf s d j →
      ∀ t, t = (colBlk d j).sat s 0x80 →
        (∀ src, exec (.colPieceArrive d j off src) s = .next t) ∧
        exec (.colReady d j off) s = .next t ∧ exec (.colAck d j off) s = .next t ∧ exec (.colNak d j off) s = .next t ∧
        exec (.colExclude d j off) s = .next t ∧ exec (.colRetarget d j off) s = .next t ∧ exec (.colRack d j off) s = .next t) ∧
    (∀ rq, recOf s (colBlk d j) = rq → rq ≠ [] → pastDeadline s (colRec rq) = true →
      exec (.colDeadline d j) s = .next (colPump d j (colRec rq) s)) ∧
    (∀ since, (getSeq s (colQ d j)).phase = .iter → scr s (colQ d j) 104 = some since → (colBlk d j).rd s 0x58 ≠ 0 →
      1024 * (colBlk d j).rd s 0x58 < (s.now - since) * seqMhz s (colQ d j) →
      exec (.colPhaseTimeout d j) s = .next (idleRest ((colBlk d j).raise ((colBlk d j).event
        ((colBlk d j).put (noteStatus s (colQ d j) tkTimeout) 0x48 1 3 0) 23) 0x0104 (seqPart s (colQ d j)) 0) (colQ d j)
        (itersLeft (getSeq s (colQ d j)) + 1))) ∧
    (∀ (t : Fin 160) (since : Nat), scr s (layQ t) 9 = some since → (inFlightIters s (layQ t)).length < 64 →
      exec (.layInflightRelease t) s =
        .next ((Blk.lay t).sat (delScr s (layQ t) 9) 0x68 ((s.now - since) * seqMhz s (layQ t))))

/-- O43 (09_remote_memory_operations.md R190, R191, R193, R213; 09_remote_memory_operations.md Table 9.1; log entry 46). While
the device serves accesses, a request addressed to it from another device is served, and its reply enters the router at
the die that holds the bytes: for loads, stores, flagged stores that wait for nothing and follow no held one (log entry
46), and the eight atomic operations, with and without FETCH. -/
def Obligations.RemoteRequestsServed : Prop :=
  ∀ (port : Fin 34) (s : State) (r : Request) (rep : Reply) (s1 : State) (die : Nat),
    serving s = true → devOf r.addr = selfId s → serve (takeArrived s r) r = (rep, s1) → r.src ≠ selfId s1 →
    die = (dieOfOffset s1 (offOf r.addr)).getD 0 →
    ∀ t, t = enterRouter s1 (.rep rep r.part 0 (32 + die)) →
      (r.op = 0x00 → exec (.remoteLoad port r) s = .next t) ∧
      (r.op = 0x10 → exec (.remoteStore port r) s = .next t) ∧
      (r.op = 0x20 → flowWaits s r = false →
        s.heldFlags.any (fun h => h.req.src = r.src && h.req.ctx = r.ctx && h.req.vc = r.vc) = false →
        exec (.flaggedStore port r) s = .next t) ∧
      (r.op % 16 = 1 → exec (.atomicAdd port r) s = .next t) ∧
      (r.op % 16 = 2 → exec (.atomicMin port r) s = .next t) ∧
      (r.op % 16 = 3 → exec (.atomicMax port r) s = .next t) ∧
      (r.op % 16 = 4 → exec (.atomicSwap port r) s = .next t) ∧
      (r.op % 16 = 5 → exec (.atomicCas port r) s = .next t) ∧
      (r.op % 16 = 6 → exec (.atomicAnd port r) s = .next t) ∧
      (r.op % 16 = 7 → exec (.atomicOr port r) s = .next t) ∧
      (r.op % 16 = 8 → exec (.atomicXor port r) s = .next t)

/-- O44 (09_remote_memory_operations.md R198, R199, R213; log entry 46). A flagged store whose flow has earlier work is
checked on arrival: one that fails is answered, one that passes is held; the first held one that nothing precedes is
performed (which one: log entry 46); an ALL flag whose context has nothing left to hold it is released at its source. -/
def Obligations.FlagsWaitForTheirFlow : Prop :=
  ∀ (s : State),
    (∀ (port : Fin 34) (r : Request), r.op = 0x20 → serving s = true → devOf r.addr = selfId s →
      (flowWaits s r = true ∨ s.heldFlags.any (fun h => h.req.src = r.src && h.req.ctx = r.ctx && h.req.vc = r.vc) = true) →
      (∀ s1, checked (takeArrived s r) r = (none, s1) →
        exec (.flaggedStore port r) s = .next { s1 with heldFlags := s1.heldFlags ++ [⟨r, port.val⟩] }) ∧
      (∀ rep s1, checked (takeArrived s r) r = (some rep, s1) →
        exec (.flaggedStore port r) s = .next (sendReply s1 r rep))) ∧
    (∀ h rest rep s1, s.heldFlags = h :: rest → flowWaits s h.req = false →
      performRequest { s with heldFlags := rest } h.req = (rep, s1) →
      exec .flagDevicePerform s = .next (sendReply s1 h.req rep)) ∧
    (∀ ctx o, s.outs.find? (fun o => o.req.ctx = ctx && o.flagAll && o.phase = .rowHeld) = some o →
      mustHold s o = false → exec (.flagAllRelease ctx) s = .next (settleOuts (releaseOne s o)))

/-- O45 (R25). A store, flagged store or atomic of a valid partition from another device to the Roast Log window answers
ACCESS_DENIED through the router and records the denial in SEC; the log's bytes and memory are as before. A filter-entry
transfer between devices (R218, log entry 200) is no access to a place and is not meant. -/
def Obligations.RoastLogIsReadOnly : Prop :=
  ∀ (port : Fin 34) (s : State) (r : Request) (o : Nat), s.Canon → serving s = true → devOf r.addr = selfId s →
    placeOf (offOf r.addr) = .log o → reqLoad r = false → isTransfer r = false → partValid s r.part = true → r.src ≠ selfId s →
    ∀ t, t = enterRouter (secError (takeArrived s r) 1 r.part (offOf r.addr)) (.rep (replyTo r stAccessDenied) r.part 0 32) →
      (r.op = 0x10 → exec (.remoteStore port r) s = .next t) ∧
      (r.op = 0x20 → exec (.flaggedStore port r) s = .next t) ∧
      (r.op % 16 = 1 → exec (.atomicAdd port r) s = .next t) ∧
      (r.op % 16 = 2 → exec (.atomicMin port r) s = .next t) ∧
      (r.op % 16 = 3 → exec (.atomicMax port r) s = .next t) ∧
      (r.op % 16 = 4 → exec (.atomicSwap port r) s = .next t) ∧
      (r.op % 16 = 5 → exec (.atomicCas port r) s = .next t) ∧
      (r.op % 16 = 6 → exec (.atomicAnd port r) s = .next t) ∧
      (r.op % 16 = 7 → exec (.atomicOr port r) s = .next t) ∧
      (r.op % 16 = 8 → exec (.atomicXor port r) s = .next t) ∧ t.flash = s.flash ∧ t.mem = s.mem

/-- O46 (09_remote_memory_operations.md R191; 09_remote_memory_operations.md Table 9.1). For old and operand below 2^64, with
and without FETCH: ADD wraps at 2^32 and 2^64; MIN and MAX of unsigned and of signed words, 32 and 64 bits, take the
smaller and the larger in their order; AND, OR and XOR, 32 and 64 bits, are bitwise. SWAP of 32 and 64 bits stores the
operand; CAS of 32 and 64 bits stores it exactly when the old value equals the comparand. A 32-bit form is given the low
32 bits. -/
def Obligations.AtomicValues : Prop :=
  ∀ (old x cmp : Nat), old < 2 ^ 64 → x < 2 ^ 64 →
    (∀ f, f = 0 ∨ f = 0x80 →
      atomicResult (f + 0x01) (old % 2 ^ 32) (x % 2 ^ 32) cmp = (old + x) % 2 ^ 32 ∧
      atomicResult (f + 0x11) old x cmp = (old + x) % 2 ^ 64 ∧
      atomicResult (f + 0x32) old x cmp = min old x ∧ atomicResult (f + 0x33) old x cmp = max old x ∧
      atomicResult (f + 0x22) (old % 2 ^ 32) (x % 2 ^ 32) cmp = min (old % 2 ^ 32) (x % 2 ^ 32) ∧
      atomicResult (f + 0x23) (old % 2 ^ 32) (x % 2 ^ 32) cmp = max (old % 2 ^ 32) (x % 2 ^ 32) ∧
      (signed 64 old ≤ signed 64 x → atomicResult (f + 0x12) old x cmp = old ∧ atomicResult (f + 0x13) old x cmp = x) ∧
      (signed 64 x < signed 64 old → atomicResult (f + 0x12) old x cmp = x ∧ atomicResult (f + 0x13) old x cmp = old) ∧
      (signed 32 old ≤ signed 32 x →
        atomicResult (f + 0x02) (old % 2 ^ 32) (x % 2 ^ 32) cmp = old % 2 ^ 32 ∧
        atomicResult (f + 0x03) (old % 2 ^ 32) (x % 2 ^ 32) cmp = x % 2 ^ 32) ∧
      (signed 32 x < signed 32 old →
        atomicResult (f + 0x02) (old % 2 ^ 32) (x % 2 ^ 32) cmp = x % 2 ^ 32 ∧
        atomicResult (f + 0x03) (old % 2 ^ 32) (x % 2 ^ 32) cmp = old % 2 ^ 32) ∧
      atomicResult (f + 0x16) old x cmp = old &&& x ∧ atomicResult (f + 0x17) old x cmp = old ||| x ∧
      atomicResult (f + 0x18) old x cmp = old ^^^ x ∧
      atomicResult (f + 0x06) (old % 2 ^ 32) (x % 2 ^ 32) cmp = old % 2 ^ 32 &&& x % 2 ^ 32 ∧
      atomicResult (f + 0x07) (old % 2 ^ 32) (x % 2 ^ 32) cmp = old % 2 ^ 32 ||| x % 2 ^ 32 ∧
      atomicResult (f + 0x08) (old % 2 ^ 32) (x % 2 ^ 32) cmp = old % 2 ^ 32 ^^^ x % 2 ^ 32) ∧
    atomicResult 0x94 old x cmp = x ∧ atomicResult 0x84 (old % 2 ^ 32) (x % 2 ^ 32) cmp = x % 2 ^ 32 ∧
    atomicResult 0x95 old x old = x ∧ (old ≠ cmp → atomicResult 0x95 old x cmp = old) ∧
    atomicResult 0x85 (old % 2 ^ 32) (x % 2 ^ 32) (old % 2 ^ 32) = x % 2 ^ 32 ∧
    (old % 2 ^ 32 ≠ cmp → atomicResult 0x85 (old % 2 ^ 32) (x % 2 ^ 32) cmp = old % 2 ^ 32)

/-- O47 (09_remote_memory_operations.md R202, R204). When the replay filter holds the tag of a request with one constituent,
the request answers DUPLICATE with the old value kept there (for FETCH), whatever performing it would do, and memory is as
before. -/
def Obligations.AppliedAtomicIsNotAppliedAgain : Prop :=
  ∀ (s : State) (r : Request) (old : Nat) (perform : State → Option Nat × State), r.more = [] →
    findTag (dropOld s (SMap.get dFilter s.filter (setOf r.src r.ctx r.seq))) r.src r.ctx (r.seq % 65536) = some old →
    ∃ t, filtered s r perform = (replyTo r stDuplicate (if reqFetch r then leBytes r.size old else []), t) ∧ t.mem = s.mem

/-- O48 (09_remote_memory_operations.md R200, R201, R203, R209, R210, R211, R212; 09_remote_memory_operations.md Table 9.6;
log entry 47; log entry 61; log entry 201). A reply goes to the outstanding request of its context and tag, counted, for a
tile's thread and for an engine's operand or store with its energy; requests are reissued after RETRY_PERIOD (atomics
while their age is below the window, ISOLATED others before ISO_TIMEOUT), after WAIT and after FILTER_BUSY (Table 9.6); a
GANG request past its timeout raises GANG_LOST and code 0x0107 once, records the request, reports target and partition
(the report's form: log entry 201) and goes on; an ISOLATED one ends, NOT_APPLIED when every copy was refused and UNKNOWN
otherwise (R211); a held block of sequences is released when its last use is long past. Log entries 47 and 61. -/
def Obligations.OutstandingRequests : Prop :=
  ∀ s : State,
    (∀ (port : Fin 34) (r : Reply) (o : OutReq) (u v : State) (n : Nat),
      s.outs.find? (fun o => o.req.ctx = r.ctx && o.req.seq % 65536 = r.seq && o.copies ≠ 0) = some o → r.dst = selfId s →
      u = { s with arrived := s.arrived.filter (fun k => match k with
        | .rep x _ _ _ => !(decide (x = r))
        | .req _ _ _ => true) } →
      n = pktSize (.rep r 0 0 port.val) → v = remoteCount u r.ctx n false →
      (o.waiter.seq = none → 1920 ≤ r.ctx → exec (.replyArrive port r) s = .next (settleOuts (onReply u r))) ∧
      (∀ t : Fin 160, o.waiter.seq = none → r.ctx / 12 = t.val → 4 ≤ r.ctx % 12 → selfId (threadEnergy v t .link n) = selfId s →
        exec (.replyArrive port r) s = .next (settleOuts (onReply (threadEnergy v t .link n) r))) ∧
      (∀ q, o.waiter.seq = some q → selfId (seqEnergy v q .link n (dataPage q (!reqLoad o.req))) = selfId s →
        exec (.replyArrive port r) s = .next (settleOuts (onReply (seqEnergy v q .link n (dataPage q (!reqLoad o.req))) r)))) ∧
    (∀ (id : Nat) (o : OutReq), findOut s id = some o →
      (o.phase = .sent → o.retryPeriod ≤ s.now - o.lastIssue → reqAtomic o.req = true → s.now - o.firstIssue < replayW s →
        exec (.requestReissue id) s = .next (settleOuts (sendCopy s o (portOfCtx s o.req.ctx)))) ∧
      (o.phase = .sent → o.retryPeriod ≤ s.now - o.lastIssue → reqAtomic o.req = false → o.req.isolated = false →
        exec (.requestReissue id) s = .next (settleOuts (sendCopy s o (portOfCtx s o.req.ctx)))) ∧
      (o.phase = .sent → o.retryPeriod ≤ s.now - o.lastIssue → reqAtomic o.req = false → o.req.isolated = true →
        s.now - o.firstIssue < isoTimeout s o.req.part →
        exec (.requestReissue id) s = .next (settleOuts (sendCopy s o (portOfCtx s o.req.ctx)))) ∧
      (∀ at_, o.phase = .waitUntil at_ → at_ ≤ s.now →
        exec (.waitReissue id) s = .next (settleOuts (sendCopy s o (portOfCtx s o.req.ctx)))) ∧
      (∀ at_, o.phase = .busyUntil at_ → at_ ≤ s.now →
        exec (.filterBusyReissue id) s = .next (settleOuts (sendCopy s o (portOfCtx s o.req.ctx)))) ∧
      (o.req.isolated = false → o.gangRaised = false → o.copies ≠ 0 → o.gangTimeout ≤ s.now - o.firstIssue →
        ∀ u, u = fabRaise (Blk.fab.event (faultRecord s o.req stUnknown) 17) 0x0107 o.req →
          exec (.gangLost id) s = .next (modOut { u with reports := u.reports ++ [.gangLost (devOf o.req.addr) o.req.part] } id
            (fun o => { o with gangRaised := true }))) ∧
      (o.req.isolated = true → o.copies ≠ 0 → isoTimeout s o.req.part ≤ s.now - o.firstIssue →
        exec (.isoTimeout id) s =
          .next (settleOuts (finish s o (if o.copies ≤ o.refusedCopies then stNotApplied else stUnknown) []))) ∧
      (∀ ctx, s.outs.find? (fun o => o.req.ctx = ctx && o.phase = .seqHeld) = some o → seqRecent s ctx o.req.seq = false →
        exec (.seqHoldRelease ctx) s = .next (settleOuts { Blk.fab.sat s 0x808C (2000 * (s.now - o.firstIssue)) with
          outs := s.outs.map (fun e => if e.req.ctx = ctx ∧ e.phase = .seqHeld ∧ e.req.seq / 32 = o.req.seq / 32
            then { e with phase := .held } else e) })))

/-- O49 (09_remote_memory_operations.md R202, R206, R209, R218, R220; 10_links_router_and_host_bridge.md R224, R231, R232,
R233, R235; log entry 55; log entry 57; log entry 64; log entry 197; log entry 198). Filter entries past their age are
dropped; a lowered window takes effect in its time; a migration handed over, whose copied place holds no held flag, is
sent; replies and plain requests at a router input are routed, and a request that passes its combining entry by goes on.
The packet that deficit round robin picks is sent: to the die, or as bytes, with the SUB of its port, placed in flits that
fit the replay buffer (log entries 64, 197 and 198); where it picks none at a die port, the deficits of its empty channels
are 0. At a port that is not UP the packet is routed again (log entry 55); one for a device marked DEAD is answered. A
combining window without followers closes; a head held for credit past CREDIT_TIMEOUT raises code 0x0109 once for its
channel. Log entry 57. -/
def Obligations.FabricEvents : Prop :=
  ∀ s : State,
    (∀ set : Fin 4096, exec (.filterEntryExpire set) s =
      .next (setFilter s set.val (dropOld s (SMap.get dFilter s.filter set.val)))) ∧
    (∀ w t, s.winHeld = some (w, t) → t ≤ s.now → exec .replayWindowLowerDone s = .next { s with winHeld := none }) ∧
    (∀ m, s.migs.find? (fun m => m.handover && !m.sent && !heldIn s m.entry) = some m →
      exec .migTransfer s = .next (sendMigration s m)) ∧
    (∀ (port : Fin 34) (r : Reply) (p sub : Nat) (rest : List Packet), s.toRoute = .rep r p sub port.val :: rest →
      bit (Blk.fab.rd s 0x40) 31 = true →
      exec (.routePacket port) s = .next (passReply (freeInput { s with toRoute := rest } (.rep r p sub port.val)) r p sub port.val)) ∧
    (∀ (port : Fin 34) (r : Request) (sub : Nat) (rest : List Packet), s.toRoute = .req r sub port.val :: rest →
      bit (Blk.fab.rd s 0x40) 31 = true → reqAtomic r = false → reqFlag r = false →
      ∀ u, u = freeInput { s with toRoute := rest } (.req r sub port.val) →
        (u.passBy.contains r = false → combinable r = false → exec (.routePacket port) s = .next (forward u (.req r sub port.val))) ∧
        (u.passBy.contains r = true →
          exec (.routePacket port) s = .next (forward { u with passBy := u.passBy.erase r } (.req r sub port.val)))) ∧
    (∀ (port : Fin 34) (k : Packet) (y : Port), 32 ≤ port.val →
      drr true (Blk.fab.rd s (0x100 + 8 * port.val)) 100 (getPort s port.val) = some (k, y) →
      exec (.packetSend port) s = .next (countPacket
        { setPort s port.val (takeOut y true k) with arrived := s.arrived ++ [k] } port.val k false)) ∧
    (∀ port : Fin 34, 32 ≤ port.val → drr true (Blk.fab.rd s (0x100 + 8 * port.val)) 100 (getPort s port.val) = none →
      exec (.packetSend port) s = .next (setPort s port.val (idleDeficits (getPort s port.val)))) ∧
    (∀ (port : Fin 34) (k : Packet) (y : Port), port.val < 32 → portUp s port.val = true →
      deadAt s (getPort s port.val) = none →
      drr false (Blk.fab.rd s (0x100 + 8 * port.val)) 100 (getPort s port.val) = some (k, y) →
      (getPort s port.val).txBuf.length + newFlits (getPort s port.val) (pktSize k) ≤ 512 →
      exec (.packetSend port) s = .next (noteBlocked (countPacket
        (setPort s port.val (toFlits (takeOut y false k) (encodePacket (outPacket (getPort s port.val) k))
          (drr false (Blk.fab.rd s (0x100 + 8 * port.val)) 100 (takeOut y false k)).isNone)) port.val k false) port.val)) ∧
    (∀ (port : Fin 34) (k : Packet) (rest : List Packet), port.val < 32 → portUp s port.val = false →
      (getPort s port.val).outq = k :: rest →
      exec (.packetSend port) s = .next (forward (setPort s port.val { getPort s port.val with outq := rest }) k)) ∧
    (∀ (port : Fin 34) (k : Packet), port.val < 32 → portUp s port.val = true → deadAt s (getPort s port.val) = some k →
      exec (.packetSend port) s = .next (noRoute
        (setPort s port.val { getPort s port.val with outq := (getPort s port.val).outq.erase k }) k)) ∧
    (∀ (i : Nat) (e : CombEntry), s.comb[i]? = some e → 2 ≤ s.now - e.openedAt → e.followers = [] →
      ∀ t, t = setComb s (s.comb.filter (fun x => !(decide (x = e)))) →
        exec (.combWindowClose i) s = .next (flushComb t e (portOfCtx t e.first.ctx))) ∧
    (∀ (port : Fin 34) (vc : Fin 8) (v since : Nat),
      (getPort s port.val).blockedSince.find? (fun e => e.1 / 2 = vc.val && !(getPort s port.val).creditRaised.contains e.1) = some (v, since) →
      Blk.fab.rd s 0x44 ≠ 0 → Blk.fab.rd s 0x44 < s.now - since →
      exec (.creditTimeout port vc) s = .next (Blk.fab.raise (Blk.fab.event (setPort s port.val
        { getPort s port.val with creditRaised := (getPort s port.val).creditRaised ++ [v] }) 23) 0x0109 0
        (port.val + 2 ^ 8 * vc.val)))

/-- O50 (10_links_router_and_host_bridge.md R223, R224, R225; log entry 198). At an UP port, of a flit's 256 bytes: one that
is sound but no DATA flit or out of order changes nothing but adds its corrected symbols; a DATA flit in order appends its
payload to what came before, and every packet complete there enters the router; a pair that failed makes the port discard
and owe a NAK; a flit whose CRC-32C fails is counted in CRC_ERR, the port discards, and a NAK is owed. What fills a flit
beyond its packets is log entry 198. -/
def Obligations.FlitsAreTakenInOrder : Prop :=
  ∀ (s u : State) (p : Fin 32) (f : Flit), s.Canon → portUp s p.val = true → f.uncorr = 0 → u = (Blk.lnk p).add s 0x68 f.corrected →
    (flitCrcOk f.bytes = true → f.pairBad = false →
      flitKind f.bytes ≠ flitData ∨ flitSeq f.bytes ≠ (getPort s p.val).expect →
      exec (.dataFlitReceive p f) s = .next u) ∧
    (flitCrcOk f.bytes = true → f.pairBad = false → flitKind f.bytes = flitData → flitSeq f.bytes = (getPort s p.val).expect →
      ∀ l r, l = (getPort s p.val).rx ++ flitPayload f.bytes → r = takePackets p.val (l.length / 8 + 1) l →
        exec (.dataFlitReceive p f) s = .next (forEach r.1
          (modPort u p.val (fun x => { x with expect := (x.expect + 1) % 4096, discarding := false, nakPending := false, rx := r.2 }))
          (fun v k => countPacket { v with toRoute := v.toRoute ++ [withPart v k] } p.val (withPart v k) true))) ∧
    (flitCrcOk f.bytes = true → f.pairBad = true →
      exec (.dataFlitReceive p f) s = .next (modPort u p.val (fun x => { x with discarding := true, nakPending := true }))) ∧
    (flitCrcOk f.bytes = false →
      exec (.dataFlitReceive p f) s = .next (modPort ((Blk.lnk p).sat u 0x74) p.val
        (fun x => { x with discarding := true, nakPending := true })))

/-- O51 (10_links_router_and_host_bridge.md R225, R227, R228, R229, R230, R231; 14_islands_energy_and_live_calibration.md
R318; log entry 62; log entry 63; log entry 225). A control flit frees acknowledged flits and adds credits, and one with
NAK sends the others again; 8 resends of a flit start a retrain; training or a retrain that succeeds in time with at most
two bad lanes (log entry 63) brings the port UP, and a clearing of lanes then has 1 s to run (log entry 225); one past its
time, whole or of its stage, goes DOWN with code 0x0101 or 0x0103, and a port that is DOWN retries after a second when
enabled; a failing lane is dropped, also of P30 and P31 where the device is no bridge; a neighbour's identity is recorded,
and one against the wiring raises WIRING. Log entry 62. -/
def Obligations.LinkEvents : Prop :=
  ∀ (s : State) (p : Fin 32),
    (∀ (f : Flit) (c : List Byte) (kept again : List TxFlit) (u : State),
      s.Canon → portUp s p.val = true → f.uncorr = 0 → flitCrcOk f.bytes = true → f.pairBad = false → flitKind f.bytes = flitControl →
      c = flitPayload f.bytes → kept = (getPort s p.val).txBuf.filter (fun t => 512 < (ctlAck c + 4096 - t.seq) % 4096 + 1) →
      again = kept.map (fun t => { t with resent := t.resent + 1 }) → u = (Blk.lnk p).add s 0x68 f.corrected →
      (ctlNak c = false → exec (.controlFlitReceive p f) s = .next (noteEyes (noteBlocked (setPort u p.val { getPort s p.val with
        txBuf := kept, credit := addCredits (getPort s p.val).credit (ctlCredits c) }) p.val) p f.eyes)) ∧
      (ctlNak c = true → exec (.controlFlitReceive p f) s = .next (noteEyes (noteBlocked
        (setPort ((Blk.lnk p).sat u 0x78) p.val { getPort s p.val with
          txBuf := again, credit := addCredits (getPort s p.val).credit (ctlCredits c),
          wire := (getPort s p.val).wire ++ again.map (fun t => t.bytes) }) p.val) p f.eyes))) ∧
    (portUp s p.val = true → (∃ t ∈ (getPort s p.val).txBuf, 8 ≤ t.resent) →
      exec (.replayStorm p) s = .next (startRetrain ((Blk.lnk p).event s 20) p)) ∧
    (∀ (since : Nat) (reversed : Bool) (lanes : LanesFound) (x : Port),
      (getPort s p.val).trainFrom = some since → linkState s p = 5 → (getPort s p.val).met = true →
      (getPort s p.val).laneLost = false → (getPort s p.val).badLanes.length ≤ 2 → lanes.failed = [] →
      x = { getPort s p.val with
        inverted := lanes.inverted.map Fin.val, eyeTrained := lanes.eyes, eye := lanes.eyes, trainFrom := none, dateline := bit ((Blk.lnk p).rd s 0x40) 0,
        clearEnd := if (getPort s p.val).clearing.isSome then some (s.now + 1000000) else none } →
      ∀ u,
        ((getPort s p.val).retraining = true ∧ s.now - since ≤ 500 ∧ u = setPort s p.val { x with
            retraining := false, txBuf := x.txBuf.map (fun f => { f with resent := 0 }), wire := x.txBuf.map TxFlit.bytes }) ∨
          ((getPort s p.val).retraining = false ∧ s.now - since ≤ 100000 ∧
            u = setPort s p.val { x with freed := allotment s p, credit := List.replicate 16 0 }) →
        exec (.linkUp p reversed lanes) s = .next ((Blk.lnk p).event
          (showLink ((Blk.lnk p).wr u 0x48 (laneMapValue (getPort u p.val) reversed)) p 6) 16)) ∧
    (∀ since, (getPort s p.val).trainFrom = some since →
      ((getPort s p.val).retraining = false →
        100000 ≤ s.now - since ∨ stageLimit (linkState s p) < s.now - (getPort s p.val).stageFrom →
        exec (.linkTrainTimeout p) s =
          .next ((Blk.lnk p).raise ((Blk.lnk p).event (goDown s p false) 21) 0x0101 0 p.val)) ∧
      ((getPort s p.val).retraining = true →
        500 ≤ s.now - since ∨ stageLimit (linkState s p) < s.now - (getPort s p.val).stageFrom →
        exec (.linkTrainTimeout p) s = .next ((Blk.lnk p).raise (goDown s p false) 0x0103 0 p.val))) ∧
    (∀ since, (getPort s p.val).downSince = some since → (getPort s p.val).laneLost = false → 1000000 ≤ s.now - since →
      (Blk.lnk p).enabled s = true → exec (.trainRetryTimer p) s = .next (startTraining s p)) ∧
    (∀ lane : Fin 9, p.val < 30 ∨ isBridge s = false → exec (.laneFail p lane) s = .next (dropLane s p lane.val 1)) ∧
    (∀ (peer : Word64) (delay : Nat) (u : State), s.Canon → linkState s p = 5 →
      u = (Blk.lnk p).wr ((Blk.lnk p).wr (modPort s p.val (fun x => { x with met := true })) 0x58 peer.toNat) 0x60 (min delay 0xFFFFFFFF) →
      (Blk.svc.rd s 0xC0 = 0 ∨ Blk.svc.rd s 0xC0 ≠ bits peer.toNat 32 32 → exec (.linkIdent p peer delay) s = .next u) ∧
      (Blk.svc.rd s 0xC0 ≠ 0 → Blk.svc.rd s 0xC0 = bits peer.toNat 32 32 →
        wiringOk (bits (Blk.svc.rd s 0xC4) 0 3) p.val (bits peer.toNat 24 3) (bits peer.toNat 18 5) = false →
        exec (.linkIdent p peer delay) s = .next ((Blk.lnk p).event u 22)))

/-- O52 (10_links_router_and_host_bridge.md R237, R238, R239, R240, R241, R242; 10_links_router_and_host_bridge.md Table
10.12; log entry 55; log entry 173; log entry 202; log entry 220). On a bridge that serves: BAR0 accesses of 4 bytes
outside the direct ranges act as the host's partition; BAR2 reads, writes (plain or flagged by MODE) and atomics become
requests at the window's global address; an unsupported request is counted. A host read is released after its slot's
writes; a request to the host ID is answered through the router, and while the PCIe link is down every waiting packet is
routed again (log entry 55; one for no host ID: log entry 202); a vector past its hold-off sends its message; a link
change is recorded, with the configuration that the host has set (log entries 173 and 220), and raises PCIE_LINK when the
link comes up or goes down. -/
def Obligations.HostCommands : Prop :=
  ∀ s : State,
    (serving s = true → isBridge s = true →
      (∀ (off : Nat) (val : Word64), off < 0x400000 → hostDirect off = false →
        exec (.hostBar0Access true off 4 val) s = .next (cmdWrite (inBytes s 4) (bits (Blk.hst.rd s 0x4C) 0 12) off 4 val.toNat) ∧
        exec (.hostBar0Access false off 4 val) s = .next (cmdRead (outBytes s 4) (bits (Blk.hst.rd s 0x4C) 0 12) off 4)) ∧
      (∀ off k a mode, window s off = some (k, a, mode) →
        (∀ size tag, exec (.hostBar2Read off size tag) s = .next (issue (outBytes s size) (hostIssuer s k)
          { op := 0x00, addr := a, size := size } (.hostRead k tag a size))) ∧
        (∀ data : List Byte, mode = 0 → exec (.hostBar2Write off data) s = .next (issue (inBytes s data.length)
          (hostIssuer (inBytes s data.length) k) { op := 0x10, addr := a, size := data.length, data := data } (.hostWrite k))) ∧
        (∀ data : List Byte, mode = 1 ∨ mode = 2 → data.length = 4 ∨ data.length = 8 → a % data.length = 0 →
          exec (.hostBar2Write off data) s = .next (issue (inBytes s data.length) (hostIssuer (inBytes s data.length) k)
            { op := 0x20, addr := a, size := data.length, data := data, flagAll := mode = 2 } (.hostWrite k))) ∧
        (∀ kind size (val cmp : Word64) tag, exec (.hostBar2Atomic kind off size val cmp tag) s = .next
          (issue (inBytes s size) (hostIssuer s k)
            { op := hostOp kind size, addr := a, size := size, data := leBytes size val.toNat, cmp := cmp.toNat % 2 ^ (8 * size) }
            (.hostRead k tag a size)))) ∧
      exec (.hostUr none) s = .next (Blk.hst.event (Blk.hst.sat s 0x64) 17)) ∧
    (∀ (slot : Fin 64) (o : OutReq),
      s.outs.find? (fun o => o.req.ctx = 0x7C0 + slot.val && reqLoad o.req && o.phase = .rowHeld) = some o →
      mustHold s o = false → exec (.hostReadRelease slot) s = .next (settleOuts (releaseOne s o))) ∧
    (∀ (r : Request) (sub port : Nat) (rest : List Packet) (rep : Reply) (s1 : State), s.hostQ = .req r sub port :: rest →
      pcieUp s = true → isHostId s (devOf r.addr) = true → toHost { s with hostQ := rest } r = (rep, s1) → r.src ≠ selfId s →
      exec .deviceToHostRequest s = .next { s1 with toRoute := s1.toRoute ++ [.rep rep r.part 0 30] }) ∧
    (∀ (k : Packet) (rest : List Packet), s.hostQ = k :: rest → pcieUp s = false →
      exec .deviceToHostRequest s = .next (forward { s with hostQ := rest } k)) ∧
    (∀ v : Fin 64, SMap.get d0 s.msixHeld v.val ≠ 0 →
      bits (Blk.hst.rd s 0x60) 0 16 ≤ s.now + 1 - SMap.get d0 s.msixAt v.val →
      exec (.msixHoldoffExpire v) s = .next (msixSend { s with msixHeld := SMap.set d0 s.msixHeld v.val 0 } v.val)) ∧
    (∀ (up : Bool) (rate width : Nat) (x : PcieShown) (u : State), isBridge s = true →
      u = sendPending (Blk.hst.event (Blk.hst.wr { s with pcieCfg := x.cfg } 0x44
        (rate % 16 + width % 32 * 2 ^ 4 + x.ltssm % 16 * 2 ^ 12 + b2n up * 2 ^ 16)) 16) →
      exec (.pcieLinkChange up rate width x) s = .next (if pcieUp s = up then u else Blk.fab.event u 24))

/-- O53 (13_hbm4_memory_system.md R288, R289). For an aligned 256-byte block below 512 GiB, the pseudo-channel is 64 × the
stack plus the exclusive or of offset bits [13:8], [19:14] and [25:20], its offset is bits [35:14] then [7:0], and the
block's other bytes follow in the same pseudo-channel. -/
def Obligations.HbmAddressMap : Prop :=
  ∀ a k, a < 0x8000000000 → k < 256 → a % 256 = 0 →
    pcOf a = 64 * (a / 2 ^ 36) + (a / 2 ^ 8 % 64 ^^^ a / 2 ^ 14 % 64 ^^^ a / 2 ^ 20 % 64) ∧
    pcoffOf a = a % 2 ^ 36 / 2 ^ 14 * 2 ^ 8 + a % 2 ^ 8 ∧
    pcOf (a + k) = pcOf a ∧ pcoffOf (a + k) = pcoffOf a + k

/-- O54 (13_hbm4_memory_system.md R287, R292, R294 to R300; log entry 67; log entry 71; log entry 213; log entry 216). A
pseudo-channel takes the requests that arrive into its two queues and issues the one they choose, and a read may report an
eye; a BULK request past the age limit issues, in an open slot, with what must precede it; a refresh of a bank that is due
counts the on-die reports and sets the bank's next (the interval: log entry 213), and a refresh-management command of a
bank with activations ends their count; a write training that is due, or as much earlier as R296 allows, retrains and
records drift and eye; a failing unit is repaired; patrol reads and test writes access the generator's position, or the
row that a spare serves (log entry 216), and advance it. Log entries 67 and 71. -/
def Obligations.HbmCommands : Prop :=
  ∀ (s : State) (pc : Fin 512),
    (∀ (t : Nat) (arrivals : List HbmReq) (errs : List (Nat × Nat)) (s1 u : State) (r : Nat × HbmReq),
      s1 = enqueue s pc.val (arrivals.map (fun r => { r with own := false })) → chooseReq s1 pc.val t = some r →
      u = issueReq (addStoredErr s1 (hbmAddr pc.val r.2.off) errs) pc.val t r →
      exec (.hbmIssue pc t arrivals { errs := errs }) s = .next u ∧
      ∀ (drift eye : Byte) (pin : Fin 36),
        exec (.hbmIssue pc t arrivals { errs := errs, eye := some (drift, eye, pin) }) s =
          .next (if r.2.data.isNone then recordEye u pc.val drift eye pin else u)) ∧
    (∀ t b rest, (bulkQ s pc.val).filter (fun e => !rowHeld s pc.val t e.2) = b :: rest → openSlot s pc.val t = true →
      bulkAge s pc.val < t - b.2.since →
      exec (.bulkAgeExpire pc t) s = .next (issueReq s pc.val t (firstToBurst s pc.val b))) ∧
    (∀ (r : RefreshSlot) (k : Nat), k = 16 * r.pc.val + r.bank.val →
      (r.manage = false → SMap.get d0 s.refreshDue k ≤ r.t → exec (.hbmRefresh r) s = .next { s with
        refreshDue := SMap.set d0 s.refreshDue k (r.t + refreshEvery s r.pc.val),
        bankActs := SMap.set d0 s.bankActs k 0, openRow := SMap.set d0 s.openRow k 0,
        hbmOnDie := SMap.set d0 s.hbmOnDie r.pc.val (SMap.get d0 s.hbmOnDie r.pc.val + r.reports) }) ∧
      (r.manage = true → SMap.get d0 s.bankActs k ≠ 0 → exec (.hbmRefresh r) s = .next { s with
        bankActs := SMap.set d0 s.bankActs k 0, openRow := SMap.set d0 s.openRow k 0,
        hbmOnDie := SMap.set d0 s.hbmOnDie r.pc.val (SMap.get d0 s.hbmOnDie r.pc.val + r.reports) })) ∧
    (∀ (t hold due : Nat) (drift eye : Byte) (pin : Fin 36), bits ((hbmPage pc.val).rd s 0x4C) 0 10 ≠ 0 →
      due = SMap.get d0 s.hbmTrained pc.val + 100000 * bits ((hbmPage pc.val).rd s 0x4C) 0 10 → trainingFrom s pc.val due ≤ t →
      exec (.hbmWriteTraining pc t hold drift eye pin) s = .next (recordEye
        (retrain { s with hbmTrained := SMap.set d0 s.hbmTrained pc.val (max t due) } pc.val t (min hold 200)) pc.val drift eye pin)) ∧
    (∀ e, s.hbmFailing.find? (fun e => e.1 = pc.val) = some e → bits ((hbmPage pc.val).rd s 0x50) 0 2 ≠ 2 →
      exec (.hbmRepair pc) s = .next (repairUnit { s with hbmFailing := s.hbmFailing.erase e } pc.val e.2)) ∧
    (∀ (t : Nat) (errs : List (Nat × Nat)) (pos a : Nat), pos = SMap.get d0 s.tgcPos (pc.val / 2) →
      bits ((tgcPage (pc.val / 2)).rd s 0x40) 0 2 = 3 →
      bits ((hbmPage pc.val).rd s 0x48) 0 8 ≠ 0 → pos % 2 = pc.val % 2 → idleSlot s pc.val t = true →
      a = hbmAddr pc.val (servedOff s pc.val (pos / 2)) →
      ∀ s1 nx, s1 = (readBurst (burstEnergy (addStoredErr s a errs) pc.val 1) 0 a).2 →
        nx = tgcNext (bits ((tgcPage (pc.val / 2)).rd s1 0x40) 2 2) pos 0 0x3FFFFFE0 → nx.2 = false →
        exec (.hbmPatrolRead pc { t := t, errs := errs }) s = .next ((tgcPage (pc.val / 2)).wr ((tgcPage (pc.val / 2)).add
          { s1 with tgcPos := SMap.set d0 s1.tgcPos (pc.val / 2) nx.1 } 0x60 1) 0x80 (nx.1 / 2))) ∧
    (∀ (c : Fin 256) (t : Nat) (errs : List (Nat × Nat)) (pos a : Nat) (data : List Byte × Nat),
      pos = SMap.get d0 s.tgcPos c.val → bits ((Blk.tgc c).rd s 0x40) 0 2 = 1 → openSlot s (2 * c.val + pos % 2) t = true →
      bits ((Blk.tgc c).rd s 0x44) 4 2 = 2 →
      a = hbmAddr (2 * c.val + pos % 2) (servedOff s (2 * c.val + pos % 2) (pos / 2)) →
      data = tgcData s (.tgc c) (SMap.get d0 s.tgcPrbs c.val) (pos / 2) →
      ∀ s1 nx, s1 = addStoredErr
          (writeBurst (burstEnergy (takeSlot s false a) (2 * c.val + pos % 2) 1) 0 a data.1).2 a errs →
        nx = tgcNext (bits ((Blk.tgc c).rd s 0x40) 2 2) pos
          (tgcStart s1 c.val (1 + 4 * bits ((Blk.tgc c).rd s 0x40) 2 2) / 2) (bits ((Blk.tgc c).rd s1 0x58) 0 30) →
        exec (.tgcTestAccess c { t := t, errs := errs }) s = .next { s1 with
          tgcPos := SMap.set d0 s1.tgcPos c.val nx.1,
          tgcPrbs := SMap.set d0 s1.tgcPrbs c.val (if nx.2 then (Blk.tgc c).rd s1 0x48 % 2 ^ 31 else data.2) })

/-- O55 (14_islands_energy_and_live_calibration.md R305, R308, R312 to R317; 18_package_power_and_board.md R378; log entry 5;
log entry 77; log entry 79; log entry 212; log entry 254). A pending frequency with no grant in its district changes at
once or begins its ramp, but a raise of a district that has become hot is given up (log entry 254); at the ramp's end the
voltage stands and the frequency changes once no grant remains. A request held past the limit is reported once for each
scope it fails, and one failing its district or a wider scope lowers the district. A quiet district that no sensor holds
rises by 25 MHz; one at 100 °C, of its own or the Junction's sensor, is lowered, and at 800 MHz and 105 °C alerts. The
smallest slack of a district beyond the guard for 100 µs trims it down by 2.5 mV, one below the guard up. Gains (log entry
212) and floors of the four rail groups are updated from the sensed energy; KETTLE_BIN adds 1 µs, empties the bin and
leaves memory and queue alone. Log entries 5, 77 and 79. -/
def Obligations.KettleAndCalibration : Prop :=
  ∀ s : State,
    (∀ n : Fin 20,
      (∀ f, f = SMap.get d0 s.freqPend n.val → f ≠ 0 → (∀ g ∈ s.grants, g.queue ≠ n.val) → districtMhz s n.val < f →
        districtHot s n.val = true → exec (.freqChange n) s = .next (dropFreq s n.val)) ∧
      (∀ f, f = SMap.get d0 s.freqPend n.val → f ≠ 0 → (∀ g ∈ s.grants, g.queue ≠ n.val) →
        f ≤ districtMhz s n.val ∨ districtHot s n.val = false →
        ∀ v tgt dv, v = SMap.get d0 s.halfMv n.val → tgt = 2 * bootMv s n.val f → dv = max v tgt - min v tgt →
          (dv ≠ 0 → exec (.freqChange n) s = .next (Blk.ktl.event (showDistrict { s with
            freqPend := SMap.set d0 s.freqPend n.val 0,
            ramps := SMap.set (fun _ => (0, 0, 0)) s.ramps n.val (f, tgt, s.now + (dv + 19) / 20) }
            n.val (min (districtMhz s n.val) f)) 17)) ∧
          (dv = 0 → exec (.freqChange n) s = .next (Blk.ktl.event (showDistrict { s with
            freqPend := SMap.set d0 s.freqPend n.val 0, ramps := SMap.set (fun _ => (0, 0, 0)) s.ramps n.val (0, 0, 0) }
            n.val f) 17))) ∧
      (∀ f v at_, SMap.get (fun _ => (0, 0, 0)) s.ramps n.val = (f, v, at_) → f ≠ 0 → at_ ≤ s.now →
        ∀ s1, s1 = { s with
            ramps := SMap.set (fun _ => (0, 0, 0)) s.ramps n.val (0, 0, 0), halfMv := SMap.set d0 s.halfMv n.val v } →
          ((∀ g ∈ s.grants, g.queue ≠ n.val) → exec (.voltageRampEnd n) s = .next (showDistrict s1 n.val f)) ∧
          ((∃ g ∈ s.grants, g.queue = n.val) → SMap.get d0 s.freqPend n.val = 0 →
            exec (.voltageRampEnd n) s = .next (markFreq (showDistrict s1 n.val (districtMhz s1 n.val)) n.val f)) ∧
          ((∃ g ∈ s.grants, g.queue = n.val) → SMap.get d0 s.freqPend n.val ≠ 0 →
            exec (.voltageRampEnd n) s = .next (showDistrict s1 n.val (districtMhz s1 n.val)))) ∧
      (∀ (q : SeqId) (c : CreditReq) (bad : List Nat) (u : State), s.creditQ.find? (fun c => c.inst = q.inst) = some c →
        max 1 (Blk.ktl.rd s 0x50) < s.now - c.since → bad = (failing s (askNow s c)).filter (fun k => !c.raised.contains k) → bad ≠ [] →
        u = Blk.ktl.event
          { s with creditQ := s.creditQ.map (fun d => if d.inst = q.inst then { d with raised := d.raised ++ bad } else d) } 16 →
        (20 ≤ c.queue → exec (.holdLimitExpire q) s = .next u) ∧
        (c.queue < 20 → (∃ k ∈ bad, k ≤ 20) → exec (.holdLimitExpire q) s =
          .next (lowerFreq { u with lastLong := SMap.set d0 u.lastLong c.queue u.now } c.queue))) ∧
      (∀ top, top = min (bits (Blk.ktl.rd s (0x180 + 4 * n.val)) 0 12) (bits (Blk.svc.rd s 0x1064) 0 12) →
        (∀ c ∈ s.creditQ, c.queue = n.val → pastHold s c = false) → SMap.get d0 s.temps (64 + n.val) = 0 → SMap.get d0 s.temps 84 = 0 →
        districtMhz s n.val < top → districtMhz s n.val ≠ 0 → SMap.get d0 s.freqPend n.val = 0 →
        Blk.ktl.rd s 0x54 ≤ s.now - SMap.get d0 s.lastLong n.val →
        exec (.raiseDelayExpire n) s = .next (markFreq { s with lastLong := SMap.set d0 s.lastLong n.val s.now } n.val
          (min top (districtMhz s n.val + 25)))) ∧
      (100 ≤ SMap.get d0 s.temps n.val ∨ 100 ≤ SMap.get d0 s.temps 20 → districtMhz s n.val ≠ 0 →
        ∀ u, u = lowerFreq s n.val → exec (.thermalThrottle n) s =
          .next (if districtMhz u n.val = 800 ∧ 105 ≤ SMap.get d0 u.temps n.val then alert u 1 else u))) ∧
    (∀ (i : Fin 164) (x k : Nat) (u : State), u = reportSlack s i.val x → k = islandKey i.val →
      (guardSteps u + 2 < smallestSlack u k → 100 ≤ u.now - SMap.get d0 u.slackLow k →
        exec (.voltTrimDown i x) s = .next (showIsland { u with
          slackLow := SMap.set d0 u.slackLow k u.now, halfMv := SMap.set d0 u.halfMv k (SMap.get d0 u.halfMv k - 5) } i.val)) ∧
      (x < guardSteps u → SMap.get d0 u.halfMv k < 1700 →
        ∀ v, v = showIsland { u with halfMv := SMap.set d0 u.halfMv k (SMap.get d0 u.halfMv k + 5) } i.val →
          exec (.voltTrimUp i x) s = .next (if i.val < 160 then driftCheck v k else v)) ∧
      (x < guardSteps u → 1700 ≤ SMap.get d0 u.halfMv k → exec (.voltTrimUp i x) s = .next (Blk.cal.raise (Blk.cal.event
        (Blk.cal.sat (if i.val < 160 then lowerFreq u k else u) 0x50) 17) 0x0101 0 i.val))) ∧
    (∀ sensed, exec (.gainUpdate sensed) s = .next (rescale (forEach (List.range 4) s (fun s g =>
      Blk.ktl.wr { (fresh s).2 with railBase := SMap.set d0 s.railBase g (SMap.get d0 s.totE (40 + g)) } (0x1050 + 4 * g)
        (gainNext (bits (Blk.ktl.rd s (0x1050 + 4 * g)) 0 16) (sensed.getD g 0) (floorW s g * 1000)
          (SMap.get d0 s.totE (40 + g) - SMap.get d0 s.railBase g) (fresh s).1))))) ∧
    (∀ sensed, exec (.floorUpdate sensed) s = .next (forEach (List.range 4) s (fun s g =>
      Blk.ktl.wr { s with railBase := SMap.set d0 s.railBase (8 + g) (SMap.get d0 s.totE (40 + g)) } (0x1060 + 4 * g)
        (min 0xFFFF ((sensed.getD g 0 - (SMap.get d0 s.totE (40 + g) - SMap.get d0 s.railBase (8 + g)) / microJ) / 100000))))) ∧
    (∃ t, exec .kettleBin s = .next t ∧ t.now = s.now + 1 ∧ t.mem = s.mem ∧ t.binE = [] ∧ t.pending = s.pending)

/-- O56 (15_reset_boot_and_trust.md R326, R338; 13_hbm4_memory_system.md R289; 18_package_power_and_board.md Table 18.5; log
entry 91). From every canonical state that is not held, a device reset with any of the five causes leaves the device held,
RESET_CAUSE at that cause alone, no memory but the rows of HBM that hold the repairs (R289, R338), no session, and flash,
the queue, BOARD_SERIAL, ALERT_SRC and ALERT_MASK as before. What a reset keeps is log entry 91. -/
def Obligations.DeviceResetKeepsAlwaysOn : Prop :=
  ∀ (s : State) (cause : Nat), s.Canon → s.held = false → cause < 5 →
    (deviceReset s cause).held = true ∧ (deviceReset s cause).mem = s.mem.filter (fun e => repairRow e.1) ∧ (deviceReset s cause).flash = s.flash ∧
    (deviceReset s cause).pending = s.pending ∧ Blk.svc.rd (deviceReset s cause) 0x44 = 2 ^ cause ∧
    (∀ o, o = 0xC0 ∨ o = 0xC8 ∨ o = 0xCC → Blk.svc.rd (deviceReset s cause) o = Blk.svc.rd s o) ∧
    session (deviceReset s cause) = 0

/-- O57 (15_reset_boot_and_trust.md R326 to R329; 15_reset_boot_and_trust.md Table 15.2; 16_spares_wear_and_service_life.md
Table 16.1; 18_package_power_and_board.md R372, R374, R376, R377; 18_package_power_and_board.md Table 18.3; log entry 84;
log entry 260; log entry 261; log entry 266). RESET_N, PWRGD, THERMTRIP, the watchdog and VDD_AON each reset as their
cause says; a second expiry of the watchdog within 24 h condemns a core (which one: log entry 260). RESET_N released
samples the straps, selects the PCIe clocking and runs the boot steps. A step past its limit shows that limit as its time
(log entry 266) and fails the boot with its first code of Table 15.2 (a fresh value where the table gives none), or at
step 3 tries the other slot and then enters RECOVERY, or at step 8 goes on to step 9. In RECOVERY an image's bytes are
written in order, and an unknown command answers status 3, in the bus mode of the transfer (log entry 261). What boot
meets comes with the command (log entry 84). -/
def Obligations.ResetCommands : Prop :=
  ∀ s : State,
    exec .resetNAssert s = .next { deviceReset s 1 with resetLow := true } ∧
    exec .pwrgdFall s = .next { deviceReset s 0 with pwrgd := false } ∧
    (thermLimit s = true → exec .thermtrip s = .next { deviceReset s 3 with thermHeld := true }) ∧
    exec .vinIvrRemoved s = .next { s with thermHeld := false } ∧
    (Blk.svc.rd s 0xB0 ≠ 0 →
      (s.held = true → exec .watchdogExpire s = .next (deviceReset s 4)) ∧
      (s.held = false → s.wdogAt = none → exec .watchdogExpire s = .next (deviceReset { s with wdogAt := some s.now } 4)) ∧
      (∀ t u core, s.held = false → s.wdogAt = some t → s.now < t + 86400000000 → u = { s with freeCtr := s.freeCtr + 1 } →
        (∀ l, l = (List.range 4).filter (fun n => bit (Blk.svc.rd s 0xAC) n && unitState s 5 n ≠ 1) → l ≠ [] ∧
          core = l.getD (Config.freeValue s.freeCtr % l.length) 0) →
        exec .watchdogExpire s = .next (deviceReset { condemn u 5 core 0 [] with wdogAt := some s.now } 4))) ∧
    exec .vddAonRise s = .next (Blk.svc.wr (Blk.svc.wr (Blk.svc.wr (Blk.svc.wr (Blk.svc.wr
      { discardVolatile s with thermHeld := false, resetAt := none, held := true, mem := [], hbmErr := [], resetLow := true, pwrgd := false,
                               wdogAt := none } 0x44 0) 0xC0 0) 0xC8 0) 0xCC 0x3F) 0x90 0) ∧
    (∀ env, s.held = true → s.thermHeld = false →
      exec (.resetNRelease env) s = .next (bootSteps env 8 1 (sampleStraps env { s with
        held := false, resetLow := false, pwrgd := true, stepFrom := s.now,
        commonClock := env.hostMode && decide (env.boardPos = 0) && env.pcieClock }))) ∧
    (∀ (env : BootEnv) (u : State) (n : Nat), s.held = false → env = s.bootEnv.getD {} → u = { s with bootEnv := none } →
      n = bits (Blk.svc.rd s 0x40) 0 4 →
      (n = 1 → exec .bootStepTimeout s = .next (bootFail (stepTime u 1 1000) 1 0x0201)) ∧
      (n = 2 → exec .bootStepTimeout s = .next (bootFail (stepTime u 2 100000) 2 0x0202)) ∧
      (n = 4 → exec .bootStepTimeout s = .next (bootFail (stepTime u 4 1000000) 4 0x0206)) ∧
      (∀ t f, n = 5 ∨ n = 6 ∨ n = 7 → t = stepTime u n (stepLimit n) → f = fresh t →
        exec .bootStepTimeout s = .next (bootFail f.2 n f.1)) ∧
      (∀ t, n = 3 → t = stepTime u 3 (200000 + min (env.times.getD 2 0) 200000) →
        (200000 < env.times.getD 2 0 ∨ slotGood t (1 - bits (Blk.svc.rd t 0x90) 0 1) = false →
          exec .bootStepTimeout s = .next (enterRecovery t)) ∧
        (env.times.getD 2 0 ≤ 200000 → slotGood t (1 - bits (Blk.svc.rd t 0x90) 0 1) = true →
          exec .bootStepTimeout s = .next (bootSteps env 5 4 (runImage t (1 - bits (Blk.svc.rd t 0x90) 0 1) true)))) ∧
      (n = 8 → exec .bootStepTimeout s = .next { Blk.svc.wr (stepTime u 8 150000) 0x40 9 with stepFrom := s.now })) ∧
    (∀ (x : I3cTransfer) (u : State), (∀ a, x.addr = some a → a = 0x50 + bits (Blk.svc.rd s 0xC4) 0 3) →
      u = { s with i2cMode := x.addr.isSome } →
      (x.cmd = 0x10 → s.held = false → bits (Blk.svc.rd s 0x40) 0 4 = 13 → x.data ≠ [] → x.data.length ≤ 256 →
        (s.recov ++ x.data).length < 0x2000 → exec (.i3cRecovery x) s = .next
          { writeFlash u (imageBase 0 + s.recov.length) x.data with recov := s.recov ++ x.data, answer := { status := 0 } }) ∧
      (x.cmd ≠ 0x01 → x.cmd ≠ 0x02 → x.cmd ≠ 0x10 → exec (.i3cRecovery x) s = .next { u with answer := { status := 3 } }))

/-- O58 (15_reset_boot_and_trust.md R334, R336, R337, R338, R339; log entry 87). A session past its timeout closes with event
19; OPEN_SESSION in progress is done with event 16; a command that changes a key and does not scrub appends its ownership
record and writes the state block, and is done with event 16, or rejected with code 0x0108; one that scrubs shows the
time, and ends so when the bytes read back, and with code 0x0105 when some do not; a formed quote is written where
QUOTE_ADDR says, with event 20; a staged image in HBM that verifies is written to the other slot, and one that does not
fails with code 0x0102. Log entry 87. -/
def Obligations.SecurityEvents : Prop :=
  ∀ s : State,
    (session s ≠ 0 → s.sessionEnd ≤ s.now → exec .sessionTimeout s = .next (Blk.sec.event (Blk.sec.wr s 0x40 0) 19)) ∧
    (∀ signer pk us back, s.secCmd = some (1, signer, pk) → exec (.cmdDone us back) s =
      .next (Blk.sec.event (Blk.sec.wr { s with secCmd := none } 0x5C 2) 16)) ∧
    (∀ op signer pk us back u, s.secCmd = some (op, signer, pk) → op ≠ 1 → scrubs op = false →
      u = ownershipRecord { s with secCmd := none } op signer (Blk.sec.rd s 0x60) pk false 0 →
      exec (.cmdDone us back) s = .next (match selectedState u with
        | none => rejectCmd u 0x0108
        | some (_, b) => match writeState u { b with flags := b.flags % 4 } with
          | (true, t) => Blk.sec.event (Blk.sec.wr t 0x5C 2) 16
          | (false, _) => rejectCmd u 0x0108)) ∧
    (∀ op signer pk us back v u, s.secCmd = some (op, signer, pk) → scrubs op = true → back.bad = [] →
      v = Blk.sec.wr (sweepEnergy { s with secCmd := none }) 0x78 (min us 0xFFFFFFFF) →
      u = ownershipRecord { v with scrubFailed := !back.still.isEmpty } op signer (Blk.sec.rd v 0x60) pk (!back.still.isEmpty) us →
      exec (.cmdDone us back) s = .next (match selectedState u with
        | none => rejectCmd u 0x0108
        | some (_, b) => match writeState u { b with flags := b.flags % 4 } with
          | (true, t) => if back.still = [] then Blk.sec.event (Blk.sec.wr t 0x5C 2) 16 else rejectCmd t 0x0105
          | (false, _) => rejectCmd u 0x0108)) ∧
    (∀ q, s.quote = some q → spanStatus s (Blk.sec.rd s 0x180) q.length 0 true = stOk →
      exec .quoteDone s = .next (Blk.sec.event (Blk.sec.wr
        (writeLocal { s with quote := none } 0 (Blk.sec.rd s 0x180) q true).2 0x18C 2) 20)) ∧
    (∀ img s1, bits (Blk.svc.rd s 0xA8) 0 2 = 1 → Blk.svc.rd s 0xA0 ≠ 0 → Blk.svc.rd s 0xA0 ≤ 0x2000000 →
      spanStatus s (Blk.svc.rd s 0x98) (Blk.svc.rd s 0xA0) 0 false = stOk → (∃ g, placeOf (Blk.svc.rd s 0x98) = .hbm g) →
      readLocal s 0 (Blk.svc.rd s 0x98) (Blk.svc.rd s 0xA0) true = (some img, s1) →
      ∀ other, other = 1 - bits (Blk.svc.rd s 0x80) 0 1 → exec (.stageDone true) s = .next (
        if 0x2000 + leNat ((img.drop 12).take 4) ≤ img.length ∧
            imageOk (img.take 0x2000) ((img.drop 0x2000).take (leNat ((img.drop 12).take 4))) (Blk.svc.rd s1 0x8C) = true then
          Blk.svc.event (Blk.svc.wr
            (writeFlash (eraseFlash s1 (imageBase other) (imageBase other + 0x2000000)) (imageBase other) img) 0xA8 2) 18
        else Blk.svc.raise (Blk.svc.event (Blk.svc.wr s1 0xA8 (3 + 2 ^ 16 * 0x0102)) 18) 0x0102 0 (Blk.svc.rd s 0x98)))

/-- O59 (16_spares_wear_and_service_life.md R342, R344 to R347, R352 to R354; 02_address_space_and_register_pages.md R38; log
entry 93; log entry 95; log entry 203; log entry 204; log entry 257). WEAR_CONDEMN of a tile notes the slack that its
replicas report and, with TRIM_LIMIT raised, condemns the tile; SPARE_BRING_IN brings a spare in; a failing combining bank
is reported and lost; a failing tile in use is disabled (log entry 257), recorded (log entry 204), reported and waits for
its spare, and a failing spare tile leaves its pool; a failing lane is counted and condemned; STATUS_RECORD appends the
energy and the districts' and stacks' weighted hours when the hours are up, and nothing before; REPUBLISH republishes when
every partition has drained and boot has published. Log entries 93, 95 and 203. -/
def Obligations.SpareEvents : Prop :=
  ∀ s : State,
    (∀ (u slackSeen : Nat) (ends parts : List Nat), u < 160 → exec (.wearCondemn 0 u slackSeen true ends parts) s =
      .next (condemn (reportSlack s u slackSeen) 0 u 0 ends)) ∧
    (∀ cls u bad, exec (.spareBringIn cls u bad) s = .next (bringIn s cls u bad)) ∧
    (∀ u ends, unitExists 7 u = true → unitState s 7 u = 0 → exec (.unitFail 7 { unit := u, ends := ends }) s =
      .next (loseBank (reportFailed (Blk.spr.countErr s) 7 u 0) u 1)) ∧
    (∀ u ends t v, u < 160 → unitState s 0 u = 0 → t = failTile (setUnit (Blk.spr.countErr s) 0 u 4) u →
      v = reportUnit (spareRecord t 0 1 u none (classFree t 0)) 0 u u →
      exec (.unitFail 0 { unit := u, ends := ends }) s = .next
        (settleTiles (addWaiting { v with waiting := v.waiting.filter (fun w => !(w.1 = 0 && w.2.1 = u)) } 0 u 1))) ∧
    (∀ u ends, u < 160 → unitState s 0 u = 1 → exec (.unitFail 0 { unit := u, ends := ends }) s = .next (settleTiles (poolFail s 0 u))) ∧
    (∀ u ends, unitExists 3 u = true → unitState s 3 u = 0 →
      exec (.unitFail 3 { unit := u, ends := ends }) s = .next (condemn (Blk.spr.countErr s) 3 u 1 ends)) ∧
    (∀ bank, exec (.ccacheBankFail bank) s = .next (loseBank s bank 1)) ∧
    (statusDue s = false → exec .statusRecord s = .next s) ∧
    (statusDue s = true → exec .statusRecord s = .next (appendRecord s 0x0007 (leBytes 8 (energyJ s) ++
      (List.range 20).flatMap (fun n => leBytes 4 (weightedHours s n)) ++
      (List.range 8).flatMap (fun k => leBytes 4 (SMap.get d0 s.wear (1024 + k) / 60))))) ∧
    (s.held = false → Blk.svc.rd s 0x1040 ≠ 0 → allDrained s = true → exec .republish s = .next (republish s))

/-- O60 (18_package_power_and_board.md R371, R373, R375, R377; 17_counters_debug_and_observation.md R363; log entry 164; log
entry 165). The first TPULSE edge out of reset sets system time 0 and locks, and one in reset changes nothing; an edge out
of place is counted and sets nothing (log entry 165); edges missing for two periods alert with cause 5. RAIL_STAT shows
the rails; a rail out for 10 µs with PWRGD high alerts with cause 2, one out for less or with PWRGD low does not. A
temperature from 97 to below 100 °C is recorded; a tile at its drain point halts with event 17. -/
def Obligations.PackageEvents : Prop :=
  ∀ s : State,
    (∀ v, v = Blk.svc.rd s 0xD8 → s.held = false → bit v 0 = false → exec .tpulseEdge s = .next { Blk.fab.wr (Blk.svc.wr s 0xD8
      (putBits (putBits v 16 16 (min 0xFFFF (bits v 16 16 + 1))) 0 1 1)) 0x804C 0 with lastEdge := s.now }) ∧
    (s.held = true → exec .tpulseEdge s = .next s) ∧
    (∀ v, v = Blk.svc.rd s 0xD8 → s.held = false → bit v 0 = true → 2 < Blk.fab.rd s 0x804C → Blk.fab.rd s 0x804C < 2 ^ 20 - 2 →
      exec .tpulseEdge s = .next (Blk.svc.wr s 0xD8 (putBits v 8 8 (min 0xFF (bits v 8 8 + 1))))) ∧
    (bit (Blk.svc.rd s 0xD8) 0 = true → s.lastEdge + 2 * 2 ^ 20 + 2 < s.now → exec .tpulseLost s = .next (alert s 5)) ∧
    (∀ (r : RailsShown) (u : State), u = Blk.svc.wr s 0xD4 (r.stat % 16) →
      (r.long = true → r.stat % 16 ≠ 15 → s.pwrgd = true → exec (.railFault r) s = .next (alert u 2)) ∧
      (r.long = false ∨ r.stat % 16 = 15 ∨ s.pwrgd = false → exec (.railFault r) s = .next u)) ∧
    (∀ sensor temp, sensor < 21 → 97 ≤ temp → temp < 100 → exec (.thermalThreshold sensor temp) s =
      .next (showTj { s with temps := SMap.set d0 s.temps sensor temp })) ∧
    (∀ t : Fin 160, dbgPhase s t = 1 → tileAtDrain s t = true →
      exec (.dbgHalted t) s = .next ((Blk.dbgT t).event ((Blk.dbgT t).put s 0x74 0 2 2) 17))
end

