-- ==== Sys2Proof/Laws/Sparse.lean ====
section
/-! SUPPORT. Sys2Proof/Laws/Sparse.lean: what sparse maps do: reads after writes, and that every operation keeps the canonical form. -/
namespace Sys2Proof.Machine

variable {α : Type} [DecidableEq α] {dflt : Nat → α}

theorem SMap.wfFrom_nil (lo : Nat) : SMap.wfFrom dflt lo [] = true := rfl

theorem SMap.wfFrom_cons {lo k : Nat} {v : α} {m : SMap α} :
    SMap.wfFrom dflt lo ((k, v) :: m) = true ↔ lo ≤ k ∧ v ≠ dflt k ∧ SMap.wfFrom dflt (k + 1) m = true := by
  simp [SMap.wfFrom, and_assoc]

/-- A lower bound on the keys may be lowered. -/
theorem SMap.wfFrom_mono {lo lo' : Nat} (h : lo' ≤ lo) {m : SMap α} (hm : SMap.wfFrom dflt lo m = true) :
    SMap.wfFrom dflt lo' m = true := by
  cases m with
  | nil => rfl
  | cons e m => obtain ⟨k, v⟩ := e; rw [SMap.wfFrom_cons] at *; exact ⟨by omega, hm.2⟩

/-- A key below every key of a map reads as the default. -/
theorem SMap.get_lt {lo k : Nat} (h : k < lo) {m : SMap α} (hm : SMap.wfFrom dflt lo m = true) : SMap.get dflt m k = dflt k := by
  cases m with
  | nil => rfl
  | cons e m =>
    obtain ⟨k', v⟩ := e
    rw [SMap.wfFrom_cons] at hm
    simp [SMap.get, show k ≠ k' by omega, show k < k' by omega]

/-- An entry in front that is dropped when it is the default. -/
theorem SMap.wfFrom_consd {lo k : Nat} {v : α} {m : SMap α} (h : lo ≤ k) (hm : SMap.wfFrom dflt (k + 1) m = true) :
    SMap.wfFrom dflt lo (SMap.cons dflt k v m) = true := by
  unfold SMap.cons
  split
  · exact SMap.wfFrom_mono (by omega) hm
  · rw [SMap.wfFrom_cons]; exact ⟨h, ‹_›, hm⟩

theorem SMap.get_consd_same {k : Nat} {v : α} {m : SMap α} (hm : SMap.wfFrom dflt (k + 1) m = true) :
    SMap.get dflt (SMap.cons dflt k v m) k = v := by
  unfold SMap.cons
  split
  · rw [SMap.get_lt (by omega) hm]; exact (‹v = dflt k›).symm
  · simp [SMap.get]

theorem SMap.get_consd_ne {k k' : Nat} {v : α} {m : SMap α} (h : k' ≠ k) (hm : SMap.wfFrom dflt (k + 1) m = true) :
    SMap.get dflt (SMap.cons dflt k v m) k' = SMap.get dflt m k' := by
  unfold SMap.cons
  split
  · rfl
  · simp only [SMap.get, if_neg h]
    split
    · exact (SMap.get_lt (by omega) hm).symm
    · rfl

/-- Setting a key keeps the canonical form. -/
theorem SMap.wfFrom_set {lo k : Nat} {v : α} (h : lo ≤ k) {m : SMap α} (hm : SMap.wfFrom dflt lo m = true) :
    SMap.wfFrom dflt lo (SMap.set dflt m k v) = true := by
  induction m generalizing lo with
  | nil => exact SMap.wfFrom_consd h rfl
  | cons e m ih =>
    obtain ⟨k', v'⟩ := e
    rw [SMap.wfFrom_cons] at hm
    simp only [SMap.set]
    split
    · exact SMap.wfFrom_consd h (SMap.wfFrom_cons.2 ⟨by omega, hm.2⟩)
    · split
      · subst k'; exact SMap.wfFrom_consd h hm.2.2
      · rw [SMap.wfFrom_cons]; exact ⟨hm.1, hm.2.1, ih (by omega) hm.2.2⟩

/-- A key reads as it was set. -/
theorem SMap.getFrom_set_same {lo k : Nat} {v : α} {m : SMap α} (hm : SMap.wfFrom dflt lo m = true) :
    SMap.get dflt (SMap.set dflt m k v) k = v := by
  induction m generalizing lo with
  | nil => exact SMap.get_consd_same rfl
  | cons e m ih =>
    obtain ⟨k', v'⟩ := e
    rw [SMap.wfFrom_cons] at hm
    simp only [SMap.set]
    split
    · exact SMap.get_consd_same (SMap.wfFrom_cons.2 ⟨by omega, hm.2⟩)
    · split
      · subst k'; exact SMap.get_consd_same hm.2.2
      · simp only [SMap.get, if_neg ‹¬k = k'›, if_neg ‹¬k < k'›]; exact ih hm.2.2

/-- Every other key reads as before. -/
theorem SMap.getFrom_set_ne {lo k k' : Nat} {v : α} (h : k' ≠ k) {m : SMap α} (hm : SMap.wfFrom dflt lo m = true) :
    SMap.get dflt (SMap.set dflt m k v) k' = SMap.get dflt m k' := by
  induction m generalizing lo with
  | nil => exact SMap.get_consd_ne h rfl
  | cons e m ih =>
    obtain ⟨j, v'⟩ := e
    rw [SMap.wfFrom_cons] at hm
    simp only [SMap.set]
    split
    · exact SMap.get_consd_ne h (SMap.wfFrom_cons.2 ⟨by omega, hm.2⟩)
    · split
      · subst j
        rw [SMap.get_consd_ne h hm.2.2]
        simp only [SMap.get, if_neg h]
        split
        · exact SMap.get_lt (by omega) hm.2.2
        · rfl
      · simp only [SMap.get]
        split
        · rfl
        · split
          · rfl
          · exact ih hm.2.2

theorem SMap.wf_nil : SMap.wf dflt ([] : SMap α) = true := rfl
theorem SMap.wf_set {m : SMap α} (h : SMap.wf dflt m = true) (k : Nat) (v : α) : SMap.wf dflt (SMap.set dflt m k v) = true :=
  SMap.wfFrom_set (Nat.zero_le k) h
theorem SMap.get_set_same {m : SMap α} (h : SMap.wf dflt m = true) (k : Nat) (v : α) :
    SMap.get dflt (SMap.set dflt m k v) k = v := SMap.getFrom_set_same h
theorem SMap.get_set_ne {m : SMap α} (h : SMap.wf dflt m = true) {k k' : Nat} (v : α) (hk : k' ≠ k) :
    SMap.get dflt (SMap.set dflt m k v) k' = SMap.get dflt m k' := SMap.getFrom_set_ne hk h

theorem SMap.wf_setMany {m : SMap α} (h : SMap.wf dflt m = true) (k : Nat) (vs : List α) :
    SMap.wf dflt (SMap.setMany dflt m k vs) = true := by
  induction vs generalizing m k with
  | nil => exact h
  | cons v vs ih => exact ih (SMap.wf_set h k v) (k + 1)

/-- Setting a run of keys leaves every key outside it. -/
theorem SMap.get_setMany_out {m : SMap α} (h : SMap.wf dflt m = true) {k a : Nat} {vs : List α} (ha : a < k ∨ k + vs.length ≤ a) :
    SMap.get dflt (SMap.setMany dflt m k vs) a = SMap.get dflt m a := by
  induction vs generalizing m k with
  | nil => rfl
  | cons v vs ih =>
    simp only [List.length_cons] at ha
    simp only [SMap.setMany]
    rw [ih (SMap.wf_set h k v) (by omega), SMap.get_set_ne h v (by omega)]

/-- A run of keys reads as it was set. -/
theorem SMap.getMany_setMany {m : SMap α} (h : SMap.wf dflt m = true) (k : Nat) (vs : List α) :
    SMap.getMany dflt (SMap.setMany dflt m k vs) k vs.length = vs := by
  induction vs generalizing m k with
  | nil => rfl
  | cons v vs ih =>
    simp only [SMap.setMany, List.length_cons, SMap.getMany]
    rw [ih (SMap.wf_set h k v) (k + 1), SMap.get_setMany_out (SMap.wf_set h k v) (by omega), SMap.get_set_same h]

/-- Dropping entries keeps the canonical form. -/
theorem SMap.wfFrom_filter {lo : Nat} {m : SMap α} (p : Nat × α → Bool) (h : SMap.wfFrom dflt lo m = true) :
    SMap.wfFrom dflt lo (m.filter p) = true := by
  induction m generalizing lo with
  | nil => rfl
  | cons e m ih =>
    obtain ⟨k, v⟩ := e
    rw [SMap.wfFrom_cons] at h
    rw [List.filter_cons]
    split
    · rw [SMap.wfFrom_cons]; exact ⟨h.1, h.2.1, ih h.2.2⟩
    · exact SMap.wfFrom_mono (by omega) (ih h.2.2)
theorem SMap.wf_filter {m : SMap α} (p : Nat × α → Bool) (h : SMap.wf dflt m = true) : SMap.wf dflt (m.filter p) = true :=
  SMap.wfFrom_filter p h
theorem SMap.wf_clear {m : SMap α} (h : SMap.wf dflt m = true) (lo hi : Nat) : SMap.wf dflt (SMap.clear m lo hi) = true :=
  SMap.wf_filter _ h

/-- A map built by setting keys has the canonical form. -/
theorem SMap.wf_foldl {β : Type} (l : List β) (f : β → Nat) (g : β → α) {m : SMap α} (h : SMap.wf dflt m = true) :
    SMap.wf dflt (l.foldl (fun m e => SMap.set dflt m (f e) (g e)) m) = true := by
  induction l generalizing m with
  | nil => exact h
  | cons e l ih => exact ih (SMap.wf_set h _ _)

end Sys2Proof.Machine
end

