-- ==== Sys2Proof/Laws/Access.lean ====
section
/-! SUPPORT. Sys2Proof/Laws/Access.lean: registers read back, blocks lie where their base says, and an access that the checks
admit is performed at the block's register. -/
namespace Sys2Proof.Machine

set_option Elab.async false

/-! ### Reading what was written -/

theorem rd_wr_same {s : State} (h : SMap.wf resetVal s.regs = true) (o v : Nat) : rd (wr s o v) o = v % 2 ^ 64 := by
  unfold rd wr; dsimp only; rw [SMap.get_set_same h]; exact BitVec.toNat_ofNat v 64
theorem rd_wr_ne {s : State} (h : SMap.wf resetVal s.regs = true) {o k : Nat} (v : Nat) (hk : k ≠ o) : rd (wr s o v) k = rd s k := by
  unfold rd wr; dsimp only; rw [SMap.get_set_ne h _ hk]
theorem wf_wr {s : State} (h : SMap.wf resetVal s.regs = true) (o v : Nat) : SMap.wf resetVal (wr s o v).regs = true :=
  SMap.wf_set h o _
theorem rd_lt (s : State) (o : Nat) : rd s o < 2 ^ 64 := (SMap.get resetVal s.regs o).isLt

theorem Blk.rd_wr_same {s : State} (h : SMap.wf resetVal s.regs = true) (b : Blk) (o v : Nat) : b.rd (b.wr s o v) o = v % 2 ^ 64 :=
  Machine.rd_wr_same h _ v
theorem Blk.rd_wr_ne {s : State} (h : SMap.wf resetVal s.regs = true) (b : Blk) {o k : Nat} (v : Nat) (hk : k ≠ o) :
    b.rd (b.wr s o v) k = b.rd s k := Machine.rd_wr_ne h v (by omega)
theorem Blk.wf_wr {s : State} (h : SMap.wf resetVal s.regs = true) (b : Blk) (o v : Nat) : SMap.wf resetVal (b.wr s o v).regs = true :=
  Machine.wf_wr h _ v
theorem Blk.rd_lt (b : Blk) (s : State) (o : Nat) : b.rd s o < 2 ^ 64 := Machine.rd_lt s _

/-- A register whose number differs from the one written keeps its value, whatever block it is of. -/
theorem Blk.rd_wr_other {s : State} (h : SMap.wf resetVal s.regs = true) (b c : Blk) {o k : Nat} (v : Nat)
    (hk : c.base + k ≠ b.base + o) : c.rd (b.wr s o v) k = c.rd s k := Machine.rd_wr_ne h v hk

/-! ### Where a block lies -/

/-- The page that holds an offset of a block is that block's (Tables 2.3 to 2.6). -/
theorem blkAt_base (b : Blk) {o : Nat} (h : o < b.pages * 0x1000) : blkAt (b.base + o) = some (b, o / 0x1000) := by
  unfold blkAt
  cases b with
  | seq q =>
    cases q with
    | die d q =>
      obtain ⟨d, hd⟩ := d; obtain ⟨q, hq⟩ := q
      simp only [Blk.pages, Blk.base, engBase] at *
      obtain rfl | rfl : d = 0 ∨ d = 1 := by omega
      all_goals
        unfold blkPage
        repeat rw [if_neg (by omega)]
        repeat rw [dif_neg (by omega)]
        repeat rw [if_neg (by omega)]
        repeat rw [dif_neg (by omega)]
        rw [dif_pos (by omega)]
        dsimp only
        rw [if_neg (by omega)]
        simp only [Option.some.injEq, Prod.mk.injEq, Blk.seq.injEq, SeqId.die.injEq, Fin.ext_iff]
        refine ⟨⟨by simp, by omega⟩, by omega⟩
    | tile t i =>
      obtain ⟨t, ht⟩ := t; obtain ⟨i, hi⟩ := i
      simp only [Blk.pages, Blk.base, tileWin] at *
      unfold blkPage
      repeat rw [if_neg (by omega)]
      repeat rw [dif_neg (by omega)]
      repeat rw [if_neg (by omega)]
      repeat rw [dif_neg (by omega)]
      rw [dif_pos (by omega)]
      dsimp only
      rw [if_neg (by omega), dif_pos (by omega)]
      simp only [Option.some.injEq, Prod.mk.injEq, Blk.seq.injEq, SeqId.tile.injEq, Fin.ext_iff]
      refine ⟨⟨by omega, by omega⟩, by omega⟩
  | eng d q =>
    obtain ⟨d, hd⟩ := d; obtain ⟨q, hq⟩ := q
    simp only [Blk.pages, Blk.base, engBase] at *
    obtain rfl | rfl : d = 0 ∨ d = 1 := by omega
    all_goals
      unfold blkPage
      repeat rw [if_neg (by omega)]
      repeat rw [dif_neg (by omega)]
      repeat rw [if_neg (by omega)]
      repeat rw [dif_neg (by omega)]
      rw [dif_pos (by omega)]
      dsimp only
      rw [if_pos (by omega)]
      simp only [Option.some.injEq, Prod.mk.injEq, Blk.eng.injEq, Fin.ext_iff]
      refine ⟨⟨by simp, by omega⟩, by omega⟩
  | svc =>
    simp only [Blk.pages, Blk.base] at *
    unfold blkPage
    repeat rw [if_neg (by omega)]
    rw [if_pos (by omega)]
    simp only [Option.some.injEq, Prod.mk.injEq, true_and]
    omega
  | ktl =>
    simp only [Blk.pages, Blk.base] at *
    unfold blkPage
    repeat rw [if_neg (by omega)]
    rw [if_pos (by omega)]
    simp only [Option.some.injEq, Prod.mk.injEq, true_and]
    omega
  | cal =>
    simp only [Blk.pages, Blk.base] at *
    unfold blkPage
    repeat rw [if_neg (by omega)]
    rw [if_pos (by omega)]
    simp only [Option.some.injEq, Prod.mk.injEq, true_and]
    omega
  | sec =>
    simp only [Blk.pages, Blk.base] at *
    unfold blkPage
    repeat rw [if_neg (by omega)]
    rw [if_pos (by omega)]
    simp only [Option.some.injEq, Prod.mk.injEq, true_and]
    omega
  | spr =>
    simp only [Blk.pages, Blk.base] at *
    unfold blkPage
    repeat rw [if_neg (by omega)]
    rw [if_pos (by omega)]
    simp only [Option.some.injEq, Prod.mk.injEq, true_and]
    omega
  | log =>
    simp only [Blk.pages, Blk.base] at *
    unfold blkPage
    repeat rw [if_neg (by omega)]
    rw [if_pos (by omega)]
    simp only [Option.some.injEq, Prod.mk.injEq, true_and]
    omega
  | fab =>
    simp only [Blk.pages, Blk.base] at *
    unfold blkPage
    repeat rw [if_neg (by omega)]
    rw [if_pos (by omega)]
    simp only [Option.some.injEq, Prod.mk.injEq, true_and]
    omega
  | hst =>
    simp only [Blk.pages, Blk.base] at *
    unfold blkPage
    repeat rw [if_neg (by omega)]
    rw [if_pos (by omega)]
    simp only [Option.some.injEq, Prod.mk.injEq, true_and]
    omega
  | lnk p =>
    obtain ⟨p, hp⟩ := p
    simp only [Blk.pages, Blk.base] at *
    unfold blkPage
    repeat rw [if_neg (by omega)]
    repeat rw [dif_neg (by omega)]
    rw [dif_pos (by omega)]
    simp only [Option.some.injEq, Prod.mk.injEq, Blk.lnk.injEq, Fin.mk.injEq]
    omega
  | hbm p =>
    obtain ⟨p, hp⟩ := p
    simp only [Blk.pages, Blk.base] at *
    unfold blkPage
    repeat rw [if_neg (by omega)]
    repeat rw [dif_neg (by omega)]
    rw [dif_pos (by omega)]
    simp only [Option.some.injEq, Prod.mk.injEq, Blk.hbm.injEq, Fin.mk.injEq]
    omega
  | tgc p =>
    obtain ⟨p, hp⟩ := p
    simp only [Blk.pages, Blk.base] at *
    unfold blkPage
    repeat rw [if_neg (by omega)]
    repeat rw [dif_neg (by omega)]
    rw [dif_pos (by omega)]
    simp only [Option.some.injEq, Prod.mk.injEq, Blk.tgc.injEq, Fin.mk.injEq]
    omega
  | cntD =>
    simp only [Blk.pages, Blk.base] at *
    unfold blkPage
    repeat rw [if_neg (by omega)]
    repeat rw [dif_neg (by omega)]
    repeat rw [if_neg (by omega)]
    rw [if_pos (by omega)]
    simp only [Option.some.injEq, Prod.mk.injEq, true_and]
    omega
  | dbgD =>
    simp only [Blk.pages, Blk.base] at *
    unfold blkPage
    repeat rw [if_neg (by omega)]
    repeat rw [dif_neg (by omega)]
    repeat rw [if_neg (by omega)]
    rw [if_pos (by omega)]
    simp only [Option.some.injEq, Prod.mk.injEq, true_and]
    omega
  | til t =>
    obtain ⟨t, ht⟩ := t
    simp only [Blk.pages, Blk.base, tileWin] at *
    unfold blkPage
    repeat rw [if_neg (by omega)]
    repeat rw [dif_neg (by omega)]
    repeat rw [if_neg (by omega)]
    repeat rw [dif_neg (by omega)]
    rw [dif_pos (by omega)]
    dsimp only
    rw [if_pos (by omega)]
    simp only [Option.some.injEq, Prod.mk.injEq, Blk.til.injEq, Fin.mk.injEq]
    omega
  | ptw t =>
    obtain ⟨t, ht⟩ := t
    simp only [Blk.pages, Blk.base, tileWin] at *
    unfold blkPage
    repeat rw [if_neg (by omega)]
    repeat rw [dif_neg (by omega)]
    repeat rw [if_neg (by omega)]
    repeat rw [dif_neg (by omega)]
    rw [dif_pos (by omega)]
    dsimp only
    rw [if_neg (by omega), dif_neg (by omega)]
    repeat rw [if_neg (by omega)]
    rw [if_pos (by omega)]
    simp only [Option.some.injEq, Prod.mk.injEq, Blk.ptw.injEq, Fin.mk.injEq]
    omega
  | lay t =>
    obtain ⟨t, ht⟩ := t
    simp only [Blk.pages, Blk.base, tileWin] at *
    unfold blkPage
    repeat rw [if_neg (by omega)]
    repeat rw [dif_neg (by omega)]
    repeat rw [if_neg (by omega)]
    repeat rw [dif_neg (by omega)]
    rw [dif_pos (by omega)]
    dsimp only
    rw [if_neg (by omega), dif_neg (by omega)]
    repeat rw [if_neg (by omega)]
    rw [if_pos (by omega)]
    simp only [Option.some.injEq, Prod.mk.injEq, Blk.lay.injEq, Fin.mk.injEq]
    omega
  | cntT t =>
    obtain ⟨t, ht⟩ := t
    simp only [Blk.pages, Blk.base, tileWin] at *
    unfold blkPage
    repeat rw [if_neg (by omega)]
    repeat rw [dif_neg (by omega)]
    repeat rw [if_neg (by omega)]
    repeat rw [dif_neg (by omega)]
    rw [dif_pos (by omega)]
    dsimp only
    rw [if_neg (by omega), dif_neg (by omega)]
    repeat rw [if_neg (by omega)]
    rw [if_pos (by omega)]
    simp only [Option.some.injEq, Prod.mk.injEq, Blk.cntT.injEq, Fin.mk.injEq]
    omega
  | dbgT t =>
    obtain ⟨t, ht⟩ := t
    simp only [Blk.pages, Blk.base, tileWin] at *
    unfold blkPage
    repeat rw [if_neg (by omega)]
    repeat rw [dif_neg (by omega)]
    repeat rw [if_neg (by omega)]
    repeat rw [dif_neg (by omega)]
    rw [dif_pos (by omega)]
    dsimp only
    rw [if_neg (by omega), dif_neg (by omega)]
    repeat rw [if_neg (by omega)]
    rw [if_pos (by omega)]
    simp only [Option.some.injEq, Prod.mk.injEq, Blk.dbgT.injEq, Fin.mk.injEq]
    omega
  | mxa t a =>
    obtain ⟨t, ht⟩ := t; obtain ⟨a, ha⟩ := a
    obtain rfl | rfl : a = 0 ∨ a = 1 := by omega
    all_goals
      simp only [Blk.pages, Blk.base, tileWin] at *
      unfold blkPage
      repeat rw [if_neg (by omega)]
      repeat rw [dif_neg (by omega)]
      repeat rw [if_neg (by omega)]
      repeat rw [dif_neg (by omega)]
      rw [dif_pos (by omega)]
      dsimp only
      rw [if_neg (by omega), dif_neg (by omega)]
      repeat rw [if_neg (by omega)]
      rw [if_pos (by omega)]
      simp only [Option.some.injEq, Prod.mk.injEq, Blk.mxa.injEq, Fin.ext_iff]
      refine ⟨⟨by omega, by simp⟩, by omega⟩
  | dqu t a =>
    obtain ⟨t, ht⟩ := t; obtain ⟨a, ha⟩ := a
    obtain rfl | rfl : a = 0 ∨ a = 1 := by omega
    all_goals
      simp only [Blk.pages, Blk.base, tileWin] at *
      unfold blkPage
      repeat rw [if_neg (by omega)]
      repeat rw [dif_neg (by omega)]
      repeat rw [if_neg (by omega)]
      repeat rw [dif_neg (by omega)]
      rw [dif_pos (by omega)]
      dsimp only
      rw [if_neg (by omega), dif_neg (by omega)]
      repeat rw [if_neg (by omega)]
      rw [if_pos (by omega)]
      simp only [Option.some.injEq, Prod.mk.injEq, Blk.dqu.injEq, Fin.ext_iff]
      refine ⟨⟨by omega, by simp⟩, by omega⟩

theorem regPlace_base (b : Blk) {o : Nat} (h : o < b.pages * 0x1000) : regPlace (b.base + o) = some (b, o / 0x1000, o) := by
  unfold regPlace; rw [blkAt_base b h]; simp

/-- A block starts at a page. -/
theorem Blk.base_page (b : Blk) : b.base % 0x1000 = 0 := by
  cases b with
  | seq q => cases q <;> simp only [Blk.base, engBase, tileWin] <;> omega
  | _ => simp only [Blk.base, engBase, tileWin] <;> omega

/-! ### Accesses that the checks admit -/

theorem regCheck_of_admits {s : State} {p : Nat} {b : Blk} {o size : Nat} {w : Bool} (h : Admits s p b o size w) :
    regCheck s p (b.base + o) size w = (stOk, s) := by
  have hb := b.base_page
  have ha := h.aligned
  unfold regCheck
  rw [regPlace_base b h.inBlock]
  dsimp only
  rw [if_neg (by simp [h.privilege]), if_neg (by rcases h.width with e | e <;> rw [e] at ha ⊢ <;> omega)]

/-- An admitted write is performed at the block's register. -/
theorem cmdWrite_of_admits {s : State} {p : Nat} {b : Blk} {o size : Nat} (h : Admits s p b o size true) (v : Nat) :
    cmdWrite s p (b.base + o) size v = answered (writeAt s p b o size v) stOk [] := by
  unfold cmdWrite regWrite
  simp only [h.serves, regCheck_of_admits h, regPlace_base b h.inBlock, if_true]

/-- An admitted read answers the register's value. -/
theorem cmdRead_of_admits {s : State} {p : Nat} {b : Blk} {o size : Nat} (h : Admits s p b o size false) :
    cmdRead s p (b.base + o) size =
      answered (readAt s p b o size).2 stOk (leBytes size (readAt s p b o size).1) := by
  unfold cmdRead regRead
  simp only [h.serves, regCheck_of_admits h, regPlace_base b h.inBlock, if_true]

/-- A four-byte write of a four-byte register above the header writes the register. -/
theorem writeAt_four {s : State} {p : Nat} {b : Blk} {o : Nat} {r : RegDesc} {i : Nat} (hf : b.find o = some (r, i))
    (hs : r.size = 4) (ho : 0x40 ≤ o % 0x1000) (v : Nat) :
    writeAt s p b o 4 v = writeOne s p b r (r.off + i * r.stride) (v % 2 ^ 32) := by
  unfold writeAt write4
  simp only [hf, show ¬(4 : Nat) = 8 by omega, false_and, if_false, show ¬ o % 0x1000 < 0x40 by omega, hs, if_true]

/-- An eight-byte write of an eight-byte register above the header writes the register. -/
theorem writeAt_eight {s : State} {p : Nat} {b : Blk} {o : Nat} {r : RegDesc} {i : Nat} (hf : b.find o = some (r, i))
    (hs : r.size = 8) (hr : o = r.off + i * r.stride) (ho : 0x40 ≤ o % 0x1000) (v : Nat) :
    writeAt s p b o 8 v = writeOne s p b r o (v % 2 ^ 64) := by
  unfold writeAt
  simp only [hf]
  rw [if_pos ⟨trivial, hs, hr, ho⟩]

/-- A write of BLK_CTRL, in any page of a block. -/
theorem writeAt_ctrl {s : State} {p : Nat} {b : Blk} {pg : Nat} (v : Nat) :
    writeAt s p b (0x1000 * pg + 0x10) 4 v = ctrlWrite s b p (v % 2 ^ 32) := by
  have e : (0x1000 * pg + 0x10) % 0x1000 = 0x10 := by omega
  unfold writeAt write4
  simp only [e, show ¬(4 : Nat) = 8 by omega, false_and, if_false, show (0x10 : Nat) < 0x40 by omega, if_true, headerWrite]
  split <;> rfl

/-- A command that writes a four-byte register. -/
theorem cmdWr_four {s : State} {p : Nat} {b : Blk} {o : Nat} {r : RegDesc} {i : Nat} (h : Admits s p b o 4 true)
    (hf : b.find o = some (r, i)) (hs : r.size = 4) (ho : 0x40 ≤ o % 0x1000) (v : Nat) :
    cmdWr s b p o v = .next (answered (writeOne s p b r (r.off + i * r.stride) (v % 2 ^ 32)) stOk []) := by
  unfold cmdWr
  rw [cmdWrite_of_admits h, writeAt_four hf hs ho, Nat.mod_mod]

/-- A command that writes an eight-byte register. -/
theorem cmdWr8_eight {s : State} {p : Nat} {b : Blk} {o : Nat} {r : RegDesc} {i : Nat} (h : Admits s p b o 8 true)
    (hf : b.find o = some (r, i)) (hs : r.size = 8) (hr : o = r.off + i * r.stride) (ho : 0x40 ≤ o % 0x1000) (v : Nat) :
    cmdWr8 s b p o v = .next (answered (writeOne s p b r o (v % 2 ^ 64)) stOk []) := by
  unfold cmdWr8
  rw [cmdWrite_of_admits h, writeAt_eight hf hs hr ho, Nat.mod_mod]

/-- A read of a whole four-byte register above the header. -/
theorem readAt_four {s : State} {p : Nat} {b : Blk} {o : Nat} {r : RegDesc} {i : Nat} (hf : b.find o = some (r, i))
    (hr : o = r.off + i * r.stride) (ho : 0x40 ≤ o % 0x1000) :
    readAt s p b o 4 = ((readOne s p b r o).1 % 2 ^ 32, (readOne s p b r o).2) := by
  unfold readAt read4
  simp only [hf, show ¬(4 : Nat) = 8 by omega, false_and, if_false, show ¬ o % 0x1000 < 0x40 by omega]
  rw [← hr]
  simp [bits]

end Sys2Proof.Machine
end

