-- ==== Sys2Proof/Laws/Banks.lean ====
section
/-! SUPPORT. Sys2Proof/Laws/Banks.lean: R123 is a bijection: a slot offset below 7 MiB and its bank, word and byte name each other. -/
namespace Sys2Proof.Machine

theorem bank_ranges {i : Nat} (h : i < 0x700000) : bankOf i < 56 ∧ bankWord i < 2048 ∧ bankByte i < 64 := by
  unfold bankOf bankWord bankByte; omega
theorem bankOffset_of_parts (i : Nat) : bankOffset (bankOf i) (bankWord i) (bankByte i) = i := by
  unfold bankOffset bankOf bankWord bankByte; omega
theorem parts_of_bankOffset {bank word byte : Nat} (hb : bank < 56) (hw : word < 2048) (hy : byte < 64) :
    bankOffset bank word byte < 0x700000 ∧ bankOf (bankOffset bank word byte) = bank ∧
      bankWord (bankOffset bank word byte) = word ∧ bankByte (bankOffset bank word byte) = byte := by
  unfold bankOffset bankOf bankWord bankByte; omega

end Sys2Proof.Machine
end

