-- ==== Sys2Proof/Laws/Flags.lean ====
section
/-! SUPPORT. Sys2Proof/Laws/Flags.lean: bit fields, and what events, counters and errors leave of a block's registers. -/
namespace Sys2Proof.Machine

/-! ### Bit fields -/

theorem bits_lt (v lo len : Nat) : bits v lo len < 2 ^ len := Nat.mod_lt _ (Nat.two_pow_pos len)
theorem bits_mod {v n lo len : Nat} (h : lo + len ≤ n) : bits (v % 2 ^ n) lo len = bits v lo len := by
  unfold bits
  rw [show n = lo + (n - lo) by omega, Nat.pow_add, Nat.mod_mul_right_div_self, Nat.mod_mod_of_dvd]
  exact Nat.pow_dvd_pow 2 (by omega)
theorem bit_eq (v i : Nat) : bit v i = v.testBit i := by
  simp [bit, Nat.testBit, Nat.shiftRight_eq_div_pow, Nat.and_comm 1]
/-- Adding 2^i where bit i is 0 sets it. -/
theorem bit_add_same {v i : Nat} (h : bit v i = false) : bit (v + 2 ^ i) i = true := by
  unfold bit at *
  rw [Nat.add_div_right _ (Nat.two_pow_pos i)]
  simp at h ⊢; omega
/-- Adding 2^i where bit i is 0 changes no other bit. -/
theorem bit_add_ne {v i j : Nat} (h : bit v i = false) (hij : j ≠ i) : bit (v + 2 ^ i) j = bit v j := by
  rcases Nat.lt_or_gt_of_ne hij with hl | hl
  · rw [bit_eq, bit_eq, Nat.add_comm]
    exact Nat.testBit_two_pow_add_gt hl v
  · have e : (v + 2 ^ i) / 2 ^ (i + 1) = v / 2 ^ (i + 1) := by
      rw [Nat.pow_succ, ← Nat.div_div_eq_div_mul, ← Nat.div_div_eq_div_mul, Nat.add_div_right _ (Nat.two_pow_pos i)]
      simp [bit] at h; omega
    unfold bit
    rw [show j = (i + 1) + (j - (i + 1)) by omega, Nat.pow_add, ← Nat.div_div_eq_div_mul, ← Nat.div_div_eq_div_mul, e]
theorem bit_mod {v n i : Nat} (h : i < n) : bit (v % 2 ^ n) i = bit v i := by
  rw [bit_eq, bit_eq, Nat.testBit_mod_two_pow]; simp [h]

/-! ### Events, counters and errors -/

theorem Blk.wf_setBit {s : State} (h : SMap.wf resetVal s.regs = true) (b : Blk) (o i : Nat) :
    SMap.wf resetVal (b.setBit s o i).regs = true := by
  unfold Blk.setBit; dsimp only; split
  · exact h
  · exact Blk.wf_wr h b o _
theorem Blk.rd_setBit_ne {s : State} (h : SMap.wf resetVal s.regs = true) (b : Blk) {o k : Nat} (i : Nat) (hk : k ≠ o) :
    b.rd (b.setBit s o i) k = b.rd s k := by
  unfold Blk.setBit; dsimp only; split
  · rfl
  · exact Blk.rd_wr_ne h b _ hk
/-- A set bit reads 1, and the register's other bits are as before. -/
theorem Blk.bit_setBit {s : State} (h : SMap.wf resetVal s.regs = true) (b : Blk) (o : Nat) {i : Nat} (hi : i < 64) :
    bit (b.rd (b.setBit s o i) o) i = true := by
  unfold Blk.setBit; dsimp only; split
  · assumption
  · rename_i hv
    rw [Blk.rd_wr_same h, bit_mod hi]; exact bit_add_same (by simpa using hv)
theorem Blk.bit_setBit_ne {s : State} (h : SMap.wf resetVal s.regs = true) (b : Blk) (o : Nat) {i j : Nat} (hj : j < 64) (hij : j ≠ i) :
    bit (b.rd (b.setBit s o i) o) j = bit (b.rd s o) j := by
  unfold Blk.setBit; dsimp only; split
  · rfl
  · rename_i hv
    rw [Blk.rd_wr_same h, bit_mod hj]; exact bit_add_ne (by simpa using hv) hij

theorem Blk.wf_event {s : State} (h : SMap.wf resetVal s.regs = true) (b : Blk) (i : Nat) :
    SMap.wf resetVal (b.event s i).regs = true := Blk.wf_setBit h b _ i
theorem Blk.rd_event_ne {s : State} (h : SMap.wf resetVal s.regs = true) (b : Blk) {k : Nat} (i : Nat) (hk : k ≠ 0x18) :
    b.rd (b.event s i) k = b.rd s k := Blk.rd_setBit_ne h b i hk

theorem Blk.wf_sat {s : State} (h : SMap.wf resetVal s.regs = true) (b : Blk) (o k : Nat) :
    SMap.wf resetVal (b.sat s o k).regs = true := Machine.wf_wr h _ _
theorem Blk.rd_sat {s : State} (h : SMap.wf resetVal s.regs = true) (b : Blk) (o k : Nat) :
    b.rd (b.sat s o k) o = min (b.rd s o + k) 0xFFFFFFFF := by
  unfold Blk.sat satAdd
  show Machine.rd (Machine.wr _ _ _) _ = _
  rw [Machine.rd_wr_same h]; unfold Blk.rd; omega
theorem Blk.rd_sat_ne {s : State} (h : SMap.wf resetVal s.regs = true) (b : Blk) {o j : Nat} (k : Nat) (hj : j ≠ o) :
    b.rd (b.sat s o k) j = b.rd s j := Machine.rd_wr_ne h _ (by omega)

theorem Blk.wf_countErr {s : State} (h : SMap.wf resetVal s.regs = true) (b : Blk) : SMap.wf resetVal (b.countErr s).regs = true := by
  unfold Blk.countErr; dsimp only; split
  · exact Blk.wf_event (Blk.wf_wr h b _ _) b _
  · exact Blk.wf_wr h b _ _
theorem Blk.rd_countErr_ne {s : State} (h : SMap.wf resetVal s.regs = true) (b : Blk) {k : Nat} (hk : k ≠ 0x18 ∧ k ≠ 0x28) :
    b.rd (b.countErr s) k = b.rd s k := by
  unfold Blk.countErr; dsimp only; split
  · rw [Blk.rd_event_ne (Blk.wf_wr h b _ _) b _ hk.1, Blk.rd_wr_ne h b _ hk.2]
  · exact Blk.rd_wr_ne h b _ hk.2
theorem Blk.bit_countErr {s : State} (h : SMap.wf resetVal s.regs = true) (b : Blk) {j : Nat} (hj : j < 64) (h2 : j ≠ 2) :
    bit (b.rd (b.countErr s) 0x18) j = bit (b.rd s 0x18) j := by
  unfold Blk.countErr; dsimp only; split
  · show bit (b.rd (b.setBit _ _ _) _) _ = _
    rw [Blk.bit_setBit_ne (Blk.wf_wr h b _ _) b _ hj h2, Blk.rd_wr_ne h b _ (by decide)]
  · rw [Blk.rd_wr_ne h b _ (by decide)]

theorem Blk.wf_raise {s : State} (h : SMap.wf resetVal s.regs = true) (b : Blk) (code part info : Nat) :
    SMap.wf resetVal (b.raise s code part info).regs = true := by
  unfold Blk.raise; dsimp only
  apply Blk.wf_countErr
  split
  · exact h
  · exact Blk.wf_event (Blk.wf_wr (Blk.wf_wr h b _ _) b _ _) b _
/-- An error changes no register of its block but the header's. -/
theorem Blk.rd_raise_ne {s : State} (h : SMap.wf resetVal s.regs = true) (b : Blk) {k : Nat} (code part info : Nat)
    (hk : k ≠ 0x18 ∧ k ≠ 0x20 ∧ k ≠ 0x24 ∧ k ≠ 0x28) : b.rd (b.raise s code part info) k = b.rd s k := by
  unfold Blk.raise; dsimp only
  split
  · exact Blk.rd_countErr_ne h b ⟨hk.1, hk.2.2.2⟩
  · have h1 := Blk.wf_wr (v := info % 2 ^ 32) (Blk.wf_wr (v := code % 2 ^ 16 + part % 2 ^ 12 * 2 ^ 16) h b 0x20) b 0x24
    rw [Blk.rd_countErr_ne (Blk.wf_event h1 b _) b ⟨hk.1, hk.2.2.2⟩, Blk.rd_event_ne h1 b _ hk.1,
      Blk.rd_wr_ne (Blk.wf_wr h b _ _) b _ hk.2.2.1, Blk.rd_wr_ne h b _ hk.2.1]
/-- An error sets no event but ERR and COUNT_SAT, and clears none. -/
theorem Blk.bit_raise {s : State} (h : SMap.wf resetVal s.regs = true) (b : Blk) (code part info : Nat) {j : Nat} (hj : j < 64)
    (h0 : j ≠ 0) (h2 : j ≠ 2) : bit (b.rd (b.raise s code part info) 0x18) j = bit (b.rd s 0x18) j := by
  unfold Blk.raise; dsimp only
  split
  · exact Blk.bit_countErr h b hj h2
  · have h1 := Blk.wf_wr (v := info % 2 ^ 32) (Blk.wf_wr (v := code % 2 ^ 16 + part % 2 ^ 12 * 2 ^ 16) h b 0x20) b 0x24
    rw [Blk.bit_countErr (Blk.wf_event h1 b _) b hj h2]
    show bit (b.rd (b.setBit _ _ _) _) _ = _
    rw [Blk.bit_setBit_ne h1 b _ hj h0, Blk.rd_wr_ne (Blk.wf_wr h b _ _) b _ (by decide), Blk.rd_wr_ne h b _ (by decide)]

end Sys2Proof.Machine
end

