-- ==== Sys2Proof/Laws/Kept.lean ====
section
/-! SUPPORT. Sys2Proof/Laws/Kept.lean: what every command leaves as it finds it: the queue, and the canonical form of the registers
and of the memory. The rules by which a meaning is followed, one per construct of the language. -/
namespace Sys2Proof.Machine

/-- The queue is `pq`; the registers and the memory are in canonical form. -/
structure State.Kept (pq : List Instr) (s : State) : Prop where
  pending : s.pending = pq
  regs : SMap.wf resetVal s.regs = true
  mem : SMap.wf memDefault s.mem = true
  pool : SMap.wf d0 s.poolUsed = true
  tcc : TccsOk s.tccs = true

/-- `Kept` of the state of an optional state. -/
def OptKept (pq : List Instr) : Option State → Prop
  | some t => t.Kept pq
  | none => True

/-- `Kept` of an outcome: of the next state, if there is one. -/
def OutKept (pq : List Instr) : Out → Prop
  | .next t => t.Kept pq
  | .fault _ => True
  | .refused _ => True

/-- `Kept` of the state of a pair. -/
def PairKept {α : Type} (pq : List Instr) (p : α × State) : Prop := p.2.Kept pq

/-- `Kept` of the state of a triple. -/
def TripleKept {α β : Type} (pq : List Instr) (p : α × β × State) : Prop := p.2.2.Kept pq

/-- The state an iteration leaves, whether it ran or holds. -/
def IterResult.state : IterResult → State
  | .ran s _ => s
  | .hold s => s

/-- The state a boot step leaves. -/
def StepEnd.state : StepEnd → State
  | .go s => s
  | .stop s => s

theorem State.Kept.canon {pq : List Instr} {s : State} (h : s.Kept pq) : s.Canon := ⟨h.regs, h.mem, h.pool, h.tcc⟩
theorem State.Canon.kept {s : State} (h : s.Canon) : s.Kept s.pending := ⟨rfl, h.regs, h.mem, h.pool, h.tcc⟩
theorem kept_some {pq : List Instr} {t : State} (h : t.Kept pq) : OptKept pq (some t) := h
theorem kept_none {pq : List Instr} : OptKept pq none := trivial
theorem kept_pair {α : Type} {pq : List Instr} {a : α} {t : State} : PairKept pq (a, t) ↔ t.Kept pq := Iff.rfl
theorem kept_triple {α β : Type} {pq : List Instr} {a : α} {b : β} {t : State} : TripleKept pq (a, b, t) ↔ t.Kept pq := Iff.rfl
theorem kept_snd {α : Type} {pq : List Instr} {p : α × State} : p.2.Kept pq ↔ PairKept pq p := Iff.rfl
theorem kept_snd2 {α β : Type} {pq : List Instr} {p : α × β × State} : p.2.2.Kept pq ↔ TripleKept pq p := Iff.rfl
theorem kept_next {pq : List Instr} {t : State} (h : t.Kept pq) : OutKept pq (.next t) := h
theorem kept_fault {pq : List Instr} {f : Fault} : OutKept pq (.fault f) := trivial
theorem kept_refused {pq : List Instr} {r : Refusal} : OutKept pq (.refused r) := trivial
theorem kept_go {pq : List Instr} {t : State} (h : t.Kept pq) : (StepEnd.go t).state.Kept pq := h
theorem kept_stop {pq : List Instr} {t : State} (h : t.Kept pq) : (StepEnd.stop t).state.Kept pq := h
theorem kept_ite_end {pq : List Instr} {c : Prop} [Decidable c] {a b : StepEnd} (ha : a.state.Kept pq) (hb : b.state.Kept pq) :
    (if c then a else b).state.Kept pq := by
  split <;> assumption
theorem kept_of_go {pq : List Instr} {p : StepEnd} {t : State} (e : p = .go t) (h : p.state.Kept pq) : t.Kept pq := by
  subst e; exact h
theorem kept_of_stop {pq : List Instr} {p : StepEnd} {t : State} (e : p = .stop t) (h : p.state.Kept pq) : t.Kept pq := by
  subst e; exact h
theorem kept_ran {pq : List Instr} {t : State} {d : Nat} (h : t.Kept pq) : (IterResult.ran t d).state.Kept pq := h
theorem kept_hold {pq : List Instr} {t : State} (h : t.Kept pq) : (IterResult.hold t).state.Kept pq := h
theorem kept_upd {pq : List Instr} {t : State} {now : Nat} {freeCtr : Nat} {answer : Answer} {segOwner : SMap Nat} {tags : SMap Nat} {seqs : SMap SeqSt} {outs : List OutReq} {nextOut : Nat} {seqCtr : SMap Nat} {seqTime : SMap Nat} {ctxFail : List (Nat × Nat)} {movedFlows : List (Nat × Nat × Nat)} {filter : SMap (List FEntry)} {comb : List CombEntry} {heldFlags : List HeldFlag} {migs : List Mig} {winHeld : Option (Nat × Nat)} {routes : SMap Nat} {psets : SMap Nat} {toRoute : List Packet} {passBy : List Request} {arrived : List Packet} {hostQ : List Packet} {hostOut : List HostMsg} {hostParts : List HostPart} {pcieCfg : PcieCfg} {spent : List Spent} {reports : List Report} {combOut : List Request} {ports : SMap Port} {creditQ : List CreditReq} {grants : List Grant} {halfMv : SMap Nat} {binE : SMap Nat} {totE : SMap Nat} {pageE : SMap Nat} {avg : SMap Nat} {marks : SMap Nat} {freqPend : SMap Nat} {ramps : SMap (Nat × Nat × Nat)} {lastLong : SMap Nat} {distCycles : SMap Nat} {slack : SMap Nat} {slackLow : SMap Nat} {railBase : SMap Nat} {nmErr : SMap Nat} {nmCorr : SMap (List Nat)} {nmRows : List (Nat × Nat)} {hbmErr : SMap (List (Nat × Nat))} {flash : SMap Byte} {badBlocks : List Nat} {logOldest : Nat} {logNext : Nat} {powerOnS : Nat} {west : List Nat} {east : List Nat} {units : SMap Nat} {unitSpare : SMap Nat} {waiting : List (Nat × Nat × Nat)} {portRec : SMap Nat} {wear : SMap Nat} {vfRec : SMap Nat} {held : Bool} {resetAt : Option Nat} {thermHeld : Bool} {resetLow : Bool} {pwrgd : Bool} {i2cMode : Bool} {wdogAt : Option Nat} {bootEnv : Option BootEnv} {commonClock : Bool} {mfw : List Byte} {fwSigner : List Byte} {recov : List Byte} {secCmd : Option (Nat × Nat × List Byte)} {sessionEnd : Nat} {quote : Option (List Byte)} {stepFrom : Nat} {retired : Bool} {scrubFailed : Bool} {temps : SMap Nat} {hbmLat : SMap (List (Nat × HbmReq))} {hbmBulk : SMap (List (Nat × HbmReq))} {latRun : SMap Nat} {hbmUp : SMap (List HbmReq)} {hbmHold : SMap Nat} {rowHold : SMap (Nat × Nat)} {hbmTrained : SMap Nat} {refreshDue : SMap Nat} {openRow : SMap Nat} {bankActs : SMap Nat} {hbmOnDie : SMap Nat} {calDrift : SMap Nat} {rowFails : SMap Nat} {pinFails : SMap (List (Nat × Nat))} {rowUnc : SMap Nat} {hbmFailing : List (Nat × HbmFail)} {hbmWorn : List (Nat × HbmFail)} {hbmKept : List (Nat × HbmFail)} {spareRows : SMap Nat} {pprRows : SMap Nat} {tgcPos : SMap Nat} {tgcPrbs : SMap Nat} {poolQ : SMap (List PoolWait)} {poolAns : List PoolAns} {recs : SMap (List Nat)} {arrs : SMap Arr} {xchs : SMap Xch} {embs : SMap Emb} {cols : SMap ColSt} {hotDir : SMap (Option (Nat × Nat))} {images : List Image} {tileHeld : SMap Nat} {dbg : SMap DbgSt} {jtag : Jtag} {ibi : Option Nat} {msixAt : SMap Nat} {msixHeld : SMap Nat} {lastEdge : Nat} :
    State.Kept pq { pending := t.pending, now := now, freeCtr := freeCtr, answer := answer, regs := t.regs, mem := t.mem, segOwner := segOwner, tags := tags, seqs := seqs, tccs := t.tccs, outs := outs, nextOut := nextOut, seqCtr := seqCtr, seqTime := seqTime, ctxFail := ctxFail, movedFlows := movedFlows, filter := filter, comb := comb, heldFlags := heldFlags, migs := migs, winHeld := winHeld, routes := routes, psets := psets, toRoute := toRoute, passBy := passBy, arrived := arrived, hostQ := hostQ, hostOut := hostOut, hostParts := hostParts, pcieCfg := pcieCfg, spent := spent, reports := reports, combOut := combOut, ports := ports, creditQ := creditQ, grants := grants, halfMv := halfMv, binE := binE, totE := totE, pageE := pageE, avg := avg, marks := marks, freqPend := freqPend, ramps := ramps, lastLong := lastLong, distCycles := distCycles, slack := slack, slackLow := slackLow, railBase := railBase, nmErr := nmErr, nmCorr := nmCorr, nmRows := nmRows, hbmErr := hbmErr, flash := flash, badBlocks := badBlocks, logOldest := logOldest, logNext := logNext, powerOnS := powerOnS, west := west, east := east, units := units, unitSpare := unitSpare, waiting := waiting, portRec := portRec, wear := wear, vfRec := vfRec, held := held, resetAt := resetAt, thermHeld := thermHeld, resetLow := resetLow, pwrgd := pwrgd, i2cMode := i2cMode, wdogAt := wdogAt, bootEnv := bootEnv, commonClock := commonClock, mfw := mfw, fwSigner := fwSigner, recov := recov, secCmd := secCmd, sessionEnd := sessionEnd, quote := quote, stepFrom := stepFrom, retired := retired, scrubFailed := scrubFailed, temps := temps, hbmLat := hbmLat, hbmBulk := hbmBulk, latRun := latRun, hbmUp := hbmUp, hbmHold := hbmHold, rowHold := rowHold, hbmTrained := hbmTrained, refreshDue := refreshDue, openRow := openRow, bankActs := bankActs, hbmOnDie := hbmOnDie, calDrift := calDrift, rowFails := rowFails, pinFails := pinFails, rowUnc := rowUnc, hbmFailing := hbmFailing, hbmWorn := hbmWorn, hbmKept := hbmKept, spareRows := spareRows, pprRows := pprRows, tgcPos := tgcPos, tgcPrbs := tgcPrbs, poolUsed := t.poolUsed, poolQ := poolQ, poolAns := poolAns, recs := recs, arrs := arrs, xchs := xchs, embs := embs, cols := cols, hotDir := hotDir, images := images, tileHeld := tileHeld, dbg := dbg, jtag := jtag, ibi := ibi, msixAt := msixAt, msixHeld := msixHeld, lastEdge := lastEdge } ↔ t.Kept pq :=
    ⟨fun h => ⟨h.pending, h.regs, h.mem, h.pool, h.tcc⟩, fun h => ⟨h.pending, h.regs, h.mem, h.pool, h.tcc⟩⟩

theorem kept_mk {pq : List Instr} {pending : List Instr} {now : Nat} {freeCtr : Nat} {answer : Answer} {regs : SMap Word64} {mem : List Host.Cell} {segOwner : SMap Nat} {tags : SMap Nat} {seqs : SMap SeqSt} {tccs : SMap Tcc} {outs : List OutReq} {nextOut : Nat} {seqCtr : SMap Nat} {seqTime : SMap Nat} {ctxFail : List (Nat × Nat)} {movedFlows : List (Nat × Nat × Nat)} {filter : SMap (List FEntry)} {comb : List CombEntry} {heldFlags : List HeldFlag} {migs : List Mig} {winHeld : Option (Nat × Nat)} {routes : SMap Nat} {psets : SMap Nat} {toRoute : List Packet} {passBy : List Request} {arrived : List Packet} {hostQ : List Packet} {hostOut : List HostMsg} {hostParts : List HostPart} {pcieCfg : PcieCfg} {spent : List Spent} {reports : List Report} {combOut : List Request} {ports : SMap Port} {creditQ : List CreditReq} {grants : List Grant} {halfMv : SMap Nat} {binE : SMap Nat} {totE : SMap Nat} {pageE : SMap Nat} {avg : SMap Nat} {marks : SMap Nat} {freqPend : SMap Nat} {ramps : SMap (Nat × Nat × Nat)} {lastLong : SMap Nat} {distCycles : SMap Nat} {slack : SMap Nat} {slackLow : SMap Nat} {railBase : SMap Nat} {nmErr : SMap Nat} {nmCorr : SMap (List Nat)} {nmRows : List (Nat × Nat)} {hbmErr : SMap (List (Nat × Nat))} {flash : SMap Byte} {badBlocks : List Nat} {logOldest : Nat} {logNext : Nat} {powerOnS : Nat} {west : List Nat} {east : List Nat} {units : SMap Nat} {unitSpare : SMap Nat} {waiting : List (Nat × Nat × Nat)} {portRec : SMap Nat} {wear : SMap Nat} {vfRec : SMap Nat} {held : Bool} {resetAt : Option Nat} {thermHeld : Bool} {resetLow : Bool} {pwrgd : Bool} {i2cMode : Bool} {wdogAt : Option Nat} {bootEnv : Option BootEnv} {commonClock : Bool} {mfw : List Byte} {fwSigner : List Byte} {recov : List Byte} {secCmd : Option (Nat × Nat × List Byte)} {sessionEnd : Nat} {quote : Option (List Byte)} {stepFrom : Nat} {retired : Bool} {scrubFailed : Bool} {temps : SMap Nat} {hbmLat : SMap (List (Nat × HbmReq))} {hbmBulk : SMap (List (Nat × HbmReq))} {latRun : SMap Nat} {hbmUp : SMap (List HbmReq)} {hbmHold : SMap Nat} {rowHold : SMap (Nat × Nat)} {hbmTrained : SMap Nat} {refreshDue : SMap Nat} {openRow : SMap Nat} {bankActs : SMap Nat} {hbmOnDie : SMap Nat} {calDrift : SMap Nat} {rowFails : SMap Nat} {pinFails : SMap (List (Nat × Nat))} {rowUnc : SMap Nat} {hbmFailing : List (Nat × HbmFail)} {hbmWorn : List (Nat × HbmFail)} {hbmKept : List (Nat × HbmFail)} {spareRows : SMap Nat} {pprRows : SMap Nat} {tgcPos : SMap Nat} {tgcPrbs : SMap Nat} {poolUsed : SMap Nat} {poolQ : SMap (List PoolWait)} {poolAns : List PoolAns} {recs : SMap (List Nat)} {arrs : SMap Arr} {xchs : SMap Xch} {embs : SMap Emb} {cols : SMap ColSt} {hotDir : SMap (Option (Nat × Nat))} {images : List Image} {tileHeld : SMap Nat} {dbg : SMap DbgSt} {jtag : Jtag} {ibi : Option Nat} {msixAt : SMap Nat} {msixHeld : SMap Nat} {lastEdge : Nat} :
    State.Kept pq { pending := pending, now := now, freeCtr := freeCtr, answer := answer, regs := regs, mem := mem, segOwner := segOwner, tags := tags, seqs := seqs, tccs := tccs, outs := outs, nextOut := nextOut, seqCtr := seqCtr, seqTime := seqTime, ctxFail := ctxFail, movedFlows := movedFlows, filter := filter, comb := comb, heldFlags := heldFlags, migs := migs, winHeld := winHeld, routes := routes, psets := psets, toRoute := toRoute, passBy := passBy, arrived := arrived, hostQ := hostQ, hostOut := hostOut, hostParts := hostParts, pcieCfg := pcieCfg, spent := spent, reports := reports, combOut := combOut, ports := ports, creditQ := creditQ, grants := grants, halfMv := halfMv, binE := binE, totE := totE, pageE := pageE, avg := avg, marks := marks, freqPend := freqPend, ramps := ramps, lastLong := lastLong, distCycles := distCycles, slack := slack, slackLow := slackLow, railBase := railBase, nmErr := nmErr, nmCorr := nmCorr, nmRows := nmRows, hbmErr := hbmErr, flash := flash, badBlocks := badBlocks, logOldest := logOldest, logNext := logNext, powerOnS := powerOnS, west := west, east := east, units := units, unitSpare := unitSpare, waiting := waiting, portRec := portRec, wear := wear, vfRec := vfRec, held := held, resetAt := resetAt, thermHeld := thermHeld, resetLow := resetLow, pwrgd := pwrgd, i2cMode := i2cMode, wdogAt := wdogAt, bootEnv := bootEnv, commonClock := commonClock, mfw := mfw, fwSigner := fwSigner, recov := recov, secCmd := secCmd, sessionEnd := sessionEnd, quote := quote, stepFrom := stepFrom, retired := retired, scrubFailed := scrubFailed, temps := temps, hbmLat := hbmLat, hbmBulk := hbmBulk, latRun := latRun, hbmUp := hbmUp, hbmHold := hbmHold, rowHold := rowHold, hbmTrained := hbmTrained, refreshDue := refreshDue, openRow := openRow, bankActs := bankActs, hbmOnDie := hbmOnDie, calDrift := calDrift, rowFails := rowFails, pinFails := pinFails, rowUnc := rowUnc, hbmFailing := hbmFailing, hbmWorn := hbmWorn, hbmKept := hbmKept, spareRows := spareRows, pprRows := pprRows, tgcPos := tgcPos, tgcPrbs := tgcPrbs, poolUsed := poolUsed, poolQ := poolQ, poolAns := poolAns, recs := recs, arrs := arrs, xchs := xchs, embs := embs, cols := cols, hotDir := hotDir, images := images, tileHeld := tileHeld, dbg := dbg, jtag := jtag, ibi := ibi, msixAt := msixAt, msixHeld := msixHeld, lastEdge := lastEdge } ↔ pending = pq ∧ SMap.wf resetVal regs = true ∧ SMap.wf memDefault mem = true ∧ SMap.wf d0 poolUsed = true ∧ TccsOk tccs = true :=
    ⟨fun h => ⟨h.pending, h.regs, h.mem, h.pool, h.tcc⟩, fun h => ⟨h.1, h.2.1, h.2.2.1, h.2.2.2.1, h.2.2.2.2⟩⟩

theorem kept_wf_regs {pq : List Instr} {s : State} (h : s.Kept pq) : SMap.wf resetVal s.regs = true := h.regs
theorem kept_wf_mem {pq : List Instr} {s : State} (h : s.Kept pq) : SMap.wf memDefault s.mem = true := h.mem
theorem kept_wf_pool {pq : List Instr} {s : State} (h : s.Kept pq) : SMap.wf d0 s.poolUsed = true := h.pool
theorem kept_wf_tcc {pq : List Instr} {s : State} (h : s.Kept pq) : TccsOk s.tccs = true := h.tcc
theorem kept_wf_pending {pq : List Instr} {s : State} (h : s.Kept pq) : s.pending = pq := h.pending
theorem wf_nil_regs : SMap.wf resetVal ([] : SMap Word64) = true := rfl
theorem wf_nil_mem : SMap.wf memDefault ([] : List Host.Cell) = true := rfl
theorem wf_set_regs {m : SMap Word64} {k : Nat} {v : Word64} (h : SMap.wf resetVal m = true) :
    SMap.wf resetVal (SMap.set resetVal m k v) = true := SMap.wf_set h k v
theorem wf_set_mem {m : List Host.Cell} {k : Nat} {v : Byte} (h : SMap.wf memDefault m = true) :
    SMap.wf memDefault (SMap.set memDefault m k v) = true := SMap.wf_set h k v
theorem wf_setMany_mem {m : List Host.Cell} {k : Nat} {vs : List Byte} (h : SMap.wf memDefault m = true) :
    SMap.wf memDefault (SMap.setMany memDefault m k vs) = true := SMap.wf_setMany h k vs
theorem wf_filter_mem {m : List Host.Cell} {p : Nat × Byte → Bool} (h : SMap.wf memDefault m = true) :
    SMap.wf memDefault (m.filter p) = true := SMap.wf_filter p h
theorem wf_filter_regs {m : SMap Word64} {p : Nat × Word64 → Bool} (h : SMap.wf resetVal m = true) :
    SMap.wf resetVal (m.filter p) = true := SMap.wf_filter p h
theorem wf_clear_mem {m : List Host.Cell} {lo hi : Nat} (h : SMap.wf memDefault m = true) :
    SMap.wf memDefault (SMap.clear m lo hi) = true := SMap.wf_clear h lo hi
theorem wf_foldl_mem {α : Type} {l : List α} {f : α → Nat} {g : α → Byte} {m : List Host.Cell} (h : SMap.wf memDefault m = true) :
    SMap.wf memDefault (l.foldl (fun m e => SMap.set memDefault m (f e) (g e)) m) = true := SMap.wf_foldl l f g h

theorem wf_set_pool {m : SMap Nat} {k v : Nat} (h : SMap.wf d0 m = true) : SMap.wf d0 (SMap.set d0 m k v) = true := SMap.wf_set h k v
theorem wf_filter_pool {m : SMap Nat} {p : Nat × Nat → Bool} (h : SMap.wf d0 m = true) : SMap.wf d0 (m.filter p) = true :=
  SMap.wf_filter p h
theorem wf_clear_pool {m : SMap Nat} {lo hi : Nat} (h : SMap.wf d0 m = true) : SMap.wf d0 (SMap.clear m lo hi) = true :=
  SMap.wf_clear h lo hi
/-- What a map with one key set lists. -/
theorem SMap.mem_set {α : Type} [DecidableEq α] {d : Nat → α} {m : SMap α} {k : Nat} {v : α} {e : Nat × α} (h : e ∈ SMap.set d m k v) :
    e ∈ m ∨ e = (k, v) := by
  have hc : ∀ {l : SMap α}, e ∈ SMap.cons d k v l → e ∈ l ∨ e = (k, v) := by
    intro l hl
    unfold SMap.cons at hl
    split at hl
    · exact .inl hl
    · rcases List.mem_cons.1 hl with h | h
      · exact .inr h
      · exact .inl h
  induction m with
  | nil => exact hc h
  | cons a m ih =>
    obtain ⟨k', v'⟩ := a
    unfold SMap.set at h
    split at h
    · exact hc h
    · split at h
      · exact (hc h).imp_left (List.mem_cons_of_mem _)
      · rcases List.mem_cons.1 h with h | h
        · exact .inl (h ▸ List.mem_cons_self)
        · exact (ih h).imp_left (List.mem_cons_of_mem _)
/-- A value read is the default or is listed. -/
theorem SMap.get_mem {α : Type} {d : Nat → α} (m : SMap α) (k : Nat) : SMap.get d m k = d k ∨ (k, SMap.get d m k) ∈ m := by
  induction m with
  | nil => exact .inl rfl
  | cons a m ih =>
    obtain ⟨k', v'⟩ := a
    unfold SMap.get
    split
    · rename_i h; exact .inr (by rw [h]; exact List.mem_cons_self)
    · split
      · exact .inl rfl
      · exact ih.imp_right (List.mem_cons_of_mem _)
/-- Changing the values of a map and dropping those that became the default keeps the form. -/
theorem SMap.wfFrom_mapFilter {α : Type} [DecidableEq α] {d : Nat → α} {x : α} (hd : ∀ k, d k = x) (f : α → α) {m : SMap α} {lo : Nat}
    (h : SMap.wfFrom d lo m = true) :
    SMap.wfFrom d lo ((m.map (fun e => (e.1, f e.2))).filter (fun e => !(decide (e.2 = x)))) = true := by
  induction m generalizing lo with
  | nil => rfl
  | cons a m ih =>
    obtain ⟨k, v⟩ := a
    rw [SMap.wfFrom_cons] at h
    rw [List.map_cons, List.filter_cons]
    split
    · rename_i hv
      rw [SMap.wfFrom_cons]
      exact ⟨h.1, by simpa [hd] using hv, ih h.2.2⟩
    · exact SMap.wfFrom_mono (Nat.le_succ_of_le h.1) (ih h.2.2)
/-- Putting a control core with 8 threads keeps the form. -/
theorem tccsOk_set {m : SMap Tcc} {k : Nat} {x : Tcc} (h : TccsOk m = true) (hx : x.threads.length = 8) :
    TccsOk (SMap.set dTcc m k x) = true := by
  simp only [TccsOk, Bool.and_eq_true, List.all_eq_true, beq_iff_eq] at h ⊢
  refine ⟨SMap.wf_set h.1 k x, fun e he => ?_⟩
  rcases SMap.mem_set he with he | rfl
  · exact h.2 e he
  · exact hx
/-- Ending reservations keeps the form. -/
theorem tccsOk_map {m : SMap Tcc} {f : Thread → Thread} (h : TccsOk m = true) :
    TccsOk ((m.map (fun e => (e.1, { e.2 with threads := e.2.threads.map f }))).filter (fun e => !(decide (e.2 = ({} : Tcc))))) = true := by
  simp only [TccsOk, Bool.and_eq_true, List.all_eq_true, beq_iff_eq] at h ⊢
  refine ⟨SMap.wfFrom_mapFilter (fun _ => rfl) (fun c : Tcc => { c with threads := c.threads.map f }) h.1, fun e he => ?_⟩
  obtain ⟨e', he', rfl⟩ := List.mem_map.1 (List.mem_filter.1 he).1
  simpa using h.2 e' he'
/-- A control core read from a canonical map has 8 threads. -/
theorem tccsOk_get {m : SMap Tcc} (h : TccsOk m = true) (k : Nat) : (SMap.get dTcc m k).threads.length = 8 := by
  simp only [TccsOk, Bool.and_eq_true, List.all_eq_true, beq_iff_eq] at h
  rcases SMap.get_mem (d := dTcc) m k with e | e
  · rw [e]; rfl
  · exact h.2 _ e
theorem wf_nil_pool : SMap.wf d0 ([] : SMap Nat) = true := rfl

/-- A conditional. -/
theorem kept_ite {pq : List Instr} {c : Prop} [Decidable c] {a b : State} (ha : a.Kept pq) (hb : b.Kept pq) :
    State.Kept pq (if c then a else b) := by
  split <;> assumption
theorem kept_ite_iter {pq : List Instr} {c : Prop} [Decidable c] {a b : IterResult} (ha : a.state.Kept pq) (hb : b.state.Kept pq) :
    (if c then a else b).state.Kept pq := by
  split <;> assumption
theorem kept_ite_out {pq : List Instr} {c : Prop} [Decidable c] {a b : Out} (ha : OutKept pq a) (hb : OutKept pq b) :
    OutKept pq (if c then a else b) := by
  split <;> assumption
theorem kept_ite_opt {pq : List Instr} {c : Prop} [Decidable c] {a b : Option State} (ha : OptKept pq a) (hb : OptKept pq b) :
    OptKept pq (if c then a else b) := by
  split <;> assumption
theorem kept_ite_pair {α : Type} {pq : List Instr} {c : Prop} [Decidable c] {a b : α × State} (ha : PairKept pq a)
    (hb : PairKept pq b) : PairKept pq (if c then a else b) := by
  split <;> assumption
theorem kept_ite_triple {α β : Type} {pq : List Instr} {c : Prop} [Decidable c] {a b : α × β × State} (ha : TripleKept pq a)
    (hb : TripleKept pq b) : TripleKept pq (if c then a else b) := by
  split <;> assumption

/-- A state taken out of a result that has a name. -/
theorem kept_of_pair {α : Type} {pq : List Instr} {p : α × State} {a : α} {t : State} (e : p = (a, t)) (h : PairKept pq p) : t.Kept pq := by
  subst e; exact h
theorem kept_of_triple {α β : Type} {pq : List Instr} {p : α × β × State} {a : α} {b : β} {t : State} (e : p = (a, b, t))
    (h : TripleKept pq p) : t.Kept pq := by
  subst e; exact h
theorem kept_of_some {pq : List Instr} {p : Option State} {t : State} (e : p = some t) (h : OptKept pq p) : t.Kept pq := by
  subst e; exact h
theorem kept_of_next {pq : List Instr} {p : Out} {t : State} (e : p = .next t) (h : OutKept pq p) : t.Kept pq := by
  subst e; exact h
theorem kept_of_ran {pq : List Instr} {p : IterResult} {t : State} {d : Nat} (e : p = .ran t d) (h : p.state.Kept pq) : t.Kept pq := by
  subst e; exact h
theorem kept_of_hold {pq : List Instr} {p : IterResult} {t : State} (e : p = .hold t) (h : p.state.Kept pq) : t.Kept pq := by
  subst e; exact h

/-- A step for each element of a list. -/
theorem kept_foldl {α : Type} {pq : List Instr} {l : List α} {s : State} {f : State → α → State}
    (hf : ∀ s a, s.Kept pq → (f s a).Kept pq) (h : s.Kept pq) : (l.foldl f s).Kept pq := by
  induction l generalizing s with
  | nil => exact h
  | cons a l ih => exact ih (hf s a h)
theorem forEach_kept {α : Type} {pq : List Instr} {l : List α} {s : State} {f : State → α → State}
    (hf : ∀ s a, s.Kept pq → (f s a).Kept pq) (h : s.Kept pq) : (forEach l s f).Kept pq :=
  kept_foldl hf h
theorem kept_foldl_pair {α β : Type} {pq : List Instr} {l : List α} {s : β × State} {f : β × State → α → β × State}
    (hf : ∀ s a, PairKept pq s → PairKept pq (f s a)) (h : PairKept pq s) : PairKept pq (l.foldl f s) := by
  induction l generalizing s with
  | nil => exact h
  | cons a l ih => exact ih (hf s a h)
theorem kept_foldl_triple {α β γ : Type} {pq : List Instr} {l : List α} {s : β × γ × State} {f : β × γ × State → α → β × γ × State}
    (hf : ∀ s a, TripleKept pq s → TripleKept pq (f s a)) (h : TripleKept pq s) : TripleKept pq (l.foldl f s) := by
  induction l generalizing s with
  | nil => exact h
  | cons a l ih => exact ih (hf s a h)

end Sys2Proof.Machine
end

