-- ==== Sys2Proof/Laws/KeptCore.lean ====
section
/-! SUPPORT. Sys2Proof/Laws/KeptCore.lean: each operation on the state keeps the waiting commands and the canonical form: blocks, counters, sequencers, memory and boards. -/
namespace Sys2Proof.Machine

/-! ### State -/

theorem State_reset_kept : State.reset.Kept [] :=
  ⟨rfl, rfl, rfl, rfl, rfl⟩

/-! ### Regs -/

theorem wr_kept {pq : List Instr} {s : State} {o : Nat} {v : Nat} (hs : (s).Kept pq) :
    (wr s o v).Kept pq := by
  unfold wr
  repeat' first
    | with_reducible first | assumption | apply wf_set_regs | apply kept_wf_regs | apply kept_wf_mem | apply kept_wf_pool | apply kept_wf_tcc | apply kept_wf_pending
    | (simp only [kept_mk]; refine ⟨?_, ?_, ?_, ?_, ?_⟩)

theorem Blk_wr_kept {pq : List Instr} {b : Blk} {s : State} {o : Nat} {v : Nat} (hs : (s).Kept pq) :
    (Blk.wr b s o v).Kept pq := by
  unfold Blk.wr
  repeat' with_reducible first | assumption | apply wr_kept


/-! ### Flags -/

theorem satAdd_kept {pq : List Instr} {s : State} {o : Nat} {k : Nat} (hs : (s).Kept pq) :
    (satAdd s o k).Kept pq := by
  unfold satAdd
  repeat' with_reducible first | assumption | apply wr_kept

theorem cntAdd_kept {pq : List Instr} {s : State} {o : Nat} {k : Nat} (hs : (s).Kept pq) :
    (cntAdd s o k).Kept pq := by
  unfold cntAdd
  repeat' with_reducible first | assumption | apply wr_kept

theorem Blk_sat_kept {pq : List Instr} {b : Blk} {s : State} {o : Nat} {k : Nat} (hs : (s).Kept pq) :
    (Blk.sat b s o k).Kept pq := by
  unfold Blk.sat
  repeat' with_reducible first | assumption | apply satAdd_kept

theorem Blk_add_kept {pq : List Instr} {b : Blk} {s : State} {o : Nat} {k : Nat} (hs : (s).Kept pq) :
    (Blk.add b s o k).Kept pq := by
  unfold Blk.add
  repeat' with_reducible first | assumption | apply cntAdd_kept

theorem Blk_setBit_kept {pq : List Instr} {b : Blk} {s : State} {o : Nat} {i : Nat} (hs : (s).Kept pq) :
    (Blk.setBit b s o i).Kept pq := by
  unfold Blk.setBit
  repeat' with_reducible first | assumption | apply Blk_wr_kept | apply kept_ite

theorem Blk_clrBit_kept {pq : List Instr} {b : Blk} {s : State} {o : Nat} {i : Nat} (hs : (s).Kept pq) :
    (Blk.clrBit b s o i).Kept pq := by
  unfold Blk.clrBit
  repeat' with_reducible first | assumption | apply Blk_wr_kept | apply kept_ite

theorem Blk_put_kept {pq : List Instr} {b : Blk} {s : State} {o : Nat} {lo : Nat} {len : Nat} {x : Nat} (hs : (s).Kept pq) :
    (Blk.put b s o lo len x).Kept pq := by
  unfold Blk.put
  repeat' with_reducible first | assumption | apply Blk_wr_kept

theorem Blk_event_kept {pq : List Instr} {b : Blk} {s : State} {i : Nat} (hs : (s).Kept pq) :
    (Blk.event b s i).Kept pq := by
  unfold Blk.event
  repeat' with_reducible first | assumption | apply Blk_setBit_kept

theorem Blk_countErr_kept {pq : List Instr} {b : Blk} {s : State} (hs : (s).Kept pq) :
    (Blk.countErr b s).Kept pq := by
  unfold Blk.countErr
  repeat' with_reducible first | assumption | apply Blk_event_kept | apply Blk_wr_kept | apply kept_ite

theorem Blk_raise_kept {pq : List Instr} {b : Blk} {s : State} {code : Nat} {part : Nat} {info : Nat} (hs : (s).Kept pq) :
    (Blk.raise b s code part info).Kept pq := by
  unfold Blk.raise
  repeat' with_reducible first | assumption | apply Blk_countErr_kept | apply Blk_event_kept | apply Blk_wr_kept | apply kept_ite

theorem alert_kept {pq : List Instr} {s : State} {i : Nat} (hs : (s).Kept pq) :
    (alert s i).Kept pq := by
  unfold alert
  repeat' first
    | with_reducible first | assumption | apply Blk_wr_kept | apply kept_ite
    | simp only [kept_upd]


/-! ### Ops -/

theorem fresh_kept {pq : List Instr} {s : State} (hs : (s).Kept pq) :
    PairKept pq (fresh s) := by
  unfold fresh
  repeat' first
    | with_reducible assumption
    | simp only [kept_pair]
    | simp only [kept_upd]

theorem freeBytes_kept {pq : List Instr} {s : State} {x1 : Nat} (hs : (s).Kept pq) :
    PairKept pq (freeBytes s x1) := by
  fun_induction freeBytes s x1
  repeat' first
    | with_reducible first | apply fresh_kept | apply_assumption -exfalso -symm
    | simp only [kept_snd]

theorem writeBytes_kept {pq : List Instr} {s : State} {o : Nat} {bs : List Byte} (hs : (s).Kept pq) :
    (writeBytes s o bs).Kept pq := by
  unfold writeBytes
  repeat' first
    | with_reducible first | assumption | apply wf_setMany_mem | apply tccsOk_map | apply kept_wf_regs | apply kept_wf_mem | apply kept_wf_pool | apply kept_wf_tcc | apply kept_wf_pending
    | (simp only [kept_mk]; refine ⟨?_, ?_, ?_, ?_, ?_⟩)

theorem writeNat_kept {pq : List Instr} {s : State} {o : Nat} {n : Nat} {v : Nat} (hs : (s).Kept pq) :
    (writeNat s o n v).Kept pq := by
  unfold writeNat
  repeat' with_reducible first | assumption | apply writeBytes_kept

theorem setSeq_kept {pq : List Instr} {s : State} {q : SeqId} {x : SeqSt} (hs : (s).Kept pq) :
    (setSeq s q x).Kept pq := by
  unfold setSeq
  repeat' first
    | with_reducible assumption
    | simp only [kept_upd]

theorem setTcc_kept {pq : List Instr} {s : State} {t : Nat} {x : Tcc} (hs : (s).Kept pq) (hx : x.threads.length = 8) :
    (setTcc s t x).Kept pq := by
  unfold setTcc
  simp only [kept_mk]
  exact ⟨hs.pending, hs.regs, hs.mem, hs.pool, tccsOk_set hs.tcc hx⟩

theorem setPort_kept {pq : List Instr} {s : State} {p : Nat} {x : Port} (hs : (s).Kept pq) :
    (setPort s p x).Kept pq := by
  unfold setPort
  repeat' first
    | with_reducible assumption
    | simp only [kept_upd]

theorem setRec_kept {pq : List Instr} {s : State} {b : Blk} {l : List Nat} (hs : (s).Kept pq) :
    (setRec s b l).Kept pq := by
  unfold setRec
  repeat' first
    | with_reducible assumption
    | simp only [kept_upd]


/-! ### SeqCore -/

theorem pageEnergy_kept {pq : List Instr} {s : State} {b : Blk} {e : Nat} (hs : (s).Kept pq) :
    (pageEnergy s b e).Kept pq := by
  unfold pageEnergy
  repeat' first
    | with_reducible first | assumption | apply Blk_event_kept | apply Blk_wr_kept | apply kept_ite
    | simp only [kept_upd]

theorem scopeEnergy_kept {pq : List Instr} {s : State} {k : Nat} {e : Nat} (hs : (s).Kept pq) :
    (scopeEnergy s k e).Kept pq := by
  unfold scopeEnergy
  repeat' first
    | with_reducible assumption
    | simp only [kept_upd]

theorem seqEnergy_kept {pq : List Instr} {s : State} {q : SeqId} {k : EnergyKind} {n : Nat} {page : Blk} (hs : (s).Kept pq) :
    (seqEnergy s q k n page).Kept pq := by
  unfold seqEnergy
  repeat' first
    | with_reducible first | assumption | apply setSeq_kept | apply pageEnergy_kept | apply scopeEnergy_kept
    | simp only
    | split

theorem threadEnergy_kept {pq : List Instr} {s : State} {t : Fin 160} {k : EnergyKind} {n : Nat} (hs : (s).Kept pq) :
    (threadEnergy s t k n).Kept pq := by
  unfold threadEnergy
  try dsimp only
  repeat' first
    | with_reducible first | assumption | apply pageEnergy_kept | apply scopeEnergy_kept
    | split

theorem modSeq_kept {pq : List Instr} {s : State} {q : SeqId} {f : SeqSt → SeqSt} (hs : (s).Kept pq) :
    (modSeq s q f).Kept pq := by
  unfold modSeq
  repeat' with_reducible first | assumption | apply setSeq_kept

theorem noteStatus_kept {pq : List Instr} {s : State} {q : SeqId} {st : Nat} {origin : optParam Nat q.inst} (hs : (s).Kept pq) :
    (noteStatus s q st origin).Kept pq := by
  unfold noteStatus
  repeat' with_reducible first | assumption | apply modSeq_kept

theorem showOcc_kept {pq : List Instr} {s : State} {q : SeqId} (hs : (s).Kept pq) :
    (showOcc s q).Kept pq := by
  unfold showOcc
  repeat' with_reducible first | assumption | apply Blk_wr_kept

theorem seqRaise_kept {pq : List Instr} {s : State} {q : SeqId} {ev : Option Nat} {code : Nat} {info : Nat} (hs : (s).Kept pq) :
    (seqRaise s q ev code info).Kept pq := by
  unfold seqRaise
  repeat' first
    | with_reducible first | assumption | apply Blk_event_kept | apply Blk_raise_kept
    | split

theorem flushEmits_kept {pq : List Instr} {s : State} {q : SeqId} {x2 : Nat} (hs : (s).Kept pq) :
    (flushEmits s q x2).Kept pq := by
  fun_induction flushEmits s q x2
  repeat' with_reducible first | apply modSeq_kept | apply_assumption -exfalso -symm

theorem emitToken_kept {pq : List Instr} {s : State} {q : SeqId} {m : Nat} {e : QEntry} (hs : (s).Kept pq) :
    (emitToken s q m e).Kept pq := by
  unfold emitToken
  repeat' first
    | with_reducible first | assumption | apply flushEmits_kept | apply modSeq_kept | apply noteStatus_kept | apply seqRaise_kept
    | split

theorem arriveToken_kept {pq : List Instr} {s : State} {q : SeqId} {e : QEntry} (hs : (s).Kept pq) :
    (arriveToken s q e).Kept pq := by
  unfold arriveToken
  repeat' with_reducible first | assumption | apply Blk_wr_kept | apply modSeq_kept | apply seqRaise_kept | apply showOcc_kept | apply kept_ite

theorem takeTokens_kept {pq : List Instr} {s : State} {q : SeqId} (hs : (s).Kept pq) :
    (takeTokens s q).Kept pq := by
  unfold takeTokens
  try dsimp only
  repeat' first
    | with_reducible first | assumption | apply Blk_wr_kept | apply modSeq_kept | apply noteStatus_kept | apply seqRaise_kept | apply showOcc_kept
    | split

theorem endWait_kept {pq : List Instr} {s : State} {q : SeqId} (hs : (s).Kept pq) :
    (endWait s q).Kept pq := by
  unfold endWait
  repeat' first
    | with_reducible first | assumption | apply Blk_add_kept | apply modSeq_kept
    | split

theorem sendToken_kept {pq : List Instr} {s : State} {q : SeqId} {late : Bool} {m : Nat} {k : Nat} {e : QEntry} (hs : (s).Kept pq) :
    (sendToken s q late m k e).Kept pq := by
  unfold sendToken
  repeat' with_reducible first | assumption | apply modSeq_kept | apply emitToken_kept | apply kept_ite

theorem retireStep_kept {pq : List Instr} {s : State} {q : SeqId} {late : Bool} (hs : (s).Kept pq) :
    (retireStep s q late).Kept pq := by
  unfold retireStep
  repeat' with_reducible first | assumption | apply Blk_wr_kept | apply modSeq_kept | apply sendToken_kept | apply kept_ite

theorem afterIter_kept {pq : List Instr} {s : State} {q : SeqId} {late : Bool} {dAddr : Nat} (hs : (s).Kept pq) :
    (afterIter s q late dAddr).Kept pq := by
  unfold afterIter
  try dsimp only
  repeat' first
    | with_reducible first | assumption | apply modSeq_kept | apply retireStep_kept | apply sendToken_kept
    | split

theorem idleIters_kept {pq : List Instr} {s : State} {q : SeqId} {x2 : Nat} (hs : (s).Kept pq) :
    (idleIters s q x2).Kept pq := by
  fun_induction idleIters s q x2
  repeat' with_reducible first | apply afterIter_kept | apply_assumption -exfalso -symm

theorem idleStep_kept {pq : List Instr} {s : State} {q : SeqId} (hs : (s).Kept pq) :
    (idleStep s q).Kept pq := by
  unfold idleStep
  repeat' with_reducible first | assumption | apply idleIters_kept | apply modSeq_kept | apply retireStep_kept | apply kept_ite

theorem runIter_kept {pq : List Instr} {q : SeqId} {op : Nat} {body : State → Step → IterResult} {s : State} (hbody : ∀ (a0 : State) (a1 : Step), (a0).Kept pq → (body a0 a1).state.Kept pq) (hs : (s).Kept pq) :
    (runIter q op body s).Kept pq := by
  unfold runIter
  try dsimp only
  repeat' first
    | with_reducible first | assumption | apply hbody | apply afterIter_kept | apply modSeq_kept | refine kept_of_ran (by assumption) ?_ | refine kept_of_hold (by assumption) ?_
    | split

theorem releaseCredit_kept {pq : List Instr} {s : State} {q : SeqId} (hs : (s).Kept pq) :
    (releaseCredit s q).Kept pq := by
  unfold releaseCredit
  repeat' first
    | with_reducible assumption
    | simp only [kept_upd]

theorem completionTokens_kept {pq : List Instr} {s : State} {q : SeqId} (hs : (s).Kept pq) :
    (completionTokens s q).Kept pq := by
  unfold completionTokens
  repeat' first
    | intro _
    | with_reducible first | assumption | apply emitToken_kept | apply forEach_kept
    | split

theorem dropPoolWaits_kept {pq : List Instr} {s : State} {inst : Nat} (hs : (s).Kept pq) :
    (dropPoolWaits s inst).Kept pq := by
  unfold dropPoolWaits
  repeat' first
    | intro _
    | with_reducible first | assumption | apply Blk_put_kept | apply forEach_kept | apply kept_ite
    | simp only [kept_upd]

theorem abandonTable_kept {pq : List Instr} {s : State} {q : SeqId} (hs : (s).Kept pq) :
    PairKept pq (abandonTable s q) := by
  unfold abandonTable
  repeat' first
    | with_reducible first | assumption | apply modSeq_kept | apply noteStatus_kept | apply releaseCredit_kept | apply completionTokens_kept | apply dropPoolWaits_kept | apply kept_ite | apply kept_ite_pair
    | simp only [kept_pair]
    | simp only [kept_upd]

theorem abandon_kept {pq : List Instr} {s : State} {q : SeqId} (hs : (s).Kept pq) :
    PairKept pq (abandon s q) := by
  unfold abandon
  repeat' first
    | intro _
    | with_reducible first | assumption | apply Blk_put_kept | apply Blk_wr_kept | apply abandonTable_kept | apply modSeq_kept | apply showOcc_kept | apply forEach_kept
    | simp only [kept_pair]
    | simp only [kept_snd]

theorem drainSet_kept {pq : List Instr} {s : State} {q : SeqId} (hs : (s).Kept pq) :
    (drainSet s q).Kept pq := by
  unfold drainSet
  repeat' with_reducible first | assumption | apply Blk_event_kept | apply modSeq_kept | apply releaseCredit_kept | apply kept_ite

theorem ringCheck_kept {pq : List Instr} {s : State} {q : SeqId} (hs : (s).Kept pq) :
    (ringCheck s q).Kept pq := by
  unfold ringCheck
  repeat' with_reducible first | assumption | apply modSeq_kept | apply seqRaise_kept | apply kept_ite


/-! ### Packet -/

theorem modPort_kept {pq : List Instr} {s : State} {p : Nat} {f : Port → Port} (hs : (s).Kept pq) :
    (modPort s p f).Kept pq := by
  unfold modPort
  repeat' with_reducible first | assumption | apply setPort_kept

theorem freeInput_kept {pq : List Instr} {s : State} {k : Packet} (hs : (s).Kept pq) :
    (freeInput s k).Kept pq := by
  unfold freeInput
  repeat' with_reducible first | assumption | apply modPort_kept | apply kept_ite

theorem crossCount_kept {pq : List Instr} {s : State} {d : Nat} {n : Nat} (hs : (s).Kept pq) :
    (crossCount s d n).Kept pq := by
  unfold crossCount
  repeat' with_reducible first | assumption | apply Blk_add_kept

theorem enterRouter_kept {pq : List Instr} {s : State} {k : Packet} (hs : (s).Kept pq) :
    (enterRouter s k).Kept pq := by
  unfold enterRouter
  repeat' first
    | with_reducible first | assumption | apply Blk_add_kept | apply crossCount_kept | apply kept_ite
    | simp only [kept_upd]

theorem setComb_kept {pq : List Instr} {s : State} {l : List CombEntry} (hs : (s).Kept pq) :
    (setComb s l).Kept pq := by
  unfold setComb
  repeat' first
    | with_reducible first | assumption | apply Blk_wr_kept
    | simp only [kept_upd]


/-! ### BlkCtrl -/

theorem resetRegs_kept {pq : List Instr} {s : State} {b : Blk} (hs : (s).Kept pq) :
    (resetRegs s b).Kept pq := by
  unfold resetRegs
  repeat' first
    | intro _
    | with_reducible first | assumption | apply Blk_wr_kept | apply forEach_kept

theorem resetPools_kept {pq : List Instr} {s : State} {d : Fin 2} (hs : (s).Kept pq) :
    (resetPools s d).Kept pq := by
  unfold resetPools
  repeat' first
    | intro _
    | with_reducible first | assumption | apply wf_clear_pool | apply kept_wf_regs | apply kept_wf_mem | apply kept_wf_pool | apply kept_wf_tcc | apply kept_wf_pending | apply Blk_put_kept | apply Blk_wr_kept | apply forEach_kept
    | simp only [kept_upd]
    | (simp only [kept_mk]; refine ⟨?_, ?_, ?_, ?_, ?_⟩)

theorem resetFabric_kept {pq : List Instr} {s : State} (hs : (s).Kept pq) :
    (resetFabric s).Kept pq := by
  unfold resetFabric
  repeat' first
    | intro _
    | with_reducible first | assumption | apply forEach_kept | apply modPort_kept | apply freeInput_kept | apply setComb_kept | apply kept_ite
    | simp only [kept_upd]

theorem clearEngine_kept {pq : List Instr} {s : State} {b : Blk} (hs : (s).Kept pq) :
    (clearEngine s b).Kept pq := by
  unfold clearEngine
  repeat' first
    | with_reducible first | assumption | apply Blk_wr_kept | apply modPort_kept | apply resetPools_kept | apply resetFabric_kept
    | simp only [kept_upd]
    | split

theorem softReset_kept {pq : List Instr} {s : State} {b : Blk} {p : Nat} (hs : (s).Kept pq) :
    (softReset s b p).Kept pq := by
  unfold softReset
  repeat' first
    | with_reducible first | assumption | apply Blk_raise_kept | apply Blk_wr_kept | apply abandonTable_kept | apply abandon_kept | apply clearEngine_kept | apply resetRegs_kept
    | simp only [kept_pair]
    | simp only [kept_snd]
    | split

theorem blkCtrlWrite_kept {pq : List Instr} {s : State} {b : Blk} {p : Nat} {v : Nat} (hs : (s).Kept pq) :
    (blkCtrlWrite s b p v).Kept pq := by
  unfold blkCtrlWrite
  try dsimp only
  repeat' first
    | with_reducible first | assumption | apply Blk_event_kept | apply Blk_wr_kept | apply drainSet_kept | apply ringCheck_kept | apply softReset_kept
    | split


/-! ### RoastLog -/

theorem writeFlash_kept {pq : List Instr} {s : State} {o : Nat} {bs : List Byte} (hs : (s).Kept pq) :
    (writeFlash s o bs).Kept pq := by
  unfold writeFlash
  repeat' first
    | with_reducible assumption
    | simp only [kept_upd]

theorem eraseFlash_kept {pq : List Instr} {s : State} {lo : Nat} {hi : Nat} (hs : (s).Kept pq) :
    (eraseFlash s lo hi).Kept pq := by
  unfold eraseFlash
  repeat' first
    | with_reducible assumption
    | simp only [kept_upd]

theorem setRegBytes8_kept {pq : List Instr} {s : State} {b : Blk} {o : Nat} {n : Nat} {bs : List Byte} (hs : (s).Kept pq) :
    (setRegBytes8 s b o n bs).Kept pq := by
  unfold setRegBytes8
  repeat' first
    | intro _
    | with_reducible first | assumption | apply Blk_wr_kept | apply forEach_kept

theorem appendOne_kept {pq : List Instr} {s : State} {type : Nat} {payload : List Byte} (hs : (s).Kept pq) :
    (appendOne s type payload).Kept pq := by
  unfold appendOne
  repeat' first
    | with_reducible first | assumption | apply Blk_add_kept | apply Blk_event_kept | apply Blk_raise_kept | apply Blk_sat_kept | apply Blk_wr_kept | apply setRegBytes8_kept | apply writeFlash_kept | apply kept_ite
    | simp only [kept_upd]

theorem eraseOld_kept {pq : List Instr} {s : State} {keep : Nat} {x2 : Nat} (hs : (s).Kept pq) :
    (eraseOld s keep x2).Kept pq := by
  fun_induction eraseOld s keep x2
  repeat' first
    | with_reducible first | apply eraseFlash_kept | apply_assumption -exfalso -symm
    | simp only [kept_upd]

theorem appendRecord_kept {pq : List Instr} {s : State} {type : Nat} {payload : List Byte} (hs : (s).Kept pq) :
    (appendRecord s type payload).Kept pq := by
  unfold appendRecord
  repeat' first
    | intro _
    | with_reducible first | assumption | apply Blk_event_kept | apply Blk_wr_kept | apply appendOne_kept | apply eraseOld_kept | apply forEach_kept | apply kept_ite

theorem wearMinute_kept {pq : List Instr} {s : State} (hs : (s).Kept pq) :
    (wearMinute s).Kept pq := by
  unfold wearMinute
  repeat' first
    | with_reducible first | assumption | apply forEach_kept
    | intro _
    | simp only [kept_upd]

theorem execStatusRecord_kept {pq : List Instr} {s : State} (hs : (s).Kept pq) :
    OutKept pq (execStatusRecord s) := by
  unfold execStatusRecord
  repeat' with_reducible first | assumption | apply appendRecord_kept | apply kept_ite | apply kept_next


/-! ### Grade -/

theorem showLmap_kept {pq : List Instr} {s : State} (hs : (s).Kept pq) :
    (showLmap s).Kept pq := by
  unfold showLmap
  repeat' first
    | intro _
    | with_reducible first | assumption | apply Blk_wr_kept | apply forEach_kept

theorem zeroSlot_kept {pq : List Instr} {s : State} {t : Nat} (hs : (s).Kept pq) :
    (zeroSlot s t).Kept pq := by
  unfold zeroSlot
  repeat' first
    | with_reducible first | assumption | apply wf_clear_mem | apply kept_wf_regs | apply kept_wf_mem | apply kept_wf_pool | apply kept_wf_tcc | apply kept_wf_pending
    | (simp only [kept_mk]; refine ⟨?_, ?_, ?_, ?_, ?_⟩)

theorem permuteSlots_kept {pq : List Instr} {s : State} {f : Nat → Nat} (hs : (s).Kept pq) :
    (permuteSlots s f).Kept pq := by
  unfold permuteSlots
  repeat' first
    | with_reducible first | assumption | apply wf_foldl_mem | exact wf_nil_mem | apply kept_wf_regs | apply kept_wf_pool | apply kept_wf_tcc | apply kept_wf_pending
    | (simp only [kept_mk]; refine ⟨?_, ?_, ?_, ?_, ?_⟩)

theorem copySlot_kept {pq : List Instr} {s : State} {a : Nat} {b : Nat} (hs : (s).Kept pq) :
    (copySlot s a b).Kept pq := by
  unfold copySlot
  repeat' first
    | with_reducible first | assumption | apply zeroSlot_kept | apply wf_foldl_mem | apply kept_wf_regs | apply kept_wf_mem | apply kept_wf_pool | apply kept_wf_tcc | apply kept_wf_pending
    | (simp only [kept_mk]; refine ⟨?_, ?_, ?_, ?_, ?_⟩)

theorem remap_kept {pq : List Instr} {s : State} {old : List Nat} (hs : (s).Kept pq) :
    (remap s old).Kept pq := by
  unfold remap
  repeat' with_reducible first | assumption | apply permuteSlots_kept | apply showLmap_kept

theorem gradeChange_kept {pq : List Instr} {s : State} {old : Nat} {new : Nat} {tiles : Nat} {ports : Nat} {degraded : Nat} (hs : (s).Kept pq) :
    (gradeChange s old new tiles ports degraded).Kept pq := by
  unfold gradeChange
  repeat' with_reducible first | assumption | apply appendRecord_kept

theorem changePending_kept {pq : List Instr} {s : State} {new : Nat} (hs : (s).Kept pq) :
    (changePending s new).Kept pq := by
  unfold changePending
  repeat' with_reducible first | assumption | apply Blk_wr_kept | apply Blk_event_kept | apply gradeChange_kept

theorem setPending_kept {pq : List Instr} {s : State} {g : Nat} (hs : (s).Kept pq) :
    (setPending s g).Kept pq := by
  unfold setPending
  repeat' with_reducible first | assumption | apply alert_kept | apply changePending_kept | apply kept_ite

theorem clearPending_kept {pq : List Instr} {s : State} (hs : (s).Kept pq) :
    (clearPending s).Kept pq := by
  unfold clearPending
  repeat' with_reducible first | assumption | apply changePending_kept | apply kept_ite

theorem reviewPending_kept {pq : List Instr} {s : State} (hs : (s).Kept pq) :
    (reviewPending s).Kept pq := by
  unfold reviewPending
  repeat' with_reducible first | assumption | apply setPending_kept | apply clearPending_kept | apply kept_ite

theorem recordRetired_kept {pq : List Instr} {s : State} {cause : Nat} (hs : (s).Kept pq) :
    (recordRetired s cause).Kept pq := by
  unfold recordRetired
  repeat' first
    | with_reducible first | assumption | apply appendRecord_kept | apply kept_ite
    | simp only [kept_upd]

theorem retireInService_kept {pq : List Instr} {s : State} {cause : Nat} (hs : (s).Kept pq) :
    (retireInService s cause).Kept pq := by
  unfold retireInService
  repeat' with_reducible first | assumption | apply Blk_put_kept | apply Blk_event_kept | apply alert_kept | apply setPending_kept | apply recordRetired_kept | apply kept_ite

theorem writeFeatures_kept {pq : List Instr} {s : State} {grade : Nat} (hs : (s).Kept pq) :
    (writeFeatures s grade).Kept pq := by
  unfold writeFeatures
  repeat' with_reducible first | assumption | apply Blk_wr_kept

theorem gradeRecord_kept {pq : List Instr} {s : State} {old : Nat} {grade : Nat} (hs : (s).Kept pq) :
    (gradeRecord s old grade).Kept pq := by
  unfold gradeRecord
  repeat' with_reducible first | assumption | apply gradeChange_kept

theorem publish_kept {pq : List Instr} {s : State} {grade : Nat} (hs : (s).Kept pq) :
    (publish s grade).Kept pq := by
  unfold publish
  repeat' with_reducible first | assumption | apply Blk_wr_kept | apply writeFeatures_kept


/-! ### Hbm -/

theorem noteFailing_kept {pq : List Instr} {s : State} {pc : Nat} {u : HbmFail} (hs : (s).Kept pq) :
    (noteFailing s pc u).Kept pq := by
  unfold noteFailing
  repeat' first
    | with_reducible assumption
    | simp only [kept_upd]
    | split

theorem burstEnergy_kept {pq : List Instr} {s : State} {pc : Nat} {k : Nat} (hs : (s).Kept pq) :
    (burstEnergy s pc k).Kept pq := by
  unfold burstEnergy
  repeat' with_reducible first | assumption | apply pageEnergy_kept

theorem mapStore_kept {pq : List Instr} {s : State} {pc : Nat} {row : Nat} (hs : (s).Kept pq) :
    (mapStore s pc row).Kept pq := by
  unfold mapStore
  repeat' first
    | with_reducible first | assumption | apply freeBytes_kept | apply writeBytes_kept | apply burstEnergy_kept
    | simp only [kept_snd]

theorem setStackState_kept {pq : List Instr} {s : State} {stack : Nat} {f : Nat → Nat} (hs : (s).Kept pq) :
    (setStackState s stack f).Kept pq := by
  unfold setStackState
  repeat' first
    | intro _
    | with_reducible first | assumption | apply Blk_wr_kept | apply forEach_kept

theorem reviewStack_kept {pq : List Instr} {s : State} {stack : Nat} (hs : (s).Kept pq) :
    (reviewStack s stack).Kept pq := by
  unfold reviewStack
  repeat' with_reducible first | assumption | apply setStackState_kept

theorem loseStack_kept {pq : List Instr} {s : State} {pc : Nat} (hs : (s).Kept pq) :
    (loseStack s pc).Kept pq := by
  unfold loseStack
  repeat' with_reducible first | assumption | apply Blk_event_kept | apply Blk_raise_kept | apply retireInService_kept | apply setStackState_kept | apply kept_ite

theorem uncorrectable_kept {pq : List Instr} {s : State} {part : Nat} {pc : Nat} {pcoff : Nat} (hs : (s).Kept pq) :
    (uncorrectable s part pc pcoff).Kept pq := by
  unfold uncorrectable
  repeat' first
    | with_reducible first | assumption | apply Blk_sat_kept | apply Blk_event_kept | apply Blk_raise_kept | apply noteFailing_kept | apply loseStack_kept | apply kept_ite
    | simp only [kept_upd]

theorem corrected_kept {pq : List Instr} {s : State} {pc : Nat} {pcoff : Nat} {pattern : List (Nat × Nat)} (hs : (s).Kept pq) :
    (corrected s pc pcoff pattern).Kept pq := by
  unfold corrected
  repeat' first
    | intro _
    | with_reducible first | assumption | apply Blk_add_kept | apply Blk_event_kept | apply noteFailing_kept | apply forEach_kept | apply kept_ite
    | simp only [kept_upd]

theorem decodeBurst_kept {pq : List Instr} {s : State} {part : Nat} {a : Nat} (hs : (s).Kept pq) :
    PairKept pq (decodeBurst s part a) := by
  unfold decodeBurst
  repeat' first
    | with_reducible first | assumption | apply uncorrectable_kept | apply corrected_kept
    | simp only [kept_pair]
    | split

theorem healBurst_kept {pq : List Instr} {s : State} {a : Nat} {bs : List Byte} (hs : (s).Kept pq) :
    (healBurst s a bs).Kept pq := by
  unfold healBurst
  repeat' first
    | with_reducible assumption
    | with_reducible first | apply wf_setMany_mem | apply kept_wf_regs | apply kept_wf_mem | apply kept_wf_pool | apply kept_wf_tcc | apply kept_wf_pending
    | (simp only [kept_mk]; refine ⟨?_, ?_, ?_, ?_, ?_⟩)

theorem readBurst_kept {pq : List Instr} {s : State} {part : Nat} {a : Nat} (hs : (s).Kept pq) :
    PairKept pq (readBurst s part a) := by
  unfold readBurst
  repeat' first
    | with_reducible first | assumption | apply burstEnergy_kept | apply decodeBurst_kept | apply healBurst_kept
    | simp only [kept_pair]
    | simp only [kept_snd]
    | split

theorem writeBurst_kept {pq : List Instr} {s : State} {part : Nat} {a : Nat} {bs : List Byte} (hs : (s).Kept pq) :
    PairKept pq (writeBurst s part a bs) := by
  unfold writeBurst
  repeat' first
    | with_reducible first | assumption | apply writeBytes_kept | apply decodeBurst_kept | apply healBurst_kept
    | simp only [kept_pair]
    | simp only [kept_snd]
    | simp only [kept_upd]
    | split

theorem openRows_kept {pq : List Instr} {s : State} {o : Nat} {n : Nat} (hs : (s).Kept pq) :
    (openRows s o n).Kept pq := by
  unfold openRows
  repeat' first
    | intro _
    | with_reducible first | assumption | apply forEach_kept | apply kept_ite
    | simp only [kept_upd]

theorem countBursts_kept {pq : List Instr} {s : State} {part : Nat} {o : Nat} {n : Nat} {write : Bool} (hs : (s).Kept pq) :
    (countBursts s part o n write).Kept pq := by
  unfold countBursts
  repeat' first
    | intro _
    | with_reducible first | assumption | apply forEach_kept | apply Blk_add_kept | apply burstEnergy_kept | apply openRows_kept
    | split

theorem readSpan_kept {pq : List Instr} {s : State} {part : Nat} {o : Nat} {n : Nat} (hs : (s).Kept pq) :
    PairKept pq (readSpan s part o n) := by
  unfold readSpan
  repeat' first
    | with_reducible first | assumption | apply readBurst_kept | apply kept_foldl_pair
    | intro _
    | simp only [kept_pair]
    | simp only [kept_snd]

theorem writeSpan_kept {pq : List Instr} {s : State} {part : Nat} {o : Nat} {bs : List Byte} (hs : (s).Kept pq) :
    PairKept pq (writeSpan s part o bs) := by
  unfold writeSpan
  repeat' first
    | with_reducible first | assumption | apply writeBurst_kept | apply kept_foldl_pair
    | intro _
    | simp only [kept_pair]
    | simp only [kept_snd]

theorem setQ_kept {pq : List Instr} {s : State} {pc : Nat} {l : List (Nat × HbmReq)} {b : List (Nat × HbmReq)} (hs : (s).Kept pq) :
    (setQ s pc l b).Kept pq := by
  unfold setQ
  repeat' first
    | with_reducible assumption
    | simp only [kept_upd]

theorem joinQueue_kept {pq : List Instr} {s : State} {pc : Nat} {r : HbmReq} (hs : (s).Kept pq) :
    OptKept pq (joinQueue s pc r) := by
  unfold joinQueue
  repeat' with_reducible first | assumption | apply setQ_kept | apply kept_ite_opt | apply kept_some | exact kept_none

theorem enqueueAll_kept {pq : List Instr} {s : State} {pc : Nat} {rs : List HbmReq} (hs : (s).Kept pq) :
    (enqueueAll s pc rs).Kept pq := by
  unfold enqueueAll
  repeat' first
    | with_reducible first | assumption | apply joinQueue_kept | apply kept_foldl_pair
    | with_reducible refine kept_of_some (by assumption) ?_
    | intro _
    | simp only [kept_pair]
    | simp only [kept_snd]
    | simp only [kept_upd]
    | split

theorem enqueue_kept {pq : List Instr} {s : State} {pc : Nat} {rs : List HbmReq} (hs : (s).Kept pq) :
    (enqueue s pc rs).Kept pq := by
  unfold enqueue
  repeat' with_reducible first | assumption | apply enqueueAll_kept

theorem performReq_kept {pq : List Instr} {s : State} {pc : Nat} {r : HbmReq} (hs : (s).Kept pq) :
    (performReq s pc r).Kept pq := by
  unfold performReq
  repeat' first
    | with_reducible first | assumption | apply countBursts_kept | apply readSpan_kept | apply writeSpan_kept
    | simp only [kept_snd]
    | simp only [kept_upd]
    | split

theorem runOn_kept {pq : List Instr} {s : State} {pc : Nat} {lat : Bool} (hs : (s).Kept pq) :
    (runOn s pc lat).Kept pq := by
  unfold runOn
  repeat' first
    | with_reducible assumption
    | simp only [kept_upd]

theorem leaveQueue_kept {pq : List Instr} {s : State} {pc : Nat} {t : Nat} {e : Nat × HbmReq} (hs : (s).Kept pq) :
    (leaveQueue s pc t e).Kept pq := by
  unfold leaveQueue
  repeat' with_reducible first | assumption | apply Blk_wr_kept | apply setQ_kept | apply enqueue_kept | apply runOn_kept | apply kept_ite

theorem issueReq_kept {pq : List Instr} {s : State} {pc : Nat} {t : Nat} {e : Nat × HbmReq} (hs : (s).Kept pq) :
    (issueReq s pc t e).Kept pq := by
  unfold issueReq
  repeat' with_reducible first | assumption | apply performReq_kept | apply leaveQueue_kept

theorem refreshBank_kept {pq : List Instr} {s : State} {pc : Nat} {k : Nat} {t : Nat} (hs : (s).Kept pq) :
    (refreshBank s pc k t).Kept pq := by
  unfold refreshBank
  repeat' first
    | with_reducible assumption
    | simp only [kept_upd]

theorem refreshDueNow_kept {pq : List Instr} {s : State} {pc : Nat} {t : Nat} (hs : (s).Kept pq) :
    (refreshDueNow s pc t).Kept pq := by
  unfold refreshDueNow
  repeat' first
    | intro _
    | with_reducible first | assumption | apply forEach_kept | apply refreshBank_kept | apply kept_ite

theorem runSlots_kept {pq : List Instr} {pc : Nat} {t : Nat} {x1 : Nat} {x2 : State} (hx2 : (x2).Kept pq) :
    (runSlots pc t x1 x2).Kept pq := by
  fun_induction runSlots pc t x1 x2
  repeat' with_reducible first | apply_assumption -exfalso -symm | apply leaveQueue_kept | apply issueReq_kept

theorem takeSlot_kept {pq : List Instr} {s : State} {lat : Bool} {a : Nat} (hs : (s).Kept pq) :
    (takeSlot s lat a).Kept pq := by
  unfold takeSlot
  repeat' with_reducible first | assumption | apply enqueue_kept | apply refreshDueNow_kept | apply runSlots_kept

theorem readHbm_kept {pq : List Instr} {s : State} {part : Nat} {o : Nat} {n : Nat} {lat : Bool} (hs : (s).Kept pq) :
    PairKept pq (readHbm s part o n lat) := by
  unfold readHbm
  repeat' first
    | with_reducible first | assumption | apply forEach_kept | apply countBursts_kept | apply readSpan_kept | apply takeSlot_kept | apply kept_ite_pair
    | intro _
    | simp only [kept_pair]

theorem writeHbm_kept {pq : List Instr} {s : State} {part : Nat} {o : Nat} {bs : List Byte} {lat : Bool} (hs : (s).Kept pq) :
    PairKept pq (writeHbm s part o bs lat) := by
  unfold writeHbm
  repeat' first
    | with_reducible first | assumption | apply forEach_kept | apply writeBytes_kept | apply countBursts_kept | apply writeSpan_kept | apply takeSlot_kept | apply kept_ite_pair
    | intro _
    | simp only [kept_pair]

theorem rmwHbm_kept {pq : List Instr} {s : State} {part : Nat} {o : Nat} {n : Nat} {f : List Byte → Option (List Byte)} {lat : Bool} (hs : (s).Kept pq) :
    PairKept pq (rmwHbm s part o n f lat) := by
  unfold rmwHbm
  repeat' first
    | with_reducible first | assumption | apply writeBytes_kept | apply decodeBurst_kept | apply healBurst_kept | apply countBursts_kept | apply takeSlot_kept
    | simp only [kept_pair]
    | simp only [kept_snd]
    | split

theorem nmCorrected_kept {pq : List Instr} {s : State} {slot : Nat} {n : Nat} (hs : (s).Kept pq) :
    (nmCorrected s slot n).Kept pq := by
  unfold nmCorrected
  repeat' first
    | with_reducible first | assumption | apply Blk_add_kept
    | split

theorem condemnRow_kept {pq : List Instr} {s : State} {w : Nat} {reason : Nat} (hs : (s).Kept pq) :
    (condemnRow s w reason).Kept pq := by
  unfold condemnRow
  repeat' first
    | with_reducible first | assumption | apply kept_ite
    | simp only [kept_upd]

theorem noteCorrected_kept {pq : List Instr} {s : State} {w : Nat} (hs : (s).Kept pq) :
    (noteCorrected s w).Kept pq := by
  unfold noteCorrected
  repeat' first
    | with_reducible first | assumption | apply condemnRow_kept | apply kept_ite
    | simp only [kept_upd]

theorem readNm_kept {pq : List Instr} {s : State} {o : Nat} {n : Nat} (hs : (s).Kept pq) :
    PairKept pq (readNm s o n) := by
  unfold readNm
  repeat' first
    | intro _
    | with_reducible first | assumption | apply forEach_kept | apply nmCorrected_kept | apply condemnRow_kept | apply noteCorrected_kept | apply kept_ite_pair
    | simp only [kept_pair]

theorem writeNm_kept {pq : List Instr} {s : State} {o : Nat} {bs : List Byte} (hs : (s).Kept pq) :
    (writeNm s o bs).Kept pq := by
  unfold writeNm
  repeat' first
    | with_reducible first | assumption | apply writeBytes_kept | apply kept_ite
    | simp only [kept_upd]

theorem nmFailed_kept {pq : List Instr} {s : State} {slot : Nat} (hs : (s).Kept pq) :
    (nmFailed s slot).Kept pq := by
  unfold nmFailed
  repeat' first
    | with_reducible first | assumption | apply Blk_countErr_kept
    | split

theorem readLocal_kept {pq : List Instr} {s : State} {part : Nat} {o : Nat} {n : Nat} {lat : Bool} (hs : (s).Kept pq) :
    PairKept pq (readLocal s part o n lat) := by
  unfold readLocal
  repeat' first
    | with_reducible first | assumption | apply readHbm_kept | apply readNm_kept | apply nmFailed_kept
    | simp only [kept_pair]
    | simp only [kept_snd]
    | split

theorem writeLocal_kept {pq : List Instr} {s : State} {part : Nat} {o : Nat} {bs : List Byte} {lat : Bool} (hs : (s).Kept pq) :
    PairKept pq (writeLocal s part o bs lat) := by
  unfold writeLocal
  repeat' first
    | with_reducible first | assumption | apply writeHbm_kept | apply writeNm_kept
    | simp only [kept_pair]
    | split

theorem rmwLocal_kept {pq : List Instr} {s : State} {part : Nat} {o : Nat} {n : Nat} {f : List Byte → Option (List Byte)} {lat : Bool} (hs : (s).Kept pq) :
    PairKept pq (rmwLocal s part o n f lat) := by
  unfold rmwLocal
  repeat' first
    | with_reducible first | assumption | apply rmwHbm_kept | apply writeNm_kept | apply readLocal_kept
    | simp only [kept_pair]
    | simp only [kept_snd]
    | split

theorem addStoredErr_kept {pq : List Instr} {s : State} {a : Nat} {errs : List (Nat × Nat)} (hs : (s).Kept pq) :
    (addStoredErr s a errs).Kept pq := by
  unfold addStoredErr
  repeat' first
    | with_reducible first | assumption | apply kept_ite
    | simp only [kept_upd]

theorem recordEye_kept {pq : List Instr} {s : State} {pc : Nat} {drift : Byte} {eye : Byte} {pin : Fin 36} (hs : (s).Kept pq) :
    (recordEye s pc drift eye pin).Kept pq := by
  unfold recordEye
  repeat' first
    | with_reducible first | assumption | apply Blk_wr_kept | apply noteFailing_kept | apply kept_ite
    | simp only [kept_upd]

theorem execHbmIssue_kept {pq : List Instr} {pc : Fin 512} {t : Nat} {arrivals : List HbmReq} {found : BurstFound} {s : State} (hs : (s).Kept pq) :
    OutKept pq (execHbmIssue pc t arrivals found s) := by
  unfold execHbmIssue
  repeat' first
    | with_reducible first | assumption | apply enqueue_kept | apply issueReq_kept | apply addStoredErr_kept | apply recordEye_kept | apply kept_next
    | simp only
    | split

theorem execBulkAgeExpire_kept {pq : List Instr} {pc : Fin 512} {t : Nat} {s : State} (hs : (s).Kept pq) :
    OutKept pq (execBulkAgeExpire pc t s) := by
  unfold execBulkAgeExpire
  repeat' first
    | with_reducible first | assumption | apply issueReq_kept | apply kept_next
    | split

theorem execHbmRefresh_kept {pq : List Instr} {r : RefreshSlot} {s : State} (hs : (s).Kept pq) :
    OutKept pq (execHbmRefresh r s) := by
  unfold execHbmRefresh
  repeat' first
    | with_reducible first | assumption | apply refreshBank_kept | apply kept_ite | apply kept_next
    | simp only [kept_upd]

theorem retrain_kept {pq : List Instr} {s : State} {pc : Nat} {t : Nat} {hold : Nat} (hs : (s).Kept pq) :
    (retrain s pc t hold).Kept pq := by
  unfold retrain
  repeat' first
    | with_reducible first | assumption | apply Blk_sat_kept | apply Blk_event_kept | apply mapStore_kept
    | simp only [kept_upd]

theorem execHbmWriteTraining_kept {pq : List Instr} {pc : Fin 512} {t : Nat} {hold : Nat} {drift : Byte} {eye : Byte} {pin : Fin 36} {s : State} (hs : (s).Kept pq) :
    OutKept pq (execHbmWriteTraining pc t hold drift eye pin s) := by
  unfold execHbmWriteTraining
  repeat' first
    | with_reducible first | assumption | apply recordEye_kept | apply retrain_kept | apply kept_ite | apply kept_next
    | simp only [kept_upd]

theorem repairRecord_kept {pq : List Instr} {s : State} {pc : Nat} {kind : Nat} {v : Nat} (hs : (s).Kept pq) :
    (repairRecord s pc kind v).Kept pq := by
  unfold repairRecord
  repeat' with_reducible first | assumption | apply appendRecord_kept

theorem putRepair_kept {pq : List Instr} {s : State} {pc : Nat} {lo : Nat} {len : Nat} {v : Nat} (hs : (s).Kept pq) :
    (putRepair s pc lo len v).Kept pq := by
  unfold putRepair
  repeat' with_reducible first | assumption | apply Blk_put_kept

theorem laneRepair_kept {pq : List Instr} {s : State} {pc : Nat} {pin : Nat} (hs : (s).Kept pq) :
    (laneRepair s pc pin).Kept pq := by
  unfold laneRepair
  repeat' first
    | with_reducible first | assumption | apply Blk_event_kept | apply Blk_sat_kept | apply putRepair_kept | apply repairRecord_kept
    | simp only [kept_upd]

theorem markErasure_kept {pq : List Instr} {s : State} {pc : Nat} {pin : Nat} (hs : (s).Kept pq) :
    (markErasure s pc pin).Kept pq := by
  unfold markErasure
  repeat' with_reducible first | assumption | apply Blk_event_kept | apply mapStore_kept | apply reviewStack_kept | apply repairRecord_kept | apply putRepair_kept | apply kept_ite

theorem copyRow_kept {pq : List Instr} {s : State} {pc : Nat} {row : Nat} (hs : (s).Kept pq) :
    (copyRow s pc row).Kept pq := by
  unfold copyRow
  repeat' first
    | intro _
    | with_reducible first | assumption | apply forEach_kept | apply burstEnergy_kept | apply decodeBurst_kept | apply healBurst_kept
    | simp only [kept_snd]
    | split

theorem serveRow_kept {pq : List Instr} {s : State} {pc : Nat} {row : Nat} {spare : Nat} (hs : (s).Kept pq) :
    (serveRow s pc row spare).Kept pq := by
  unfold serveRow
  repeat' first
    | with_reducible first | assumption | apply putRepair_kept
    | simp only [kept_upd]

theorem takeRowSpare_kept {pq : List Instr} {s : State} (hs : (s).Kept pq) :
    (takeRowSpare s).Kept pq := by
  unfold takeRowSpare
  repeat' with_reducible first | assumption | apply Blk_wr_kept

theorem remapRow_kept {pq : List Instr} {s : State} {pc : Nat} {row : Nat} {spare : Nat} (hs : (s).Kept pq) :
    (remapRow s pc row spare).Kept pq := by
  unfold remapRow
  repeat' first
    | with_reducible first | assumption | apply Blk_event_kept | apply mapStore_kept | apply repairRecord_kept | apply copyRow_kept | apply serveRow_kept | apply takeRowSpare_kept
    | simp only [kept_upd]

theorem pendRow_kept {pq : List Instr} {s : State} {pc : Nat} {row : Nat} (hs : (s).Kept pq) :
    (pendRow s pc row).Kept pq := by
  unfold pendRow
  repeat' first
    | with_reducible first | assumption | apply putRepair_kept | apply repairRecord_kept | apply setStackState_kept | apply kept_ite
    | simp only [kept_upd]

theorem keepUnit_kept {pq : List Instr} {s : State} {pc : Nat} {v : Nat} {u : HbmFail} (hs : (s).Kept pq) :
    (keepUnit s pc v u).Kept pq := by
  unfold keepUnit
  repeat' first
    | with_reducible first | assumption | apply setPending_kept | apply repairRecord_kept | apply kept_ite
    | simp only [kept_upd]

theorem overBudget_kept {pq : List Instr} {s : State} {pc : Nat} {v : Nat} {u : HbmFail} (hs : (s).Kept pq) :
    (overBudget s pc v u).Kept pq := by
  unfold overBudget
  repeat' first
    | with_reducible first | assumption | apply Blk_raise_kept | apply reviewStack_kept | apply loseStack_kept | apply putRepair_kept | apply keepUnit_kept
    | split

theorem repairUnit_kept {pq : List Instr} {s : State} {pc : Nat} {x2 : HbmFail} (hs : (s).Kept pq) :
    (repairUnit s pc x2).Kept pq := by
  unfold repairUnit
  try dsimp only
  repeat' first
    | with_reducible first | assumption | apply laneRepair_kept | apply markErasure_kept | apply overBudget_kept | apply pendRow_kept | apply remapRow_kept
    | split

theorem repairWorn_kept {pq : List Instr} {s : State} {pc : Nat} {x1 : HbmFail} (hs : (s).Kept pq) :
    PairKept pq (repairWorn s pc x1) := by
  unfold repairWorn
  repeat' first
    | with_reducible first | assumption | apply laneRepair_kept | apply remapRow_kept | apply overBudget_kept
    | simp only [kept_pair]
    | split

theorem execHbmRepair_kept {pq : List Instr} {pc : Fin 512} {s : State} (hs : (s).Kept pq) :
    OutKept pq (execHbmRepair pc s) := by
  unfold execHbmRepair
  repeat' first
    | with_reducible first | assumption | apply repairUnit_kept | apply kept_next
    | simp only [kept_upd]
    | split

theorem cmdDenied_kept {pq : List Instr} {s : State} {b : Blk} (hs : (s).Kept pq) :
    (cmdDenied s b).Kept pq := by
  unfold cmdDenied
  repeat' with_reducible first | assumption | apply Blk_raise_kept

theorem hbmCmd_kept {pq : List Instr} {s : State} {i : Fin 32} {v : Nat} (hs : (s).Kept pq) :
    (hbmCmd s i v).Kept pq := by
  unfold hbmCmd
  try dsimp only
  repeat' first
    | with_reducible first | assumption | apply cmdDenied_kept | apply laneRepair_kept | apply markErasure_kept | apply remapRow_kept | apply retrain_kept
    | split

theorem tgcModeWrite_kept {pq : List Instr} {s : State} {c : Nat} {v : Nat} (hs : (s).Kept pq) :
    (tgcModeWrite s c v).Kept pq := by
  unfold tgcModeWrite
  repeat' first
    | with_reducible first | assumption | apply Blk_countErr_kept | apply Blk_event_kept | apply Blk_wr_kept | apply kept_ite
    | simp only [kept_upd]

theorem execTgcTestAccess_kept {pq : List Instr} {c : Fin 256} {x : TestSlot} {s : State} (hs : (s).Kept pq) :
    OutKept pq (execTgcTestAccess c x s) := by
  unfold execTgcTestAccess
  repeat' first
    | with_reducible first | assumption | apply Blk_wr_kept | apply Blk_sat_kept | apply Blk_add_kept | apply Blk_event_kept | apply writeBurst_kept | apply burstEnergy_kept | apply takeSlot_kept | apply addStoredErr_kept | apply kept_ite | apply kept_next
    | simp only [kept_snd]
    | simp only [kept_upd]

theorem execHbmPatrolRead_kept {pq : List Instr} {pc : Fin 512} {x : TestSlot} {s : State} (hs : (s).Kept pq) :
    OutKept pq (execHbmPatrolRead pc x s) := by
  unfold execHbmPatrolRead
  repeat' first
    | with_reducible first | assumption | apply Blk_wr_kept | apply Blk_sat_kept | apply Blk_add_kept | apply Blk_event_kept | apply readBurst_kept | apply burstEnergy_kept | apply addStoredErr_kept | apply kept_ite | apply kept_next
    | simp only [kept_snd]
    | simp only [kept_upd]


/-! ### Kettle -/

theorem markAdd_kept {pq : List Instr} {s : State} {key : Nat} {v : Nat} (hs : (s).Kept pq) :
    (markAdd s key v).Kept pq := by
  unfold markAdd
  repeat' first
    | with_reducible assumption
    | simp only [kept_upd]

theorem showPlanned_kept {pq : List Instr} {s : State} {k : Nat} (hs : (s).Kept pq) :
    (showPlanned s k).Kept pq := by
  unfold showPlanned
  repeat' with_reducible first | assumption | apply Blk_wr_kept

theorem startTable_kept {pq : List Instr} {s : State} {q : SeqId} (hs : (s).Kept pq) :
    (startTable s q).Kept pq := by
  unfold startTable
  repeat' with_reducible first | assumption | apply Blk_wr_kept | apply modSeq_kept

theorem grantCredit_kept {pq : List Instr} {s : State} {q : SeqId} {c : CreditReq} (hs : (s).Kept pq) :
    (grantCredit s q c).Kept pq := by
  unfold grantCredit
  repeat' first
    | with_reducible first | assumption | apply Blk_add_kept | apply Blk_event_kept | apply Blk_sat_kept | apply markAdd_kept | apply modSeq_kept | apply showPlanned_kept | apply startTable_kept
    | simp only [kept_upd]
    | split

theorem execCreditGrant_kept {pq : List Instr} {q : SeqId} {s : State} (hs : (s).Kept pq) :
    OutKept pq (execCreditGrant q s) := by
  unfold execCreditGrant
  repeat' first
    | with_reducible first | assumption | apply grantCredit_kept | apply kept_ite | apply kept_next
    | split

theorem settle_kept {pq : List Instr} {s : State} {q : SeqId} (hs : (s).Kept pq) :
    (settle s q).Kept pq := by
  unfold settle
  repeat' with_reducible first | assumption | apply Blk_add_kept | apply modSeq_kept | apply releaseCredit_kept | apply kept_ite

theorem showDistrict_kept {pq : List Instr} {s : State} {n : Nat} {mhz : Nat} (hs : (s).Kept pq) :
    (showDistrict s n mhz).Kept pq := by
  unfold showDistrict
  repeat' with_reducible first | assumption | apply Blk_wr_kept

theorem dropFreq_kept {pq : List Instr} {s : State} {n : Nat} (hs : (s).Kept pq) :
    (dropFreq s n).Kept pq := by
  unfold dropFreq
  repeat' first
    | with_reducible first | assumption | apply showDistrict_kept | apply kept_ite
    | simp only [kept_upd]

theorem markFreq_kept {pq : List Instr} {s : State} {n : Nat} {mhz : Nat} (hs : (s).Kept pq) :
    (markFreq s n mhz).Kept pq := by
  unfold markFreq
  repeat' first
    | with_reducible first | assumption | apply showDistrict_kept | apply dropFreq_kept | apply kept_ite
    | simp only [kept_upd]

theorem lowerFreq_kept {pq : List Instr} {s : State} {n : Nat} (hs : (s).Kept pq) :
    (lowerFreq s n).Kept pq := by
  unfold lowerFreq
  repeat' with_reducible first | assumption | apply markFreq_kept

theorem execFreqChange_kept {pq : List Instr} {n : Fin 20} {s : State} (hs : (s).Kept pq) :
    OutKept pq (execFreqChange n s) := by
  unfold execFreqChange
  repeat' first
    | with_reducible first | assumption | apply Blk_event_kept | apply showDistrict_kept | apply dropFreq_kept | apply kept_ite | apply kept_next
    | simp only [kept_upd]

theorem moveRamps_kept {pq : List Instr} {s : State} (hs : (s).Kept pq) :
    (moveRamps s).Kept pq := by
  unfold moveRamps
  repeat' first
    | with_reducible first | assumption | apply forEach_kept | apply showDistrict_kept | apply kept_ite
    | intro _
    | simp only [kept_upd]

theorem execVoltageRampEnd_kept {pq : List Instr} {n : Fin 20} {s : State} (hs : (s).Kept pq) :
    OutKept pq (execVoltageRampEnd n s) := by
  unfold execVoltageRampEnd
  repeat' first
    | with_reducible first | assumption | apply showDistrict_kept | apply markFreq_kept | apply kept_ite | apply kept_next
    | simp only [kept_upd]

theorem dtargetWrite_kept {pq : List Instr} {s : State} {n : Nat} {v : Nat} (hs : (s).Kept pq) :
    (dtargetWrite s n v).Kept pq := by
  unfold dtargetWrite
  repeat' with_reducible first | assumption | apply Blk_wr_kept | apply markFreq_kept | apply kept_ite

theorem execHoldLimitExpire_kept {pq : List Instr} {q : SeqId} {s : State} (hs : (s).Kept pq) :
    OutKept pq (execHoldLimitExpire q s) := by
  unfold execHoldLimitExpire
  repeat' first
    | with_reducible first | assumption | apply Blk_event_kept | apply lowerFreq_kept | apply kept_next
    | simp only [kept_upd]
    | split

theorem execRaiseDelayExpire_kept {pq : List Instr} {n : Fin 20} {s : State} (hs : (s).Kept pq) :
    OutKept pq (execRaiseDelayExpire n s) := by
  unfold execRaiseDelayExpire
  repeat' first
    | with_reducible first | assumption | apply markFreq_kept | apply kept_ite | apply kept_next
    | simp only [kept_upd]

theorem showIsland_kept {pq : List Instr} {s : State} {i : Nat} (hs : (s).Kept pq) :
    (showIsland s i).Kept pq := by
  unfold showIsland
  repeat' with_reducible first | assumption | apply showDistrict_kept | apply kept_ite

theorem reportSlack_kept {pq : List Instr} {s : State} {i : Nat} {seen : Nat} (hs : (s).Kept pq) :
    (reportSlack s i seen).Kept pq := by
  unfold reportSlack
  repeat' first
    | with_reducible first | assumption | apply kept_ite
    | simp only [kept_upd]

theorem execVoltTrimDown_kept {pq : List Instr} {i : Fin 164} {slackSeen : Nat} {s : State} (hs : (s).Kept pq) :
    OutKept pq (execVoltTrimDown i slackSeen s) := by
  unfold execVoltTrimDown
  repeat' first
    | with_reducible first | assumption | apply showIsland_kept | apply reportSlack_kept | apply kept_ite | apply kept_next
    | simp only [kept_upd]

theorem driftCheck_kept {pq : List Instr} {s : State} {n : Nat} (hs : (s).Kept pq) :
    (driftCheck s n).Kept pq := by
  unfold driftCheck
  repeat' with_reducible first | assumption | apply Blk_event_kept | apply Blk_sat_kept | apply kept_ite

theorem execVoltTrimUp_kept {pq : List Instr} {i : Fin 164} {slackSeen : Nat} {s : State} (hs : (s).Kept pq) :
    OutKept pq (execVoltTrimUp i slackSeen s) := by
  unfold execVoltTrimUp
  repeat' first
    | with_reducible first | assumption | apply Blk_sat_kept | apply Blk_event_kept | apply Blk_raise_kept | apply lowerFreq_kept | apply showIsland_kept | apply reportSlack_kept | apply driftCheck_kept | apply kept_ite | apply kept_next
    | simp only [kept_upd]

theorem rescale_kept {pq : List Instr} {s : State} (hs : (s).Kept pq) :
    (rescale s).Kept pq := by
  unfold rescale
  repeat' first
    | intro _
    | with_reducible first | assumption | apply showDistrict_kept | apply forEach_kept

theorem execGainUpdate_kept {pq : List Instr} {sensed : List Nat} {s : State} (hs : (s).Kept pq) :
    OutKept pq (execGainUpdate sensed s) := by
  unfold execGainUpdate
  repeat' first
    | intro _
    | with_reducible first | assumption | apply Blk_wr_kept | apply rescale_kept | apply forEach_kept | apply kept_next
    | simp only [kept_upd]
    | exact fresh_kept (by assumption)

theorem execFloorUpdate_kept {pq : List Instr} {sensed : List Nat} {s : State} (hs : (s).Kept pq) :
    OutKept pq (execFloorUpdate sensed s) := by
  unfold execFloorUpdate
  repeat' first
    | intro _
    | with_reducible first | assumption | apply Blk_wr_kept | apply forEach_kept | apply kept_next
    | simp only [kept_upd]

theorem closeScope_kept {pq : List Instr} {s : State} {k : Nat} (hs : (s).Kept pq) :
    (closeScope s k).Kept pq := by
  unfold closeScope
  repeat' first
    | intro _
    | with_reducible first | assumption | apply Blk_event_kept | apply Blk_raise_kept | apply forEach_kept | apply kept_ite
    | simp only [kept_upd]

theorem showAverages_kept {pq : List Instr} {s : State} (hs : (s).Kept pq) :
    (showAverages s).Kept pq := by
  unfold showAverages
  repeat' first
    | intro _
    | with_reducible first | assumption | apply Blk_wr_kept | apply forEach_kept

theorem holdTick_kept {pq : List Instr} {s : State} {c : CreditReq} (hs : (s).Kept pq) :
    (holdTick s c).Kept pq := by
  unfold holdTick
  repeat' first
    | with_reducible first | assumption | apply Blk_add_kept | apply markAdd_kept
    | split

theorem tickCounters_kept {pq : List Instr} {s : State} (hs : (s).Kept pq) :
    (tickCounters s).Kept pq := by
  unfold tickCounters
  repeat' first
    | intro _
    | with_reducible first | assumption | apply forEach_kept | apply Blk_add_kept | apply holdTick_kept
    | simp only [kept_upd]
    | split

theorem noteLong_kept {pq : List Instr} {s : State} (hs : (s).Kept pq) :
    (noteLong s).Kept pq := by
  unfold noteLong
  repeat' first
    | with_reducible first | assumption | apply forEach_kept
    | intro _
    | simp only [kept_upd]

theorem closeBin_kept {pq : List Instr} {s : State} (hs : (s).Kept pq) :
    (closeBin s).Kept pq := by
  unfold closeBin
  repeat' first
    | with_reducible first | assumption | apply Blk_wr_kept | apply forEach_kept | apply moveRamps_kept | apply closeScope_kept | apply showAverages_kept | apply tickCounters_kept | apply noteLong_kept
    | simp only [kept_upd]

theorem markWrite_kept {pq : List Instr} {s : State} {k : Nat} (hs : (s).Kept pq) :
    (markWrite s k).Kept pq := by
  unfold markWrite
  repeat' first
    | with_reducible first | assumption | apply Blk_event_kept | apply Blk_raise_kept | apply Blk_wr_kept | apply writeNat_kept | apply kept_ite
    | simp only [kept_upd]

theorem execThermalThrottle_kept {pq : List Instr} {n : Fin 20} {s : State} (hs : (s).Kept pq) :
    OutKept pq (execThermalThrottle n s) := by
  unfold execThermalThrottle
  repeat' with_reducible first | assumption | apply alert_kept | apply lowerFreq_kept | apply kept_ite | apply kept_next


/-! ### Verify -/

theorem writeResult_kept {pq : List Instr} {s : State} {addr : Nat} {code : Nat} {idx : Option Nat} (hs : (s).Kept pq) :
    (writeResult s addr code idx).Kept pq := by
  unfold writeResult
  repeat' first
    | with_reducible first | assumption | apply fresh_kept | apply writeBytes_kept
    | simp only [kept_snd]
    | split

theorem markCode_kept {pq : List Instr} {s : State} {segs : List Nat} {v : Nat} (hs : (s).Kept pq) :
    (markCode s segs v).Kept pq := by
  unfold markCode
  repeat' first
    | intro _
    | with_reducible first | assumption | apply Blk_put_kept | apply forEach_kept

theorem unloadImage_kept {pq : List Instr} {s : State} {im : Image} (hs : (s).Kept pq) :
    (unloadImage s im).Kept pq := by
  unfold unloadImage
  repeat' first
    | with_reducible first | assumption | apply markCode_kept
    | simp only [kept_upd]

theorem reverify_kept {pq : List Instr} {s : State} (hs : (s).Kept pq) :
    (reverify s).Kept pq := by
  unfold reverify
  repeat' first
    | intro _
    | with_reducible first | assumption | apply Blk_countErr_kept | apply unloadImage_kept | apply writeResult_kept | apply forEach_kept
    | split


/-! ### Spares -/

theorem setUnit_kept {pq : List Instr} {s : State} {cls : Nat} {u : Nat} {st : Nat} (hs : (s).Kept pq) :
    (setUnit s cls u st).Kept pq := by
  unfold setUnit
  repeat' first
    | with_reducible assumption
    | simp only [kept_upd]

theorem setUnitSpare_kept {pq : List Instr} {s : State} {cls : Nat} {u : Nat} {sp : Nat} (hs : (s).Kept pq) :
    (setUnitSpare s cls u sp).Kept pq := by
  unfold setUnitSpare
  repeat' first
    | with_reducible assumption
    | simp only [kept_upd]

theorem takeFree_kept {pq : List Instr} {s : State} {cls : Nat} (hs : (s).Kept pq) :
    (takeFree s cls).Kept pq := by
  unfold takeFree
  repeat' with_reducible first | assumption | apply Blk_wr_kept

theorem showCondemned_kept {pq : List Instr} {s : State} (hs : (s).Kept pq) :
    (showCondemned s).Kept pq := by
  unfold showCondemned
  repeat' with_reducible first | assumption | apply Blk_wr_kept

theorem spareRecord_kept {pq : List Instr} {s : State} {cls : Nat} {reason : Nat} {u : Nat} {sp : Option Nat} {free : Nat} (hs : (s).Kept pq) :
    (spareRecord s cls reason u sp free).Kept pq := by
  unfold spareRecord
  repeat' with_reducible first | assumption | apply appendRecord_kept

theorem flagWaiting_kept {pq : List Instr} {s : State} {cls : Nat} {u : Nat} {f : Nat} (hs : (s).Kept pq) :
    (flagWaiting s cls u f).Kept pq := by
  unfold flagWaiting
  repeat' first
    | with_reducible assumption
    | simp only [kept_upd]

theorem dropWaiting_kept {pq : List Instr} {s : State} {cls : Nat} {u : Nat} (hs : (s).Kept pq) :
    (dropWaiting s cls u).Kept pq := by
  unfold dropWaiting
  repeat' first
    | with_reducible first | assumption | apply showCondemned_kept
    | simp only [kept_upd]

theorem tileWithout_kept {pq : List Instr} {s : State} {u : Nat} (hs : (s).Kept pq) :
    (tileWithout s u).Kept pq := by
  unfold tileWithout
  repeat' with_reducible first | assumption | apply Blk_event_kept | apply flagWaiting_kept | apply retireInService_kept | apply kept_ite

theorem settleTiles_kept {pq : List Instr} {s : State} (hs : (s).Kept pq) :
    (settleTiles s).Kept pq := by
  unfold settleTiles
  repeat' first
    | intro _
    | with_reducible first | assumption | apply reviewPending_kept | apply tileWithout_kept | apply forEach_kept

theorem addWaiting_kept {pq : List Instr} {s : State} {cls : Nat} {u : Nat} {reason : Nat} (hs : (s).Kept pq) :
    (addWaiting s cls u reason).Kept pq := by
  unfold addWaiting
  repeat' first
    | with_reducible first | assumption | apply showCondemned_kept | apply kept_ite
    | simp only [kept_upd]

theorem condemnTile_kept {pq : List Instr} {s : State} {u : Nat} {reason : Nat} (hs : (s).Kept pq) :
    (condemnTile s u reason).Kept pq := by
  unfold condemnTile
  repeat' with_reducible first | assumption | apply Blk_event_kept | apply addWaiting_kept | apply setUnit_kept | apply settleTiles_kept | apply kept_ite

theorem poolFail_kept {pq : List Instr} {s : State} {cls : Nat} {u : Nat} (hs : (s).Kept pq) :
    (poolFail s cls u).Kept pq := by
  unfold poolFail
  repeat' with_reducible first | assumption | apply Blk_event_kept | apply setUnit_kept | apply takeFree_kept | apply spareRecord_kept

theorem loseCore_kept {pq : List Instr} {s : State} {u : Nat} {reason : Nat} {failed : Bool} (hs : (s).Kept pq) :
    (loseCore s u reason failed).Kept pq := by
  unfold loseCore
  repeat' first
    | with_reducible first | assumption | apply Blk_wr_kept | apply Blk_event_kept | apply reviewPending_kept | apply retireInService_kept | apply setUnit_kept | apply setUnitSpare_kept | apply takeFree_kept | apply spareRecord_kept | apply flagWaiting_kept | apply dropWaiting_kept | apply addWaiting_kept | apply poolFail_kept | apply kept_ite
    | split

theorem closeBank_kept {pq : List Instr} {s : State} {u : Nat} (hs : (s).Kept pq) :
    (closeBank s u).Kept pq := by
  unfold closeBank
  repeat' first
    | with_reducible first | assumption | apply setComb_kept | apply kept_ite
    | simp only [kept_upd]

theorem loseBank_kept {pq : List Instr} {s : State} {u : Nat} {reason : Nat} (hs : (s).Kept pq) :
    (loseBank s u reason).Kept pq := by
  unfold loseBank
  repeat' first
    | with_reducible first | assumption | apply Blk_event_kept | apply setUnit_kept | apply setUnitSpare_kept | apply takeFree_kept | apply spareRecord_kept | apply poolFail_kept | apply closeBank_kept
    | simp only
    | split

theorem loseRow_kept {pq : List Instr} {s : State} {u : Nat} {reason : Nat} (hs : (s).Kept pq) :
    (loseRow s u reason).Kept pq := by
  unfold loseRow
  repeat' first
    | with_reducible first | assumption | apply Blk_event_kept | apply setUnitSpare_kept | apply takeFree_kept | apply spareRecord_kept | apply condemnTile_kept | apply kept_ite
    | simp only [kept_upd]

theorem loseSeq_kept {pq : List Instr} {s : State} {u : Nat} {reason : Nat} {st : Nat} (hs : (s).Kept pq) :
    (loseSeq s u reason st).Kept pq := by
  unfold loseSeq
  repeat' first
    | intro _
    | with_reducible first | assumption | apply forEach_kept | apply Blk_event_kept | apply setUnit_kept | apply dropWaiting_kept | apply addWaiting_kept | apply condemnTile_kept | apply kept_ite

theorem condemn_kept {pq : List Instr} {s : State} {cls : Nat} {u : Nat} {reason : Nat} {ends : List Nat} (hs : (s).Kept pq) :
    (condemn s cls u reason ends).Kept pq := by
  unfold condemn
  repeat' first
    | intro _
    | with_reducible first | assumption | apply forEach_kept | apply Blk_event_kept | apply setUnit_kept | apply addWaiting_kept | apply condemnTile_kept | apply loseCore_kept | apply loseBank_kept | apply loseRow_kept | apply loseSeq_kept
    | simp only [kept_upd]
    | split

theorem execWearCondemn_kept {pq : List Instr} {cls : Nat} {unit : Nat} {slackSeen : Nat} {trim : Bool} {ends : List Nat} {parts : List Nat} {s : State} (hs : (s).Kept pq) :
    OutKept pq (execWearCondemn cls unit slackSeen trim ends parts s) := by
  unfold execWearCondemn
  repeat' first
    | with_reducible first | assumption | apply condemn_kept | apply reportSlack_kept | apply kept_ite | apply kept_next
    | simp only [kept_upd]

theorem exchangeTile_kept {pq : List Instr} {s : State} {u : Nat} {sp : Nat} {reason : Nat} (hs : (s).Kept pq) :
    (exchangeTile s u sp reason).Kept pq := by
  unfold exchangeTile
  repeat' first
    | intro _
    | with_reducible first | assumption | apply Blk_event_kept | apply Blk_wr_kept | apply copySlot_kept | apply dropWaiting_kept | apply remap_kept | apply setUnitSpare_kept | apply setUnit_kept | apply softReset_kept | apply spareRecord_kept | apply takeFree_kept | apply zeroSlot_kept | apply forEach_kept
    | simp only [kept_upd]
    | split

theorem bringTile_kept {pq : List Instr} {s : State} {u : Nat} {reason : Nat} {bad : List Nat} {x4 : Nat} (hs : (s).Kept pq) :
    (bringTile s u reason bad x4).Kept pq := by
  fun_induction bringTile s u reason bad x4
  repeat' with_reducible first | apply Blk_raise_kept | apply exchangeTile_kept | apply setUnit_kept | apply settleTiles_kept | apply spareRecord_kept | apply takeFree_kept | apply_assumption -exfalso -symm

theorem seqFaulted_kept {pq : List Instr} {s : State} {u : Nat} {v : Nat} (hs : (s).Kept pq) :
    (seqFaulted s u v).Kept pq := by
  unfold seqFaulted
  repeat' first
    | with_reducible first | assumption | apply Blk_wr_kept
    | split

theorem bringIn_kept {pq : List Instr} {s : State} {cls : Nat} {u : Nat} {bad : List Nat} (hs : (s).Kept pq) :
    (bringIn s cls u bad).Kept pq := by
  unfold bringIn
  repeat' first
    | intro _
    | with_reducible first | assumption | apply forEach_kept | apply Blk_event_kept | apply repairWorn_kept | apply setUnit_kept | apply setUnitSpare_kept | apply takeFree_kept | apply spareRecord_kept | apply dropWaiting_kept | apply bringTile_kept | apply seqFaulted_kept
    | simp only [kept_snd]
    | simp only [kept_upd]
    | split

theorem execSpareBringIn_kept {pq : List Instr} {cls : Nat} {unit : Nat} {bad : List Nat} {s : State} (hs : (s).Kept pq) :
    OutKept pq (execSpareBringIn cls unit bad s) := by
  unfold execSpareBringIn
  repeat' with_reducible first | assumption | apply bringIn_kept | apply kept_next

theorem reportFailed_kept {pq : List Instr} {s : State} {cls : Nat} {unit : Nat} {part : Nat} (hs : (s).Kept pq) :
    (reportFailed s cls unit part).Kept pq := by
  unfold reportFailed
  repeat' first
    | with_reducible assumption
    | simp only [kept_upd]

theorem reportUnit_kept {pq : List Instr} {s : State} {cls : Nat} {unit : Nat} {phys : Nat} (hs : (s).Kept pq) :
    (reportUnit s cls unit phys).Kept pq := by
  unfold reportUnit
  repeat' with_reducible first | assumption | apply reportFailed_kept

theorem failBlock_kept {pq : List Instr} {s : State} {b : Blk} (hs : (s).Kept pq) :
    (failBlock s b).Kept pq := by
  unfold failBlock
  repeat' with_reducible first | assumption | apply Blk_wr_kept | apply softReset_kept

theorem failTile_kept {pq : List Instr} {s : State} {p : Nat} (hs : (s).Kept pq) :
    (failTile s p).Kept pq := by
  unfold failTile
  repeat' first
    | intro _
    | with_reducible first | assumption | apply forEach_kept | apply setTcc_kept | apply failBlock_kept
    | (simp only [List.length_map]; exact tccsOk_get hs.tcc _)
    | split

theorem failSeq_kept {pq : List Instr} {s : State} {u : Nat} (hs : (s).Kept pq) :
    (failSeq s u).Kept pq := by
  unfold failSeq
  repeat' first
    | with_reducible first | assumption | apply failBlock_kept
    | split

theorem execUnitFail_kept {pq : List Instr} {cls : Nat} {u : FailedUnit} {s : State} (hs : (s).Kept pq) :
    OutKept pq (execUnitFail cls u s) := by
  unfold execUnitFail
  repeat' first
    | intro _
    | with_reducible first | assumption | apply forEach_kept | apply Blk_event_kept | apply Blk_countErr_kept | apply setUnit_kept | apply spareRecord_kept | apply settleTiles_kept | apply addWaiting_kept | apply condemnTile_kept | apply poolFail_kept | apply loseCore_kept | apply loseBank_kept | apply loseRow_kept | apply loseSeq_kept | apply condemn_kept | apply reportFailed_kept | apply reportUnit_kept | apply failTile_kept | apply failSeq_kept | apply kept_next
    | simp only [kept_upd]
    | split

theorem execCcacheBankFail_kept {pq : List Instr} {bank : Nat} {s : State} (hs : (s).Kept pq) :
    OutKept pq (execCcacheBankFail bank s) := by
  unfold execCcacheBankFail
  repeat' with_reducible first | assumption | apply loseBank_kept | apply kept_next

theorem sprStatus_kept {pq : List Instr} {s : State} {st : Nat} {code : Nat} (hs : (s).Kept pq) :
    (sprStatus s st code).Kept pq := by
  unfold sprStatus
  repeat' with_reducible first | assumption | apply Blk_wr_kept

theorem replaceParts_kept {pq : List Instr} {s : State} {cls : Nat} {u : Nat} (hs : (s).Kept pq) :
    PairKept pq (replaceParts s cls u) := by
  unfold replaceParts
  repeat' first
    | with_reducible first | assumption | apply fresh_kept
    | simp only [kept_pair]
    | simp only [kept_snd]
    | split

theorem sprReplace_kept {pq : List Instr} {s : State} (hs : (s).Kept pq) :
    (sprReplace s).Kept pq := by
  unfold sprReplace
  repeat' first
    | with_reducible first | assumption | apply Blk_raise_kept | apply condemn_kept | apply sprStatus_kept | apply replaceParts_kept | apply kept_ite
    | simp only [kept_snd]

theorem dropLeaving_kept {pq : List Instr} {s : State} (hs : (s).Kept pq) :
    (dropLeaving s).Kept pq := by
  unfold dropLeaving
  repeat' first
    | intro _
    | with_reducible first | assumption | apply dropWaiting_kept | apply setUnit_kept | apply spareRecord_kept | apply forEach_kept | apply kept_ite
    | simp only [kept_upd]

theorem renumbered_kept {pq : List Instr} {s : State} {old : List Nat} (hs : (s).Kept pq) :
    (renumbered s old).Kept pq := by
  unfold renumbered
  repeat' first
    | intro _
    | with_reducible first | assumption | apply showLmap_kept | apply softReset_kept | apply zeroSlot_kept | apply forEach_kept

theorem republish_kept {pq : List Instr} {s : State} (hs : (s).Kept pq) :
    (republish s).Kept pq := by
  unfold republish
  repeat' with_reducible first | assumption | apply Blk_event_kept | apply setPending_kept | apply retireInService_kept | apply gradeRecord_kept | apply publish_kept | apply reverify_kept | apply dropLeaving_kept | apply renumbered_kept | apply kept_ite

theorem execRepublish_kept {pq : List Instr} {s : State} (hs : (s).Kept pq) :
    OutKept pq (execRepublish s) := by
  unfold execRepublish
  repeat' with_reducible first | assumption | apply republish_kept | apply kept_ite | apply kept_next

theorem sprRegrade_kept {pq : List Instr} {s : State} {tests : Nat} {failed : List (Nat × FailedUnit)} (hs : (s).Kept pq) :
    (sprRegrade s tests failed).Kept pq := by
  unfold sprRegrade
  repeat' first
    | intro _
    | with_reducible first | assumption | apply forEach_kept | apply Blk_raise_kept | apply appendRecord_kept | apply poolFail_kept | apply condemn_kept | apply bringIn_kept | apply sprStatus_kept | apply republish_kept | apply kept_ite


/-! ### Links -/

theorem countPacket_kept {pq : List Instr} {s : State} {p : Nat} {k : Packet} {rx : Bool} (hs : (s).Kept pq) :
    (countPacket s p k rx).Kept pq := by
  unfold countPacket
  repeat' first
    | with_reducible first | assumption | apply Blk_add_kept | apply pageEnergy_kept
    | simp only [kept_upd]
    | split

theorem showLink_kept {pq : List Instr} {s : State} {p : Fin 32} {st : Nat} (hs : (s).Kept pq) :
    (showLink s p st).Kept pq := by
  unfold showLink
  repeat' with_reducible first | assumption | apply Blk_wr_kept

theorem enterStage_kept {pq : List Instr} {s : State} {p : Fin 32} {st : Nat} (hs : (s).Kept pq) :
    (enterStage s p st).Kept pq := by
  unfold enterStage
  repeat' first
    | with_reducible first | assumption | apply fresh_kept | apply modPort_kept | apply showLink_kept
    | simp only [kept_snd]

theorem startTraining_kept {pq : List Instr} {s : State} {p : Fin 32} (hs : (s).Kept pq) :
    (startTraining s p).Kept pq := by
  unfold startTraining
  repeat' with_reducible first | assumption | apply modPort_kept | apply enterStage_kept | apply kept_ite

theorem startRetrain_kept {pq : List Instr} {s : State} {p : Fin 32} (hs : (s).Kept pq) :
    (startRetrain s p).Kept pq := by
  unfold startRetrain
  repeat' with_reducible first | assumption | apply Blk_sat_kept | apply modPort_kept | apply enterStage_kept

theorem goDown_kept {pq : List Instr} {s : State} {p : Fin 32} {lost : Bool} (hs : (s).Kept pq) :
    (goDown s p lost).Kept pq := by
  unfold goDown
  repeat' first
    | with_reducible first | assumption | apply Blk_event_kept | apply modPort_kept | apply showLink_kept
    | simp only [kept_upd]

theorem noteBlocked_kept {pq : List Instr} {s : State} {p : Nat} (hs : (s).Kept pq) :
    (noteBlocked s p).Kept pq := by
  unfold noteBlocked
  repeat' with_reducible first | assumption | apply modPort_kept

theorem execReplayStorm_kept {pq : List Instr} {p : Fin 32} {s : State} (hs : (s).Kept pq) :
    OutKept pq (execReplayStorm p s) := by
  unfold execReplayStorm
  repeat' with_reducible first | assumption | apply Blk_event_kept | apply startRetrain_kept | apply kept_ite | apply kept_next

theorem laneRecord_kept {pq : List Instr} {s : State} {p : Nat} {reason : Nat} (hs : (s).Kept pq) :
    (laneRecord s p reason).Kept pq := by
  unfold laneRecord
  repeat' first
    | with_reducible first | assumption | apply Blk_event_kept | apply reviewPending_kept | apply setUnit_kept | apply setUnitSpare_kept | apply takeFree_kept | apply spareRecord_kept | apply dropWaiting_kept | apply kept_ite
    | simp only [kept_upd]

theorem freeLane_kept {pq : List Instr} {s : State} {p : Nat} (hs : (s).Kept pq) :
    (freeLane s p).Kept pq := by
  unfold freeLane
  repeat' first
    | with_reducible first | assumption | apply Blk_wr_kept | apply kept_ite
    | simp only [kept_upd]

theorem finishClear_kept {pq : List Instr} {s : State} {p : Fin 32} (hs : (s).Kept pq) :
    (finishClear s p).Kept pq := by
  unfold finishClear
  repeat' first
    | with_reducible first | assumption | apply Blk_wr_kept | apply modPort_kept | apply appendRecord_kept | apply reviewPending_kept | apply freeLane_kept
    | simp only [kept_upd]
    | split

theorem dropLane_kept {pq : List Instr} {s : State} {p : Fin 32} {lane : Nat} {reason : Nat} (hs : (s).Kept pq) :
    (dropLane s p lane reason).Kept pq := by
  unfold dropLane
  repeat' with_reducible first | assumption | apply Blk_wr_kept | apply Blk_event_kept | apply Blk_raise_kept | apply modPort_kept | apply showLink_kept | apply startRetrain_kept | apply goDown_kept | apply laneRecord_kept | apply finishClear_kept | apply kept_ite

theorem execLaneFail_kept {pq : List Instr} {p : Fin 32} {lane : Fin 9} {s : State} (hs : (s).Kept pq) :
    OutKept pq (execLaneFail p lane s) := by
  unfold execLaneFail
  repeat' with_reducible first | assumption | apply dropLane_kept | apply kept_ite | apply kept_next

theorem countCodewords_kept {pq : List Instr} {s : State} {p : Fin 32} {f : Flit} (hs : (s).Kept pq) :
    (countCodewords s p f).Kept pq := by
  unfold countCodewords
  repeat' with_reducible first | assumption | apply Blk_sat_kept | apply Blk_add_kept | apply modPort_kept | apply dropLane_kept | apply kept_ite

theorem execDataFlitReceive_kept {pq : List Instr} {p : Fin 32} {f : Flit} {s : State} (hs : (s).Kept pq) :
    OutKept pq (execDataFlitReceive p f s) := by
  unfold execDataFlitReceive
  repeat' first
    | with_reducible first | assumption | apply forEach_kept | apply Blk_sat_kept | apply modPort_kept | apply countPacket_kept | apply countCodewords_kept | apply kept_ite | apply kept_next
    | intro _
    | simp only [kept_upd]

theorem showMargin_kept {pq : List Instr} {s : State} (hs : (s).Kept pq) :
    (showMargin s).Kept pq := by
  unfold showMargin
  repeat' first
    | with_reducible first | assumption | apply Blk_wr_kept
    | simp only
    | split

theorem noteEyes_kept {pq : List Instr} {s : State} {p : Fin 32} {eyes : List Nat} (hs : (s).Kept pq) :
    (noteEyes s p eyes).Kept pq := by
  unfold noteEyes
  repeat' first
    | with_reducible first | assumption | apply Blk_event_kept | apply modPort_kept | apply condemn_kept | apply showMargin_kept
    | simp only
    | split

theorem execControlFlitReceive_kept {pq : List Instr} {p : Fin 32} {f : Flit} {s : State} (hs : (s).Kept pq) :
    OutKept pq (execControlFlitReceive p f s) := by
  unfold execControlFlitReceive
  repeat' with_reducible first | assumption | apply Blk_sat_kept | apply setPort_kept | apply noteBlocked_kept | apply countCodewords_kept | apply noteEyes_kept | apply kept_ite | apply kept_next

theorem execLinkUp_kept {pq : List Instr} {p : Fin 32} {reversed : Bool} {lanes : LanesFound} {s : State} (hs : (s).Kept pq) :
    OutKept pq (execLinkUp p reversed lanes s) := by
  unfold execLinkUp
  repeat' first
    | with_reducible first | assumption | apply Blk_wr_kept | apply forEach_kept | apply Blk_event_kept | apply Blk_raise_kept | apply setPort_kept | apply showLink_kept | apply goDown_kept | apply dropLane_kept | apply kept_next
    | intro _
    | simp only
    | split

theorem execLinkTrainTimeout_kept {pq : List Instr} {p : Fin 32} {s : State} (hs : (s).Kept pq) :
    OutKept pq (execLinkTrainTimeout p s) := by
  unfold execLinkTrainTimeout
  try dsimp only
  repeat' first
    | with_reducible first | assumption | apply Blk_event_kept | apply Blk_raise_kept | apply goDown_kept | apply kept_next
    | split

theorem execTrainRetryTimer_kept {pq : List Instr} {p : Fin 32} {s : State} (hs : (s).Kept pq) :
    OutKept pq (execTrainRetryTimer p s) := by
  unfold execTrainRetryTimer
  try dsimp only
  repeat' first
    | with_reducible first | assumption | apply startTraining_kept | apply kept_next
    | split

theorem execLinkIdent_kept {pq : List Instr} {p : Fin 32} {peer : Word64} {delay : Nat} {s : State} (hs : (s).Kept pq) :
    OutKept pq (execLinkIdent p peer delay s) := by
  unfold execLinkIdent
  repeat' with_reducible first | assumption | apply Blk_wr_kept | apply Blk_event_kept | apply modPort_kept | apply kept_ite | apply kept_next

theorem portTick_kept {pq : List Instr} {s : State} {p : Fin 32} (hs : (s).Kept pq) :
    (portTick s p).Kept pq := by
  unfold portTick
  repeat' first
    | with_reducible first | assumption | apply forEach_kept | apply Blk_add_kept | apply freeBytes_kept | apply setPort_kept | apply enterStage_kept | apply finishClear_kept | apply kept_ite
    | intro _
    | simp only [kept_snd]

theorem linkEnable_kept {pq : List Instr} {s : State} {p : Fin 32} {was : Bool} (hs : (s).Kept pq) :
    (linkEnable s p was).Kept pq := by
  unfold linkEnable
  repeat' with_reducible first | assumption | apply goDown_kept | apply startTraining_kept | apply kept_ite

theorem lnkCmd_kept {pq : List Instr} {s : State} {p : Fin 32} {v : Nat} (hs : (s).Kept pq) :
    (lnkCmd s p v).Kept pq := by
  unfold lnkCmd
  repeat' first
    | with_reducible first | assumption | apply dropLane_kept | apply dropWaiting_kept | apply modPort_kept | apply startRetrain_kept | apply startTraining_kept
    | split

theorem creditRegWrite_kept {pq : List Instr} {s : State} {p : Fin 32} {v : Nat} (hs : (s).Kept pq) :
    (creditRegWrite s p v).Kept pq := by
  unfold creditRegWrite
  repeat' with_reducible first | assumption | apply Blk_wr_kept | apply kept_ite

theorem sprLaneClear_kept {pq : List Instr} {s : State} {v : Nat} (hs : (s).Kept pq) :
    (sprLaneClear s v).Kept pq := by
  unfold sprLaneClear
  repeat' with_reducible first | assumption | apply Blk_raise_kept | apply Blk_wr_kept | apply setPort_kept | apply startRetrain_kept | apply startTraining_kept | apply kept_ite


/-! ### Boot -/

theorem discardVolatile_kept {pq : List Instr} {s : State} (hs : (s).Kept pq) :
    (discardVolatile s).Kept pq := by
  unfold discardVolatile
  repeat' first
    | intro _
    | with_reducible first | assumption | apply Blk_wr_kept | apply State_reset_kept | apply forEach_kept | apply wf_filter_mem | apply kept_wf_mem hs | apply kept_wf_regs | apply kept_wf_mem | apply kept_wf_pool | apply kept_wf_tcc | apply kept_wf_pending
    | (simp only [kept_mk]; refine ⟨?_, ?_, ?_, ?_, ?_⟩)

theorem deviceReset_kept {pq : List Instr} {s : State} {cause : Nat} (hs : (s).Kept pq) :
    (deviceReset s cause).Kept pq := by
  unfold deviceReset
  repeat' first
    | with_reducible first | assumption | apply Blk_setBit_kept | apply Blk_wr_kept | apply discardVolatile_kept | apply kept_ite
    | simp only [kept_upd]

theorem execVddAonRise_kept {pq : List Instr} {s : State} (hs : (s).Kept pq) :
    OutKept pq (execVddAonRise s) := by
  unfold execVddAonRise
  repeat' first
    | with_reducible first | assumption | apply Blk_wr_kept | apply discardVolatile_kept | apply kept_next
    | with_reducible first | exact wf_nil_mem | apply kept_wf_regs | apply kept_wf_pool | apply kept_wf_tcc | apply kept_wf_pending
    | (simp only [kept_mk]; refine ⟨?_, ?_, ?_, ?_, ?_⟩)

theorem execResetNAssert_kept {pq : List Instr} {s : State} (hs : (s).Kept pq) :
    OutKept pq (execResetNAssert s) := by
  unfold execResetNAssert
  repeat' first
    | with_reducible first | assumption | apply deviceReset_kept | apply kept_next
    | simp only [kept_upd]

theorem execPwrgdFall_kept {pq : List Instr} {s : State} (hs : (s).Kept pq) :
    OutKept pq (execPwrgdFall s) := by
  unfold execPwrgdFall
  repeat' first
    | with_reducible first | assumption | apply deviceReset_kept | apply kept_next
    | simp only [kept_upd]

theorem resetCmdWrite_kept {pq : List Instr} {s : State} {v : Nat} (hs : (s).Kept pq) :
    (resetCmdWrite s v).Kept pq := by
  unfold resetCmdWrite
  repeat' with_reducible first | assumption | apply deviceReset_kept | apply kept_ite

theorem execThermtrip_kept {pq : List Instr} {s : State} (hs : (s).Kept pq) :
    OutKept pq (execThermtrip s) := by
  unfold execThermtrip
  repeat' first
    | with_reducible first | assumption | apply deviceReset_kept | apply kept_ite | apply kept_next
    | simp only [kept_upd]

theorem execVinIvrRemoved_kept {pq : List Instr} {s : State} (hs : (s).Kept pq) :
    OutKept pq (execVinIvrRemoved s) := by
  unfold execVinIvrRemoved
  repeat' first
    | with_reducible first | assumption | apply kept_next
    | simp only [kept_upd]

theorem watchdogVerdict_kept {pq : List Instr} {s : State} (hs : (s).Kept pq) :
    (watchdogVerdict s).Kept pq := by
  unfold watchdogVerdict
  repeat' first
    | with_reducible first | assumption | apply fresh_kept | apply condemn_kept | apply kept_ite
    | simp only [kept_snd]

theorem execWatchdogExpire_kept {pq : List Instr} {s : State} (hs : (s).Kept pq) :
    OutKept pq (execWatchdogExpire s) := by
  unfold execWatchdogExpire
  repeat' first
    | with_reducible first | assumption | apply deviceReset_kept | apply watchdogVerdict_kept | apply kept_ite | apply kept_next
    | simp only [kept_upd]

theorem showState_kept {pq : List Instr} {s : State} {b : StateBlk} (hs : (s).Kept pq) :
    (showState s b).Kept pq := by
  unfold showState
  repeat' with_reducible first | assumption | apply Blk_wr_kept | apply setRegBytes8_kept

theorem writeState_kept {pq : List Instr} {s : State} {b : StateBlk} (hs : (s).Kept pq) :
    PairKept pq (writeState s b) := by
  unfold writeState
  repeat' first
    | with_reducible first | assumption | apply eraseFlash_kept | apply showState_kept | apply writeFlash_kept
    | simp only [kept_pair]
    | split

theorem runImage_kept {pq : List Instr} {s : State} {slot : Nat} {fallback : Bool} (hs : (s).Kept pq) :
    (runImage s slot fallback).Kept pq := by
  unfold runImage
  repeat' first
    | with_reducible first | assumption | apply Blk_wr_kept
    | simp only [kept_upd]

theorem noteVf_kept {pq : List Instr} {s : State} {n : Nat} {bs : List Byte} (hs : (s).Kept pq) :
    (noteVf s n bs).Kept pq := by
  unfold noteVf
  repeat' first
    | with_reducible first | assumption | apply forEach_kept
    | intro _
    | simp only [kept_upd]

theorem hardRepaired_kept {pq : List Instr} {s : State} {pc : Nat} {row : Nat} (hs : (s).Kept pq) :
    (hardRepaired s pc row).Kept pq := by
  unfold hardRepaired
  repeat' first
    | with_reducible first | assumption | apply putRepair_kept
    | simp only [kept_upd]

theorem applyRecord_kept {pq : List Instr} {s : State} {r : LogRec} (hs : (s).Kept pq) :
    (applyRecord s r).Kept pq := by
  unfold applyRecord
  repeat' first
    | with_reducible first | assumption | apply putRepair_kept | apply serveRow_kept | apply setUnit_kept | apply setUnitSpare_kept | apply freeLane_kept | apply noteVf_kept | apply hardRepaired_kept
    | simp only [kept_upd]
    | split

theorem dropGone_kept {pq : List Instr} {s : State} (hs : (s).Kept pq) :
    (dropGone s).Kept pq := by
  unfold dropGone
  repeat' first
    | intro _
    | with_reducible first | assumption | apply forEach_kept
    | simp only [kept_upd]

theorem rebuild_kept {pq : List Instr} {s : State} (hs : (s).Kept pq) :
    (rebuild s).Kept pq := by
  unfold rebuild
  repeat' first
    | with_reducible first | assumption | apply Blk_wr_kept | apply forEach_kept | apply noteVf_kept | apply applyRecord_kept | apply dropGone_kept
    | intro _
    | simp only [kept_upd]
    | split

theorem stepTime_kept {pq : List Instr} {s : State} {n : Nat} {t : Nat} (hs : (s).Kept pq) :
    (stepTime s n t).Kept pq := by
  unfold stepTime
  repeat' with_reducible first | assumption | apply Blk_wr_kept

theorem bootFail_kept {pq : List Instr} {s : State} {n : Nat} {code : Nat} (hs : (s).Kept pq) :
    (bootFail s n code).Kept pq := by
  unfold bootFail
  repeat' with_reducible first | assumption | apply Blk_event_kept | apply Blk_wr_kept | apply alert_kept

theorem timeoutCode_kept {pq : List Instr} {s : State} {n : Nat} (hs : (s).Kept pq) :
    PairKept pq (timeoutCode s n) := by
  unfold timeoutCode
  repeat' first
    | with_reducible first | assumption | apply fresh_kept
    | simp only [kept_pair]
    | split

theorem enterRecovery_kept {pq : List Instr} {s : State} (hs : (s).Kept pq) :
    (enterRecovery s).Kept pq := by
  unfold enterRecovery
  repeat' first
    | with_reducible first | assumption | apply Blk_event_kept | apply Blk_wr_kept
    | simp only [kept_upd]

theorem enableJunction_kept {pq : List Instr} {s : State} {lock : Bool} (hs : (s).Kept pq) :
    (enableJunction s lock).Kept pq := by
  unfold enableJunction
  repeat' first
    | intro _
    | with_reducible first | assumption | apply Blk_wr_kept | apply forEach_kept | apply kept_ite

theorem sampleStraps_kept {pq : List Instr} {env : BootEnv} {s : State} (hs : (s).Kept pq) :
    (sampleStraps env s).Kept pq := by
  unfold sampleStraps
  repeat' with_reducible first | assumption | apply Blk_wr_kept | apply alert_kept | apply kept_ite

theorem bootRails_kept {pq : List Instr} {env : BootEnv} {s : State} (hs : (s).Kept pq) :
    (bootRails env s).state.Kept pq := by
  unfold bootRails
  repeat' with_reducible first | assumption | apply enableJunction_kept | apply Blk_wr_kept | apply alert_kept | apply bootFail_kept | apply kept_ite | apply kept_go | apply kept_stop | apply kept_ite_end

theorem bootIdentity_kept {pq : List Instr} {env : BootEnv} {s : State} (hs : (s).Kept pq) :
    (bootIdentity env s).state.Kept pq := by
  unfold bootIdentity
  repeat' first
    | with_reducible first | assumption | apply Blk_wr_kept | apply bootFail_kept | apply setRegBytes8_kept | apply showState_kept | apply kept_go | apply kept_stop | apply kept_ite_end
    | split

theorem otherImage_kept {pq : List Instr} {s : State} (hs : (s).Kept pq) :
    (otherImage s).state.Kept pq := by
  unfold otherImage
  repeat' with_reducible first | assumption | apply runImage_kept | apply enterRecovery_kept | apply kept_ite_end | apply kept_go | apply kept_stop

theorem bootImage_kept {pq : List Instr} {t : Nat} {s : State} (hs : (s).Kept pq) :
    (bootImage t s).state.Kept pq := by
  unfold bootImage
  repeat' with_reducible first | assumption | apply runImage_kept | apply otherImage_kept | apply kept_ite_end | apply kept_go

theorem showLog_kept {pq : List Instr} {s : State} (hs : (s).Kept pq) :
    (showLog s).Kept pq := by
  unfold showLog
  repeat' first
    | with_reducible first | assumption | apply Blk_wr_kept | apply setRegBytes8_kept
    | split

theorem bootLog_kept {pq : List Instr} {s : State} (hs : (s).Kept pq) :
    (bootLog s).state.Kept pq := by
  unfold bootLog
  repeat' first
    | with_reducible first | assumption | apply Blk_wr_kept | apply bootFail_kept | apply eraseFlash_kept | apply showLog_kept | apply kept_go | apply kept_stop
    | simp only [kept_upd]
    | split

theorem gradeAtBoot_kept {pq : List Instr} {s : State} (hs : (s).Kept pq) :
    (gradeAtBoot s).Kept pq := by
  unfold gradeAtBoot
  repeat' with_reducible first | assumption | apply showLmap_kept | apply recordRetired_kept | apply kept_ite

theorem bootMap_kept {pq : List Instr} {env : BootEnv} {s : State} (hs : (s).Kept pq) :
    (bootMap env s).state.Kept pq := by
  unfold bootMap
  repeat' first
    | intro _
    | with_reducible first | assumption | apply Blk_wr_kept | apply forEach_kept | apply showLmap_kept | apply setUnit_kept | apply showCondemned_kept | apply settleTiles_kept | apply loseCore_kept | apply bringIn_kept | apply dropLeaving_kept | apply rebuild_kept | apply gradeAtBoot_kept | apply kept_ite | apply kept_go
    | simp only [kept_upd]

theorem trimRecord_kept {pq : List Instr} {s : State} {n : Nat} (hs : (s).Kept pq) :
    (trimRecord s n).Kept pq := by
  unfold trimRecord
  repeat' with_reducible first | assumption | apply appendRecord_kept | apply noteVf_kept | apply kept_ite

theorem bootCalibrate_kept {pq : List Instr} {env : BootEnv} {s : State} (hs : (s).Kept pq) :
    (bootCalibrate env s).state.Kept pq := by
  unfold bootCalibrate
  repeat' first
    | intro _
    | with_reducible first | assumption | apply Blk_wr_kept | apply forEach_kept | apply showDistrict_kept | apply condemnTile_kept | apply condemn_kept | apply bringIn_kept | apply dropLeaving_kept | apply gradeAtBoot_kept | apply trimRecord_kept | apply kept_go
    | simp only [kept_upd]

theorem sweepEnergy_kept {pq : List Instr} {s : State} (hs : (s).Kept pq) :
    (sweepEnergy s).Kept pq := by
  unfold sweepEnergy
  repeat' first
    | intro _
    | with_reducible first | assumption | apply forEach_kept | apply burstEnergy_kept

theorem bootHbm_kept {pq : List Instr} {env : BootEnv} {s : State} (hs : (s).Kept pq) :
    (bootHbm env s).state.Kept pq := by
  unfold bootHbm
  repeat' first
    | intro _
    | with_reducible first | assumption | apply Blk_wr_kept | apply forEach_kept | apply recordRetired_kept | apply mapStore_kept | apply setStackState_kept | apply reviewStack_kept | apply repairRecord_kept | apply hardRepaired_kept | apply sweepEnergy_kept | apply kept_ite | apply kept_go
    | with_reducible first | apply wf_filter_mem | apply kept_wf_regs | apply kept_wf_mem | apply kept_wf_pool | apply kept_wf_tcc | apply kept_wf_pending
    | (simp only [kept_mk]; refine ⟨?_, ?_, ?_, ?_, ?_⟩)

theorem bootLinks_kept {pq : List Instr} {s : State} (hs : (s).Kept pq) :
    (bootLinks s).Kept pq := by
  unfold bootLinks
  repeat' with_reducible first | assumption | apply forEach_kept | apply startTraining_kept

theorem bootWork_kept {pq : List Instr} {env : BootEnv} {n : Nat} {s : State} (hs : (s).Kept pq) :
    (bootWork env n s).state.Kept pq := by
  unfold bootWork
  repeat' first
    | with_reducible first | assumption | apply bootRails_kept | apply bootIdentity_kept | apply bootImage_kept | apply bootLog_kept | apply bootMap_kept | apply bootCalibrate_kept | apply bootHbm_kept | apply kept_go
    | split

theorem stepOverrun_kept {pq : List Instr} {s : State} {n : Nat} (hs : (s).Kept pq) :
    (stepOverrun s n).Kept pq := by
  unfold stepOverrun
  repeat' first
    | with_reducible first | assumption | apply bootFail_kept | apply timeoutCode_kept | apply enterRecovery_kept | apply kept_ite
    | simp only [kept_snd]

theorem bootSteps_kept {pq : List Instr} {env : BootEnv} {x1 : Nat} {x2 : Nat} {x3 : State} (hx3 : (x3).Kept pq) :
    (bootSteps env x1 x2 x3).Kept pq := by
  fun_induction bootSteps env x1 x2 x3
  repeat' first
    | with_reducible first | apply_assumption -exfalso -symm | apply Blk_wr_kept | apply stepTime_kept | apply bootLinks_kept | apply bootWork_kept | apply stepOverrun_kept | apply kept_ite
    | with_reducible first | refine kept_of_go (by assumption) ?_ | refine kept_of_stop (by assumption) ?_
    | simp only [kept_upd]

theorem execResetNRelease_kept {pq : List Instr} {env : BootEnv} {s : State} (hs : (s).Kept pq) :
    OutKept pq (execResetNRelease env s) := by
  unfold execResetNRelease
  repeat' first
    | with_reducible first | assumption | apply sampleStraps_kept | apply bootSteps_kept | apply kept_ite | apply kept_next
    | simp only [kept_upd]

theorem imageTimeout_kept {pq : List Instr} {env : BootEnv} {s : State} (hs : (s).Kept pq) :
    (imageTimeout env s).Kept pq := by
  unfold imageTimeout
  repeat' first
    | with_reducible first | assumption | apply stepTime_kept | apply enterRecovery_kept | apply otherImage_kept | apply bootSteps_kept | apply kept_ite
    | with_reducible first | refine kept_of_go (by assumption) ?_ | refine kept_of_stop (by assumption) ?_
    | split

theorem execBootStepTimeout_kept {pq : List Instr} {s : State} (hs : (s).Kept pq) :
    OutKept pq (execBootStepTimeout s) := by
  unfold execBootStepTimeout
  repeat' first
    | with_reducible first | assumption | apply stepTime_kept | apply stepOverrun_kept | apply bootSteps_kept | apply imageTimeout_kept | apply kept_ite | apply kept_next
    | simp only [kept_upd]

theorem bootRecord_kept {pq : List Instr} {s : State} (hs : (s).Kept pq) :
    (bootRecord s).Kept pq := by
  unfold bootRecord
  repeat' with_reducible first | assumption | apply appendRecord_kept

theorem ownershipRecord_kept {pq : List Instr} {s : State} {op : Nat} {signer : Nat} {ctr : Nat} {pkDigest : List Byte} {bad : Bool} {us : Nat} (hs : (s).Kept pq) :
    (ownershipRecord s op signer ctr pkDigest bad us).Kept pq := by
  unfold ownershipRecord
  repeat' with_reducible first | assumption | apply appendRecord_kept

theorem pendingSigner_kept {pq : List Instr} {s : State} {op : Nat} (hs : (s).Kept pq) :
    PairKept pq (pendingSigner s op) := by
  unfold pendingSigner
  repeat' first
    | with_reducible first | assumption | apply fresh_kept
    | simp only [kept_pair]
    | simp only [kept_snd]
    | split

theorem bootTimes_kept {pq : List Instr} {s : State} (hs : (s).Kept pq) :
    (bootTimes s).Kept pq := by
  unfold bootTimes
  repeat' first
    | with_reducible first | assumption | apply fresh_kept | apply stepTime_kept
    | simp only [kept_snd]

theorem bootJoin_kept {pq : List Instr} {s : State} (hs : (s).Kept pq) :
    (bootJoin s).Kept pq := by
  unfold bootJoin
  repeat' first
    | with_reducible first | assumption | apply Blk_wr_kept | apply Blk_event_kept | apply alert_kept | apply setPending_kept | apply recordRetired_kept | apply gradeRecord_kept | apply publish_kept | apply writeState_kept | apply stepTime_kept | apply enableJunction_kept | apply bootRecord_kept | apply ownershipRecord_kept | apply pendingSigner_kept | apply bootTimes_kept | apply kept_ite
    | simp only [kept_snd]
    | split

theorem selfIdWrite_kept {pq : List Instr} {s : State} {v : Nat} (hs : (s).Kept pq) :
    (selfIdWrite s v).Kept pq := by
  unfold selfIdWrite
  repeat' with_reducible first | assumption | apply Blk_wr_kept | apply bootJoin_kept | apply kept_ite

theorem i3cMode_kept {pq : List Instr} {s : State} {addr : Option Nat} (hs : (s).Kept pq) :
    (i3cMode s addr).Kept pq := by
  unfold i3cMode
  repeat' first
    | with_reducible assumption
    | simp only [kept_upd]

theorem recoveryBytes_kept {pq : List Instr} {data : List Byte} {s : State} (hs : (s).Kept pq) :
    (recoveryBytes data s).Kept pq := by
  unfold recoveryBytes
  repeat' first
    | with_reducible first | assumption | apply writeFlash_kept | apply eraseFlash_kept | apply discardVolatile_kept | apply kept_ite
    | simp only [kept_upd]

theorem execI3cRecovery_kept {pq : List Instr} {x : I3cTransfer} {s : State} (hs : (s).Kept pq) :
    OutKept pq (execI3cRecovery x s) := by
  unfold execI3cRecovery
  repeat' first
    | with_reducible first | assumption | apply i3cMode_kept | apply recoveryBytes_kept | apply kept_ite | apply kept_next
    | simp only [kept_upd]

theorem secError_kept {pq : List Instr} {s : State} {code : Nat} {p : Nat} {o : Nat} (hs : (s).Kept pq) :
    (secError s code p o).Kept pq := by
  unfold secError
  repeat' with_reducible first | assumption | apply Blk_raise_kept

theorem mgmtSpan_kept {pq : List Instr} {s : State} {o : Nat} {n : Nat} {write : Bool} (hs : (s).Kept pq) :
    PairKept pq (mgmtSpan s o n write) := by
  unfold mgmtSpan
  repeat' first
    | with_reducible first | assumption | apply secError_kept | apply kept_ite_pair
    | simp only [kept_pair]

theorem readMgmtHbm_kept {pq : List Instr} {s : State} {o : Nat} {n : Nat} (hs : (s).Kept pq) :
    PairKept pq (readMgmtHbm s o n) := by
  unfold readMgmtHbm
  repeat' first
    | with_reducible first | assumption | apply readLocal_kept | apply mgmtSpan_kept
    | simp only [kept_pair]
    | simp only [kept_snd]
    | split

theorem stageGo_kept {pq : List Instr} {s : State} (hs : (s).Kept pq) :
    (stageGo s).Kept pq := by
  unfold stageGo
  repeat' with_reducible first | assumption | apply Blk_wr_kept | apply kept_ite

theorem execStageDone_kept {pq : List Instr} {ok : Bool} {s : State} (hs : (s).Kept pq) :
    OutKept pq (execStageDone ok s) := by
  unfold execStageDone
  repeat' first
    | with_reducible first | assumption | apply Blk_wr_kept | apply Blk_event_kept | apply Blk_raise_kept | apply writeFlash_kept | apply eraseFlash_kept | apply readMgmtHbm_kept | apply kept_next
    | simp only [kept_snd]
    | split

theorem bootSlotWrite_kept {pq : List Instr} {s : State} {v : Nat} (hs : (s).Kept pq) :
    (bootSlotWrite s v).Kept pq := by
  unfold bootSlotWrite
  repeat' with_reducible first | assumption | apply Blk_raise_kept | apply Blk_wr_kept | apply kept_ite

theorem closeSession_kept {pq : List Instr} {s : State} (hs : (s).Kept pq) :
    (closeSession s).Kept pq := by
  unfold closeSession
  repeat' with_reducible first | assumption | apply Blk_event_kept | apply Blk_wr_kept | apply kept_ite

theorem execSessionTimeout_kept {pq : List Instr} {s : State} (hs : (s).Kept pq) :
    OutKept pq (execSessionTimeout s) := by
  unfold execSessionTimeout
  repeat' with_reducible first | assumption | apply closeSession_kept | apply kept_ite | apply kept_next

theorem readCmd_kept {pq : List Instr} {s : State} (hs : (s).Kept pq) :
    PairKept pq (readCmd s) := by
  unfold readCmd
  repeat' with_reducible first | assumption | apply readMgmtHbm_kept

theorem rejectCmd_kept {pq : List Instr} {s : State} {code : Nat} (hs : (s).Kept pq) :
    (rejectCmd s code).Kept pq := by
  unfold rejectCmd
  repeat' with_reducible first | assumption | apply Blk_event_kept | apply Blk_raise_kept | apply Blk_wr_kept

theorem zeroTileCounters_kept {pq : List Instr} {s : State} {t : Fin 160} (hs : (s).Kept pq) :
    (zeroTileCounters s t).Kept pq := by
  unfold zeroTileCounters
  repeat' first
    | intro _
    | with_reducible first | assumption | apply Blk_wr_kept | apply forEach_kept

theorem scrub_kept {pq : List Instr} {s : State} (hs : (s).Kept pq) :
    (scrub s).Kept pq := by
  unfold scrub
  repeat' first
    | intro _
    | with_reducible first | assumption | apply Blk_wr_kept | apply forEach_kept | apply softReset_kept | apply sweepEnergy_kept | apply zeroTileCounters_kept
    | with_reducible first | apply wf_filter_mem | apply kept_wf_regs | apply kept_wf_mem | apply kept_wf_pool | apply kept_wf_tcc | apply kept_wf_pending
    | (simp only [kept_mk]; refine ⟨?_, ?_, ?_, ?_, ?_⟩)

theorem cmdGo_kept {pq : List Instr} {s : State} (hs : (s).Kept pq) :
    (cmdGo s).Kept pq := by
  unfold cmdGo
  repeat' first
    | with_reducible first | assumption | apply Blk_event_kept | apply Blk_raise_kept | apply Blk_sat_kept | apply Blk_wr_kept | apply closeSession_kept | apply readCmd_kept | apply rejectCmd_kept | apply scrub_kept | apply writeState_kept
    | simp only [kept_snd]
    | simp only [kept_upd]
    | split

theorem scrubRepair_kept {pq : List Instr} {s : State} {a : Nat} (hs : (s).Kept pq) :
    PairKept pq (scrubRepair s a) := by
  unfold scrubRepair
  repeat' first
    | with_reducible first | assumption | apply repairUnit_kept
    | simp only [kept_pair]
    | simp only [kept_upd]
    | split

theorem execCmdDone_kept {pq : List Instr} {scrubUs : Nat} {back : ReadBack} {s : State} (hs : (s).Kept pq) :
    OutKept pq (execCmdDone scrubUs back s) := by
  unfold execCmdDone
  repeat' first
    | intro _
    | with_reducible first | assumption | apply Blk_wr_kept | apply Blk_event_kept | apply writeState_kept | apply sweepEnergy_kept | apply ownershipRecord_kept | apply rejectCmd_kept | apply scrubRepair_kept | apply kept_foldl_pair | apply kept_next
    | simp only [kept_pair]
    | simp only [kept_snd]
    | simp only [kept_upd]
    | split

theorem quoteGo_kept {pq : List Instr} {s : State} (hs : (s).Kept pq) :
    (quoteGo s).Kept pq := by
  unfold quoteGo
  repeat' first
    | with_reducible first | assumption | apply Blk_raise_kept | apply Blk_sat_kept | apply Blk_wr_kept | apply kept_ite
    | simp only [kept_upd]

theorem execQuoteDone_kept {pq : List Instr} {s : State} (hs : (s).Kept pq) :
    OutKept pq (execQuoteDone s) := by
  unfold execQuoteDone
  repeat' first
    | with_reducible first | assumption | apply Blk_wr_kept | apply Blk_event_kept | apply writeLocal_kept | apply mgmtSpan_kept | apply kept_next
    | simp only [kept_snd]
    | simp only [kept_upd]
    | split


end Sys2Proof.Machine
end

