-- ==== Sys2Proof/Laws/KeptAccess.lean ====
section
/-! SUPPORT. Sys2Proof/Laws/KeptAccess.lean: each operation on the state keeps the waiting commands and the canonical form: register accesses, remote operations and operands. -/
namespace Sys2Proof.Machine

/-! ### Pools -/

theorem setWaits_kept {pq : List Instr} {s : State} {d : Fin 2} {p : Nat} {l : List PoolWait} (hs : (s).Kept pq) :
    (setWaits s d p l).Kept pq := by
  unfold setWaits
  repeat' first
    | with_reducible first | assumption | apply Blk_put_kept
    | simp only [kept_upd]

theorem setFree_kept {pq : List Instr} {s : State} {d : Fin 2} {p : Nat} {n : Nat} (hs : (s).Kept pq) :
    (setFree s d p n).Kept pq := by
  unfold setFree
  repeat' with_reducible first | assumption | apply Blk_wr_kept | apply kept_ite

theorem takeBuffer_kept {pq : List Instr} {s : State} {d : Fin 2} {p : Nat} {i : Nat} (hs : (s).Kept pq) :
    PairKept pq (takeBuffer s d p i) := by
  unfold takeBuffer
  repeat' first
    | with_reducible first | assumption | apply wf_set_pool | apply kept_wf_regs | apply kept_wf_mem | apply kept_wf_pool | apply kept_wf_tcc | apply kept_wf_pending | apply setFree_kept
    | simp only [kept_pair]
    | simp only [kept_upd]
    | (simp only [kept_mk]; refine ⟨?_, ?_, ?_, ?_, ?_⟩)

theorem countNone_kept {pq : List Instr} {s : State} {d : Fin 2} (hs : (s).Kept pq) :
    (countNone s d).Kept pq := by
  unfold countNone
  repeat' with_reducible first | assumption | apply Blk_sat_kept

theorem bpmError_kept {pq : List Instr} {s : State} {d : Fin 2} {k : Nat} {info : Nat} (hs : (s).Kept pq) :
    (bpmError s d k info).Kept pq := by
  unfold bpmError
  repeat' with_reducible first | assumption | apply Blk_event_kept | apply Blk_raise_kept

theorem tooLarge_kept {pq : List Instr} {s : State} {d : Fin 2} {size : Nat} (hs : (s).Kept pq) :
    (tooLarge s d size).Kept pq := by
  unfold tooLarge
  repeat' with_reducible first | assumption | apply bpmError_kept | apply countNone_kept

theorem readAlloc_kept {pq : List Instr} {s : State} {d : Fin 2} {p : Nat} (hs : (s).Kept pq) :
    PairKept pq (readAlloc s d p) := by
  unfold readAlloc
  repeat' first
    | with_reducible first | assumption | apply countNone_kept | apply takeBuffer_kept
    | simp only [kept_pair]
    | split

theorem readAllocSz_kept {pq : List Instr} {s : State} {d : Fin 2} {k : Nat} (hs : (s).Kept pq) :
    PairKept pq (readAllocSz s d k) := by
  unfold readAllocSz
  repeat' first
    | with_reducible first | assumption | apply readAlloc_kept | apply tooLarge_kept
    | simp only [kept_pair]
    | split

theorem engineAlloc_kept {pq : List Instr} {s : State} {d : Fin 2} {inst : Nat} {tag : Nat} {size : Nat} (hs : (s).Kept pq) :
    PairKept pq (engineAlloc s d inst tag size) := by
  unfold engineAlloc
  repeat' first
    | with_reducible first | assumption | apply Blk_wr_kept | apply countNone_kept | apply setWaits_kept | apply takeBuffer_kept | apply tooLarge_kept
    | simp only [kept_pair]
    | simp only [kept_snd]
    | split

theorem freeHandle_kept {pq : List Instr} {s : State} {d : Fin 2} {h : Nat} (hs : (s).Kept pq) :
    (freeHandle s d h).Kept pq := by
  unfold freeHandle
  repeat' first
    | with_reducible first | assumption | apply wf_set_pool | apply kept_wf_regs | apply kept_wf_mem | apply kept_wf_pool | apply kept_wf_tcc | apply kept_wf_pending | apply Blk_sat_kept | apply Blk_wr_kept | apply bpmError_kept | apply setFree_kept | apply kept_ite
    | simp only [kept_upd]
    | (simp only [kept_mk]; refine ⟨?_, ?_, ?_, ?_, ?_⟩)

theorem portRequest_kept {pq : List Instr} {s : State} {d : Fin 2} {w : Nat} {tag : Nat} (hs : (s).Kept pq) :
    PairKept pq (portRequest s d w tag) := by
  unfold portRequest
  repeat' first
    | with_reducible first | assumption | apply Blk_wr_kept | apply bpmError_kept | apply countNone_kept | apply engineAlloc_kept | apply freeHandle_kept | apply kept_ite | apply kept_ite_pair
    | simp only [kept_pair]

theorem poolAnswer_kept {pq : List Instr} {s : State} {inst : Nat} {tag : Nat} {h : Nat} (hs : (s).Kept pq) :
    (poolAnswer s inst tag h).Kept pq := by
  unfold poolAnswer
  repeat' first
    | with_reducible assumption
    | simp only [kept_upd]

theorem takeAnswer_kept {pq : List Instr} {s t : State} {i g h : Nat} (e : takeAnswer s i g = some (h, t)) (hs : s.Kept pq) :
    t.Kept pq := by
  unfold takeAnswer at e
  split at e
  · simp only [Option.some.injEq, Prod.mk.injEq] at e
    rw [← e.2]
    simp only [kept_upd]
    exact hs
  · cases e

theorem execBpmWaiterServed_kept {pq : List Instr} {d : Fin 2} {k : Fin 4} {s : State} (hs : (s).Kept pq) :
    OutKept pq (execBpmWaiterServed d k s) := by
  unfold execBpmWaiterServed
  repeat' first
    | with_reducible first | assumption | apply poolAnswer_kept | apply setWaits_kept | apply takeBuffer_kept | apply kept_next
    | simp only [kept_snd]
    | split

theorem execBpmPortRequest_kept {pq : List Instr} {d : Fin 2} {src : SeqId} {word : Word64} {s : State} (hs : (s).Kept pq) :
    OutKept pq (execBpmPortRequest d src word s) := by
  unfold execBpmPortRequest
  repeat' first
    | with_reducible first | assumption | apply poolAnswer_kept | apply portRequest_kept | apply kept_next | refine kept_of_pair (by assumption) ?_
    | split

theorem poolConfig_kept {pq : List Instr} {s : State} {d : Fin 2} {o : Nat} {v : Nat} (hs : (s).Kept pq) :
    (poolConfig s d o v).Kept pq := by
  unfold poolConfig
  repeat' with_reducible first | assumption | apply Blk_wr_kept | apply bpmError_kept | apply kept_ite


/-! ### Debug -/

theorem setDbg_kept {pq : List Instr} {s : State} {t : Nat} {x : DbgSt} (hs : (s).Kept pq) :
    (setDbg s t x).Kept pq := by
  unfold setDbg
  repeat' first
    | with_reducible assumption
    | simp only [kept_upd]

theorem snapTile_kept {pq : List Instr} {s : State} {t : Fin 160} (hs : (s).Kept pq) :
    (snapTile s t).Kept pq := by
  unfold snapTile
  repeat' first
    | intro _
    | with_reducible first | assumption | apply Blk_wr_kept | apply forEach_kept

theorem snapDevice_kept {pq : List Instr} {s : State} (hs : (s).Kept pq) :
    (snapDevice s).Kept pq := by
  unfold snapDevice
  repeat' first
    | intro _
    | with_reducible first | assumption | apply Blk_wr_kept | apply forEach_kept

theorem drainTile_kept {pq : List Instr} {s : State} {t : Fin 160} (hs : (s).Kept pq) :
    (drainTile s t).Kept pq := by
  unfold drainTile
  repeat' first
    | intro _
    | with_reducible first | assumption | apply Blk_put_kept | apply Blk_setBit_kept | apply drainSet_kept | apply setDbg_kept | apply forEach_kept

theorem debugHit_kept {pq : List Instr} {s : State} {t : Fin 160} {n : Nat} {cause : Nat} {pc : Nat} (hs : (s).Kept pq) :
    (debugHit s t n cause pc).Kept pq := by
  unfold debugHit
  repeat' with_reducible first | assumption | apply Blk_event_kept | apply Blk_put_kept | apply Blk_wr_kept | apply drainTile_kept | apply setDbg_kept | apply kept_ite

theorem haltMeetsHit_kept {pq : List Instr} {s : State} {t : Fin 160} (hs : (s).Kept pq) :
    (haltMeetsHit s t).Kept pq := by
  unfold haltMeetsHit
  repeat' first
    | with_reducible first | assumption | apply debugHit_kept | apply kept_ite
    | split

theorem haltTile_kept {pq : List Instr} {s : State} {t : Fin 160} (hs : (s).Kept pq) :
    (haltTile s t).Kept pq := by
  unfold haltTile
  repeat' with_reducible first | assumption | apply Blk_put_kept | apply setDbg_kept | apply drainTile_kept | apply haltMeetsHit_kept | apply kept_ite

theorem resumeTile_kept {pq : List Instr} {s : State} {t : Fin 160} (hs : (s).Kept pq) :
    (resumeTile s t).Kept pq := by
  unfold resumeTile
  repeat' first
    | intro _
    | with_reducible first | assumption | apply Blk_clrBit_kept | apply Blk_put_kept | apply setDbg_kept | apply forEach_kept

theorem stepTile_kept {pq : List Instr} {s : State} {t : Fin 160} (hs : (s).Kept pq) :
    (stepTile s t).Kept pq := by
  unfold stepTile
  repeat' with_reducible first | assumption | apply setDbg_kept | apply kept_ite

theorem dbgCtrlWrite_kept {pq : List Instr} {s : State} {t : Fin 160} {v : Nat} (hs : (s).Kept pq) :
    (dbgCtrlWrite s t v).Kept pq := by
  unfold dbgCtrlWrite
  repeat' with_reducible first | assumption | apply Blk_wr_kept | apply haltTile_kept | apply resumeTile_kept | apply stepTile_kept | apply kept_ite

theorem execDbgHalted_kept {pq : List Instr} {t : Fin 160} {s : State} (hs : (s).Kept pq) :
    OutKept pq (execDbgHalted t s) := by
  unfold execDbgHalted
  repeat' with_reducible first | assumption | apply Blk_event_kept | apply Blk_put_kept | apply kept_ite | apply kept_next

theorem partHaltWrite_kept {pq : List Instr} {s : State} {v : Nat} (hs : (s).Kept pq) :
    (partHaltWrite s v).Kept pq := by
  unfold partHaltWrite
  repeat' first
    | intro _
    | with_reducible first | assumption | apply haltTile_kept | apply resumeTile_kept | apply forEach_kept | apply kept_ite

theorem notStopped_kept {pq : List Instr} {s : State} {t : Fin 160} (hs : (s).Kept pq) :
    (notStopped s t).Kept pq := by
  unfold notStopped
  repeat' with_reducible first | assumption | apply Blk_raise_kept

theorem modThread_kept {pq : List Instr} {s : State} {t : Nat} {n : Nat} {f : Thread → Thread} (hs : (s).Kept pq) :
    (modThread s t n f).Kept pq := by
  unfold modThread
  refine setTcc_kept hs ?_
  rw [List.length_set]
  exact tccsOk_get hs.tcc t

theorem regDataRead_kept {pq : List Instr} {s : State} {t : Fin 160} (hs : (s).Kept pq) :
    PairKept pq (regDataRead s t) := by
  unfold regDataRead
  repeat' first
    | with_reducible first | assumption | apply notStopped_kept | apply kept_ite_pair
    | simp only [kept_pair]

theorem regDataWrite_kept {pq : List Instr} {s : State} {t : Fin 160} {v : Nat} (hs : (s).Kept pq) :
    (regDataWrite s t v).Kept pq := by
  unfold regDataWrite
  repeat' with_reducible first | assumption | apply modThread_kept | apply notStopped_kept | apply kept_ite

theorem tagDataWrite_kept {pq : List Instr} {s : State} {t : Fin 160} {v : Nat} (hs : (s).Kept pq) :
    (tagDataWrite s t v).Kept pq := by
  unfold tagDataWrite
  repeat' first
    | with_reducible first | assumption | apply notStopped_kept | apply kept_ite
    | simp only [kept_upd]


/-! ### Outcome -/

theorem threadFault_kept {pq : List Instr} {s : State} {t : Fin 160} {n : Nat} {cause : Nat} (hs : (s).Kept pq) :
    (threadFault s t n cause).Kept pq := by
  unfold threadFault
  repeat' with_reducible first | assumption | apply Blk_event_kept | apply Blk_raise_kept | apply Blk_wr_kept | apply modThread_kept | apply kept_ite

theorem thrStartWrite_kept {pq : List Instr} {s : State} {t : Fin 160} {v : Nat} (hs : (s).Kept pq) :
    (thrStartWrite s t v).Kept pq := by
  unfold thrStartWrite
  repeat' first
    | intro _
    | with_reducible first | assumption | apply modThread_kept | apply threadFault_kept | apply forEach_kept | apply kept_ite

theorem seqGoWrite_kept {pq : List Instr} {s : State} {t : Fin 160} {v : Nat} (hs : (s).Kept pq) :
    (seqGoWrite s t v).Kept pq := by
  unfold seqGoWrite
  repeat' first
    | intro _
    | with_reducible first | assumption | apply forEach_kept | apply Blk_setBit_kept | apply ringCheck_kept | apply kept_ite

theorem stopThreads_kept {pq : List Instr} {s : State} {t : Nat} (hs : (s).Kept pq) :
    (stopThreads s t).Kept pq := by
  unfold stopThreads
  repeat' first
    | intro _
    | with_reducible first | assumption | apply modThread_kept | apply forEach_kept

theorem faultRecord_kept {pq : List Instr} {s : State} {r : Request} {outcome : Nat} (hs : (s).Kept pq) :
    (faultRecord s r outcome).Kept pq := by
  unfold faultRecord
  repeat' with_reducible first | assumption | apply Blk_wr_kept

theorem faultLog_kept {pq : List Instr} {s : State} {r : Request} {outcome : Nat} (hs : (s).Kept pq) :
    (faultLog s r outcome).Kept pq := by
  unfold faultLog
  repeat' with_reducible first | assumption | apply Blk_event_kept | apply faultRecord_kept

theorem fabRaise_kept {pq : List Instr} {s : State} {code : Nat} {r : Request} (hs : (s).Kept pq) :
    (fabRaise s code r).Kept pq := by
  unfold fabRaise
  repeat' with_reducible first | assumption | apply Blk_raise_kept

theorem threadDone_kept {pq : List Instr} {s : State} {t : Nat} {n : Nat} {rd : Nat} {v : Nat} (hs : (s).Kept pq) :
    (threadDone s t n rd v).Kept pq := by
  unfold threadDone
  repeat' with_reducible first | assumption | apply modThread_kept

theorem failedData_kept {pq : List Instr} {s : State} {r : Request} {st : Nat} {fmt : Nat} {n : Nat} (hs : (s).Kept pq) :
    PairKept pq (failedData s r st fmt n) := by
  unfold failedData
  repeat' first
    | with_reducible first | assumption | apply freeBytes_kept
    | simp only [kept_pair]
    | split

theorem threadOutcome_kept {pq : List Instr} {s : State} {t : Fin 160} {n : Nat} {rd : Nat} {w : Nat} {sg : Bool} {r : Request} {st : Nat} {data : List Byte} {own : Bool} (hs : (s).Kept pq) :
    (threadOutcome s t n rd w sg r st data own).Kept pq := by
  unfold threadOutcome
  repeat' first
    | with_reducible first | assumption | apply fresh_kept | apply threadFault_kept | apply threadDone_kept | apply failedData_kept | apply kept_ite
    | simp only [kept_snd]

theorem operandOutcome_kept {pq : List Instr} {s : State} {q : SeqId} {fmt : Nat} {r : Request} {st : Nat} {data : List Byte} (hs : (s).Kept pq) :
    (operandOutcome s q fmt r st data).Kept pq := by
  unfold operandOutcome
  repeat' first
    | with_reducible first | assumption | apply failedData_kept | apply modSeq_kept | apply noteStatus_kept | apply kept_ite_pair
    | simp only [kept_pair]
    | simp only [kept_snd]

theorem hostPart_kept {pq : List Instr} {s : State} {tag : Nat} {total : Nat} {e : HostPart} (hs : (s).Kept pq) :
    (hostPart s tag total e).Kept pq := by
  unfold hostPart
  repeat' first
    | with_reducible first | assumption | apply kept_ite
    | simp only [kept_upd]

theorem deliver_kept {pq : List Instr} {s : State} {o : OutReq} {st : Nat} {data : List Byte} (hs : (s).Kept pq) :
    (deliver s o st data).Kept pq := by
  unfold deliver
  repeat' first
    | with_reducible first | assumption | apply modSeq_kept | apply noteStatus_kept | apply threadOutcome_kept | apply operandOutcome_kept | apply hostPart_kept
    | split

theorem retire_kept {pq : List Instr} {s : State} {o : OutReq} {late : Bool} {gone : Bool} (hs : (s).Kept pq) :
    (retire s o late gone).Kept pq := by
  unfold retire
  repeat' first
    | with_reducible assumption
    | simp only [kept_upd]

theorem badOutcome_kept {pq : List Instr} {s : State} {r : Request} {id : Nat} {st : Nat} {flagAll : Bool} {withheld : Bool} (hs : (s).Kept pq) :
    (badOutcome s r id st flagAll withheld).Kept pq := by
  unfold badOutcome
  repeat' first
    | with_reducible first | assumption | apply faultLog_kept | apply fabRaise_kept | apply kept_ite
    | simp only [kept_upd]

theorem finish_kept {pq : List Instr} {s : State} {o : OutReq} {st : Nat} {data : List Byte} (hs : (s).Kept pq) :
    (finish s o st data).Kept pq := by
  unfold finish
  repeat' with_reducible first | assumption | apply deliver_kept | apply retire_kept | apply badOutcome_kept | apply kept_ite

theorem modOut_kept {pq : List Instr} {s : State} {id : Nat} {f : OutReq → OutReq} (hs : (s).Kept pq) :
    (modOut s id f).Kept pq := by
  unfold modOut
  repeat' first
    | with_reducible assumption
    | simp only [kept_upd]


/-! ### Partition -/

theorem dropPackets_kept {pq : List Instr} {s : State} {p : Nat} (hs : (s).Kept pq) :
    (dropPackets s p).Kept pq := by
  unfold dropPackets
  repeat' first
    | intro _
    | with_reducible first | assumption | apply forEach_kept | apply Blk_sat_kept | apply Blk_event_kept | apply freeInput_kept | apply setComb_kept | apply retire_kept | apply finish_kept | apply kept_ite
    | simp only [kept_upd]

theorem teardown_kept {pq : List Instr} {s : State} {p : Nat} (hs : (s).Kept pq) :
    (teardown s p).Kept pq := by
  unfold teardown
  repeat' first
    | intro _
    | with_reducible first | assumption | apply dropPackets_kept | apply softReset_kept | apply stopThreads_kept | apply forEach_kept
    | split

theorem zeroSlotCounters_kept {pq : List Instr} {s : State} {k : Nat} (hs : (s).Kept pq) :
    (zeroSlotCounters s k).Kept pq := by
  unfold zeroSlotCounters
  repeat' first
    | intro _
    | with_reducible first | assumption | apply Blk_wr_kept | apply forEach_kept

theorem partWrite_kept {pq : List Instr} {s : State} {k : Nat} {v : Nat} (hs : (s).Kept pq) :
    (partWrite s k v).Kept pq := by
  unfold partWrite
  repeat' with_reducible first | assumption | apply Blk_countErr_kept | apply Blk_wr_kept | apply teardown_kept | apply zeroSlotCounters_kept | apply kept_ite

theorem replayWindowSet_kept {pq : List Instr} {s : State} {v : Nat} (hs : (s).Kept pq) :
    (replayWindowSet s v).Kept pq := by
  unfold replayWindowSet
  repeat' first
    | with_reducible first | assumption | apply Blk_wr_kept | apply kept_ite
    | simp only [kept_upd]

theorem execReplayWindowLowerDone_kept {pq : List Instr} {s : State} (hs : (s).Kept pq) :
    OutKept pq (execReplayWindowLowerDone s) := by
  unfold execReplayWindowLowerDone
  repeat' first
    | with_reducible first | assumption | apply kept_next
    | simp only [kept_upd]
    | split

theorem setEntryState_kept {pq : List Instr} {s : State} {i : Nat} {st : Nat} (hs : (s).Kept pq) :
    (setEntryState s i st).Kept pq := by
  unfold setEntryState
  repeat' with_reducible first | assumption | apply writeNat_kept

theorem showMig_kept {pq : List Instr} {s : State} {i : Nat} {st : Nat} {busy : Bool} {arrivals : Nat} (hs : (s).Kept pq) :
    (showMig s i st busy arrivals).Kept pq := by
  unfold showMig
  repeat' with_reducible first | assumption | apply Blk_wr_kept

theorem migCmd_kept {pq : List Instr} {s : State} {v : Nat} (hs : (s).Kept pq) :
    (migCmd s v).Kept pq := by
  unfold migCmd
  repeat' first
    | with_reducible first | assumption | apply setEntryState_kept | apply showMig_kept
    | simp only [kept_upd]
    | split

theorem countArrival_kept {pq : List Instr} {s : State} {i : Nat} (hs : (s).Kept pq) :
    (countArrival s i).Kept pq := by
  unfold countArrival
  repeat' first
    | with_reducible first | assumption | apply Blk_wr_kept | apply kept_ite
    | simp only [kept_upd]


/-! ### Msix -/

theorem outBytes_kept {pq : List Instr} {s : State} {n : Nat} (hs : (s).Kept pq) :
    (outBytes s n).Kept pq := by
  unfold outBytes
  repeat' with_reducible first | assumption | apply Blk_add_kept

theorem msixSend_kept {pq : List Instr} {s : State} {v : Nat} (hs : (s).Kept pq) :
    (msixSend s v).Kept pq := by
  unfold msixSend
  repeat' first
    | with_reducible first | assumption | apply Blk_setBit_kept | apply outBytes_kept | apply kept_ite
    | simp only [kept_upd]

theorem wakeStore_kept {pq : List Instr} {s : State} {o : Nat} {n : Nat} (hs : (s).Kept pq) :
    (wakeStore s o n).Kept pq := by
  unfold wakeStore
  repeat' first
    | with_reducible first | assumption | apply forEach_kept | apply msixSend_kept | apply kept_ite
    | intro _
    | simp only [kept_upd]

theorem execMsixHoldoffExpire_kept {pq : List Instr} {v : Fin 64} {s : State} (hs : (s).Kept pq) :
    OutKept pq (execMsixHoldoffExpire v s) := by
  unfold execMsixHoldoffExpire
  repeat' first
    | with_reducible first | assumption | apply msixSend_kept | apply kept_ite | apply kept_next
    | simp only [kept_upd]

theorem sendPending_kept {pq : List Instr} {s : State} (hs : (s).Kept pq) :
    (sendPending s).Kept pq := by
  unfold sendPending
  repeat' first
    | with_reducible first | assumption | apply forEach_kept | apply Blk_clrBit_kept | apply msixSend_kept | apply kept_ite
    | intro _

theorem msixTableWrite_kept {pq : List Instr} {s : State} {o : Nat} {v : Nat} (hs : (s).Kept pq) :
    (msixTableWrite s o v).Kept pq := by
  unfold msixTableWrite
  repeat' with_reducible first | assumption | apply Blk_wr_kept | apply sendPending_kept


/-! ### RegWrite -/

theorem readOne_kept {pq : List Instr} {s : State} {p : Nat} {b : Blk} {r : RegDesc} {o : Nat} (hs : (s).Kept pq) :
    PairKept pq (readOne s p b r o) := by
  unfold readOne
  repeat' first
    | with_reducible first | assumption | apply readAllocSz_kept | apply readAlloc_kept | apply regDataRead_kept
    | simp only [kept_pair]
    | split

theorem read4_kept {pq : List Instr} {s : State} {p : Nat} {b : Blk} {o : Nat} (hs : (s).Kept pq) :
    PairKept pq (read4 s p b o) := by
  unfold read4
  repeat' first
    | with_reducible first | assumption | apply readOne_kept
    | simp only [kept_pair]
    | simp only [kept_snd]
    | split

theorem readAt_kept {pq : List Instr} {s : State} {p : Nat} {b : Blk} {o : Nat} {size : Nat} (hs : (s).Kept pq) :
    PairKept pq (readAt s p b o size) := by
  unfold readAt
  repeat' first
    | with_reducible first | assumption | apply read4_kept | apply readOne_kept
    | simp only [kept_pair]
    | simp only [kept_snd]
    | split

theorem raiseAllot_kept {pq : List Instr} {s : State} {p : Nat} {info : Nat} (hs : (s).Kept pq) :
    (raiseAllot s p info).Kept pq := by
  unfold raiseAllot
  repeat' with_reducible first | assumption | apply Blk_raise_kept

theorem segDataWrite_kept {pq : List Instr} {s : State} {p : Nat} {v : Nat} (hs : (s).Kept pq) :
    (segDataWrite s p v).Kept pq := by
  unfold segDataWrite
  repeat' first
    | with_reducible first | assumption | apply Blk_wr_kept | apply raiseAllot_kept | apply kept_ite
    | simp only [kept_upd]

theorem tileOwnerWrite_kept {pq : List Instr} {s : State} {p : Nat} {t : Nat} {v : Nat} (hs : (s).Kept pq) :
    (tileOwnerWrite s p t v).Kept pq := by
  unfold tileOwnerWrite
  repeat' with_reducible first | assumption | apply Blk_wr_kept | apply raiseAllot_kept | apply kept_ite

theorem engOwnerWrite_kept {pq : List Instr} {s : State} {p : Nat} {i : Nat} {v : Nat} (hs : (s).Kept pq) :
    (engOwnerWrite s p i v).Kept pq := by
  unfold engOwnerWrite
  repeat' with_reducible first | assumption | apply Blk_wr_kept | apply raiseAllot_kept | apply kept_ite

theorem ctrlWrite_kept {pq : List Instr} {s : State} {b : Blk} {p : Nat} {v : Nat} (hs : (s).Kept pq) :
    (ctrlWrite s b p v).Kept pq := by
  unfold ctrlWrite
  repeat' first
    | with_reducible first | assumption | apply blkCtrlWrite_kept | apply linkEnable_kept
    | split

theorem headerWrite_kept {pq : List Instr} {s : State} {p : Nat} {b : Blk} {o : Nat} {v : Nat} (hs : (s).Kept pq) :
    (headerWrite s p b o v).Kept pq := by
  unfold headerWrite
  repeat' first
    | with_reducible first | assumption | apply Blk_wr_kept | apply ctrlWrite_kept
    | split

theorem pkgLimitWrite_kept {pq : List Instr} {s : State} {v : Nat} (hs : (s).Kept pq) :
    (pkgLimitWrite s v).Kept pq := by
  unfold pkgLimitWrite
  repeat' with_reducible first | assumption | apply Blk_wr_kept

theorem weightsWrite_kept {pq : List Instr} {s : State} {o : Nat} {v : Nat} (hs : (s).Kept pq) :
    (weightsWrite s o v).Kept pq := by
  unfold weightsWrite
  repeat' with_reducible first | assumption | apply Blk_wr_kept

theorem rtDataWrite_kept {pq : List Instr} {s : State} {v : Nat} (hs : (s).Kept pq) :
    (rtDataWrite s v).Kept pq := by
  unfold rtDataWrite
  repeat' first
    | with_reducible first | assumption | apply Blk_wr_kept | apply kept_ite
    | simp only [kept_upd]

theorem psetDataWrite_kept {pq : List Instr} {s : State} {v : Nat} (hs : (s).Kept pq) :
    (psetDataWrite s v).Kept pq := by
  unfold psetDataWrite
  repeat' first
    | with_reducible first | assumption | apply Blk_countErr_kept | apply Blk_event_kept | apply kept_ite
    | simp only [kept_upd]

theorem rangeWrite_kept {pq : List Instr} {s : State} {b : Blk} {o : Nat} {lo : Nat} {hi : Nat} {v : Nat} (hs : (s).Kept pq) :
    (rangeWrite s b o lo hi v).Kept pq := by
  unfold rangeWrite
  repeat' with_reducible first | assumption | apply Blk_wr_kept | apply kept_ite

theorem sprCmd_kept {pq : List Instr} {s : State} {v : Nat} {tests : Nat} {failed : List (Nat × FailedUnit)} (hs : (s).Kept pq) :
    (sprCmd s v tests failed).Kept pq := by
  unfold sprCmd
  repeat' first
    | with_reducible first | assumption | apply sprReplace_kept | apply sprRegrade_kept | apply sprLaneClear_kept
    | split

theorem plainWrite_kept {pq : List Instr} {c : Blk} {t : State} {r : RegDesc} {o v : Nat} (ht : t.Kept pq) :
    State.Kept pq (match r.acc with
      | .rw => c.wr t o (v &&& r.mask)
      | .w1c => c.wr t o (c.rd t o - (c.rd t o &&& v &&& r.mask))
      | _ => t) := by
  split
  · exact Blk_wr_kept ht
  · exact Blk_wr_kept ht
  · exact ht

theorem writeOne_kept {pq : List Instr} {s : State} {p : Nat} {b : Blk} {r : RegDesc} {o v : Nat} (hs : s.Kept pq) :
    (writeOne s p b r o v).Kept pq := by
  unfold writeOne
  cases b
  all_goals repeat' with_reducible first
    | exact hs
    | apply kept_ite
    | apply Blk_raise_kept | apply Blk_wr_kept | apply bootSlotWrite_kept | apply closeSession_kept | apply cmdGo_kept | apply creditRegWrite_kept | apply dbgCtrlWrite_kept | apply dtargetWrite_kept | apply engOwnerWrite_kept | apply freeHandle_kept | apply hbmCmd_kept | apply lnkCmd_kept | apply markWrite_kept | apply migCmd_kept | apply msixTableWrite_kept | apply partHaltWrite_kept | apply partWrite_kept | apply pkgLimitWrite_kept | apply poolConfig_kept | apply psetDataWrite_kept | apply quoteGo_kept | apply rangeWrite_kept | apply regDataWrite_kept | apply replayWindowSet_kept | apply resetCmdWrite_kept | apply rtDataWrite_kept | apply segDataWrite_kept | apply selfIdWrite_kept | apply seqGoWrite_kept | apply snapDevice_kept | apply snapTile_kept | apply sprCmd_kept | apply stageGo_kept | apply tagDataWrite_kept | apply tgcModeWrite_kept | apply thrStartWrite_kept | apply tileOwnerWrite_kept | apply weightsWrite_kept | apply wr_kept
    | apply plainWrite_kept
    | dsimp only
    | split

theorem write4_kept {pq : List Instr} {s : State} {p : Nat} {b : Blk} {o : Nat} {v : Nat} (hs : (s).Kept pq) :
    (write4 s p b o v).Kept pq := by
  unfold write4
  repeat' first
    | with_reducible first | assumption | apply headerWrite_kept | apply writeOne_kept
    | split

theorem writeAt_kept {pq : List Instr} {s : State} {p : Nat} {b : Blk} {o : Nat} {size : Nat} {v : Nat} (hs : (s).Kept pq) :
    (writeAt s p b o size v).Kept pq := by
  unfold writeAt
  repeat' first
    | with_reducible first | assumption | apply write4_kept | apply writeOne_kept
    | split

theorem regCheck_kept {pq : List Instr} {s : State} {p : Nat} {o : Nat} {size : Nat} {write : Bool} (hs : (s).Kept pq) :
    PairKept pq (regCheck s p o size write) := by
  unfold regCheck
  repeat' first
    | with_reducible first | assumption | apply Blk_raise_kept | apply secError_kept
    | simp only [kept_pair]
    | split

theorem regRead_kept {pq : List Instr} {s : State} {p : Nat} {o : Nat} {size : Nat} (hs : (s).Kept pq) :
    TripleKept pq (regRead s p o size) := by
  unfold regRead
  repeat' first
    | with_reducible first | assumption | apply readAt_kept | apply regCheck_kept
    | simp only [kept_triple]
    | simp only [kept_snd]
    | split

theorem regWrite_kept {pq : List Instr} {s : State} {p : Nat} {o : Nat} {size : Nat} {v : Nat} (hs : (s).Kept pq) :
    PairKept pq (regWrite s p o size v) := by
  unfold regWrite
  repeat' first
    | with_reducible first | assumption | apply regCheck_kept | apply writeAt_kept
    | simp only [kept_pair]
    | simp only [kept_snd]
    | split

theorem answered_kept {pq : List Instr} {s : State} {st : Nat} {data : List Byte} (hs : (s).Kept pq) :
    (answered s st data).Kept pq := by
  unfold answered
  repeat' first
    | with_reducible assumption
    | simp only [kept_upd]

theorem cmdWrite_kept {pq : List Instr} {s : State} {p : Nat} {o : Nat} {size : Nat} {v : Nat} (hs : (s).Kept pq) :
    (cmdWrite s p o size v).Kept pq := by
  unfold cmdWrite
  repeat' first
    | with_reducible first | assumption | apply answered_kept | apply regWrite_kept | apply kept_ite
    | simp only [kept_snd]

theorem cmdRead_kept {pq : List Instr} {s : State} {p : Nat} {o : Nat} {size : Nat} (hs : (s).Kept pq) :
    (cmdRead s p o size).Kept pq := by
  unfold cmdRead
  repeat' first
    | with_reducible first | assumption | apply answered_kept | apply regRead_kept | apply kept_ite
    | simp only [kept_snd2]


/-! ### Remote -/

theorem checkPart_kept {pq : List Instr} {s : State} {r : Request} (hs : (s).Kept pq) :
    PairKept pq (checkPart s r) := by
  unfold checkPart
  repeat' first
    | with_reducible first | assumption | apply Blk_sat_kept | apply Blk_event_kept | apply fabRaise_kept | apply kept_ite_pair
    | simp only [kept_pair]

theorem checkPlace_kept {pq : List Instr} {s : State} {r : Request} (hs : (s).Kept pq) :
    PairKept pq (checkPlace s r) := by
  unfold checkPlace
  repeat' first
    | with_reducible first | assumption | apply secError_kept | apply kept_ite_pair
    | simp only [kept_pair]

theorem checkForm_kept {pq : List Instr} {s : State} {r : Request} (hs : (s).Kept pq) :
    PairKept pq (checkForm s r) := by
  unfold checkForm
  repeat' first
    | with_reducible first | assumption | apply Blk_raise_kept | apply fabRaise_kept
    | simp only [kept_pair]
    | split

theorem checkEpoch_kept {pq : List Instr} {s : State} {r : Request} (hs : (s).Kept pq) :
    PairKept pq (checkEpoch s r) := by
  unfold checkEpoch
  repeat' first
    | with_reducible first | assumption | apply Blk_sat_kept | apply countArrival_kept | apply fabRaise_kept | apply kept_ite_pair
    | simp only [kept_pair]

theorem showFilter_kept {pq : List Instr} {s : State} (hs : (s).Kept pq) :
    (showFilter s).Kept pq := by
  unfold showFilter
  repeat' with_reducible first | assumption | apply Blk_wr_kept

theorem setFilter_kept {pq : List Instr} {s : State} {k : Nat} {l : List FEntry} (hs : (s).Kept pq) :
    (setFilter s k l).Kept pq := by
  unfold setFilter
  repeat' first
    | with_reducible first | assumption | apply showFilter_kept
    | simp only [kept_upd]

theorem admitTag_kept {pq : List Instr} {s : State} {sg : Bool} {t : Tag} (hs : (s).Kept pq) :
    PairKept pq (admitTag s sg t) := by
  unfold admitTag
  repeat' first
    | with_reducible first | assumption | apply setFilter_kept
    | simp only [kept_pair]
    | split

theorem countFilter_kept {pq : List Instr} {s : State} {r : Request} {st : Nat} (hs : (s).Kept pq) :
    (countFilter s r st).Kept pq := by
  unfold countFilter
  repeat' with_reducible first | assumption | apply Blk_event_kept | apply Blk_sat_kept | apply fabRaise_kept | apply kept_ite

theorem recordIn_kept {pq : List Instr} {s : State} {sg : Bool} {t : Tag} {off : Nat} {old : Nat} (hs : (s).Kept pq) :
    (recordIn s sg t off old).Kept pq := by
  unfold recordIn
  repeat' with_reducible first | assumption | apply setFilter_kept

theorem filterAtomic_kept {pq : List Instr} {s : State} {r : Request} {perform : State → Option Nat × State} (hs : (s).Kept pq) (hperform : ∀ (a0 : State), (a0).Kept pq → PairKept pq (perform a0)) :
    PairKept pq (filterAtomic s r perform) := by
  unfold filterAtomic
  repeat' first
    | with_reducible first | assumption | apply hperform | apply admitTag_kept | apply countFilter_kept | apply recordIn_kept
    | simp only [kept_pair]
    | simp only [kept_snd]
    | split

theorem admitAll_kept {pq : List Instr} {s : State} {sg : Bool} {off : Nat} {x1 : List Tag} (hs : (s).Kept pq) :
    PairKept pq (admitAll s sg off x1) := by
  fun_induction admitAll s sg off x1
  repeat' first
    | with_reducible first | apply_assumption -exfalso -symm | apply admitTag_kept | apply recordIn_kept | apply kept_ite
    | simp only [kept_snd]

theorem filterCombined_kept {pq : List Instr} {s : State} {r : Request} {perform : State → Option Nat × State} (hs : (s).Kept pq) (hperform : ∀ (a0 : State), (a0).Kept pq → PairKept pq (perform a0)) :
    PairKept pq (filterCombined s r perform) := by
  unfold filterCombined
  repeat' first
    | intro _
    | with_reducible first | assumption | apply hperform | apply admitTag_kept | apply countFilter_kept | apply recordIn_kept | apply kept_foldl | apply kept_foldl_pair
    | simp only [kept_pair]
    | simp only [kept_snd]
    | split

theorem filtered_kept {pq : List Instr} {s : State} {r : Request} {perform : State → Option Nat × State} (hs : (s).Kept pq) (hperform : ∀ (a0 : State), (a0).Kept pq → PairKept pq (perform a0)) :
    PairKept pq (filtered s r perform) := by
  unfold filtered
  repeat' with_reducible first | assumption | apply filterAtomic_kept | apply filterCombined_kept | apply kept_ite_pair

theorem takeTransfer_kept {pq : List Instr} {s : State} {r : Request} {t : Tag} (hs : (s).Kept pq) :
    PairKept pq (takeTransfer s r t) := by
  unfold takeTransfer
  repeat' first
    | with_reducible first | assumption | apply setFilter_kept | apply recordIn_kept | apply kept_ite_pair
    | simp only [kept_pair]

theorem meshCount_kept {pq : List Instr} {s : State} {o : Nat} {n : Nat} {into : Bool} (hs : (s).Kept pq) :
    (meshCount s o n into).Kept pq := by
  unfold meshCount
  repeat' first
    | with_reducible first | assumption | apply Blk_add_kept
    | split

theorem crossAccess_kept {pq : List Instr} {s : State} {die : Nat} {o : Nat} {n : Nat} {write : Bool} (hs : (s).Kept pq) :
    (crossAccess s die o n write).Kept pq := by
  unfold crossAccess
  repeat' first
    | with_reducible first | assumption | apply crossCount_kept
    | split

theorem hbmTileCount_kept {pq : List Instr} {s : State} {t : Fin 160} {o : Nat} {n : Nat} {write : Bool} (hs : (s).Kept pq) :
    (hbmTileCount s t o n write).Kept pq := by
  unfold hbmTileCount
  repeat' with_reducible first | assumption | apply Blk_add_kept | apply kept_ite

theorem remoteCount_kept {pq : List Instr} {s : State} {ctx : Nat} {n : Nat} {out : Bool} (hs : (s).Kept pq) :
    (remoteCount s ctx n out).Kept pq := by
  unfold remoteCount
  repeat' first
    | with_reducible first | assumption | apply Blk_add_kept
    | split

theorem placeRead_kept {pq : List Instr} {s : State} {part : Nat} {o : Nat} {n : Nat} {lat : Bool} (hs : (s).Kept pq) :
    PairKept pq (placeRead s part o n lat) := by
  unfold placeRead
  repeat' first
    | with_reducible first | assumption | apply readLocal_kept | apply readAt_kept | apply meshCount_kept
    | simp only [kept_pair]
    | simp only [kept_snd]
    | split

theorem placeWrite_kept {pq : List Instr} {s : State} {part : Nat} {o : Nat} {bs : List Byte} {lat : Bool} (hs : (s).Kept pq) :
    PairKept pq (placeWrite s part o bs lat) := by
  unfold placeWrite
  repeat' first
    | with_reducible first | assumption | apply writeLocal_kept | apply writeAt_kept | apply meshCount_kept
    | simp only [kept_pair]
    | split

theorem performAtomic_kept {pq : List Instr} {r : Request} {s : State} (hs : (s).Kept pq) :
    PairKept pq (performAtomic r s) := by
  unfold performAtomic
  repeat' first
    | with_reducible first | assumption | apply rmwLocal_kept | apply meshCount_kept
    | simp only [kept_pair]
    | simp only [kept_snd]

theorem tileHbmCount_kept {pq : List Instr} {s : State} {r : Request} (hs : (s).Kept pq) :
    (tileHbmCount s r).Kept pq := by
  unfold tileHbmCount
  repeat' first
    | with_reducible first | assumption | apply hbmTileCount_kept
    | split

theorem performRequest_kept {pq : List Instr} {s : State} {r : Request} (hs : (s).Kept pq) :
    PairKept pq (performRequest s r) := by
  unfold performRequest
  repeat' first
    | intro _
    | with_reducible first | assumption | apply wakeStore_kept | apply filtered_kept | apply placeRead_kept | apply placeWrite_kept | apply performAtomic_kept | apply tileHbmCount_kept
    | simp only [kept_pair]
    | simp only [kept_snd]
    | split

theorem checked_kept {pq : List Instr} {s : State} {r : Request} (hs : (s).Kept pq) :
    PairKept pq (checked s r) := by
  unfold checked
  repeat' first
    | with_reducible first | assumption | apply checkPart_kept | apply checkPlace_kept | apply checkForm_kept | apply checkEpoch_kept | apply kept_ite_pair
    | simp only [kept_pair]
    | simp only [kept_snd]

theorem serve_kept {pq : List Instr} {s : State} {r : Request} (hs : (s).Kept pq) :
    PairKept pq (serve s r) := by
  unfold serve
  repeat' first
    | with_reducible first | assumption | apply takeTransfer_kept | apply performRequest_kept | apply checked_kept
    | simp only [kept_pair]
    | simp only [kept_snd]
    | split

theorem accessEnergy_kept {pq : List Instr} {s : State} {q : SeqId} {o : Nat} {n : Nat} {write : Bool} {page : Blk} (hs : (s).Kept pq) :
    (accessEnergy s q o n write page).Kept pq := by
  unfold accessEnergy
  repeat' first
    | with_reducible first | assumption | apply seqEnergy_kept
    | split

theorem migDone_kept {pq : List Instr} {s : State} {i : Nat} (hs : (s).Kept pq) :
    (migDone s i).Kept pq := by
  unfold migDone
  repeat' first
    | with_reducible first | assumption | apply Blk_event_kept | apply setEntryState_kept | apply showMig_kept | apply kept_ite
    | simp only [kept_upd]

theorem lateReply_kept {pq : List Instr} {s : State} {rep : Reply} (hs : (s).Kept pq) :
    (lateReply s rep).Kept pq := by
  unfold lateReply
  repeat' with_reducible first | assumption | apply Blk_sat_kept | apply Blk_event_kept | apply kept_ite

theorem onReply_kept {pq : List Instr} {s : State} {rep : Reply} (hs : (s).Kept pq) :
    (onReply s rep).Kept pq := by
  unfold onReply
  repeat' first
    | with_reducible first | assumption | apply Blk_sat_kept | apply finish_kept | apply modOut_kept | apply lateReply_kept
    | simp only [kept_upd]
    | split

theorem sendCopy_kept {pq : List Instr} {s : State} {o : OutReq} {port : Nat} (hs : (s).Kept pq) :
    (sendCopy s o port).Kept pq := by
  unfold sendCopy
  repeat' first
    | with_reducible first | assumption | apply Blk_add_kept | apply seqEnergy_kept | apply enterRouter_kept | apply modOut_kept | apply remoteCount_kept | apply serve_kept | apply accessEnergy_kept | apply migDone_kept | apply onReply_kept | apply kept_ite
    | simp only [kept_snd]
    | simp only [kept_upd]
    | split

theorem releaseOne_kept {pq : List Instr} {s : State} {o : OutReq} (hs : (s).Kept pq) :
    (releaseOne s o).Kept pq := by
  unfold releaseOne
  repeat' first
    | with_reducible first | assumption | apply fabRaise_kept | apply finish_kept | apply sendCopy_kept | apply kept_ite
    | simp only [kept_upd]

theorem settleOutsN_kept {pq : List Instr} {x0 : Nat} {x1 : State} (hx1 : (x1).Kept pq) :
    (settleOutsN x0 x1).Kept pq := by
  fun_induction settleOutsN x0 x1
  repeat' with_reducible first | apply releaseOne_kept | apply_assumption -exfalso -symm

theorem settleOuts_kept {pq : List Instr} {s : State} (hs : (s).Kept pq) :
    (settleOuts s).Kept pq := by
  unfold settleOuts
  repeat' with_reducible first | assumption | apply settleOutsN_kept

theorem issueOne_kept {pq : List Instr} {s : State} {i : Issuer} {a : Ask} {w : Waiter} (hs : (s).Kept pq) :
    (issueOne s i a w).Kept pq := by
  unfold issueOne
  repeat' first
    | with_reducible first | assumption | apply Blk_sat_kept | apply Blk_event_kept | apply fabRaise_kept | apply deliver_kept | apply finish_kept | apply settleOuts_kept | apply kept_ite
    | simp only [kept_upd]

theorem issue_kept {pq : List Instr} {s : State} {i : Issuer} {a : Ask} {w : Waiter} (hs : (s).Kept pq) :
    (issue s i a w).Kept pq := by
  unfold issue
  repeat' first
    | intro _
    | with_reducible first | assumption | apply issueOne_kept | apply forEach_kept | apply kept_ite

theorem execRequestReissue_kept {pq : List Instr} {id : Nat} {s : State} (hs : (s).Kept pq) :
    OutKept pq (execRequestReissue id s) := by
  unfold execRequestReissue
  try dsimp only
  repeat' first
    | with_reducible first | assumption | apply sendCopy_kept | apply settleOuts_kept | apply kept_next
    | split

theorem execWaitReissue_kept {pq : List Instr} {id : Nat} {s : State} (hs : (s).Kept pq) :
    OutKept pq (execWaitReissue id s) := by
  unfold execWaitReissue
  repeat' first
    | with_reducible first | assumption | apply sendCopy_kept | apply settleOuts_kept | apply kept_next
    | split

theorem execFilterBusyReissue_kept {pq : List Instr} {id : Nat} {s : State} (hs : (s).Kept pq) :
    OutKept pq (execFilterBusyReissue id s) := by
  unfold execFilterBusyReissue
  repeat' first
    | with_reducible first | assumption | apply sendCopy_kept | apply settleOuts_kept | apply kept_next
    | split

theorem execSeqHoldRelease_kept {pq : List Instr} {ctx : Nat} {s : State} (hs : (s).Kept pq) :
    OutKept pq (execSeqHoldRelease ctx s) := by
  unfold execSeqHoldRelease
  repeat' first
    | with_reducible first | assumption | apply Blk_sat_kept | apply settleOuts_kept | apply kept_next
    | simp only [kept_upd]
    | split

theorem execGangLost_kept {pq : List Instr} {id : Nat} {s : State} (hs : (s).Kept pq) :
    OutKept pq (execGangLost id s) := by
  unfold execGangLost
  repeat' first
    | with_reducible first | assumption | apply Blk_event_kept | apply faultRecord_kept | apply fabRaise_kept | apply modOut_kept | apply kept_next
    | simp only [kept_upd]
    | split

theorem execIsoTimeout_kept {pq : List Instr} {id : Nat} {s : State} (hs : (s).Kept pq) :
    OutKept pq (execIsoTimeout id s) := by
  unfold execIsoTimeout
  repeat' first
    | with_reducible first | assumption | apply finish_kept | apply settleOuts_kept | apply kept_next
    | split

theorem execFlagAllRelease_kept {pq : List Instr} {ctx : Nat} {s : State} (hs : (s).Kept pq) :
    OutKept pq (execFlagAllRelease ctx s) := by
  unfold execFlagAllRelease
  repeat' first
    | with_reducible first | assumption | apply releaseOne_kept | apply settleOuts_kept | apply kept_next
    | split

theorem execReplyArrive_kept {pq : List Instr} {port : Fin 34} {r : Reply} {s : State} (hs : (s).Kept pq) :
    OutKept pq (execReplyArrive port r s) := by
  unfold execReplyArrive
  repeat' first
    | with_reducible first | assumption | apply seqEnergy_kept | apply threadEnergy_kept | apply remoteCount_kept | apply onReply_kept | apply settleOuts_kept | apply kept_next
    | simp only [kept_upd]
    | split

theorem sendReply_kept {pq : List Instr} {s : State} {r : Request} {rep : Reply} (hs : (s).Kept pq) :
    (sendReply s r rep).Kept pq := by
  unfold sendReply
  repeat' with_reducible first | assumption | apply enterRouter_kept | apply onReply_kept | apply settleOuts_kept | apply kept_ite

theorem takeArrived_kept {pq : List Instr} {s : State} {r : Request} (hs : (s).Kept pq) :
    (takeArrived s r).Kept pq := by
  unfold takeArrived
  repeat' first
    | with_reducible assumption
    | simp only [kept_upd]

theorem arrive_kept {pq : List Instr} {s : State} {r : Request} {isRow : Bool} (hs : (s).Kept pq) :
    (arrive s r isRow).Kept pq := by
  unfold arrive
  repeat' first
    | with_reducible first | assumption | apply sendReply_kept | apply serve_kept | apply takeArrived_kept | apply kept_ite
    | simp only [kept_snd]

theorem execRemoteLoad_kept {pq : List Instr} {_port : Fin 34} {r : Request} {s : State} (hs : (s).Kept pq) :
    OutKept pq (execRemoteLoad _port r s) := by
  unfold execRemoteLoad
  repeat' with_reducible first | assumption | apply arrive_kept | apply kept_next

theorem execRemoteStore_kept {pq : List Instr} {_port : Fin 34} {r : Request} {s : State} (hs : (s).Kept pq) :
    OutKept pq (execRemoteStore _port r s) := by
  unfold execRemoteStore
  repeat' with_reducible first | assumption | apply arrive_kept | apply kept_next

theorem execFlaggedStore_kept {pq : List Instr} {port : Fin 34} {r : Request} {s : State} (hs : (s).Kept pq) :
    OutKept pq (execFlaggedStore port r s) := by
  unfold execFlaggedStore
  repeat' first
    | with_reducible first | assumption | apply checked_kept | apply sendReply_kept | apply takeArrived_kept | apply arrive_kept | apply kept_next
    | simp only [kept_snd]
    | simp only [kept_upd]
    | split

theorem execFlagDevicePerform_kept {pq : List Instr} {s : State} (hs : (s).Kept pq) :
    OutKept pq (execFlagDevicePerform s) := by
  unfold execFlagDevicePerform
  repeat' first
    | with_reducible first | assumption | apply performRequest_kept | apply sendReply_kept | apply kept_next
    | simp only [kept_snd]
    | simp only [kept_upd]
    | split

theorem execAtomicAdd_kept {pq : List Instr} {_port : Fin 34} {r : Request} {s : State} (hs : (s).Kept pq) :
    OutKept pq (execAtomicAdd _port r s) := by
  unfold execAtomicAdd
  repeat' with_reducible first | assumption | apply arrive_kept | apply kept_next

theorem execAtomicMin_kept {pq : List Instr} {_port : Fin 34} {r : Request} {s : State} (hs : (s).Kept pq) :
    OutKept pq (execAtomicMin _port r s) := by
  unfold execAtomicMin
  repeat' with_reducible first | assumption | apply arrive_kept | apply kept_next

theorem execAtomicMax_kept {pq : List Instr} {_port : Fin 34} {r : Request} {s : State} (hs : (s).Kept pq) :
    OutKept pq (execAtomicMax _port r s) := by
  unfold execAtomicMax
  repeat' with_reducible first | assumption | apply arrive_kept | apply kept_next

theorem execAtomicSwap_kept {pq : List Instr} {_port : Fin 34} {r : Request} {s : State} (hs : (s).Kept pq) :
    OutKept pq (execAtomicSwap _port r s) := by
  unfold execAtomicSwap
  repeat' with_reducible first | assumption | apply arrive_kept | apply kept_next

theorem execAtomicCas_kept {pq : List Instr} {_port : Fin 34} {r : Request} {s : State} (hs : (s).Kept pq) :
    OutKept pq (execAtomicCas _port r s) := by
  unfold execAtomicCas
  repeat' with_reducible first | assumption | apply arrive_kept | apply kept_next

theorem execAtomicAnd_kept {pq : List Instr} {_port : Fin 34} {r : Request} {s : State} (hs : (s).Kept pq) :
    OutKept pq (execAtomicAnd _port r s) := by
  unfold execAtomicAnd
  repeat' with_reducible first | assumption | apply arrive_kept | apply kept_next

theorem execAtomicOr_kept {pq : List Instr} {_port : Fin 34} {r : Request} {s : State} (hs : (s).Kept pq) :
    OutKept pq (execAtomicOr _port r s) := by
  unfold execAtomicOr
  repeat' with_reducible first | assumption | apply arrive_kept | apply kept_next

theorem execAtomicXor_kept {pq : List Instr} {_port : Fin 34} {r : Request} {s : State} (hs : (s).Kept pq) :
    OutKept pq (execAtomicXor _port r s) := by
  unfold execAtomicXor
  repeat' with_reducible first | assumption | apply arrive_kept | apply kept_next

theorem execFilterEntryExpire_kept {pq : List Instr} {set : Fin 4096} {s : State} (hs : (s).Kept pq) :
    OutKept pq (execFilterEntryExpire set s) := by
  unfold execFilterEntryExpire
  repeat' with_reducible first | assumption | apply setFilter_kept | apply kept_next

theorem copyBlock_kept {pq : List Instr} {s : State} {from_ : Nat} {dest : Nat} (hs : (s).Kept pq) :
    (copyBlock s from_ dest).Kept pq := by
  unfold copyBlock
  repeat' first
    | intro _
    | with_reducible first | assumption | apply forEach_kept | apply readLocal_kept | apply issueOne_kept | apply kept_foldl_pair
    | simp only [kept_pair]
    | simp only [kept_snd]
    | split

theorem sendMigration_kept {pq : List Instr} {s : State} {m : Mig} (hs : (s).Kept pq) :
    (sendMigration s m).Kept pq := by
  unfold sendMigration
  repeat' first
    | intro _
    | with_reducible first | assumption | apply forEach_kept | apply fresh_kept | apply issueOne_kept | apply copyBlock_kept
    | simp only [kept_snd]
    | simp only [kept_upd]

theorem execMigTransfer_kept {pq : List Instr} {s : State} (hs : (s).Kept pq) :
    OutKept pq (execMigTransfer s) := by
  unfold execMigTransfer
  repeat' first
    | with_reducible first | assumption | apply sendMigration_kept | apply kept_next
    | split


/-! ### Operands -/

theorem setTags_kept {pq : List Instr} {s : State} {o : Nat} {n : Nat} {ep : Nat} (hs : (s).Kept pq) :
    (setTags s o n ep).Kept pq := by
  unfold setTags
  repeat' first
    | intro _
    | with_reducible first | assumption | apply forEach_kept
    | simp only [kept_upd]

theorem hazard_kept {pq : List Instr} {s : State} {q : SeqId} {operand : Nat} {g : Nat} {expected : Nat} {seen : Nat} (hs : (s).Kept pq) :
    (hazard s q operand g expected seen).Kept pq := by
  unfold hazard
  repeat' with_reducible first | assumption | apply Blk_countErr_kept | apply Blk_wr_kept | apply noteStatus_kept | apply seqRaise_kept | apply kept_ite

theorem checkTags_kept {pq : List Instr} {s : State} {q : SeqId} {operand : Nat} {o : Nat} {n : Nat} {ep : Nat} (hs : (s).Kept pq) :
    (checkTags s q operand o n ep).Kept pq := by
  unfold checkTags
  repeat' first
    | intro _
    | with_reducible first | assumption | apply hazard_kept | apply forEach_kept | apply kept_ite

theorem countAccess_kept {pq : List Instr} {s : State} {q : SeqId} {o : Nat} {n : Nat} {write : Bool} (hs : (s).Kept pq) :
    (countAccess s q o n write).Kept pq := by
  unfold countAccess
  repeat' first
    | with_reducible first | assumption | apply Blk_add_kept | apply meshCount_kept | apply crossAccess_kept | apply hbmTileCount_kept
    | split

theorem addrForm_kept {pq : List Instr} {s : State} {q : SeqId} {a : Nat} (hs : (s).Kept pq) :
    (addrForm s q a).Kept pq := by
  unfold addrForm
  repeat' with_reducible first | assumption | apply noteStatus_kept | apply seqRaise_kept

theorem prefetch_kept {pq : List Instr} {s : State} {q : SeqId} {spans : List Span} {cls : Option Bool} (hs : (s).Kept pq) :
    PairKept pq (prefetch s q spans cls) := by
  unfold prefetch
  repeat' first
    | with_reducible first | assumption | apply forEach_kept | apply issue_kept | apply kept_ite | apply kept_ite_pair
    | intro _
    | simp only [kept_pair]

theorem ownChecked_kept {pq : List Instr} {s : State} {r : Request} (hs : (s).Kept pq) :
    PairKept pq (ownChecked s r) := by
  unfold ownChecked
  repeat' first
    | with_reducible first | assumption | apply checkPart_kept | apply checkPlace_kept | apply kept_ite_pair
    | simp only [kept_snd]

theorem ownFailed_kept {pq : List Instr} {s : State} {q : SeqId} {r : Request} {st : Nat} (hs : (s).Kept pq) :
    (ownFailed s q r st).Kept pq := by
  unfold ownFailed
  repeat' first
    | with_reducible first | assumption | apply noteStatus_kept | apply badOutcome_kept
    | simp only [kept_upd]

theorem readOp_kept {pq : List Instr} {s : State} {q : SeqId} {operand : Nat} {a : Nat} {n : Nat} {fmt : Nat} {ep : Option Nat} {cls : Option Bool} {page : Blk} (hs : (s).Kept pq) :
    TripleKept pq (readOp s q operand a n fmt ep cls page) := by
  unfold readOp
  repeat' first
    | with_reducible first | assumption | apply freeBytes_kept | apply readLocal_kept | apply failedData_kept | apply accessEnergy_kept | apply checkTags_kept | apply countAccess_kept | apply addrForm_kept | apply ownChecked_kept | apply ownFailed_kept
    | simp only [kept_triple]
    | simp only [kept_snd]
    | split

theorem writeOp_kept {pq : List Instr} {s : State} {q : SeqId} {a : Nat} {bs : List Byte} {ep : Option Nat} {cls : Option Bool} {pep : Option Nat} (hs : (s).Kept pq) :
    (writeOp s q a bs ep cls pep).Kept pq := by
  unfold writeOp
  repeat' first
    | with_reducible first | assumption | apply writeLocal_kept | apply accessEnergy_kept | apply issue_kept | apply setTags_kept | apply countAccess_kept | apply addrForm_kept | apply ownChecked_kept | apply ownFailed_kept
    | simp only [kept_snd]
    | split

theorem readAB_kept {pq : List Instr} {s : State} {q : SeqId} {operand : Nat} {o : Operand} {off : Nat} {n : Nat} {fmt : Nat} (hs : (s).Kept pq) :
    TripleKept pq (readAB s q operand o off n fmt) := by
  unfold readAB
  repeat' with_reducible first | assumption | apply readOp_kept

theorem writeD_kept {pq : List Instr} {s : State} {q : SeqId} {o : Operand} {off : Nat} {bs : List Byte} (hs : (s).Kept pq) :
    (writeD s q o off bs).Kept pq := by
  unfold writeD
  repeat' with_reducible first | assumption | apply writeOp_kept


/-! ### Engine -/

theorem delScr_kept {pq : List Instr} {s : State} {q : SeqId} {k : Nat} (hs : (s).Kept pq) :
    (delScr s q k).Kept pq := by
  unfold delScr
  repeat' with_reducible first | assumption | apply modSeq_kept

theorem setScr_kept {pq : List Instr} {s : State} {q : SeqId} {k : Nat} {v : Nat} (hs : (s).Kept pq) :
    (setScr s q k v).Kept pq := by
  unfold setScr
  repeat' with_reducible first | assumption | apply modSeq_kept

theorem iterTokens_kept {pq : List Instr} {s : State} {q : SeqId} (hs : (s).Kept pq) :
    OptKept pq (iterTokens s q) := by
  unfold iterTokens
  repeat' with_reducible first | assumption | apply takeTokens_kept | apply endWait_kept | apply setScr_kept | apply kept_ite_opt | apply kept_some | exact kept_none

theorem idleIter_kept {pq : List Instr} {s : State} {q : SeqId} {st : Step} {status : Option Nat} (hs : (s).Kept pq) :
    (idleIter s q st status).state.Kept pq := by
  unfold idleIter
  repeat' first
    | with_reducible first | assumption | apply noteStatus_kept | apply delScr_kept | apply iterTokens_kept | apply kept_ran | apply kept_hold
    | with_reducible refine kept_of_some (by assumption) ?_
    | split

theorem takeIter_kept {pq : List Instr} {s : State} {q : SeqId} {st : Step} {work : State → IterResult} (hs : (s).Kept pq) (hwork : ∀ (a0 : State), (a0).Kept pq → (work a0).state.Kept pq) :
    (takeIter s q st work).state.Kept pq := by
  unfold takeIter
  repeat' first
    | with_reducible first | assumption | apply hwork | apply delScr_kept | apply iterTokens_kept | apply kept_ran | apply kept_hold
    | with_reducible refine kept_of_some (by assumption) ?_
    | split

theorem readSpans_kept {pq : List Instr} {s : State} {q : SeqId} {x2 : List Span} (hs : (s).Kept pq) :
    TripleKept pq (readSpans s q x2) := by
  fun_induction readSpans s q x2
  repeat' first
    | with_reducible first | apply readOp_kept | apply_assumption -exfalso -symm
    | simp only [kept_snd2]

theorem fetchSpans_kept {pq : List Instr} {s : State} {q : SeqId} {l : List Span} (hs : (s).Kept pq) :
    PairKept pq (fetchSpans s q l) := by
  unfold fetchSpans
  repeat' with_reducible first | assumption | apply prefetch_kept

theorem readStage_kept {pq : List Instr} {s0 : State} {s : State} {q : SeqId} {l : List Span} {k : List (List Byte) → Bool → State → IterResult} (hs0 : (s0).Kept pq) (hs : (s).Kept pq) (hk : ∀ (a0 : List (List Byte)) (a1 : Bool) (a2 : State), (a2).Kept pq → (k a0 a1 a2).state.Kept pq) :
    (readStage s0 s q l k).state.Kept pq := by
  unfold readStage
  repeat' first
    | with_reducible first | assumption | apply hk | apply fetchSpans_kept | apply readSpans_kept | apply kept_ite_iter | apply kept_hold
    | simp only [kept_snd2]
    | simp only [kept_snd]

theorem locWrite_kept {pq : List Instr} {s : State} {q : SeqId} {o : Nat} {bs : List Byte} (hs : (s).Kept pq) :
    (locWrite s q o bs).Kept pq := by
  unfold locWrite
  repeat' with_reducible first | assumption | apply writeOp_kept

theorem writeRows_kept {pq : List Instr} {s : State} {q : SeqId} {o : Operand} {base : Nat} {pitch : Nat} {x5 : List (List Byte)} (hs : (s).Kept pq) :
    (writeRows s q o base pitch x5).Kept pq := by
  fun_induction writeRows s q o base pitch x5
  repeat' with_reducible first | apply writeD_kept | apply_assumption -exfalso -symm

theorem stepKey_kept {pq : List Instr} {s : State} {q : SeqId} {o : Nat} (hs : (s).Kept pq) :
    TripleKept pq (stepKey s q o) := by
  unfold stepKey
  repeat' first
    | with_reducible first | assumption | apply readOp_kept | apply setScr_kept | refine kept_of_triple (by assumption) ?_
    | simp only [kept_triple]
    | split


end Sys2Proof.Machine
end

