-- ==== Sys2Proof/Laws/KeptExchange.lean ====
section
/-! SUPPORT. Sys2Proof/Laws/KeptExchange.lean: each operation on the state keeps the waiting commands and the canonical form: the routing, exchange and collective engines. -/
namespace Sys2Proof.Machine

/-! ### XchState -/

theorem setXch_kept {pq : List Instr} {s : State} {d : Fin 2} {j : Fin 2} {x : Xch} (hs : (s).Kept pq) :
    (setXch s d j x).Kept pq := by
  unfold setXch
  repeat' first
    | with_reducible assumption
    | simp only [kept_upd]


/-! ### Routing -/

theorem configIter_kept {pq : List Instr} {b : Blk} {q : SeqId} {len cfg stat ev code : Nat}
    {check : State → List Nat → (Bool → State → IterResult) → IterResult} {s : State} {st : Step}
    (hcheck : ∀ (a0 : State) (a1 : List Nat) (a2 : Bool → State → IterResult), a0.Kept pq →
      (∀ (b0 : Bool) (b1 : State), b1.Kept pq → (a2 b0 b1).state.Kept pq) → (check a0 a1 a2).state.Kept pq)
    (hs : s.Kept pq) : (configIter b q len cfg stat ev code check s st).state.Kept pq := by
  unfold configIter
  try dsimp only
  repeat' first
    | intro _
    | with_reducible assumption
    | with_reducible first | apply hcheck | apply Blk_event_kept | apply Blk_put_kept | apply Blk_raise_kept | apply Blk_wr_kept | apply noteStatus_kept | apply readStage_kept | apply setRec_kept | apply wr_kept
    | with_reducible first | apply wf_set_regs | apply wf_set_mem | apply wf_setMany_mem | apply wf_filter_mem | apply wf_filter_regs | apply wf_clear_mem | apply wf_foldl_mem | exact wf_nil_mem | exact wf_nil_regs | apply kept_wf_regs | apply kept_wf_mem | apply kept_wf_pool | apply kept_wf_tcc | apply kept_wf_pending
    | with_reducible first | apply kept_ite | apply kept_ite_iter | apply kept_ite_out | apply kept_ite_opt | apply kept_ite_pair | apply kept_ite_triple | apply kept_some | exact kept_none | apply kept_next | exact kept_fault | exact kept_refused | apply kept_go | apply kept_stop | apply kept_ite_end | apply kept_ran | apply kept_hold
    | with_reducible first | refine kept_of_pair (by assumption) ?_ | refine kept_of_triple (by assumption) ?_ | refine kept_of_some (by assumption) ?_ | refine kept_of_next (by assumption) ?_ | refine kept_of_go (by assumption) ?_ | refine kept_of_stop (by assumption) ?_ | refine kept_of_ran (by assumption) ?_ | refine kept_of_hold (by assumption) ?_
    | simp only [kept_pair]
    | simp only [kept_triple]
    | simp only [kept_snd2]
    | simp only [kept_snd]
    | simp only [kept_upd]
    | (simp only [kept_mk]; refine ⟨?_, ?_, ?_, ?_, ?_⟩)
    | split
    | dsimp only
    | dsimp +zetaDelta only

theorem rteConfigIter_kept {pq : List Instr} {d j : Fin 2} {s : State} {st : Step} (hs : s.Kept pq) :
    (rteConfigIter d j s st).state.Kept pq := by
  unfold rteConfigIter
  exact configIter_kept (fun s0 r k hs0 hk => hk _ _ hs0) hs

theorem writeSlots_kept {pq : List Instr} {hash : Bool} {q : SeqId} {o : Operand} {off : Nat} {x1 : List (Option Choice × Nat)} {x2 : State} (hx2 : (x2).Kept pq) :
    (writeSlots hash q o off x1 x2).Kept pq := by
  fun_induction writeSlots hash q o off x1 x2
  repeat' first
    | with_reducible first | apply_assumption -exfalso -symm | apply fresh_kept | apply noteStatus_kept | apply writeD_kept | apply kept_ite | apply kept_ite_pair
    | simp only [kept_snd]

theorem rteTokens_kept {pq : List Instr} {b : Blk} {q : SeqId} {r : RteRec} {w : List Byte} {s : State} (hs : (s).Kept pq) :
    PairKept pq (rteTokens b q r w s) := by
  unfold rteTokens
  repeat' first
    | with_reducible first | assumption | apply Blk_countErr_kept | apply noteStatus_kept | apply kept_ite_pair
    | simp only [kept_pair]

theorem routeIter_kept {pq : List Instr} {d : Fin 2} {j : Fin 2} {s : State} {st : Step} (hs : (s).Kept pq) :
    (routeIter d j s st).state.Kept pq := by
  unfold routeIter
  repeat' first
    | intro _
    | with_reducible first | assumption | apply Blk_add_kept | apply Blk_event_kept | apply Blk_sat_kept | apply Blk_wr_kept | apply locWrite_kept | apply noteStatus_kept | apply readStage_kept | apply rteTokens_kept | apply writeSlots_kept | apply forEach_kept | apply kept_ran
    | simp only [kept_snd]
    | split

theorem execRteConfig_kept {pq : List Instr} {d : Fin 2} {j : Fin 2} {s : State} (hs : (s).Kept pq) :
    OutKept pq (execRteConfig d j s) := by
  unfold execRteConfig
  repeat' with_reducible first | assumption | apply rteConfigIter_kept | apply runIter_kept | apply kept_next

theorem execRoute_kept {pq : List Instr} {d : Fin 2} {j : Fin 2} {s : State} (hs : (s).Kept pq) :
    OutKept pq (execRoute d j s) := by
  unfold execRoute
  repeat' with_reducible first | assumption | apply routeIter_kept | apply runIter_kept | apply kept_next


/-! ### Exchange -/

theorem xchConfigIter_kept {pq : List Instr} {d j : Fin 2} {s : State} {st : Step} (hs : s.Kept pq) :
    (xchConfigIter d j s st).state.Kept pq := by
  unfold xchConfigIter
  apply configIter_kept _ hs
  intro s0 r k hs0 hk
  dsimp only
  split
  · exact hk _ _ hs0
  · exact readStage_kept hs0 hs0 (fun l ok t ht => hk _ _ ht)

theorem xchHeaderArrive_kept {pq : List Instr} {d : Fin 2} {j : Fin 2} {off : Nat} {s : State} (hs : (s).Kept pq) :
    (xchHeaderArrive d j off s).Kept pq := by
  unfold xchHeaderArrive
  try dsimp only
  repeat' first
    | with_reducible first | assumption | apply Blk_add_kept | apply Blk_event_kept | apply Blk_sat_kept | apply setXch_kept | apply showAwait_kept
    | split

theorem startAwait_kept {pq : List Instr} {s : State} {q : SeqId} {phase : Nat} (hs : (s).Kept pq) :
    (startAwait s q phase).Kept pq := by
  unfold startAwait
  repeat' with_reducible first | assumption | apply setScr_kept

theorem xchSend_kept {pq : List Instr} {d : Fin 2} {j : Fin 2} {dev : Nat} {o : Nat} {bs : List Byte} {ep : Option Nat} {flag : Bool} {s : State} (hs : (s).Kept pq) :
    (xchSend d j dev o bs ep flag s).Kept pq := by
  unfold xchSend
  repeat' with_reducible first | assumption | apply Blk_add_kept | apply issue_kept | apply kept_ite

theorem xchUnder_kept {pq : List Instr} {d : Fin 2} {j : Fin 2} {main : Bool} {body : XchRec → State → Step → IterResult} {s : State} {st : Step} (hbody : ∀ (a0 : XchRec) (a1 : State) (a2 : Step), (a1).Kept pq → (body a0 a1 a2).state.Kept pq) (hs : (s).Kept pq) :
    (xchUnder d j main body s st).state.Kept pq := by
  unfold xchUnder
  repeat' first
    | with_reducible first | assumption | apply hbody | apply noteStatus_kept | apply retireStep_kept | apply idleIter_kept | apply kept_ite_iter | apply kept_hold
    | split

theorem clearWords_kept {pq : List Instr} {s : State} {q : SeqId} (hs : (s).Kept pq) :
    (clearWords s q).Kept pq := by
  unfold clearWords
  repeat' with_reducible first | assumption | apply modSeq_kept

theorem countsIter_kept {pq : List Instr} {d : Fin 2} {j : Fin 2} {r : XchRec} {s : State} {_st : Step} (hs : (s).Kept pq) :
    (countsIter d j r s _st).state.Kept pq := by
  unfold countsIter
  repeat' first
    | intro _
    | with_reducible first | assumption | apply Blk_wr_kept | apply readStage_kept | apply setXch_kept | apply showAwait_kept | apply startAwait_kept | apply xchSend_kept | apply forEach_kept | apply kept_ite_iter | apply kept_hold

theorem allocRx_kept {pq : List Instr} {d : Fin 2} {j : Fin 2} {sizes : List Nat} {s : State} (hs : (s).Kept pq) :
    PairKept pq (allocRx d j sizes s) := by
  unfold allocRx
  repeat' first
    | with_reducible first | assumption | apply portRequest_kept | apply delScr_kept | apply setScr_kept | refine takeAnswer_kept (by assumption) ?_ | apply kept_foldl_pair
    | intro _
    | simp only [kept_pair]
    | simp only [kept_snd]
    | split

theorem countsReceivedIter_kept {pq : List Instr} {d : Fin 2} {j : Fin 2} {r : XchRec} {s : State} {_st : Step} (hs : (s).Kept pq) :
    (countsReceivedIter d j r s _st).state.Kept pq := by
  unfold countsReceivedIter
  repeat' first
    | intro _
    | with_reducible first | assumption | apply allocRx_kept | apply locWrite_kept | apply readStage_kept | apply setScr_kept | apply showAwait_kept | apply startAwait_kept | apply xchSend_kept | apply forEach_kept | apply kept_ite_iter | apply kept_ite_pair | apply kept_hold
    | simp only [kept_pair]
    | simp only [kept_snd]

theorem grantsReceivedIter_kept {pq : List Instr} {d : Fin 2} {j : Fin 2} {r : XchRec} {s : State} {st : Step} (hs : (s).Kept pq) :
    (grantsReceivedIter d j r s st).state.Kept pq := by
  unfold grantsReceivedIter
  repeat' first
    | intro _
    | with_reducible first | assumption | apply Blk_add_kept | apply Blk_event_kept | apply Blk_raise_kept | apply Blk_sat_kept | apply clearWords_kept | apply locWrite_kept | apply readStage_kept | apply forEach_kept | apply kept_ite | apply kept_ite_iter | apply kept_ran | apply kept_hold

theorem boundLocal_kept {pq : List Instr} {d : Fin 2} {j : Fin 2} {r : XchRec} {st : Step} {s : State} (hs : (s).Kept pq) :
    (boundLocal d j r st s).Kept pq := by
  unfold boundLocal
  repeat' with_reducible first | assumption | apply Blk_countErr_kept | apply modSeq_kept | apply noteStatus_kept | apply kept_ite

theorem dispatchSend_kept {pq : List Instr} {d : Fin 2} {j : Fin 2} {bwd : Bool} {r : XchRec} {s0 : State} {s : State} {done : State → IterResult} (hs0 : (s0).Kept pq) (hs : (s).Kept pq) (hdone : ∀ (a0 : State), (a0).Kept pq → (done a0).state.Kept pq) :
    (dispatchSend d j bwd r s0 s done).state.Kept pq := by
  unfold dispatchSend
  repeat' first
    | with_reducible first | assumption | apply hdone | apply Blk_wr_kept | apply forEach_kept | apply setXch_kept | apply readStage_kept | apply xchSend_kept | apply kept_ite
    | intro _

theorem dispatchStep_kept {pq : List Instr} {d : Fin 2} {j : Fin 2} {bwd : Bool} {r : XchRec} {s : State} {st : Step} (hs : (s).Kept pq) :
    (dispatchStep d j bwd r s st).state.Kept pq := by
  unfold dispatchStep
  repeat' first
    | intro _
    | with_reducible first | assumption | apply boundLocal_kept | apply dispatchSend_kept | apply retireStep_kept | apply showAwait_kept | apply startAwait_kept | apply kept_ite_iter | apply kept_hold

theorem raiseReleased_kept {pq : List Instr} {s : State} {d : Fin 2} {j : Fin 2} (hs : (s).Kept pq) :
    (raiseReleased s d j).Kept pq := by
  unfold raiseReleased
  repeat' with_reducible first | assumption | apply Blk_event_kept | apply Blk_raise_kept | apply noteStatus_kept

theorem mismatches_kept {pq : List Instr} {d : Fin 2} {j : Fin 2} {n : Nat} {s : State} (hs : (s).Kept pq) :
    (mismatches d j n s).Kept pq := by
  unfold mismatches
  repeat' first
    | intro _
    | with_reducible first | assumption | apply Blk_event_kept | apply Blk_raise_kept | apply Blk_sat_kept | apply noteStatus_kept | apply forEach_kept

theorem dataIterDone_kept {pq : List Instr} {d : Fin 2} {j : Fin 2} {r : XchRec} {s : State} {st : Step} (hs : (s).Kept pq) :
    (dataIterDone d j r s st).state.Kept pq := by
  unfold dataIterDone
  repeat' first
    | intro _
    | with_reducible first | assumption | apply mismatches_kept | apply raiseReleased_kept | apply readStage_kept | apply setScr_kept | apply showAwait_kept | apply kept_ite | apply kept_ite_iter | apply kept_ran | apply kept_hold

theorem returnIter_kept {pq : List Instr} {d : Fin 2} {j : Fin 2} {bwd : Bool} {r : XchRec} {s : State} {st : Step} (hs : (s).Kept pq) :
    (returnIter d j bwd r s st).state.Kept pq := by
  unfold returnIter
  repeat' first
    | with_reducible first | assumption | apply forEach_kept | apply retireStep_kept | apply portRequest_kept | apply setXch_kept | apply setScr_kept | apply takeIter_kept | apply readStage_kept | apply xchSend_kept | apply boundLocal_kept | apply raiseReleased_kept | apply kept_ite | apply kept_ite_iter | apply kept_ran | apply kept_hold
    | intro _
    | simp only [kept_snd]

theorem returnsReceivedIter_kept {pq : List Instr} {d : Fin 2} {j : Fin 2} {r : XchRec} {s : State} {st : Step} (hs : (s).Kept pq) :
    (returnsReceivedIter d j r s st).state.Kept pq := by
  unfold returnsReceivedIter
  repeat' first
    | intro _
    | with_reducible first | assumption | apply mismatches_kept | apply readStage_kept | apply retireStep_kept | apply setScr_kept | apply showAwait_kept | apply kept_ite | apply kept_ite_iter | apply kept_hold

theorem combineIter_kept {pq : List Instr} {d : Fin 2} {j : Fin 2} {bwd : Bool} {r : XchRec} {s : State} {st : Step} (hs : (s).Kept pq) :
    (combineIter d j bwd r s st).state.Kept pq := by
  unfold combineIter
  repeat' first
    | intro _
    | with_reducible first | assumption | apply locWrite_kept | apply readStage_kept | apply setScr_kept | apply kept_ite | apply kept_ite_iter | apply kept_ran | apply kept_hold

theorem stepClearIter_kept {pq : List Instr} {d : Fin 2} {j : Fin 2} {r : XchRec} {s : State} {st : Step} (hs : (s).Kept pq) :
    (stepClearIter d j r s st).state.Kept pq := by
  unfold stepClearIter
  repeat' first
    | intro _
    | with_reducible first | assumption | apply locWrite_kept | apply forEach_kept | apply kept_ran

theorem idleRest_kept {pq : List Instr} {s : State} {q : SeqId} {x2 : Nat} (hs : (s).Kept pq) :
    (idleRest s q x2).Kept pq := by
  fun_induction idleRest s q x2
  repeat' with_reducible first | apply afterIter_kept | apply retireStep_kept | apply_assumption -exfalso -symm

theorem xchPhaseTimeout_kept {pq : List Instr} {d : Fin 2} {j : Fin 2} {s : State} (hs : (s).Kept pq) :
    (xchPhaseTimeout d j s).Kept pq := by
  unfold xchPhaseTimeout
  try dsimp only
  repeat' first
    | with_reducible first | assumption | apply Blk_event_kept | apply Blk_raise_kept | apply idleRest_kept | apply noteStatus_kept
    | split

theorem runXch_kept {pq : List Instr} {d : Fin 2} {j : Fin 2} {op : Nat} {bwd : Option Bool} {main : Bool} {body : XchRec → State → Step → IterResult} {s : State} (hbody : ∀ (a0 : XchRec) (a1 : State) (a2 : Step), (a1).Kept pq → (body a0 a1 a2).state.Kept pq) (hs : (s).Kept pq) :
    OutKept pq (runXch d j op bwd main body s) := by
  unfold runXch
  repeat' first
    | intro _
    | with_reducible first | assumption | apply hbody | apply runIter_kept | apply xchUnder_kept | apply kept_ite | apply kept_next

theorem execXchConfig_kept {pq : List Instr} {d : Fin 2} {j : Fin 2} {s : State} (hs : (s).Kept pq) :
    OutKept pq (execXchConfig d j s) := by
  unfold execXchConfig
  repeat' with_reducible first | assumption | apply runIter_kept | apply xchConfigIter_kept | apply kept_next

theorem execCounts_kept {pq : List Instr} {d : Fin 2} {j : Fin 2} {s : State} (hs : (s).Kept pq) :
    OutKept pq (execCounts d j s) := by
  unfold execCounts
  repeat' with_reducible first | assumption | apply countsIter_kept | apply runXch_kept

theorem execXchCountsReceived_kept {pq : List Instr} {d : Fin 2} {j : Fin 2} {s : State} (hs : (s).Kept pq) :
    OutKept pq (execXchCountsReceived d j s) := by
  unfold execXchCountsReceived
  repeat' with_reducible first | assumption | apply countsReceivedIter_kept | apply runXch_kept

theorem execXchGrantsReceived_kept {pq : List Instr} {d : Fin 2} {j : Fin 2} {s : State} (hs : (s).Kept pq) :
    OutKept pq (execXchGrantsReceived d j s) := by
  unfold execXchGrantsReceived
  repeat' with_reducible first | assumption | apply grantsReceivedIter_kept | apply runXch_kept

theorem execDispatch_kept {pq : List Instr} {d : Fin 2} {j : Fin 2} {s : State} (hs : (s).Kept pq) :
    OutKept pq (execDispatch d j s) := by
  unfold execDispatch
  repeat' with_reducible first | assumption | apply dispatchStep_kept | apply runXch_kept

theorem execDispatchBwd_kept {pq : List Instr} {d : Fin 2} {j : Fin 2} {s : State} (hs : (s).Kept pq) :
    OutKept pq (execDispatchBwd d j s) := by
  unfold execDispatchBwd
  repeat' with_reducible first | assumption | apply dispatchStep_kept | apply runXch_kept

theorem execXchDataIterComplete_kept {pq : List Instr} {d : Fin 2} {j : Fin 2} {s : State} (hs : (s).Kept pq) :
    OutKept pq (execXchDataIterComplete d j s) := by
  unfold execXchDataIterComplete
  repeat' with_reducible first | assumption | apply dataIterDone_kept | apply runXch_kept

theorem execReturnRows_kept {pq : List Instr} {d : Fin 2} {j : Fin 2} {s : State} (hs : (s).Kept pq) :
    OutKept pq (execReturnRows d j s) := by
  unfold execReturnRows
  repeat' with_reducible first | assumption | apply returnIter_kept | apply runXch_kept

theorem execReturnBwd_kept {pq : List Instr} {d : Fin 2} {j : Fin 2} {s : State} (hs : (s).Kept pq) :
    OutKept pq (execReturnBwd d j s) := by
  unfold execReturnBwd
  repeat' with_reducible first | assumption | apply returnIter_kept | apply runXch_kept

theorem execCombine_kept {pq : List Instr} {d : Fin 2} {j : Fin 2} {s : State} (hs : (s).Kept pq) :
    OutKept pq (execCombine d j s) := by
  unfold execCombine
  repeat' with_reducible first | assumption | apply combineIter_kept | apply runXch_kept

theorem execCombineBwd_kept {pq : List Instr} {d : Fin 2} {j : Fin 2} {s : State} (hs : (s).Kept pq) :
    OutKept pq (execCombineBwd d j s) := by
  unfold execCombineBwd
  repeat' with_reducible first | assumption | apply combineIter_kept | apply runXch_kept

theorem execXchReturnsReceived_kept {pq : List Instr} {d : Fin 2} {j : Fin 2} {s : State} (hs : (s).Kept pq) :
    OutKept pq (execXchReturnsReceived d j s) := by
  unfold execXchReturnsReceived
  repeat' with_reducible first | assumption | apply returnsReceivedIter_kept | apply runXch_kept

theorem execStepClear_kept {pq : List Instr} {d : Fin 2} {j : Fin 2} {s : State} (hs : (s).Kept pq) :
    OutKept pq (execStepClear d j s) := by
  unfold execStepClear
  repeat' with_reducible first | assumption | apply runXch_kept | apply stepClearIter_kept

theorem execXchHeaderArrive_kept {pq : List Instr} {d : Fin 2} {j : Fin 2} {off : Nat} {s : State} (hs : (s).Kept pq) :
    OutKept pq (execXchHeaderArrive d j off s) := by
  unfold execXchHeaderArrive
  repeat' with_reducible first | assumption | apply xchHeaderArrive_kept | apply kept_next

theorem execXchPhaseTimeout_kept {pq : List Instr} {d : Fin 2} {j : Fin 2} {s : State} (hs : (s).Kept pq) :
    OutKept pq (execXchPhaseTimeout d j s) := by
  unfold execXchPhaseTimeout
  repeat' with_reducible first | assumption | apply xchPhaseTimeout_kept | apply kept_next


/-! ### Ring -/

theorem setCol_kept {pq : List Instr} {s : State} {d : Fin 2} {j : Fin 4} {x : ColSt} (hs : (s).Kept pq) :
    (setCol s d j x).Kept pq := by
  unfold setCol
  repeat' first
    | with_reducible assumption
    | simp only [kept_upd]

theorem modCol_kept {pq : List Instr} {s : State} {d : Fin 2} {j : Fin 4} {f : ColSt → ColSt} (hs : (s).Kept pq) :
    (modCol s d j f).Kept pq := by
  unfold modCol
  repeat' with_reducible first | assumption | apply setCol_kept

theorem readRings_kept {pq : List Instr} {s0 : State} {q : SeqId} {base : Nat} {dev : Nat} {x4 : Nat} {x5 : Nat} {x6 : List Nat} {x7 : List RingLevel} {x8 : State} {x9 : Option (List RingLevel) → State → IterResult} (hs0 : (s0).Kept pq) (hx8 : (x8).Kept pq) (hx9 : ∀ (a0 : Option (List RingLevel)) (a1 : State), (a1).Kept pq → (x9 a0 a1).state.Kept pq) :
    (readRings s0 q base dev x4 x5 x6 x7 x8 x9).state.Kept pq := by
  fun_induction readRings s0 q base dev x4 x5 x6 x7 x8 x9
  repeat' first
    | intro _
    | with_reducible first | apply readStage_kept | apply_assumption -exfalso -symm | apply kept_ite_iter

theorem modPiece_kept {pq : List Instr} {s : State} {d : Fin 2} {j : Fin 4} {l : Nat} {p : Nat} {f : ColPiece → ColPiece} (hs : (s).Kept pq) :
    (modPiece s d j l p f).Kept pq := by
  unfold modPiece
  repeat' with_reducible first | assumption | apply modCol_kept

theorem colStore_kept {pq : List Instr} {d : Fin 2} {j : Fin 4} {dev : Nat} {o : Nat} {bs : List Byte} {flag : Bool} {s : State} (hs : (s).Kept pq) :
    (colStore d j dev o bs flag s).Kept pq := by
  unfold colStore
  repeat' with_reducible first | assumption | apply Blk_add_kept | apply issue_kept | apply kept_ite

theorem sendCtl_kept {pq : List Instr} {d : Fin 2} {j : Fin 4} {r : ColRec} {l : Nat} {p : Nat} {m : Nat} {up : Nat} {kind : Nat} {gather : Bool} {slot : Nat} {s : State} (hs : (s).Kept pq) :
    (sendCtl d j r l p m up kind gather slot s).Kept pq := by
  unfold sendCtl
  repeat' with_reducible first | assumption | apply colStore_kept

theorem sendLevelCtl_kept {pq : List Instr} {d : Fin 2} {j : Fin 4} {r : ColRec} {l : Nat} {m : Nat} {kind : Nat} {s : State} (hs : (s).Kept pq) :
    (sendLevelCtl d j r l m kind s).Kept pq := by
  unfold sendLevelCtl
  repeat' with_reducible first | assumption | apply colStore_kept

theorem sendPiece_kept {pq : List Instr} {d : Fin 2} {j : Fin 4} {r : ColRec} {l : Nat} {m : Nat} {off : Nat} {pc : RingPiece} {s : State} (hs : (s).Kept pq) :
    (sendPiece d j r l m off pc s).Kept pq := by
  unfold sendPiece
  repeat' with_reducible first | assumption | apply colStore_kept

theorem statAccess_kept {pq : List Instr} {d : Fin 2} {j : Fin 4} {a : Nat} {n : Nat} {write : Bool} {s : State} (hs : (s).Kept pq) :
    (statAccess d j a n write s).Kept pq := by
  unfold statAccess
  repeat' with_reducible first | assumption | apply accessEnergy_kept | apply countAccess_kept

theorem slotRead_kept {pq : List Instr} {d : Fin 2} {j : Fin 4} {a : Nat} {n : Nat} {s : State} (hs : (s).Kept pq) :
    PairKept pq (slotRead d j a n s) := by
  unfold slotRead
  repeat' first
    | with_reducible first | assumption | apply readLocal_kept | apply statAccess_kept | apply kept_ite_pair
    | simp only [kept_pair]

theorem statRead_kept {pq : List Instr} {d : Fin 2} {j : Fin 4} {a : Nat} {s : State} (hs : (s).Kept pq) :
    PairKept pq (statRead d j a s) := by
  unfold statRead
  repeat' with_reducible first | assumption | apply slotRead_kept

theorem statWrite_kept {pq : List Instr} {d : Fin 2} {j : Fin 4} {a : Nat} {o : Nat} {bs : List Byte} {s : State} (hs : (s).Kept pq) :
    (statWrite d j a o bs s).Kept pq := by
  unfold statWrite
  repeat' first
    | with_reducible first | assumption | apply writeLocal_kept | apply statAccess_kept
    | simp only [kept_snd]

theorem addSquares_kept {pq : List Instr} {d : Fin 2} {j : Fin 4} {rec_ : Nat} {o : Nat} {old : Nat} {new : Nat} {s : State} (hs : (s).Kept pq) :
    (addSquares d j rec_ o old new s).Kept pq := by
  unfold addSquares
  repeat' first
    | with_reducible first | assumption | apply Blk_event_kept | apply Blk_raise_kept | apply statRead_kept | apply statWrite_kept
    | simp only [kept_snd]
    | split

theorem sourceValues_kept {pq : List Instr} {d : Fin 2} {j : Fin 4} {r : ColRec} {p : Nat} {carry : List Nat} {s : State} (hs : (s).Kept pq) :
    PairKept pq (sourceValues d j r p carry s) := by
  unfold sourceValues
  repeat' first
    | with_reducible first | assumption | apply fetchSpans_kept | apply readSpans_kept | apply kept_ite_pair
    | simp only [kept_pair]
    | simp only [kept_snd2]
    | simp only [kept_snd]

theorem addOwn_kept {pq : List Instr} {d : Fin 2} {j : Fin 4} {r : ColRec} {l : Nat} {p : Nat} {x : ColPiece} {pc : RingPiece} {s : State} (hs : (s).Kept pq) :
    PairKept pq (addOwn d j r l p x pc s) := by
  unfold addOwn
  repeat' first
    | with_reducible first | assumption | apply sourceValues_kept
    | simp only [kept_pair]
    | simp only [kept_snd]
    | split

theorem carryOut_kept {pq : List Instr} {d : Fin 2} {j : Fin 4} {r : ColRec} {l : Nat} {p : Nat} {s : State} (hs : (s).Kept pq) :
    (carryOut d j r l p s).Kept pq := by
  unfold carryOut
  repeat' first
    | with_reducible first | assumption | apply Blk_event_kept | apply Blk_sat_kept | apply fetchSpans_kept | apply locWrite_kept | apply modCol_kept | apply modPiece_kept | apply readSpans_kept | apply sourceValues_kept
    | simp only [kept_pair]
    | simp only [kept_snd2]
    | simp only [kept_snd]
    | split

theorem keepOut_kept {pq : List Instr} {d : Fin 2} {j : Fin 4} {l : Nat} {p : Nat} {s : State} (hs : (s).Kept pq) :
    (keepOut d j l p s).Kept pq := by
  unfold keepOut
  repeat' with_reducible first | assumption | apply Blk_event_kept | apply Blk_sat_kept | apply modCol_kept | apply modPiece_kept | apply kept_ite

theorem deliver__kept {pq : List Instr} {d : Fin 2} {j : Fin 4} {r : ColRec} {pc : RingPiece} {s : State} (hs : (s).Kept pq) :
    (deliver_ d j r pc s).Kept pq := by
  unfold deliver_
  try dsimp only
  repeat' first
    | with_reducible first | assumption | apply Blk_event_kept | apply Blk_sat_kept | apply Blk_wr_kept | apply addSquares_kept | apply locWrite_kept | apply modCol_kept
    | split

theorem gatherFrom_kept {pq : List Instr} {d : Fin 2} {j : Fin 4} {r : ColRec} {pc : RingPiece} {x4 : Nat} {x5 : State} (hx5 : (x5).Kept pq) :
    (gatherFrom d j r pc x4 x5).Kept pq := by
  fun_induction gatherFrom d j r pc x4 x5
  repeat' with_reducible first | apply modPiece_kept | apply sendPiece_kept | apply_assumption -exfalso -symm | apply kept_ite

theorem startGathers_kept {pq : List Instr} {d : Fin 2} {j : Fin 4} {r : ColRec} {x1 : Nat} {x2 : State} (hx2 : (x2).Kept pq) :
    (startGathers d j r x1 x2).Kept pq := by
  fun_induction startGathers d j r x1 x2
  repeat' with_reducible first | apply_assumption -exfalso -symm | apply modCol_kept | apply gatherFrom_kept

theorem gatherOwn_kept {pq : List Instr} {d : Fin 2} {j : Fin 4} {r : ColRec} {pc : RingPiece} {s : State} (hs : (s).Kept pq) :
    (gatherOwn d j r pc s).Kept pq := by
  unfold gatherOwn
  repeat' with_reducible first | assumption | apply modCol_kept | apply deliver__kept | apply startGathers_kept

theorem topDone_kept {pq : List Instr} {d : Fin 2} {j : Fin 4} {r : ColRec} {pc : RingPiece} {s : State} (hs : (s).Kept pq) :
    (topDone d j r pc s).Kept pq := by
  unfold topDone
  repeat' with_reducible first | assumption | apply deliver__kept | apply gatherOwn_kept | apply kept_ite

theorem sendReady_kept {pq : List Instr} {d : Fin 2} {j : Fin 4} {r : ColRec} {l : Nat} {p : Nat} {s : State} (hs : (s).Kept pq) :
    (sendReady d j r l p s).Kept pq := by
  unfold sendReady
  try dsimp only
  repeat' first
    | intro _
    | with_reducible first | assumption | apply modPiece_kept | apply sendCtl_kept | apply forEach_kept
    | split

theorem reduceDone_kept {pq : List Instr} {d : Fin 2} {j : Fin 4} {r : ColRec} {l : Nat} {p : Nat} {pc : RingPiece} {s : State} (hs : (s).Kept pq) :
    (reduceDone d j r l p pc s).Kept pq := by
  unfold reduceDone
  repeat' with_reducible first | assumption | apply modPiece_kept | apply topDone_kept | apply kept_ite

theorem finishReduce_kept {pq : List Instr} {d : Fin 2} {j : Fin 4} {r : ColRec} {l : Nat} {p : Nat} {pc : RingPiece} {s : State} (hs : (s).Kept pq) :
    (finishReduce d j r l p pc s).Kept pq := by
  unfold finishReduce
  repeat' first
    | with_reducible first | assumption | apply Blk_event_kept | apply Blk_raise_kept | apply Blk_sat_kept | apply addOwn_kept | apply addSquares_kept | apply keepOut_kept | apply modCol_kept | apply modPiece_kept | apply reduceDone_kept
    | simp only [kept_pair]
    | simp only [kept_snd]
    | split

theorem transmit_kept {pq : List Instr} {d : Fin 2} {j : Fin 4} {r : ColRec} {l : Nat} {p : Nat} {s : State} (hs : (s).Kept pq) :
    (transmit d j r l p s).Kept pq := by
  unfold transmit
  repeat' first
    | with_reducible first | assumption | apply addOwn_kept | apply addSquares_kept | apply modPiece_kept | apply sendPiece_kept
    | simp only [kept_pair]
    | simp only [kept_snd]
    | split

theorem countSkip_kept {pq : List Instr} {d : Fin 2} {j : Fin 4} {t : Nat} {p : Nat} {s : State} (hs : (s).Kept pq) :
    (countSkip d j t p s).Kept pq := by
  unfold countSkip
  repeat' with_reducible first | assumption | apply Blk_event_kept | apply modCol_kept

theorem chooseHop_kept {pq : List Instr} {d : Fin 2} {j : Fin 4} {r : ColRec} {l : Nat} {p : Nat} {x1 : Nat} {x2 : State} (hx2 : (x2).Kept pq) :
    (chooseHop d j r l p x1 x2).Kept pq := by
  fun_induction chooseHop d j r l p x1 x2
  repeat' with_reducible first | apply_assumption -exfalso -symm | apply Blk_sat_kept | apply modCol_kept | apply modPiece_kept | apply sendCtl_kept | apply sendLevelCtl_kept | apply transmit_kept | apply countSkip_kept

theorem pumpPiece_kept {pq : List Instr} {d : Fin 2} {j : Fin 4} {r : ColRec} {s : State} {k : Nat × Nat} (hs : (s).Kept pq) :
    (pumpPiece d j r s k).Kept pq := by
  unfold pumpPiece
  try dsimp only
  repeat' first
    | with_reducible first | assumption | apply carryOut_kept | apply chooseHop_kept | apply finishReduce_kept | apply sendReady_kept | apply transmit_kept
    | split

theorem colPump_kept {pq : List Instr} {d : Fin 2} {j : Fin 4} {r : ColRec} {s : State} (hs : (s).Kept pq) :
    (colPump d j r s).Kept pq := by
  unfold colPump
  repeat' first
    | intro _
    | with_reducible first | assumption | apply pumpPiece_kept | apply forEach_kept

theorem answerPiece_kept {pq : List Instr} {d : Fin 2} {j : Fin 4} {r : ColRec} {pc : RingPiece} {m : Nat} {ok : Bool} {s : State} (hs : (s).Kept pq) :
    (answerPiece d j r pc m ok s).Kept pq := by
  unfold answerPiece
  repeat' with_reducible first | assumption | apply sendCtl_kept

theorem adderFault_kept {pq : List Instr} {d : Fin 2} {j : Fin 4} {off : Nat} {src : Nat} {p : Nat} {s : State} (hs : (s).Kept pq) :
    (adderFault d j off src p s).Kept pq := by
  unfold adderFault
  repeat' first
    | with_reducible first | assumption | apply Blk_event_kept | apply Blk_raise_kept | apply faultLog_kept
    | simp only [kept_upd]

theorem acceptPiece_kept {pq : List Instr} {d : Fin 2} {j : Fin 4} {r : ColRec} {pc : RingPiece} {s : State} (hs : (s).Kept pq) :
    (acceptPiece d j r pc s).Kept pq := by
  unfold acceptPiece
  repeat' with_reducible first | assumption | apply deliver__kept | apply gatherFrom_kept | apply modPiece_kept | apply sendPiece_kept | apply kept_ite

theorem pieceArrived_kept {pq : List Instr} {d : Fin 2} {j : Fin 4} {r : ColRec} {off : Nat} {src : Nat} {s : State} (hs : (s).Kept pq) :
    (pieceArrived d j r off src s).Kept pq := by
  unfold pieceArrived
  repeat' first
    | with_reducible first | assumption | apply Blk_sat_kept | apply Blk_add_kept | apply Blk_event_kept | apply modPiece_kept | apply slotRead_kept | apply colPump_kept | apply answerPiece_kept | apply adderFault_kept | apply acceptPiece_kept
    | simp only [kept_snd]
    | split

theorem readyArrived_kept {pq : List Instr} {d : Fin 2} {j : Fin 4} {r : ColRec} {l : Nat} {p : Nat} {f : Nat} {slot : Nat} {s : State} (hs : (s).Kept pq) :
    (readyArrived d j r l p f slot s).Kept pq := by
  unfold readyArrived
  repeat' with_reducible first | assumption | apply Blk_sat_kept | apply colPump_kept | apply modPiece_kept | apply kept_ite

theorem ackArrived_kept {pq : List Instr} {d : Fin 2} {j : Fin 4} {r : ColRec} {l : Nat} {p : Nat} {gather : Bool} {s : State} (hs : (s).Kept pq) :
    (ackArrived d j r l p gather s).Kept pq := by
  unfold ackArrived
  repeat' with_reducible first | assumption | apply colPump_kept | apply modPiece_kept | apply kept_ite

theorem nakArrived_kept {pq : List Instr} {d : Fin 2} {j : Fin 4} {r : ColRec} {l : Nat} {p : Nat} {gather : Bool} {s : State} (hs : (s).Kept pq) :
    (nakArrived d j r l p gather s).Kept pq := by
  unfold nakArrived
  try dsimp only
  repeat' first
    | with_reducible first | assumption | apply modPiece_kept | apply sendPiece_kept | apply transmit_kept
    | split

theorem excludeArrived_kept {pq : List Instr} {d : Fin 2} {j : Fin 4} {r : ColRec} {l : Nat} {p : Nat} {s : State} (hs : (s).Kept pq) :
    (excludeArrived d j r l p s).Kept pq := by
  unfold excludeArrived
  repeat' with_reducible first | assumption | apply colPump_kept | apply keepOut_kept | apply modPiece_kept

theorem retargetArrived_kept {pq : List Instr} {d : Fin 2} {j : Fin 4} {r : ColRec} {l : Nat} {f : Nat} {s : State} (hs : (s).Kept pq) :
    (retargetArrived d j r l f s).Kept pq := by
  unfold retargetArrived
  repeat' first
    | intro _
    | with_reducible first | assumption | apply colPump_kept | apply modCol_kept | apply sendCtl_kept | apply sendLevelCtl_kept | apply forEach_kept

theorem rackArrived_kept {pq : List Instr} {d : Fin 2} {j : Fin 4} {r : ColRec} {l : Nat} {f : Nat} {s : State} (hs : (s).Kept pq) :
    (rackArrived d j r l f s).Kept pq := by
  unfold rackArrived
  repeat' with_reducible first | assumption | apply colPump_kept | apply modCol_kept

theorem handleMsg_kept {pq : List Instr} {d : Fin 2} {j : Fin 4} {r : ColRec} {kind : Nat} {off : Nat} {src : Nat} {s : State} (hs : (s).Kept pq) :
    (handleMsg d j r kind off src s).Kept pq := by
  unfold handleMsg
  try dsimp only
  repeat' first
    | with_reducible first | assumption | apply ackArrived_kept | apply excludeArrived_kept | apply nakArrived_kept | apply pieceArrived_kept | apply rackArrived_kept | apply readyArrived_kept | apply retargetArrived_kept
    | split

theorem colMessage_kept {pq : List Instr} {d : Fin 2} {j : Fin 4} {kind : Nat} {off : Nat} {src : Nat} {s : State} (hs : (s).Kept pq) :
    (colMessage d j kind off src s).Kept pq := by
  unfold colMessage
  try dsimp only
  repeat' first
    | with_reducible first | assumption | apply Blk_sat_kept | apply handleMsg_kept | apply modCol_kept
    | split


/-! ### Collective -/

theorem configStats_kept {pq : List Instr} {d : Fin 2} {j : Fin 4} {r : ColRec} {h : Nat} {s : State} (hs : (s).Kept pq) :
    PairKept pq (configStats d j r h s) := by
  unfold configStats
  repeat' first
    | with_reducible first | assumption | apply Blk_sat_kept | apply secError_kept | apply statRead_kept | apply statWrite_kept
    | simp only [kept_pair]
    | simp only [kept_snd]
    | split

theorem startCol_kept {pq : List Instr} {d : Fin 2} {j : Fin 4} {s : State} (hs : (s).Kept pq) :
    (startCol d j s).Kept pq := by
  unfold startCol
  repeat' first
    | intro _
    | with_reducible first | assumption | apply Blk_put_kept | apply colMessage_kept | apply configStats_kept | apply modCol_kept | apply forEach_kept
    | simp only [kept_snd]

theorem colConfigIter_kept {pq : List Instr} {d : Fin 2} {j : Fin 4} {s : State} {st : Step} (hs : s.Kept pq) :
    (colConfigIter d j s st).state.Kept pq := by
  have hc : ∀ u : State, u.Kept pq → State.Kept pq ((colBlk d j).wr ((colBlk d j).put (setCol ((colBlk d j).wr u 0x4C
      ((cseqOf u d j + 1) % 2 ^ 16)) d j { heldMsgs := (getCol u d j).heldMsgs }) 0x48 1 5 0) 0x5C 0) :=
    fun u hu => Blk_wr_kept (Blk_put_kept (setCol_kept (Blk_wr_kept hu)))
  unfold colConfigIter
  dsimp only
  split
  · rename_i t aD e
    have h : t.Kept pq := by
      refine kept_of_ran e (configIter_kept ?_ hs)
      intro t l k ht hk
      split
      · exact hk _ _ (hc _ ht)
      · apply readRings_kept hs ht
        intro rs u hu
        split
        · exact hk _ _ (hc _ hu)
        · exact hk _ _ (setScr_kept (modCol_kept (hc _ hu)))
    exact kept_ran (kept_ite (startCol_kept (delScr_kept h)) h)
  · rename_i t e
    refine kept_hold (kept_of_hold e (configIter_kept ?_ hs))
    intro t l k ht hk
    split
    · exact hk _ _ (hc _ ht)
    · apply readRings_kept hs ht
      intro rs u hu
      split
      · exact hk _ _ (hc _ hu)
      · exact hk _ _ (setScr_kept (modCol_kept (hc _ hu)))

theorem colUnder_kept {pq : List Instr} {d : Fin 2} {j : Fin 4} {main : Bool} {body : ColRec → State → Step → IterResult} {s : State} {st : Step} (hbody : ∀ (a0 : ColRec) (a1 : State) (a2 : Step), (a1).Kept pq → (body a0 a1 a2).state.Kept pq) (hs : (s).Kept pq) :
    (colUnder d j main body s st).state.Kept pq := by
  unfold colUnder
  repeat' first
    | with_reducible first | assumption | apply hbody | apply noteStatus_kept | apply retireStep_kept | apply idleIter_kept | apply kept_ite_iter | apply kept_hold
    | split

theorem boundCount_kept {pq : List Instr} {d : Fin 2} {j : Fin 4} {n : Nat} {st : Step} {s : State} (hs : (s).Kept pq) :
    (boundCount d j n st s).Kept pq := by
  unfold boundCount
  repeat' with_reducible first | assumption | apply Blk_countErr_kept | apply modSeq_kept | apply noteStatus_kept | apply setScr_kept | apply kept_ite

theorem contribute_kept {pq : List Instr} {d : Fin 2} {j : Fin 4} {r : ColRec} {p : Nat} {s0 : State} {s : State} {aD : Nat} (hs0 : (s0).Kept pq) (hs : (s).Kept pq) :
    (contribute d j r p s0 s aD).state.Kept pq := by
  unfold contribute
  repeat' first
    | intro _
    | with_reducible first | assumption | apply colPump_kept | apply locWrite_kept | apply modCol_kept | apply modPiece_kept | apply readStage_kept | apply kept_ite | apply kept_ran

theorem contributeRaw_kept {pq : List Instr} {d : Fin 2} {j : Fin 4} {r : ColRec} {p : Nat} {addr : Nat} {s0 : State} {s : State} {aD : Nat} (hs0 : (s0).Kept pq) (hs : (s).Kept pq) :
    (contributeRaw d j r p addr s0 s aD).state.Kept pq := by
  unfold contributeRaw
  repeat' first
    | with_reducible first | assumption | apply readStage_kept | apply locWrite_kept | apply gatherOwn_kept | apply kept_ran
    | intro _

theorem contribIter_kept {pq : List Instr} {d : Fin 2} {j : Fin 4} {r : ColRec} {s : State} {st : Step} (hs : (s).Kept pq) :
    (contribIter d j r s st).state.Kept pq := by
  unfold contribIter
  repeat' first
    | with_reducible first | assumption | apply Blk_sat_kept | apply Blk_countErr_kept | apply noteStatus_kept | apply retireStep_kept | apply takeIter_kept | apply boundCount_kept | apply contribute_kept | apply contributeRaw_kept | apply kept_ite_iter | apply kept_ran | apply kept_hold
    | intro _

theorem finishStats_kept {pq : List Instr} {d : Fin 2} {j : Fin 4} {r : ColRec} {s : State} (hs : (s).Kept pq) :
    (finishStats d j r s).Kept pq := by
  unfold finishStats
  repeat' first
    | with_reducible first | assumption | apply Blk_wr_kept | apply Blk_sat_kept | apply Blk_event_kept | apply statRead_kept | apply statWrite_kept
    | simp only [kept_snd]
    | split

theorem finishEnd_kept {pq : List Instr} {d : Fin 2} {j : Fin 4} {r : ColRec} {s : State} {st : Step} (hs : (s).Kept pq) :
    (finishEnd d j r s st).Kept pq := by
  unfold finishEnd
  repeat' with_reducible first | assumption | apply Blk_put_kept | apply finishStats_kept | apply noteStatus_kept | apply writeOp_kept | apply kept_ite

theorem finishIter_kept {pq : List Instr} {d : Fin 2} {j : Fin 4} {r : ColRec} {s : State} {st : Step} (hs : (s).Kept pq) :
    (finishIter d j r s st).state.Kept pq := by
  unfold finishIter
  try dsimp only
  repeat' first
    | with_reducible first | assumption | apply Blk_put_kept | apply boundCount_kept | apply finishEnd_kept | apply retireStep_kept | apply setScr_kept | apply kept_ran | apply kept_hold
    | split

theorem deadlineStep_kept {pq : List Instr} {d : Fin 2} {j : Fin 4} {s : State} (hs : (s).Kept pq) :
    (deadlineStep d j s).Kept pq := by
  unfold deadlineStep
  repeat' first
    | with_reducible first | assumption | apply colPump_kept
    | split

theorem colPhaseTimeout_kept {pq : List Instr} {d : Fin 2} {j : Fin 4} {s : State} (hs : (s).Kept pq) :
    (colPhaseTimeout d j s).Kept pq := by
  unfold colPhaseTimeout
  try dsimp only
  repeat' first
    | with_reducible first | assumption | apply Blk_event_kept | apply Blk_put_kept | apply Blk_raise_kept | apply idleRest_kept | apply noteStatus_kept
    | split

theorem amaxIter_kept {pq : List Instr} {d : Fin 2} {s : State} {st : Step} (hs : (s).Kept pq) :
    (amaxIter d s st).state.Kept pq := by
  unfold amaxIter
  repeat' first
    | intro _
    | with_reducible first | assumption | apply Blk_sat_kept | apply locWrite_kept | apply readStage_kept | apply forEach_kept | apply kept_ite | apply kept_ran

theorem execColConfig_kept {pq : List Instr} {d : Fin 2} {j : Fin 4} {s : State} (hs : (s).Kept pq) :
    OutKept pq (execColConfig d j s) := by
  unfold execColConfig
  repeat' with_reducible first | assumption | apply colConfigIter_kept | apply runIter_kept | apply kept_next

theorem execContrib_kept {pq : List Instr} {d : Fin 2} {j : Fin 4} {s : State} (hs : (s).Kept pq) :
    OutKept pq (execContrib d j s) := by
  unfold execContrib
  repeat' first
    | intro _
    | with_reducible first | assumption | apply colUnder_kept | apply contribIter_kept | apply runIter_kept | apply kept_next

theorem execFinish_kept {pq : List Instr} {d : Fin 2} {j : Fin 4} {s : State} (hs : (s).Kept pq) :
    OutKept pq (execFinish d j s) := by
  unfold execFinish
  repeat' first
    | intro _
    | with_reducible first | assumption | apply colUnder_kept | apply finishIter_kept | apply runIter_kept | apply kept_next

theorem execColPieceArrive_kept {pq : List Instr} {d : Fin 2} {j : Fin 4} {off : Nat} {src : Nat} {s : State} (hs : (s).Kept pq) :
    OutKept pq (execColPieceArrive d j off src s) := by
  unfold execColPieceArrive
  repeat' with_reducible first | assumption | apply colMessage_kept | apply kept_next

theorem execColReady_kept {pq : List Instr} {d : Fin 2} {j : Fin 4} {off : Nat} {s : State} (hs : (s).Kept pq) :
    OutKept pq (execColReady d j off s) := by
  unfold execColReady
  repeat' with_reducible first | assumption | apply colMessage_kept | apply kept_next

theorem execColAck_kept {pq : List Instr} {d : Fin 2} {j : Fin 4} {off : Nat} {s : State} (hs : (s).Kept pq) :
    OutKept pq (execColAck d j off s) := by
  unfold execColAck
  repeat' with_reducible first | assumption | apply colMessage_kept | apply kept_next

theorem execColNak_kept {pq : List Instr} {d : Fin 2} {j : Fin 4} {off : Nat} {s : State} (hs : (s).Kept pq) :
    OutKept pq (execColNak d j off s) := by
  unfold execColNak
  repeat' with_reducible first | assumption | apply colMessage_kept | apply kept_next

theorem execColExclude_kept {pq : List Instr} {d : Fin 2} {j : Fin 4} {off : Nat} {s : State} (hs : (s).Kept pq) :
    OutKept pq (execColExclude d j off s) := by
  unfold execColExclude
  repeat' with_reducible first | assumption | apply colMessage_kept | apply kept_next

theorem execColRetarget_kept {pq : List Instr} {d : Fin 2} {j : Fin 4} {off : Nat} {s : State} (hs : (s).Kept pq) :
    OutKept pq (execColRetarget d j off s) := by
  unfold execColRetarget
  repeat' with_reducible first | assumption | apply colMessage_kept | apply kept_next

theorem execColRack_kept {pq : List Instr} {d : Fin 2} {j : Fin 4} {off : Nat} {s : State} (hs : (s).Kept pq) :
    OutKept pq (execColRack d j off s) := by
  unfold execColRack
  repeat' with_reducible first | assumption | apply colMessage_kept | apply kept_next

theorem execColDeadline_kept {pq : List Instr} {d : Fin 2} {j : Fin 4} {s : State} (hs : (s).Kept pq) :
    OutKept pq (execColDeadline d j s) := by
  unfold execColDeadline
  repeat' with_reducible first | assumption | apply deadlineStep_kept | apply kept_next

theorem execColPhaseTimeout_kept {pq : List Instr} {d : Fin 2} {j : Fin 4} {s : State} (hs : (s).Kept pq) :
    OutKept pq (execColPhaseTimeout d j s) := by
  unfold execColPhaseTimeout
  repeat' with_reducible first | assumption | apply colPhaseTimeout_kept | apply kept_next

theorem execStaAmax_kept {pq : List Instr} {d : Fin 2} {s : State} (hs : (s).Kept pq) :
    OutKept pq (execStaAmax d s) := by
  unfold execStaAmax
  repeat' with_reducible first | assumption | apply amaxIter_kept | apply runIter_kept | apply kept_next


end Sys2Proof.Machine
end

