-- ==== Sys2Proof/Laws/KeptEngines.lean ====
section
/-! SUPPORT. Sys2Proof/Laws/KeptEngines.lean: each operation on the state keeps the waiting commands and the canonical form: the other engines, the loader, sequencers and threads. -/
namespace Sys2Proof.Machine

/-! ### Pointwise -/

theorem ptwPlace_kept {pq : List Instr} {s : State} {t : Fin 160} {a : Nat} (hs : (s).Kept pq) :
    (ptwPlace s t a).Kept pq := by
  unfold ptwPlace
  repeat' with_reducible first | assumption | apply Blk_raise_kept | apply noteStatus_kept

theorem freeDraws_kept {pq : List Instr} {s : State} {x1 : Nat} (hs : (s).Kept pq) :
    PairKept pq (freeDraws s x1) := by
  fun_induction freeDraws s x1
  repeat' first
    | with_reducible first | apply fresh_kept | apply_assumption -exfalso -symm
    | simp only [kept_snd]

theorem ptwOut_kept {pq : List Instr} {t : Fin 160} {s : State} {st : Step} {l : List NumVal} (hs : (s).Kept pq) :
    (ptwOut t s st l).Kept pq := by
  unfold ptwOut
  repeat' first
    | with_reducible first | assumption | apply Blk_sat_kept | apply freeDraws_kept | apply writeD_kept | apply kept_ite_pair
    | simp only [kept_pair]
    | simp only [kept_snd]

theorem ptwRead_kept {pq : List Instr} {t : Fin 160} {s : State} {st : Step} {outLen : Nat} {n : Nat} {spans : List Span} {k : List (List Byte) → State → State} (hs : (s).Kept pq) (hk : ∀ (a0 : List (List Byte)) (a1 : State), (a1).Kept pq → (k a0 a1).Kept pq) :
    (ptwRead t s st outLen n spans k).state.Kept pq := by
  unfold ptwRead
  repeat' first
    | with_reducible first | assumption | apply hk | apply Blk_add_kept | apply fetchSpans_kept | apply ptwPlace_kept | apply readSpans_kept | apply kept_ran | apply kept_hold
    | simp only [kept_snd2]
    | simp only [kept_snd]
    | split

theorem ptwBusy_kept {pq : List Instr} {t : Fin 160} {s : State} {n : Nat} {times : Nat} (hs : (s).Kept pq) :
    (ptwBusy t s n times).Kept pq := by
  unfold ptwBusy
  repeat' with_reducible first | assumption | apply Blk_add_kept

theorem ptwElems_kept {pq : List Instr} {t : Fin 160} {useB : Bool} {useD : Bool} {f : NumVal → NumVal → NumVal → NumVal} {s : State} {st : Step} (hs : (s).Kept pq) :
    (ptwElems t useB useD f s st).state.Kept pq := by
  unfold ptwElems
  repeat' first
    | intro _
    | with_reducible first | assumption | apply freeBytes_kept | apply ptwBusy_kept | apply ptwOut_kept | apply ptwRead_kept | apply writeD_kept | apply kept_ite
    | simp only [kept_snd]

theorem ptwFuncIter_kept {pq : List Instr} {t : Fin 160} {s : State} {st : Step} (hs : (s).Kept pq) :
    (ptwFuncIter t s st).state.Kept pq := by
  unfold ptwFuncIter
  repeat' first
    | intro _
    | with_reducible first | assumption | apply Blk_sat_kept | apply freeBytes_kept | apply ptwBusy_kept | apply ptwOut_kept | apply ptwRead_kept | apply writeD_kept | apply kept_ite
    | simp only [kept_snd]

theorem ptwRow_kept {pq : List Instr} {t : Fin 160} {f : List NumVal → NumVal} {s : State} {st : Step} (hs : (s).Kept pq) :
    (ptwRow t f s st).state.Kept pq := by
  unfold ptwRow
  repeat' first
    | intro _
    | with_reducible first | assumption | apply freeBytes_kept | apply ptwBusy_kept | apply ptwOut_kept | apply ptwRead_kept | apply writeD_kept | apply kept_ite | apply kept_ite_iter | apply kept_ran
    | simp only [kept_snd]

theorem ptwSoftmaxIter_kept {pq : List Instr} {t : Fin 160} {s : State} {st : Step} (hs : (s).Kept pq) :
    (ptwSoftmaxIter t s st).state.Kept pq := by
  unfold ptwSoftmaxIter
  repeat' first
    | intro _
    | with_reducible first | assumption | apply Blk_event_kept | apply Blk_sat_kept | apply freeBytes_kept | apply ptwBusy_kept | apply ptwOut_kept | apply ptwRead_kept | apply writeD_kept | apply kept_ite | apply kept_ite_iter | apply kept_ran
    | simp only [kept_snd]

theorem runPtw_kept {pq : List Instr} {t : Fin 160} {op : Nat} {body : State → Step → IterResult} {s : State} (hbody : ∀ (a0 : State) (a1 : Step), (a0).Kept pq → (body a0 a1).state.Kept pq) (hs : (s).Kept pq) :
    OutKept pq (runPtw t op body s) := by
  unfold runPtw
  repeat' with_reducible first | assumption | apply hbody | apply runIter_kept | apply kept_next

theorem execPtwAdd_kept {pq : List Instr} {t : Fin 160} {s : State} (hs : (s).Kept pq) :
    OutKept pq (execPtwAdd t s) := by
  unfold execPtwAdd
  repeat' with_reducible first | assumption | apply ptwElems_kept | apply runPtw_kept

theorem execPtwSub_kept {pq : List Instr} {t : Fin 160} {s : State} (hs : (s).Kept pq) :
    OutKept pq (execPtwSub t s) := by
  unfold execPtwSub
  repeat' with_reducible first | assumption | apply ptwElems_kept | apply runPtw_kept

theorem execPtwMul_kept {pq : List Instr} {t : Fin 160} {s : State} (hs : (s).Kept pq) :
    OutKept pq (execPtwMul t s) := by
  unfold execPtwMul
  repeat' with_reducible first | assumption | apply ptwElems_kept | apply runPtw_kept

theorem execPtwFma_kept {pq : List Instr} {t : Fin 160} {s : State} (hs : (s).Kept pq) :
    OutKept pq (execPtwFma t s) := by
  unfold execPtwFma
  repeat' with_reducible first | assumption | apply ptwElems_kept | apply runPtw_kept

theorem execPtwMax_kept {pq : List Instr} {t : Fin 160} {s : State} (hs : (s).Kept pq) :
    OutKept pq (execPtwMax t s) := by
  unfold execPtwMax
  repeat' with_reducible first | assumption | apply ptwElems_kept | apply runPtw_kept

theorem execPtwMin_kept {pq : List Instr} {t : Fin 160} {s : State} (hs : (s).Kept pq) :
    OutKept pq (execPtwMin t s) := by
  unfold execPtwMin
  repeat' with_reducible first | assumption | apply ptwElems_kept | apply runPtw_kept

theorem execPtwFunc_kept {pq : List Instr} {t : Fin 160} {s : State} (hs : (s).Kept pq) :
    OutKept pq (execPtwFunc t s) := by
  unfold execPtwFunc
  repeat' with_reducible first | assumption | apply ptwFuncIter_kept | apply runPtw_kept

theorem execRowsum_kept {pq : List Instr} {t : Fin 160} {s : State} (hs : (s).Kept pq) :
    OutKept pq (execRowsum t s) := by
  unfold execRowsum
  repeat' with_reducible first | assumption | apply ptwRow_kept | apply runPtw_kept

theorem execRowsumsq_kept {pq : List Instr} {t : Fin 160} {s : State} (hs : (s).Kept pq) :
    OutKept pq (execRowsumsq t s) := by
  unfold execRowsumsq
  repeat' with_reducible first | assumption | apply ptwRow_kept | apply runPtw_kept

theorem execRowmax_kept {pq : List Instr} {t : Fin 160} {s : State} (hs : (s).Kept pq) :
    OutKept pq (execRowmax t s) := by
  unfold execRowmax
  repeat' with_reducible first | assumption | apply ptwRow_kept | apply runPtw_kept

theorem execSoftmax_kept {pq : List Instr} {t : Fin 160} {s : State} (hs : (s).Kept pq) :
    OutKept pq (execSoftmax t s) := by
  unfold execSoftmax
  repeat' with_reducible first | assumption | apply ptwSoftmaxIter_kept | apply runPtw_kept


/-! ### Embedding -/

theorem setEmb_kept {pq : List Instr} {s : State} {d : Fin 2} {j : Fin 4} {x : Emb} (hs : (s).Kept pq) :
    (setEmb s d j x).Kept pq := by
  unfold setEmb
  repeat' first
    | with_reducible assumption
    | simp only [kept_upd]

theorem embConfigIter_kept {pq : List Instr} {d : Fin 2} {j : Fin 4} {s : State} {st : Step} (hs : s.Kept pq) :
    (embConfigIter d j s st).state.Kept pq := by
  unfold embConfigIter
  apply configIter_kept _ hs
  intro s0 r k hs0 hk
  dsimp only
  split
  · exact hk _ _ hs0
  · exact readStage_kept hs0 hs0 (fun l ok t ht => hk _ _ ht)

theorem shardWrite_kept {pq : List Instr} {s : State} {q : SeqId} {e : ShardEnt} {o : Nat} {bs : List Byte} (hs : (s).Kept pq) :
    (shardWrite s q e o bs).Kept pq := by
  unfold shardWrite
  repeat' with_reducible first | assumption | apply writeOp_kept

theorem bindDir_kept {pq : List Instr} {s0 : State} {s : State} {q : SeqId} {r : EmbRec} {k : List (Nat × Byte) → State → IterResult} (hs0 : (s0).Kept pq) (hs : (s).Kept pq) (hk : ∀ (a0 : List (Nat × Byte)) (a1 : State), (a1).Kept pq → (k a0 a1).state.Kept pq) :
    (bindDir s0 s q r k).state.Kept pq := by
  unfold bindDir
  repeat' first
    | intro _
    | with_reducible first | assumption | apply hk | apply readStage_kept
    | split

theorem tstat_kept {pq : List Instr} {s : State} {q : SeqId} {t : Nat} {f : Nat} {n : Nat} (hs : (s).Kept pq) :
    (tstat s q t f n).Kept pq := by
  unfold tstat
  repeat' with_reducible first | assumption | apply setScr_kept | apply kept_ite

theorem tstatFlush_kept {pq : List Instr} {s0 : State} {q : SeqId} {tstatAt : Nat} {s : State} {aD : Nat} (hs0 : (s0).Kept pq) (hs : (s).Kept pq) :
    (tstatFlush s0 q tstatAt s aD).state.Kept pq := by
  unfold tstatFlush
  repeat' first
    | intro _
    | with_reducible first | assumption | apply locWrite_kept | apply readStage_kept | apply forEach_kept | apply kept_ite_iter | apply kept_ran

theorem embUnder_kept {pq : List Instr} {d : Fin 2} {j : Fin 4} {main : Bool} {body : EmbRec → State → Step → IterResult} {s : State} {st : Step} (hbody : ∀ (a0 : EmbRec) (a1 : State) (a2 : Step), (a1).Kept pq → (body a0 a1 a2).state.Kept pq) (hs : (s).Kept pq) :
    (embUnder d j main body s st).state.Kept pq := by
  unfold embUnder
  repeat' first
    | with_reducible first | assumption | apply hbody | apply noteStatus_kept | apply retireStep_kept | apply tstatFlush_kept | apply kept_ran | apply kept_hold
    | with_reducible first | refine kept_of_ran (by assumption) ?_ | refine kept_of_hold (by assumption) ?_
    | simp only
    | split

theorem runEmb_kept {pq : List Instr} {d : Fin 2} {j : Fin 4} {op : Nat} {main : Bool} {body : EmbRec → State → Step → IterResult} {s : State} (hbody : ∀ (a0 : EmbRec) (a1 : State) (a2 : Step), (a1).Kept pq → (body a0 a1 a2).state.Kept pq) (hs : (s).Kept pq) :
    OutKept pq (runEmb d j op main body s) := by
  unfold runEmb
  repeat' first
    | intro _
    | with_reducible first | assumption | apply hbody | apply embUnder_kept | apply runIter_kept | apply kept_next

theorem prepBag_kept {pq : List Instr} {d : Fin 2} {j : Fin 4} {r : EmbRec} {t : Nat} {desc : TableDesc} {shardOk : Nat → Bool} {s : State} {l : List (Nat × Nat)} (hs : (s).Kept pq) :
    (prepBag d j r t desc shardOk s l).Kept pq := by
  unfold prepBag
  try dsimp only
  repeat' first
    | intro _
    | with_reducible first | assumption | apply Blk_add_kept | apply Blk_event_kept | apply locWrite_kept | apply noteStatus_kept | apply setScr_kept | apply tstat_kept | apply forEach_kept
    | split

theorem prepIter_kept {pq : List Instr} {d : Fin 2} {j : Fin 4} {r : EmbRec} {s : State} {st : Step} (hs : (s).Kept pq) :
    (prepIter d j r s st).state.Kept pq := by
  unfold prepIter
  repeat' first
    | intro _
    | with_reducible first | assumption | apply Blk_raise_kept | apply Blk_sat_kept | apply Blk_wr_kept | apply locWrite_kept | apply prepBag_kept | apply readStage_kept | apply setEmb_kept | apply forEach_kept | apply kept_ite | apply kept_ran

theorem sortIter_kept {pq : List Instr} {d : Fin 2} {j : Fin 4} {s : State} {st : Step} (hs : (s).Kept pq) :
    (sortIter d j s st).state.Kept pq := by
  unfold sortIter
  repeat' first
    | intro _
    | with_reducible first | assumption | apply Blk_add_kept | apply Blk_event_kept | apply Blk_raise_kept | apply Blk_sat_kept | apply Blk_wr_kept | apply locWrite_kept | apply noteStatus_kept | apply readStage_kept | apply forEach_kept | apply kept_ite | apply kept_ite_iter | apply kept_ran

theorem hotHeaderArrive_kept {pq : List Instr} {d : Fin 2} {j : Fin 4} {m : Nat} {s : State} (hs : (s).Kept pq) :
    (hotHeaderArrive d j m s).Kept pq := by
  unfold hotHeaderArrive
  try dsimp only
  repeat' first
    | with_reducible first | assumption | apply Blk_add_kept | apply setEmb_kept
    | split

theorem hotReceivedIter_kept {pq : List Instr} {d : Fin 2} {j : Fin 4} {r : EmbRec} {s : State} {_st : Step} (hs : (s).Kept pq) :
    (hotReceivedIter d j r s _st).state.Kept pq := by
  unfold hotReceivedIter
  repeat' first
    | intro _
    | with_reducible first | assumption | apply readStage_kept | apply setScr_kept | apply forEach_kept | apply kept_ite_iter | apply kept_hold
    | simp only [kept_upd]

theorem fetchFar_kept {pq : List Instr} {s : State} {q : SeqId} {a : Nat} {n : Nat} {fmt : Nat} {ep : Nat} {iso : Bool} (hs : (s).Kept pq) :
    PairKept pq (fetchFar s q a n fmt ep iso) := by
  unfold fetchFar
  repeat' first
    | with_reducible first | assumption | apply issue_kept | apply readOp_kept
    | simp only [kept_pair]
    | simp only [kept_snd2]
    | split

theorem dropBuf_kept {pq : List Instr} {s : State} {q : SeqId} {a : Nat} {n : Nat} (hs : (s).Kept pq) :
    (dropBuf s q a n).Kept pq := by
  unfold dropBuf
  repeat' with_reducible first | assumption | apply modSeq_kept

theorem fetchRow_kept {pq : List Instr} {d : Fin 2} {j : Fin 4} {t : TableDesc} {e : ShardEnt} {rec_ : Nat} {s : State} (hs : (s).Kept pq) :
    PairKept pq (fetchRow d j t e rec_ s) := by
  unfold fetchRow
  repeat' first
    | with_reducible first | assumption | apply Blk_sat_kept | apply delScr_kept | apply dropBuf_kept | apply fetchFar_kept | apply setScr_kept
    | simp only [kept_pair]
    | simp only [kept_snd]
    | split

theorem nearRead_kept {pq : List Instr} {s : State} {q : SeqId} {l : List Span} (hs : (s).Kept pq) :
    PairKept pq (nearRead s q l) := by
  unfold nearRead
  repeat' first
    | with_reducible first | assumption | apply fetchSpans_kept | apply readSpans_kept | apply kept_ite_pair
    | simp only [kept_pair]
    | simp only [kept_snd2]
    | simp only [kept_snd]

theorem gatherRow_kept {pq : List Instr} {d : Fin 2} {j : Fin 4} {r : EmbRec} {key : Nat} {u : Nat} {s : State} (hs : (s).Kept pq) :
    PairKept pq (gatherRow d j r key u s) := by
  unfold gatherRow
  repeat' first
    | with_reducible first | assumption | apply Blk_add_kept | apply Blk_event_kept | apply Blk_raise_kept | apply freeBytes_kept | apply noteStatus_kept | apply locWrite_kept | apply setEmb_kept | apply boundTver_kept | apply tstat_kept | apply fetchRow_kept | apply nearRead_kept
    | with_reducible refine kept_of_pair (by assumption) ?_
    | simp only [kept_pair]
    | simp only [kept_snd]
    | split

theorem ifRead_kept {pq : List Instr} {x : Bool × State} {k : State → Bool × State} (hx : PairKept pq x)
    (hk : ∀ a, a.Kept pq → PairKept pq (k a)) : PairKept pq (ifRead x k) := by
  unfold ifRead
  exact kept_ite_pair (hk _ (kept_snd.2 hx)) hx

theorem gatherRows_kept {pq : List Instr} {d : Fin 2} {j : Fin 4} {r : EmbRec} {keys : List Byte} {n u : Nat} {s : State}
    (hs : s.Kept pq) : PairKept pq (gatherRows d j r keys n u s) := by
  induction n generalizing u s with
  | zero => exact kept_pair.2 hs
  | succ n ih => exact ifRead_kept (gatherRow_kept hs) (fun a ha => ih (setScr_kept ha))

theorem gatherOn_kept {pq : List Instr} {d : Fin 2} {j : Fin 4} {r : EmbRec} {s : State} {st : Step} (hs : (s).Kept pq) :
    (gatherOn d j r s st).state.Kept pq := by
  unfold gatherOn
  repeat' first
    | intro _
    | with_reducible first | assumption | apply Blk_wr_kept | apply delScr_kept | apply readStage_kept | apply gatherRows_kept | apply kept_ite_iter | apply kept_ran | apply kept_hold
    | simp only [kept_snd]

theorem gatherIter_kept {pq : List Instr} {d : Fin 2} {j : Fin 4} {r : EmbRec} {s : State} {st : Step} (hs : (s).Kept pq) :
    (gatherIter d j r s st).state.Kept pq := by
  unfold gatherIter
  repeat' first
    | intro _
    | with_reducible first | assumption | apply setScr_kept | apply setEmb_kept | apply bindDir_kept | apply gatherOn_kept | apply kept_ite_iter

theorem poolIter_kept {pq : List Instr} {d : Fin 2} {j : Fin 4} {r : EmbRec} {s : State} {st : Step} (hs : (s).Kept pq) :
    (poolIter d j r s st).state.Kept pq := by
  unfold poolIter
  repeat' first
    | intro _
    | with_reducible first | assumption | apply locWrite_kept | apply readStage_kept | apply tstat_kept | apply forEach_kept | apply kept_ite | apply kept_ran

theorem scatterIter_kept {pq : List Instr} {d : Fin 2} {j : Fin 4} {r : EmbRec} {s : State} {st : Step} (hs : (s).Kept pq) :
    (scatterIter d j r s st).state.Kept pq := by
  unfold scatterIter
  repeat' first
    | intro _
    | with_reducible first | assumption | apply locWrite_kept | apply readStage_kept | apply forEach_kept | apply kept_ite | apply kept_ran

theorem execEmbConfig_kept {pq : List Instr} {d : Fin 2} {j : Fin 4} {s : State} (hs : (s).Kept pq) :
    OutKept pq (execEmbConfig d j s) := by
  unfold execEmbConfig
  repeat' with_reducible first | assumption | apply embConfigIter_kept | apply runIter_kept | apply kept_next

theorem execPrep_kept {pq : List Instr} {d : Fin 2} {j : Fin 4} {s : State} (hs : (s).Kept pq) :
    OutKept pq (execPrep d j s) := by
  unfold execPrep
  repeat' with_reducible first | assumption | apply prepIter_kept | apply runEmb_kept

theorem execSort_kept {pq : List Instr} {d : Fin 2} {j : Fin 4} {s : State} (hs : (s).Kept pq) :
    OutKept pq (execSort d j s) := by
  unfold execSort
  repeat' with_reducible first | assumption | apply runIter_kept | apply sortIter_kept | apply kept_next

theorem execGather_kept {pq : List Instr} {d : Fin 2} {j : Fin 4} {s : State} (hs : (s).Kept pq) :
    OutKept pq (execGather d j s) := by
  unfold execGather
  repeat' with_reducible first | assumption | apply gatherIter_kept | apply runEmb_kept

theorem execEmbHotHeadersReceived_kept {pq : List Instr} {d : Fin 2} {j : Fin 4} {s : State} (hs : (s).Kept pq) :
    OutKept pq (execEmbHotHeadersReceived d j s) := by
  unfold execEmbHotHeadersReceived
  repeat' with_reducible first | assumption | apply hotReceivedIter_kept | apply runEmb_kept

theorem execPool_kept {pq : List Instr} {d : Fin 2} {j : Fin 4} {s : State} (hs : (s).Kept pq) :
    OutKept pq (execPool d j s) := by
  unfold execPool
  repeat' with_reducible first | assumption | apply poolIter_kept | apply runEmb_kept

theorem execScatter_kept {pq : List Instr} {d : Fin 2} {j : Fin 4} {s : State} (hs : (s).Kept pq) :
    OutKept pq (execScatter d j s) := by
  unfold execScatter
  repeat' with_reducible first | assumption | apply runEmb_kept | apply scatterIter_kept

theorem execHotHeaderArrive_kept {pq : List Instr} {d : Fin 2} {j : Fin 4} {m : Nat} {s : State} (hs : (s).Kept pq) :
    OutKept pq (execHotHeaderArrive d j m s) := by
  unfold execHotHeaderArrive
  repeat' with_reducible first | assumption | apply hotHeaderArrive_kept | apply kept_next


/-! ### Tamper -/

theorem layCfgInvalid_kept {pq : List Instr} {s : State} {t : Fin 160} (hs : (s).Kept pq) :
    (layCfgInvalid s t).Kept pq := by
  unfold layCfgInvalid
  repeat' with_reducible first | assumption | apply Blk_event_kept | apply Blk_raise_kept | apply noteStatus_kept

theorem layTileHdr_kept {pq : List Instr} {s : State} {t : Fin 160} (hs : (s).Kept pq) :
    (layTileHdr s t).Kept pq := by
  unfold layTileHdr
  repeat' with_reducible first | assumption | apply Blk_event_kept | apply Blk_raise_kept | apply Blk_sat_kept | apply noteStatus_kept

theorem layWrite_kept {pq : List Instr} {t : Fin 160} {o : Operand} {off : Nat} {s : State} {bs : List Byte} (hs : (s).Kept pq) :
    (layWrite t o off s bs).Kept pq := by
  unfold layWrite
  repeat' with_reducible first | assumption | apply Blk_add_kept | apply writeD_kept

theorem layRows_kept {pq : List Instr} {t : Fin 160} {o : Operand} {pitch : Nat} {s : State} {rows : List (List Byte)} (hs : (s).Kept pq) :
    (layRows t o pitch s rows).Kept pq := by
  unfold layRows
  repeat' first
    | intro _
    | with_reducible first | assumption | apply layWrite_kept | apply forEach_kept

theorem layCount_kept {pq : List Instr} {t : Fin 160} {s : State} {sat : Nat} {special : Nat} (hs : (s).Kept pq) :
    (layCount t s sat special).Kept pq := by
  unfold layCount
  repeat' with_reducible first | assumption | apply Blk_sat_kept

theorem layRead_kept {pq : List Instr} {t : Fin 160} {s : State} {aD : Nat} {key : Option Nat} {spans : List Span} {k : Key → List (List Byte) → State → IterResult} (hs : (s).Kept pq) (hk : ∀ (a0 : Key) (a1 : List (List Byte)) (a2 : State), (a2).Kept pq → (k a0 a1 a2).state.Kept pq) :
    (layRead t s aD key spans k).state.Kept pq := by
  unfold layRead
  repeat' first
    | with_reducible first | assumption | apply hk | apply Blk_add_kept | apply fetchSpans_kept | apply noteStatus_kept | apply readSpans_kept | apply stepKey_kept | apply kept_ran | apply kept_hold
    | simp only [kept_snd2]
    | simp only [kept_snd]
    | split

theorem freeRows_kept {pq : List Instr} {s : State} {w : Nat} {x2 : List (List Nat)} (hs : (s).Kept pq) :
    PairKept pq (freeRows s w x2) := by
  fun_induction freeRows s w x2
  repeat' first
    | with_reducible first | apply freeBytes_kept | apply_assumption -exfalso -symm
    | simp only [kept_snd]

theorem layConvert_kept {pq : List Instr} {t : Fin 160} {s : State} {src : Nat} {dst : Nat} {rnd : Nat} {k : Key} {rows : List (List Nat)} (hs : (s).Kept pq) :
    PairKept pq (layConvert t s src dst rnd k rows) := by
  unfold layConvert
  repeat' first
    | with_reducible first | assumption | apply freeRows_kept | apply layCount_kept
    | simp only [kept_pair]
    | split

theorem layConfigIter_kept {pq : List Instr} {t : Fin 160} {s : State} {st : Step} (hs : (s).Kept pq) :
    (layConfigIter t s st).state.Kept pq := by
  unfold layConfigIter
  repeat' first
    | intro _
    | with_reducible first | assumption | apply Blk_wr_kept | apply layCfgInvalid_kept | apply layRead_kept | apply setRec_kept | apply kept_ite_iter | apply kept_ran

theorem layCopyIter_kept {pq : List Instr} {t : Fin 160} {transpose : Bool} {r : LayRec} {s : State} {st : Step} (hs : (s).Kept pq) :
    (layCopyIter t transpose r s st).state.Kept pq := by
  unfold layCopyIter
  repeat' first
    | intro _
    | with_reducible first | assumption | apply layConvert_kept | apply layRead_kept | apply layRows_kept | apply noteStatus_kept | apply kept_ite_iter | apply kept_ran
    | simp only [kept_snd]

theorem laySkewStreamIter_kept {pq : List Instr} {t : Fin 160} {r : LayRec} {s : State} {st : Step} (hs : (s).Kept pq) :
    (laySkewStreamIter t r s st).state.Kept pq := by
  unfold laySkewStreamIter
  repeat' first
    | intro _
    | with_reducible first | assumption | apply layCfgInvalid_kept | apply layConvert_kept | apply layRead_kept | apply layWrite_kept | apply kept_ite_iter | apply kept_ran
    | simp only [kept_snd]

theorem laySkewStatIter_kept {pq : List Instr} {t : Fin 160} {r : LayRec} {s : State} {st : Step} (hs : (s).Kept pq) :
    (laySkewStatIter t r s st).state.Kept pq := by
  unfold laySkewStatIter
  repeat' first
    | intro _
    | with_reducible first | assumption | apply layCfgInvalid_kept | apply layConvert_kept | apply layRead_kept | apply layWrite_kept | apply kept_ite_iter | apply kept_ran
    | simp only [kept_snd]

theorem layPack24Iter_kept {pq : List Instr} {t : Fin 160} {r : LayRec} {s : State} {st : Step} (hs : (s).Kept pq) :
    (layPack24Iter t r s st).state.Kept pq := by
  unfold layPack24Iter
  repeat' first
    | intro _
    | with_reducible first | assumption | apply Blk_event_kept | apply Blk_raise_kept | apply Blk_sat_kept | apply layCfgInvalid_kept | apply layConvert_kept | apply layRead_kept | apply layWrite_kept | apply noteStatus_kept | apply kept_ite | apply kept_ite_iter | apply kept_ran
    | simp only [kept_snd]

theorem layQuantIter_kept {pq : List Instr} {t : Fin 160} {dequant : Bool} {r : LayRec} {s : State} {st : Step} (hs : (s).Kept pq) :
    (layQuantIter t dequant r s st).state.Kept pq := by
  unfold layQuantIter
  repeat' first
    | intro _
    | with_reducible first | assumption | apply freeRows_kept | apply layCount_kept | apply layRead_kept | apply layRows_kept | apply kept_ite_iter | apply kept_ran
    | simp only [kept_snd]

theorem layRowQuantIter_kept {pq : List Instr} {t : Fin 160} {r : LayRec} {s : State} {st : Step} (hs : (s).Kept pq) :
    (layRowQuantIter t r s st).state.Kept pq := by
  unfold layRowQuantIter
  repeat' first
    | intro _
    | with_reducible first | assumption | apply freeBytes_kept | apply freeRows_kept | apply layCfgInvalid_kept | apply layCount_kept | apply layRead_kept | apply layRows_kept | apply layWrite_kept | apply kept_ite_iter | apply kept_ran
    | simp only [kept_snd]

theorem layTilePackIter_kept {pq : List Instr} {t : Fin 160} {r : LayRec} {s : State} {st : Step} (hs : (s).Kept pq) :
    (layTilePackIter t r s st).state.Kept pq := by
  unfold layTilePackIter
  repeat' first
    | intro _
    | with_reducible first | assumption | apply Blk_sat_kept | apply layRead_kept | apply layTileHdr_kept | apply layWrite_kept | apply kept_ite_iter | apply kept_ran

theorem layTileUnpackIter_kept {pq : List Instr} {t : Fin 160} {r : LayRec} {s : State} {st : Step} (hs : (s).Kept pq) :
    (layTileUnpackIter t r s st).state.Kept pq := by
  unfold layTileUnpackIter
  repeat' first
    | intro _
    | with_reducible first | assumption | apply fetchSpans_kept | apply layRead_kept | apply layRows_kept | apply layTileHdr_kept | apply kept_ran | apply kept_hold
    | simp only [kept_snd]
    | split

theorem layBlockListIter_kept {pq : List Instr} {t : Fin 160} {r : LayRec} {s : State} {st : Step} (hs : (s).Kept pq) :
    (layBlockListIter t r s st).state.Kept pq := by
  unfold layBlockListIter
  repeat' first
    | intro _
    | with_reducible first | assumption | apply Blk_countErr_kept | apply layRead_kept | apply layWrite_kept | apply noteStatus_kept | apply kept_ite | apply kept_ite_iter | apply kept_ran

theorem layUnder_kept {pq : List Instr} {t : Fin 160} {body : LayRec → State → Step → IterResult} {s : State} {st : Step} (hbody : ∀ (a0 : LayRec) (a1 : State) (a2 : Step), (a1).Kept pq → (body a0 a1 a2).state.Kept pq) (hs : (s).Kept pq) :
    (layUnder t body s st).state.Kept pq := by
  unfold layUnder
  try dsimp only
  repeat' first
    | with_reducible first | assumption | apply hbody | apply Blk_add_kept | apply modSeq_kept | apply noteStatus_kept | apply setScr_kept | apply kept_ran | apply kept_hold | refine kept_of_ran (by assumption) ?_ | refine kept_of_hold (by assumption) ?_
    | split

theorem runLay_kept {pq : List Instr} {t : Fin 160} {op : Nat} {body : LayRec → State → Step → IterResult} {s : State} (hbody : ∀ (a0 : LayRec) (a1 : State) (a2 : Step), (a1).Kept pq → (body a0 a1 a2).state.Kept pq) (hs : (s).Kept pq) :
    OutKept pq (runLay t op body s) := by
  unfold runLay
  repeat' first
    | intro _
    | with_reducible first | assumption | apply hbody | apply layUnder_kept | apply runIter_kept | apply kept_next

theorem execLayConfig_kept {pq : List Instr} {t : Fin 160} {s : State} (hs : (s).Kept pq) :
    OutKept pq (execLayConfig t s) := by
  unfold execLayConfig
  repeat' with_reducible first | assumption | apply layConfigIter_kept | apply runIter_kept | apply kept_next

theorem execCopy_kept {pq : List Instr} {t : Fin 160} {s : State} (hs : (s).Kept pq) :
    OutKept pq (execCopy t s) := by
  unfold execCopy
  repeat' with_reducible first | assumption | apply layCopyIter_kept | apply runLay_kept

theorem execTranspose_kept {pq : List Instr} {t : Fin 160} {s : State} (hs : (s).Kept pq) :
    OutKept pq (execTranspose t s) := by
  unfold execTranspose
  repeat' with_reducible first | assumption | apply layCopyIter_kept | apply runLay_kept

theorem execSkewStream_kept {pq : List Instr} {t : Fin 160} {s : State} (hs : (s).Kept pq) :
    OutKept pq (execSkewStream t s) := by
  unfold execSkewStream
  repeat' with_reducible first | assumption | apply laySkewStreamIter_kept | apply runLay_kept

theorem execSkewStat_kept {pq : List Instr} {t : Fin 160} {s : State} (hs : (s).Kept pq) :
    OutKept pq (execSkewStat t s) := by
  unfold execSkewStat
  repeat' with_reducible first | assumption | apply laySkewStatIter_kept | apply runLay_kept

theorem execPack24_kept {pq : List Instr} {t : Fin 160} {s : State} (hs : (s).Kept pq) :
    OutKept pq (execPack24 t s) := by
  unfold execPack24
  repeat' with_reducible first | assumption | apply layPack24Iter_kept | apply runLay_kept

theorem execQuant_kept {pq : List Instr} {t : Fin 160} {s : State} (hs : (s).Kept pq) :
    OutKept pq (execQuant t s) := by
  unfold execQuant
  repeat' with_reducible first | assumption | apply layQuantIter_kept | apply runLay_kept

theorem execDequant_kept {pq : List Instr} {t : Fin 160} {s : State} (hs : (s).Kept pq) :
    OutKept pq (execDequant t s) := by
  unfold execDequant
  repeat' with_reducible first | assumption | apply layQuantIter_kept | apply runLay_kept

theorem execRowquant_kept {pq : List Instr} {t : Fin 160} {s : State} (hs : (s).Kept pq) :
    OutKept pq (execRowquant t s) := by
  unfold execRowquant
  repeat' with_reducible first | assumption | apply layRowQuantIter_kept | apply runLay_kept

theorem execTilePack_kept {pq : List Instr} {t : Fin 160} {s : State} (hs : (s).Kept pq) :
    OutKept pq (execTilePack t s) := by
  unfold execTilePack
  repeat' with_reducible first | assumption | apply layTilePackIter_kept | apply runLay_kept

theorem execTileUnpack_kept {pq : List Instr} {t : Fin 160} {s : State} (hs : (s).Kept pq) :
    OutKept pq (execTileUnpack t s) := by
  unfold execTileUnpack
  repeat' with_reducible first | assumption | apply layTileUnpackIter_kept | apply runLay_kept

theorem execBlocklist_kept {pq : List Instr} {t : Fin 160} {s : State} (hs : (s).Kept pq) :
    OutKept pq (execBlocklist t s) := by
  unfold execBlocklist
  repeat' with_reducible first | assumption | apply layBlockListIter_kept | apply runLay_kept

theorem execLayInflightRelease_kept {pq : List Instr} {t : Fin 160} {s : State} (hs : (s).Kept pq) :
    OutKept pq (execLayInflightRelease t s) := by
  unfold execLayInflightRelease
  try dsimp only
  repeat' first
    | with_reducible first | assumption | apply Blk_sat_kept | apply delScr_kept | apply kept_next
    | split


/-! ### Matrix -/

theorem setArr_kept {pq : List Instr} {s : State} {t : Fin 160} {a : Fin 2} {x : Arr} (hs : (s).Kept pq) :
    (setArr s t a x).Kept pq := by
  unfold setArr
  repeat' first
    | intro _
    | with_reducible first | assumption | apply Blk_wr_kept | apply wr_kept
    | simp only [kept_upd]
    | (simp only [kept_mk]; refine ⟨?_, ?_, ?_, ?_, ?_⟩)

theorem mxaConfigIter_kept {pq : List Instr} {t : Fin 160} {a : Fin 2} {s : State} {st : Step} (hs : (s).Kept pq) :
    (mxaConfigIter t a s st).state.Kept pq := by
  unfold mxaConfigIter
  repeat' first
    | intro _
    | with_reducible first | assumption | apply Blk_event_kept | apply Blk_raise_kept | apply Blk_wr_kept | apply fetchSpans_kept | apply noteStatus_kept | apply readSpans_kept | apply setRec_kept | apply wr_kept | apply kept_ite | apply kept_ite_iter | apply kept_ite_out | apply kept_ite_opt | apply kept_stop | apply kept_ite_end | apply kept_ran | apply kept_hold
    | simp only [kept_pair]
    | simp only [kept_triple]
    | simp only [kept_snd2]
    | simp only [kept_snd]

theorem readEntries_kept {pq : List Instr} {s : State} {q : SeqId} {r : MxaRec} {l : List Nat} (hs : (s).Kept pq) :
    (readEntries s q r l).Kept pq := by
  unfold readEntries
  repeat' first
    | intro _
    | with_reducible first | assumption | apply readOp_kept | apply setScr_kept | apply forEach_kept
    | simp only [kept_pair]
    | simp only [kept_triple]
    | simp only [kept_snd2]
    | simp only [kept_snd]

theorem mxaCheck_kept {pq : List Instr} {t : Fin 160} {a : Fin 2} {r : MxaRec} {slots : List (List Nat)} {codes : List (List Nat)} {s : State} (hs : (s).Kept pq) :
    PairKept pq (mxaCheck t a r slots codes s) := by
  unfold mxaCheck
  repeat' first
    | intro _
    | with_reducible first | assumption | apply Blk_event_kept | apply Blk_raise_kept | apply Blk_sat_kept | apply noteStatus_kept | apply kept_foldl | apply kept_foldl_pair | apply kept_foldl_triple | apply kept_ite
    | simp only [kept_pair]
    | simp only [kept_triple]
    | simp only [kept_snd2]
    | simp only [kept_snd]

theorem loadTile_kept {pq : List Instr} {t : Fin 160} {a : Fin 2} {r : MxaRec} {diag : Bool} {addr : Nat} {ep : Option Nat} {s : State} (hs : (s).Kept pq) :
    (loadTile t a r diag addr ep s).Kept pq := by
  unfold loadTile
  repeat' first
    | intro _
    | with_reducible first | assumption | apply mxaCheck_kept | apply readOp_kept | apply readSpans_kept | apply setArr_kept | apply kept_ite | apply kept_ite_pair | apply kept_ite_triple | apply kept_some | exact kept_none
    | simp only [kept_pair]
    | simp only [kept_triple]
    | simp only [kept_snd2]
    | simp only [kept_snd]

theorem mxaLoadIter_kept {pq : List Instr} {t : Fin 160} {a : Fin 2} {s : State} {st : Step} (hs : (s).Kept pq) :
    (mxaLoadIter t a s st).state.Kept pq := by
  unfold mxaLoadIter
  repeat' first
    | intro _
    | with_reducible first | assumption | apply Blk_add_kept | apply Blk_raise_kept | apply fetchSpans_kept | apply loadTile_kept | apply noteStatus_kept | apply readEntries_kept | apply kept_stop | apply kept_ite_end | apply kept_ran | apply kept_hold
    | simp only
    | simp only [kept_triple]
    | simp only [kept_snd2]
    | simp only [kept_snd]
    | split

theorem loadFor_kept {pq : List Instr} {t : Fin 160} {a : Fin 2} {r : MxaRec} {st : Step} {it : Nat × Nat × Nat} {diag : Bool} {s : State} (hs : (s).Kept pq) :
    (loadFor t a r st it diag s).Kept pq := by
  unfold loadFor
  try dsimp only
  repeat' first
    | intro _
    | with_reducible first | assumption | apply loadTile_kept
    | simp only [kept_upd]
    | (simp only [kept_mk]; refine ⟨?_, ?_, ?_, ?_, ?_⟩)
    | split
    | dsimp only

theorem loadNext_kept {pq : List Instr} {t : Fin 160} {a : Fin 2} {r : MxaRec} {st : Step} {s : State} (hs : (s).Kept pq) :
    (loadNext t a r st s).Kept pq := by
  unfold loadNext
  repeat' first
    | intro _
    | with_reducible first | assumption | apply loadFor_kept
    | split

theorem readHead_kept {pq : List Instr} {t : Fin 160} {a : Fin 2} {s : State} (hs : (s).Kept pq) :
    (readHead t a s).Kept pq := by
  unfold readHead
  repeat' first
    | intro _
    | with_reducible first | assumption | apply readOp_kept | apply setScr_kept | apply forEach_kept | apply kept_ite
    | simp only [kept_pair]
    | simp only [kept_triple]
    | simp only [kept_snd2]
    | simp only [kept_snd]

theorem psumCols_kept {pq : List Instr} {fmt : Nat} {e : Nat} {o : Nat} {bs : List Byte} {s : State} (hs : (s).Kept pq) :
    PairKept pq (psumCols fmt e o bs s) := by
  unfold psumCols
  repeat' first
    | with_reducible first | assumption | apply freeBytes_kept | apply kept_ite_pair
    | simp only [kept_pair]
    | simp only [kept_snd]

theorem drainVectors_kept {pq : List Instr} {t : Fin 160} {a : Fin 2} {p : Plan} {st : Step} {h : Head} {e : Nat} {raise : Nat} {ch : Option (List NumVal)} {tile : Option ArrTile} {lines : List (Nat × Nat)} {x1 : Nat} {x2 : Nat} {x3 : Tally} {x4 : State} (hx4 : (x4).Kept pq) :
    PairKept pq (drainVectors t a p st h e raise ch tile lines x1 x2 x3 x4) := by
  fun_induction drainVectors t a p st h e raise ch tile lines x1 x2 x3 x4
  repeat' first
    | with_reducible first | apply_assumption -exfalso -symm | apply Blk_sat_kept | apply freeBytes_kept | apply readOp_kept | apply writeOp_kept | apply psumCols_kept | apply kept_ite | apply kept_ite_pair | apply kept_ite_triple
    | simp only [kept_pair]
    | simp only [kept_triple]
    | simp only [kept_snd2]
    | simp only [kept_snd]
    | dsimp +zetaDelta only

theorem streamIter_kept {pq : List Instr} {t : Fin 160} {a : Fin 2} {p : Plan} {st : Step} {tile : Option ArrTile} {s : State} (hs : (s).Kept pq) :
    (streamIter t a p st tile s).Kept pq := by
  unfold streamIter
  repeat' first
    | intro _
    | with_reducible first | assumption | apply Blk_event_kept | apply Blk_raise_kept | apply Blk_sat_kept | apply drainVectors_kept | apply readOp_kept | apply readSpans_kept | apply seqEnergy_kept | apply setScr_kept | apply writeOp_kept | apply kept_ite | apply kept_ite_pair | apply kept_ite_triple | apply kept_some | exact kept_none
    | simp only [kept_pair]
    | simp only [kept_triple]
    | simp only [kept_snd2]
    | simp only [kept_snd]

theorem endPass_kept {pq : List Instr} {t : Fin 160} {a : Fin 2} {r : MxaRec} {st : Step} {s : State} (hs : (s).Kept pq) :
    (endPass t a r st s).Kept pq := by
  unfold endPass
  repeat' first
    | intro _
    | with_reducible first | assumption | apply Blk_wr_kept | apply wr_kept | apply writeOp_kept | apply kept_ite

theorem mxaPassIter_kept {pq : List Instr} {t : Fin 160} {a : Fin 2} {s : State} {st : Step} (hs : (s).Kept pq) :
    (mxaPassIter t a s st).state.Kept pq := by
  unfold mxaPassIter
  repeat' first
    | intro _
    | with_reducible first | assumption | apply Blk_add_kept | apply Blk_event_kept | apply Blk_raise_kept | apply Blk_sat_kept | apply endPass_kept | apply fetchSpans_kept | apply loadNext_kept | apply modSeq_kept | apply noteStatus_kept | apply readEntries_kept | apply readHead_kept | apply setArr_kept | apply streamIter_kept | apply kept_ite | apply kept_ite_iter | apply kept_ite_out | apply kept_ite_opt | apply kept_stop | apply kept_ite_end | apply kept_ran | apply kept_hold
    | simp only
    | simp only [kept_triple]
    | simp only [kept_snd2]
    | simp only [kept_snd]
    | split

theorem verdictStands_kept {pq : List Instr} {t : Fin 160} {a : Fin 2} {s : State} (hs : (s).Kept pq) :
    (verdictStands t a s).Kept pq := by
  unfold verdictStands
  repeat' first
    | intro _
    | with_reducible first | assumption | apply Blk_event_kept | apply Blk_raise_kept | apply Blk_sat_kept | apply noteStatus_kept | apply kept_ite

theorem countReplay_kept {pq : List Instr} {s : State} {q : SeqId} (hs : (s).Kept pq) :
    (countReplay s q).Kept pq := by
  unfold countReplay
  repeat' first
    | intro _
    | with_reducible first | assumption | apply Blk_event_kept | apply Blk_raise_kept | apply Blk_sat_kept | apply modSeq_kept | apply kept_ite

theorem verdictIter_kept {pq : List Instr} {t : Fin 160} {a : Fin 2} {s : State} {st : Step} (hs : (s).Kept pq) :
    (verdictIter t a s st).state.Kept pq := by
  unfold verdictIter
  try dsimp only
  repeat' first
    | intro _
    | with_reducible first | assumption | apply Blk_event_kept | apply Blk_sat_kept | apply Blk_wr_kept | apply countReplay_kept | apply delScr_kept | apply endPass_kept | apply loadFor_kept | apply loadNext_kept | apply modSeq_kept | apply setScr_kept | apply verdictStands_kept | apply wr_kept | apply kept_next | exact kept_fault | exact kept_refused | apply kept_go | apply kept_stop | apply kept_ite_end | apply kept_ran | apply kept_hold
    | simp only [kept_upd]
    | (simp only [kept_mk]; refine ⟨?_, ?_, ?_, ?_, ?_⟩)
    | split
    | dsimp only

theorem execMxaConfig_kept {pq : List Instr} {t : Fin 160} {a : Fin 2} {s : State} (hs : (s).Kept pq) :
    OutKept pq (execMxaConfig t a s) := by
  unfold execMxaConfig
  repeat' first
    | intro _
    | with_reducible first | assumption | apply mxaConfigIter_kept | apply runIter_kept | apply kept_next | exact kept_fault | exact kept_refused | apply kept_go

theorem execMxaLoad_kept {pq : List Instr} {t : Fin 160} {a : Fin 2} {s : State} (hs : (s).Kept pq) :
    OutKept pq (execMxaLoad t a s) := by
  unfold execMxaLoad
  repeat' first
    | intro _
    | with_reducible first | assumption | apply mxaLoadIter_kept | apply runIter_kept | apply kept_next | exact kept_fault | exact kept_refused | apply kept_go

theorem execMxaPass_kept {pq : List Instr} {t : Fin 160} {a : Fin 2} {s : State} (hs : (s).Kept pq) :
    OutKept pq (execMxaPass t a s) := by
  unfold execMxaPass
  repeat' first
    | intro _
    | with_reducible first | assumption | apply mxaPassIter_kept | apply runIter_kept | apply kept_next | exact kept_fault | exact kept_refused | apply kept_go

theorem execDrainVerdict_kept {pq : List Instr} {t : Fin 160} {a : Fin 2} {s : State} (hs : (s).Kept pq) :
    OutKept pq (execDrainVerdict t a s) := by
  unfold execDrainVerdict
  repeat' first
    | intro _
    | with_reducible first | assumption | apply runIter_kept | apply verdictIter_kept | apply kept_next | exact kept_fault | exact kept_refused | apply kept_go


/-! ### Updates -/

theorem embSend_kept {pq : List Instr} {d : Fin 2} {j : Fin 4} {a : Nat} {bs : List Byte} {flag : Bool} {ep : Option Nat} {iso : Option Bool} {s : State} (hs : (s).Kept pq) :
    (embSend d j a bs flag ep iso s).Kept pq := by
  unfold embSend
  repeat' with_reducible first | assumption | apply Blk_add_kept | apply issue_kept | apply kept_ite

theorem embAtomic_kept {pq : List Instr} {d : Fin 2} {j : Fin 4} {op : Nat} {a : Nat} {bs : List Byte} {ep : Nat} {iso : Bool} {tag : Option Nat} {s : State} (hs : (s).Kept pq) :
    (embAtomic d j op a bs ep iso tag s).Kept pq := by
  unfold embAtomic
  repeat' with_reducible first | assumption | apply Blk_add_kept | apply issue_kept

theorem pushRows_kept {pq : List Instr} {d : Fin 2} {j : Fin 4} {r : EmbRec} {s0 : State} {s : State} {k : List Byte → List PushRow → State → IterResult} (hs0 : (s0).Kept pq) (hs : (s).Kept pq) (hk : ∀ (a0 : List Byte) (a1 : List PushRow) (a2 : State), (a2).Kept pq → (k a0 a1 a2).state.Kept pq) :
    (pushRows d j r s0 s k).state.Kept pq := by
  unfold pushRows
  repeat' first
    | intro _
    | with_reducible first | assumption | apply hk | apply readStage_kept

theorem pushHeader_kept {pq : List Instr} {d : Fin 2} {j : Fin 4} {r : EmbRec} {dev : Nat} {det : Bool} {entries : Nat} {iso : Option Bool} {s : State} (hs : (s).Kept pq) :
    (pushHeader d j r dev det entries iso s).Kept pq := by
  unfold pushHeader
  repeat' with_reducible first | assumption | apply embSend_kept

theorem pushDet_kept {pq : List Instr} {d : Fin 2} {j : Fin 4} {r : EmbRec} {dev : Nat} {n : Nat} {w : PushRow} {s : State} (hs : (s).Kept pq) :
    (pushDet d j r dev n w s).Kept pq := by
  unfold pushDet
  repeat' with_reducible first | assumption | apply Blk_sat_kept | apply Blk_event_kept | apply Blk_raise_kept | apply noteStatus_kept | apply tstat_kept | apply embSend_kept | apply kept_ite

theorem pushFast_kept {pq : List Instr} {d : Fin 2} {j : Fin 4} {dev : Nat} {n : Nat} {w : PushRow} {s : State} (hs : (s).Kept pq) :
    (pushFast d j dev n w s).Kept pq := by
  unfold pushFast
  repeat' first
    | with_reducible first | assumption | apply forEach_kept | apply setScr_kept | apply embAtomic_kept
    | intro _

theorem pushRow_kept {pq : List Instr} {d : Fin 2} {j : Fin 4} {r : EmbRec} {dev : Nat} {a : Nat × Nat × State} {w : PushRow} (ha : TripleKept pq (a)) :
    TripleKept pq (pushRow d j r dev a w) := by
  unfold pushRow
  repeat' first
    | with_reducible first | assumption | apply pushDet_kept | apply pushFast_kept | apply kept_ite_triple
    | simp only [kept_triple]
    | simp only [kept_snd2]

theorem pushOwner_kept {pq : List Instr} {d : Fin 2} {j : Fin 4} {r : EmbRec} {ms : List Byte} {rows : List PushRow} {m : Nat} {s : State} (hs : (s).Kept pq) :
    (pushOwner d j r ms rows m s).Kept pq := by
  unfold pushOwner
  repeat' first
    | with_reducible first | assumption | apply setScr_kept | apply pushHeader_kept | apply pushRow_kept | apply kept_foldl_triple | apply kept_ite
    | simp only [kept_triple]
    | simp only [kept_snd2]

theorem pushOwners_kept {pq : List Instr} {d : Fin 2} {j : Fin 4} {r : EmbRec} {ms : List Byte} {rows : List PushRow} {x5 : Nat} {x6 : Nat} {x7 : State} (hx7 : (x7).Kept pq) :
    (pushOwners d j r ms rows x5 x6 x7).Kept pq := by
  fun_induction pushOwners d j r ms rows x5 x6 x7
  repeat' with_reducible first | apply pushOwner_kept | apply setScr_kept | apply_assumption -exfalso -symm

theorem pushEnd_kept {pq : List Instr} {s : State} {q : SeqId} (hs : (s).Kept pq) :
    (pushEnd s q).Kept pq := by
  unfold pushEnd
  repeat' with_reducible first | assumption | apply delScr_kept

theorem pushIter_kept {pq : List Instr} {d : Fin 2} {j : Fin 4} {r : EmbRec} {s : State} {st : Step} (hs : (s).Kept pq) :
    (pushIter d j r s st).state.Kept pq := by
  unfold pushIter
  repeat' first
    | with_reducible first | assumption | apply retireStep_kept | apply pushRows_kept | apply pushOwners_kept | apply pushEnd_kept | apply kept_ite_iter | apply kept_ran | apply kept_hold
    | intro _

theorem pushStage_kept {pq : List Instr} {d : Fin 2} {j : Fin 4} {s : State} (hs : (s).Kept pq) :
    (pushStage d j s).Kept pq := by
  unfold pushStage
  try dsimp only
  repeat' first
    | intro _
    | with_reducible first | assumption | apply embAtomic_kept | apply embSend_kept | apply issue_kept | apply modSeq_kept | apply setScr_kept | apply forEach_kept
    | split

theorem pushAdvance_kept {pq : List Instr} {d : Fin 2} {j : Fin 4} {r : EmbRec} {ms : List Byte} {x4 : Nat} {x5 : State} (hx5 : (x5).Kept pq) :
    (pushAdvance d j r ms x4 x5).Kept pq := by
  fun_induction pushAdvance d j r ms x4 x5
  repeat' with_reducible first | apply modSeq_kept | apply pushHeader_kept | apply pushStage_kept | apply_assumption -exfalso -symm

theorem pushRepliesIter_kept {pq : List Instr} {d : Fin 2} {j : Fin 4} {r : EmbRec} {s : State} {st : Step} (hs : (s).Kept pq) :
    (pushRepliesIter d j r s st).state.Kept pq := by
  unfold pushRepliesIter
  repeat' first
    | intro _
    | with_reducible first | assumption | apply pushAdvance_kept | apply pushEnd_kept | apply readStage_kept | apply kept_ite_iter | apply kept_ran | apply kept_hold

theorem embHeaderArrive_kept {pq : List Instr} {d : Fin 2} {j : Fin 4} {m : Nat} {s : State} (hs : (s).Kept pq) :
    (embHeaderArrive d j m s).Kept pq := by
  unfold embHeaderArrive
  try dsimp only
  repeat' first
    | with_reducible first | assumption | apply Blk_add_kept | apply Blk_event_kept | apply Blk_sat_kept | apply setEmb_kept
    | split

theorem addCandidate_kept {pq : List Instr} {d : Fin 2} {j : Fin 4} {r : EmbRec} {t : TableDesc} {c : Nat} {key : Nat} {s : State} (hs : (s).Kept pq) :
    (addCandidate d j r t c key s).Kept pq := by
  unfold addCandidate
  repeat' with_reducible first | assumption | apply setEmb_kept | apply kept_ite

theorem noteSkew_kept {pq : List Instr} {d : Fin 2} {j : Fin 4} {r : EmbRec} {snap : List (Nat × Byte)} {s : State} (hs : (s).Kept pq) :
    (noteSkew d j r snap s).Kept pq := by
  unfold noteSkew
  repeat' first
    | intro _
    | with_reducible first | assumption | apply forEach_kept | apply setScr_kept | apply kept_ite

theorem storeVersion_kept {pq : List Instr} {d : Fin 2} {j : Fin 4} {e : ShardEnt} {t : TableDesc} {rec_ : Nat} {v : Nat} {s : State} (hs : (s).Kept pq) :
    (storeVersion d j e t rec_ v s).Kept pq := by
  unfold storeVersion
  repeat' with_reducible first | assumption | apply issue_kept

theorem applyRow_kept {pq : List Instr} {d : Fin 2} {j : Fin 4} {r : EmbRec} {s0 : State} {s : State} {w : ApplyRow} {k : State → IterResult} (hs0 : (s0).Kept pq) (hs : (s).Kept pq) (hk : ∀ (a0 : State), (a0).Kept pq → (k a0).state.Kept pq) :
    (applyRow d j r s0 s w k).state.Kept pq := by
  unfold applyRow
  repeat' first
    | with_reducible first | assumption | apply hk | apply Blk_add_kept | apply readStage_kept | apply shardWrite_kept | apply boundTver_kept | apply addCandidate_kept | apply noteSkew_kept | apply storeVersion_kept | apply kept_ite | apply kept_ite_iter
    | intro _
    | simp only [kept_snd]

theorem applyRows_kept {pq : List Instr} {d : Fin 2} {j : Fin 4} {r : EmbRec} {s0 : State} {x4 : List ApplyRow} {x5 : State} {x6 : State → IterResult} (hs0 : (s0).Kept pq) (hx5 : (x5).Kept pq) (hx6 : ∀ (a0 : State), (a0).Kept pq → (x6 a0).state.Kept pq) :
    (applyRows d j r s0 x4 x5 x6).state.Kept pq := by
  fun_induction applyRows d j r s0 x4 x5 x6
  repeat' first
    | intro _
    | with_reducible first | apply applyRow_kept | apply_assumption -exfalso -symm

theorem applyDet_kept {pq : List Instr} {d : Fin 2} {j : Fin 4} {r : EmbRec} {s0 : State} {s : State} {st : Step} (hs0 : (s0).Kept pq) (hs : (s).Kept pq) :
    (applyDet d j r s0 s st).state.Kept pq := by
  unfold applyDet
  repeat' first
    | intro _
    | with_reducible first | assumption | apply Blk_event_kept | apply Blk_sat_kept | apply applyRows_kept | apply readStage_kept | apply setScr_kept | apply tstat_kept | apply forEach_kept | apply kept_ran

theorem applyFast_kept {pq : List Instr} {d : Fin 2} {j : Fin 4} {r : EmbRec} {s0 : State} {s : State} {st : Step} (hs0 : (s0).Kept pq) (hs : (s).Kept pq) :
    (applyFast d j r s0 s st).state.Kept pq := by
  unfold applyFast
  repeat' first
    | with_reducible first | assumption | apply forEach_kept | apply Blk_sat_kept | apply Blk_event_kept | apply readStage_kept | apply shardWrite_kept | apply boundTver_kept | apply applyRows_kept | apply kept_ite | apply kept_ite_iter | apply kept_ran
    | intro _
    | simp only [kept_snd]

theorem applyIter_kept {pq : List Instr} {d : Fin 2} {j : Fin 4} {r : EmbRec} {s : State} {st : Step} (hs : (s).Kept pq) :
    (applyIter d j r s st).state.Kept pq := by
  unfold applyIter
  repeat' first
    | intro _
    | with_reducible first | assumption | apply setScr_kept | apply setEmb_kept | apply bindDir_kept | apply noteSkew_kept | apply applyFast_kept | apply kept_hold
    | simp only
    | split

theorem updatesReceivedIter_kept {pq : List Instr} {d : Fin 2} {j : Fin 4} {r : EmbRec} {s : State} {st : Step} (hs : (s).Kept pq) :
    (updatesReceivedIter d j r s st).state.Kept pq := by
  unfold updatesReceivedIter
  repeat' with_reducible first | assumption | apply applyDet_kept | apply kept_ite_iter | apply kept_hold

theorem embTimeoutIter_kept {pq : List Instr} {d : Fin 2} {j : Fin 4} {r : EmbRec} {s : State} {st : Step} (hs : (s).Kept pq) :
    (embTimeoutIter d j r s st).state.Kept pq := by
  unfold embTimeoutIter
  repeat' with_reducible first | assumption | apply Blk_event_kept | apply Blk_raise_kept | apply applyDet_kept | apply noteStatus_kept | apply kept_ite_iter | apply kept_hold

theorem refreshIter_kept {pq : List Instr} {d : Fin 2} {j : Fin 4} {r : EmbRec} {s : State} {st : Step} (hs : (s).Kept pq) :
    (refreshIter d j r s st).state.Kept pq := by
  unfold refreshIter
  repeat' first
    | with_reducible first | assumption | apply forEach_kept | apply Blk_sat_kept | apply retireStep_kept | apply readStage_kept | apply tstat_kept | apply embSend_kept | apply kept_ite_iter | apply kept_ran | apply kept_hold
    | intro _

theorem execPush_kept {pq : List Instr} {d : Fin 2} {j : Fin 4} {s : State} (hs : (s).Kept pq) :
    OutKept pq (execPush d j s) := by
  unfold execPush
  repeat' with_reducible first | assumption | apply pushIter_kept | apply runEmb_kept

theorem execPushRepliesDone_kept {pq : List Instr} {d : Fin 2} {j : Fin 4} {s : State} (hs : (s).Kept pq) :
    OutKept pq (execPushRepliesDone d j s) := by
  unfold execPushRepliesDone
  repeat' with_reducible first | assumption | apply pushRepliesIter_kept | apply runEmb_kept

theorem execEmbHeaderArrive_kept {pq : List Instr} {d : Fin 2} {j : Fin 4} {m : Nat} {s : State} (hs : (s).Kept pq) :
    OutKept pq (execEmbHeaderArrive d j m s) := by
  unfold execEmbHeaderArrive
  repeat' with_reducible first | assumption | apply embHeaderArrive_kept | apply kept_next

theorem execApply_kept {pq : List Instr} {d : Fin 2} {j : Fin 4} {s : State} (hs : (s).Kept pq) :
    OutKept pq (execApply d j s) := by
  unfold execApply
  repeat' with_reducible first | assumption | apply applyIter_kept | apply runEmb_kept

theorem execEmbUpdateHeadersReceived_kept {pq : List Instr} {d : Fin 2} {j : Fin 4} {s : State} (hs : (s).Kept pq) :
    OutKept pq (execEmbUpdateHeadersReceived d j s) := by
  unfold execEmbUpdateHeadersReceived
  repeat' with_reducible first | assumption | apply runEmb_kept | apply updatesReceivedIter_kept

theorem execEmbPhaseTimeout_kept {pq : List Instr} {d : Fin 2} {j : Fin 4} {s : State} (hs : (s).Kept pq) :
    OutKept pq (execEmbPhaseTimeout d j s) := by
  unfold execEmbPhaseTimeout
  repeat' with_reducible first | assumption | apply embTimeoutIter_kept | apply runEmb_kept

theorem execRefresh_kept {pq : List Instr} {d : Fin 2} {j : Fin 4} {s : State} (hs : (s).Kept pq) :
    OutKept pq (execRefresh d j s) := by
  unfold execRefresh
  repeat' with_reducible first | assumption | apply refreshIter_kept | apply runEmb_kept


/-! ### Optimiser -/

theorem optMisplaced_kept {pq : List Instr} {s : State} {d : Fin 2} {j : Fin 4} (hs : (s).Kept pq) :
    (optMisplaced s d j).Kept pq := by
  unfold optMisplaced
  repeat' with_reducible first | assumption | apply Blk_countErr_kept | apply noteStatus_kept

theorem optConfigIter_kept {pq : List Instr} {d : Fin 2} {j : Fin 4} {s : State} {st : Step} (hs : s.Kept pq) :
    (optConfigIter d j s st).state.Kept pq := by
  unfold optConfigIter
  dsimp only
  split
  · exact kept_ran (optMisplaced_kept hs)
  · split
    · rename_i t aD e
      have h : t.Kept pq := by
        refine kept_of_ran e (configIter_kept ?_ hs)
        intro u l k hu hk
        split
        · exact hk _ _ hu
        · exact hk _ _ (setScr_kept hu)
      exact kept_ran (kept_ite (setRec_kept (delScr_kept h)) h)
    · rename_i t e
      refine kept_hold (kept_of_hold e (configIter_kept ?_ hs))
      intro u l k hu hk
      split
      · exact hk _ _ hu
      · exact hk _ _ (setScr_kept hu)

theorem optUnder_kept {pq : List Instr} {d : Fin 2} {j : Fin 4} {body : OptRec → State → Step → IterResult} {s : State} {st : Step} (hbody : ∀ (a0 : OptRec) (a1 : State) (a2 : Step), (a1).Kept pq → (body a0 a1 a2).state.Kept pq) (hs : (s).Kept pq) :
    (optUnder d j body s st).state.Kept pq := by
  unfold optUnder
  repeat' first
    | with_reducible first | assumption | apply hbody | apply noteStatus_kept | apply retireStep_kept | apply idleIter_kept | apply kept_ite_iter | apply kept_hold
    | split

theorem boundShard_kept {pq : List Instr} {d : Fin 2} {j : Fin 4} {r : OptRec} {st : Step} {s : State} (hs : (s).Kept pq) :
    (boundShard d j r st s).Kept pq := by
  unfold boundShard
  repeat' with_reducible first | assumption | apply Blk_wr_kept | apply Blk_countErr_kept | apply modSeq_kept | apply noteStatus_kept | apply setScr_kept | apply kept_ite

theorem writeWork_kept {pq : List Instr} {d : Fin 2} {j : Fin 4} {r : OptRec} {k : Nat} {w : List NumVal} {s : State} (hs : (s).Kept pq) :
    (writeWork d j r k w s).Kept pq := by
  unfold writeWork
  repeat' with_reducible first | assumption | apply Blk_event_kept | apply Blk_sat_kept | apply locWrite_kept | apply kept_ite

theorem pieceEntry_kept {pq : List Instr} {d : Fin 2} {j : Fin 4} {r : OptRec} {k : Nat} {s : State} (hs : (s).Kept pq) :
    (pieceEntry d j r k s).state.Kept pq := by
  unfold pieceEntry
  repeat' with_reducible first | assumption | apply setScr_kept | apply kept_ran

theorem pieceDone_kept {pq : List Instr} {d : Fin 2} {j : Fin 4} {r : OptRec} {k : Nat} {s : State} (hs : (s).Kept pq) :
    (pieceDone d j r k s).state.Kept pq := by
  unfold pieceDone
  repeat' with_reducible first | assumption | apply Blk_add_kept | apply pieceEntry_kept

theorem stepWords_kept {pq : List Instr} {d : Fin 2} {j : Fin 4} {r : OptRec} {s0 : State} {s : State} {k : Nat → Nat → State → IterResult} (hs0 : (s0).Kept pq) (hs : (s).Kept pq) (hk : ∀ (a0 : Nat) (a1 : Nat) (a2 : State), (a2).Kept pq → (k a0 a1 a2).state.Kept pq) :
    (stepWords d j r s0 s k).state.Kept pq := by
  unfold stepWords
  try dsimp only
  repeat' first
    | intro _
    | with_reducible first | assumption | apply hk | apply Blk_event_kept | apply Blk_put_kept | apply Blk_sat_kept | apply Blk_wr_kept | apply readStage_kept | apply setScr_kept
    | split

theorem updateIter_kept {pq : List Instr} {d : Fin 2} {j : Fin 4} {r : OptRec} {s : State} {st : Step} (hs : (s).Kept pq) :
    (updateIter d j r s st).state.Kept pq := by
  unfold updateIter
  repeat' first
    | with_reducible first | assumption | apply Blk_sat_kept | apply Blk_add_kept | apply Blk_event_kept | apply Blk_raise_kept | apply noteStatus_kept | apply retireStep_kept | apply takeIter_kept | apply readStage_kept | apply locWrite_kept | apply optMisplaced_kept | apply boundShard_kept | apply writeWork_kept | apply pieceEntry_kept | apply pieceDone_kept | apply stepWords_kept | apply kept_ite | apply kept_ite_iter | apply kept_hold
    | intro _

theorem castIter_kept {pq : List Instr} {d : Fin 2} {j : Fin 4} {r : OptRec} {s : State} {st : Step} (hs : (s).Kept pq) :
    (castIter d j r s st).state.Kept pq := by
  unfold castIter
  repeat' first
    | with_reducible first | assumption | apply retireStep_kept | apply readStage_kept | apply optMisplaced_kept | apply boundShard_kept | apply writeWork_kept | apply pieceEntry_kept | apply pieceDone_kept | apply kept_ite_iter | apply kept_hold
    | intro _

theorem copyFrom_kept {pq : List Instr} {d : Fin 2} {j : Fin 4} {src : Nat} {dst : Nat} {len : Nat} {epA : Option Nat} {epD : Option Nat} {fmt : Nat} {x8 : Nat} {x9 : Nat} {x10 : State} (hx10 : (x10).Kept pq) :
    PairKept pq (copyFrom d j src dst len epA epD fmt x8 x9 x10) := by
  fun_induction copyFrom d j src dst len epA epD fmt x8 x9 x10
  repeat' first
    | with_reducible first | apply Blk_add_kept | apply dropBuf_kept | apply nearRead_kept | apply setScr_kept | apply writeOp_kept | apply_assumption -exfalso -symm | refine kept_of_pair (by assumption) ?_
    | simp only [kept_pair]

theorem optCopyIter_kept {pq : List Instr} {d : Fin 2} {j : Fin 4} {s : State} {st : Step} (hs : (s).Kept pq) :
    (optCopyIter d j s st).state.Kept pq := by
  unfold optCopyIter
  repeat' first
    | with_reducible first | assumption | apply Blk_wr_kept | apply copyFrom_kept | apply delScr_kept | apply noteStatus_kept | apply kept_ran | apply kept_hold
    | simp only [kept_snd]
    | split

theorem execOptConfig_kept {pq : List Instr} {d : Fin 2} {j : Fin 4} {s : State} (hs : (s).Kept pq) :
    OutKept pq (execOptConfig d j s) := by
  unfold execOptConfig
  repeat' with_reducible first | assumption | apply optConfigIter_kept | apply runIter_kept | apply kept_next

theorem execUpdate_kept {pq : List Instr} {d : Fin 2} {j : Fin 4} {s : State} (hs : (s).Kept pq) :
    OutKept pq (execUpdate d j s) := by
  unfold execUpdate
  repeat' first
    | intro _
    | with_reducible first | assumption | apply optUnder_kept | apply runIter_kept | apply updateIter_kept | apply kept_next

theorem execCast_kept {pq : List Instr} {d : Fin 2} {j : Fin 4} {s : State} (hs : (s).Kept pq) :
    OutKept pq (execCast d j s) := by
  unfold execCast
  repeat' first
    | intro _
    | with_reducible first | assumption | apply castIter_kept | apply optUnder_kept | apply runIter_kept | apply kept_next

theorem execOptCopy_kept {pq : List Instr} {d : Fin 2} {j : Fin 4} {s : State} (hs : (s).Kept pq) :
    OutKept pq (execOptCopy d j s) := by
  unfold execOptCopy
  repeat' with_reducible first | assumption | apply optCopyIter_kept | apply runIter_kept | apply kept_next


/-! ### PoolOps -/

theorem allocIter_kept {pq : List Instr} {d : Fin 2} {s : State} {st : Step} (hs : (s).Kept pq) :
    (allocIter d s st).state.Kept pq := by
  unfold allocIter
  repeat' first
    | with_reducible first | assumption | apply delScr_kept | apply engineAlloc_kept | apply noteStatus_kept | apply prefetch_kept | apply readAB_kept | apply setScr_kept | refine takeAnswer_kept (by assumption) ?_ | apply writeD_kept | apply kept_ran | apply kept_hold
    | simp only [kept_snd2]
    | simp only [kept_snd]
    | split

theorem freeIter_kept {pq : List Instr} {d : Fin 2} {s : State} {st : Step} (hs : (s).Kept pq) :
    (freeIter d s st).state.Kept pq := by
  unfold freeIter
  repeat' first
    | with_reducible first | assumption | apply noteStatus_kept | apply freeHandle_kept | apply prefetch_kept | apply readAB_kept | apply kept_ite | apply kept_ite_iter | apply kept_ran | apply kept_hold
    | simp only [kept_snd2]
    | simp only [kept_snd]

theorem execBpmAllocOp_kept {pq : List Instr} {d : Fin 2} {s : State} (hs : (s).Kept pq) :
    OutKept pq (execBpmAllocOp d s) := by
  unfold execBpmAllocOp
  repeat' with_reducible first | assumption | apply allocIter_kept | apply runIter_kept | apply kept_next

theorem execBpmFreeOp_kept {pq : List Instr} {d : Fin 2} {s : State} (hs : (s).Kept pq) :
    OutKept pq (execBpmFreeOp d s) := by
  unfold execBpmFreeOp
  repeat' with_reducible first | assumption | apply freeIter_kept | apply runIter_kept | apply kept_next


/-! ### Loader -/

theorem copyImage_kept {pq : List Instr} {s : State} {im : Image} {raw : List (List Byte)} (hs : (s).Kept pq) :
    (copyImage s im raw).Kept pq := by
  unfold copyImage
  repeat' with_reducible first | assumption | apply writeBytes_kept

theorem writeBindings_kept {pq : List Instr} {s : State} {im : Image} (hs : (s).Kept pq) :
    (writeBindings s im).Kept pq := by
  unfold writeBindings
  repeat' first
    | intro _
    | with_reducible first | assumption | apply Blk_wr_kept | apply writeBytes_kept | apply forEach_kept
    | split

theorem writeTileSets_kept {pq : List Instr} {s : State} {im : Image} (hs : (s).Kept pq) :
    (writeTileSets s im).Kept pq := by
  unfold writeTileSets
  repeat' first
    | intro _
    | with_reducible first | assumption | apply Blk_put_kept | apply Blk_wr_kept | apply zeroTileCounters_kept | apply forEach_kept
    | simp only [kept_upd]
    | split

theorem loaderFlag_kept {pq : List Instr} {s : State} {c : Cmd} (hs : (s).Kept pq) :
    (loaderFlag s c).Kept pq := by
  unfold loaderFlag
  repeat' with_reducible first | assumption | apply Blk_raise_kept | apply issue_kept | apply kept_ite

theorem acceptImage_kept {pq : List Instr} {s : State} {im : Image} {raw : List (List Byte)} (hs : (s).Kept pq) :
    (acceptImage s im raw).Kept pq := by
  unfold acceptImage
  repeat' first
    | with_reducible first | assumption | apply copyImage_kept | apply markCode_kept | apply writeBindings_kept | apply writeResult_kept | apply writeTileSets_kept
    | simp only [kept_upd]

theorem execLoaderLoad_kept {pq : List Instr} {k : Fin 16} {block : List Byte} {binds : List LoadBind} {s : State} (hs : (s).Kept pq) :
    OutKept pq (execLoaderLoad k block binds s) := by
  unfold execLoaderLoad
  try dsimp only
  repeat' first
    | with_reducible first | assumption | apply Blk_countErr_kept | apply acceptImage_kept | apply loaderFlag_kept | apply writeResult_kept | apply kept_next
    | split

theorem execLoaderUnload_kept {pq : List Instr} {k : Fin 16} {block : List Byte} {s : State} (hs : (s).Kept pq) :
    OutKept pq (execLoaderUnload k block s) := by
  unfold execLoaderUnload
  repeat' first
    | with_reducible first | assumption | apply fresh_kept | apply loaderFlag_kept | apply unloadImage_kept | apply writeResult_kept | apply kept_next
    | simp only [kept_snd]
    | split


/-! ### Sequencer -/

theorem storeFlag_kept {pq : List Instr} {s : State} {q : SeqId} {c : Cmd} {status : Nat} (hs : (s).Kept pq) :
    (storeFlag s q c status).Kept pq := by
  unfold storeFlag
  repeat' with_reducible first | assumption | apply issue_kept | apply seqRaise_kept | apply kept_ite

theorem advanceHead_kept {pq : List Instr} {s : State} {q : SeqId} (hs : (s).Kept pq) :
    (advanceHead s q).Kept pq := by
  unfold advanceHead
  repeat' first
    | with_reducible first | assumption | apply Blk_wr_kept | apply accessEnergy_kept | apply countAccess_kept | apply secError_kept | apply writeLocal_kept | apply kept_ite
    | simp only [kept_snd]

theorem completeCmd_kept {pq : List Instr} {s : State} {q : SeqId} {c : Cmd} {status : Nat} {origin : Nat} (hs : (s).Kept pq) :
    (completeCmd s q c status origin).Kept pq := by
  unfold completeCmd
  repeat' with_reducible first | assumption | apply Blk_event_kept | apply Blk_wr_kept | apply advanceHead_kept | apply storeFlag_kept | apply kept_ite

theorem holdIntake_kept {pq : List Instr} {s : State} {q : SeqId} (hs : (s).Kept pq) :
    (holdIntake s q).Kept pq := by
  unfold holdIntake
  repeat' with_reducible first | assumption | apply modSeq_kept

theorem nextCmd_kept {pq : List Instr} {s : State} {q : SeqId} (hs : (s).Kept pq) :
    PairKept pq (nextCmd s q) := by
  unfold nextCmd
  repeat' first
    | with_reducible first | assumption | apply countAccess_kept | apply holdIntake_kept | apply readLocal_kept | apply secError_kept | apply seqRaise_kept
    | simp only [kept_pair]
    | simp only [kept_snd]
    | split

theorem badCmd_kept {pq : List Instr} {s : State} {q : SeqId} (hs : (s).Kept pq) :
    (badCmd s q).Kept pq := by
  unfold badCmd
  repeat' with_reducible first | assumption | apply holdIntake_kept | apply seqRaise_kept

theorem schedOrder_kept {pq : List Instr} {s : State} {q : SeqId} (hs : (s).Kept pq) :
    (schedOrder s q).Kept pq := by
  unfold schedOrder
  repeat' with_reducible first | assumption | apply seqRaise_kept | apply holdIntake_kept

theorem execCmdNop_kept {pq : List Instr} {q : SeqId} {s : State} (hs : (s).Kept pq) :
    OutKept pq (execCmdNop q s) := by
  unfold execCmdNop
  repeat' first
    | with_reducible first | assumption | apply completeCmd_kept | apply nextCmd_kept | apply badCmd_kept | apply schedOrder_kept | apply kept_next
    | simp only [kept_snd]
    | split

theorem tableSource_kept {pq : List Instr} {s : State} {q : SeqId} (hs : (s).Kept pq) :
    (tableSource s q).Kept pq := by
  unfold tableSource
  repeat' with_reducible first | assumption | apply holdIntake_kept | apply seqRaise_kept

theorem readCode_kept {pq : List Instr} {s : State} {q : SeqId} {o : Nat} {n : Nat} (hs : (s).Kept pq) :
    PairKept pq (readCode s q o n) := by
  unfold readCode
  repeat' first
    | with_reducible first | assumption | apply readLocal_kept | apply kept_ite_pair
    | simp only [kept_pair]

theorem scheduleOf_kept {pq : List Instr} {s : State} {q : SeqId} {k : Nat} (hs : (s).Kept pq) :
    PairKept pq (scheduleOf s q k) := by
  unfold scheduleOf
  repeat' first
    | with_reducible first | assumption | apply readCode_kept | apply kept_ite_pair
    | simp only [kept_pair]
    | simp only [kept_snd]

theorem tableAt_kept {pq : List Instr} {s : State} {q : SeqId} {list : Nat} {pos : Nat} (hs : (s).Kept pq) :
    PairKept pq (tableAt s q list pos) := by
  unfold tableAt
  repeat' first
    | with_reducible first | assumption | apply readCode_kept
    | simp only [kept_pair]
    | simp only [kept_snd]
    | split

theorem loadTable_kept {pq : List Instr} {s : State} {q : SeqId} {c : Cmd} {t : Table} {nextPos : Nat} (hs : (s).Kept pq) :
    (loadTable s q c t nextPos).Kept pq := by
  unfold loadTable
  repeat' first
    | with_reducible first | assumption | apply Blk_wr_kept | apply modSeq_kept | apply grantCredit_kept | apply kept_ite
    | simp only [kept_upd]

theorem startLoaded_kept {pq : List Instr} {s : State} {q : SeqId} (hs : (s).Kept pq) :
    (startLoaded s q).Kept pq := by
  unfold startLoaded
  repeat' first
    | with_reducible first | assumption | apply Blk_put_kept | apply modSeq_kept | apply loadTable_kept | apply kept_ite
    | split

theorem execCmdRun_kept {pq : List Instr} {q : SeqId} {s : State} (hs : (s).Kept pq) :
    OutKept pq (execCmdRun q s) := by
  unfold execCmdRun
  repeat' first
    | with_reducible first | assumption | apply Blk_wr_kept | apply modSeq_kept | apply completeCmd_kept | apply nextCmd_kept | apply badCmd_kept | apply schedOrder_kept | apply tableSource_kept | apply scheduleOf_kept | apply tableAt_kept | apply loadTable_kept | apply startLoaded_kept | apply kept_next
    | simp only [kept_snd]
    | split

theorem countBound_kept {pq : List Instr} {s : State} {q : SeqId} {st : Step} {max : Nat} (hs : (s).Kept pq) :
    PairKept pq (countBound s q st max) := by
  unfold countBound
  repeat' first
    | with_reducible first | assumption | apply accessEnergy_kept | apply countAccess_kept | apply noteStatus_kept | apply readLocal_kept | apply secError_kept | apply seqRaise_kept
    | simp only [kept_pair]
    | simp only [kept_snd]
    | split

theorem setBounds_kept {pq : List Instr} {s : State} {q : SeqId} (hs : (s).Kept pq) :
    (setBounds s q).Kept pq := by
  unfold setBounds
  repeat' first
    | with_reducible first | assumption | apply countBound_kept | apply modSeq_kept | apply kept_ite_pair
    | simp only [kept_pair]
    | simp only [kept_snd]

theorem execStepWaitMet_kept {pq : List Instr} {q : SeqId} {s : State} (hs : (s).Kept pq) :
    OutKept pq (execStepWaitMet q s) := by
  unfold execStepWaitMet
  repeat' with_reducible first | assumption | apply endWait_kept | apply idleStep_kept | apply modSeq_kept | apply retireStep_kept | apply setBounds_kept | apply takeTokens_kept | apply kept_ite | apply kept_next

theorem execEmitAfterQueueSpace_kept {pq : List Instr} {q : SeqId} {s : State} (hs : (s).Kept pq) :
    OutKept pq (execEmitAfterQueueSpace q s) := by
  unfold execEmitAfterQueueSpace
  repeat' with_reducible first | assumption | apply flushEmits_kept | apply kept_next

theorem execTokenArrive_kept {pq : List Instr} {q : SeqId} {s : State} (hs : (s).Kept pq) :
    OutKept pq (execTokenArrive q s) := by
  unfold execTokenArrive
  repeat' first
    | with_reducible first | assumption | apply arriveToken_kept | apply modSeq_kept | apply kept_next
    | split

theorem execLateTokenLeave_kept {pq : List Instr} {q : SeqId} {s : State} (hs : (s).Kept pq) :
    OutKept pq (execLateTokenLeave q s) := by
  unfold execLateTokenLeave
  try dsimp only
  repeat' first
    | with_reducible first | assumption | apply emitToken_kept | apply modSeq_kept | apply kept_next
    | split

theorem finishTable_kept {pq : List Instr} {s : State} {q : SeqId} (hs : (s).Kept pq) :
    (finishTable s q).Kept pq := by
  unfold finishTable
  repeat' with_reducible first | assumption | apply Blk_wr_kept | apply Blk_put_kept | apply modSeq_kept | apply settle_kept | apply completeCmd_kept | apply startLoaded_kept

theorem execTableComplete_kept {pq : List Instr} {q : SeqId} {s : State} (hs : (s).Kept pq) :
    OutKept pq (execTableComplete q s) := by
  unfold execTableComplete
  repeat' with_reducible first | assumption | apply completionTokens_kept | apply finishTable_kept | apply modSeq_kept | apply kept_ite | apply kept_next

theorem execSeqWaitTimeout_kept {pq : List Instr} {q : SeqId} {s : State} (hs : (s).Kept pq) :
    OutKept pq (execSeqWaitTimeout q s) := by
  unfold execSeqWaitTimeout
  repeat' with_reducible first | assumption | apply endWait_kept | apply modSeq_kept | apply noteStatus_kept | apply seqRaise_kept | apply kept_ite | apply kept_next


/-! ### Tcc -/

theorem fetchDone_kept {pq : List Instr} {s : State} {t : Fin 160} {pc : Nat} (hs : (s).Kept pq) :
    (fetchDone s t pc).Kept pq := by
  unfold fetchDone
  repeat' first
    | with_reducible first | assumption | apply readSpan_kept | apply kept_ite
    | simp only [kept_snd]

theorem ownCount_kept {pq : List Instr} {s : State} {t : Fin 160} {n : Nat} {write : Bool} (hs : (s).Kept pq) :
    (ownCount s t n write).Kept pq := by
  unfold ownCount
  repeat' with_reducible first | assumption | apply Blk_add_kept | apply threadEnergy_kept

theorem farCount_kept {pq : List Instr} {s : State} {t : Fin 160} {a : Nat} {n : Nat} {load : Bool} (hs : (s).Kept pq) :
    (farCount s t a n load).Kept pq := by
  unfold farCount
  repeat' first
    | with_reducible first | assumption | apply Blk_add_kept | apply threadEnergy_kept | apply crossAccess_kept
    | split

theorem complete_kept {pq : List Instr} {s : State} {t : Fin 160} {n : Nat} {rd : Nat} {v : Nat} {len : Nat} (hs : (s).Kept pq) :
    (complete s t n rd v len).Kept pq := by
  unfold complete
  repeat' with_reducible first | assumption | apply modThread_kept

theorem watchHit_kept {pq : List Instr} {s : State} {t : Fin 160} {n : Nat} {a : Nat} {w : Nat} {pc : Nat} {store : Bool} (hs : (s).Kept pq) :
    (watchHit s t n a w pc store).Kept pq := by
  unfold watchHit
  repeat' with_reducible first | assumption | apply debugHit_kept | apply kept_ite

theorem threadAddrForm_kept {pq : List Instr} {s : State} {t : Fin 160} {n : Nat} {rd : Nat} {a : Nat} {len : Nat} (hs : (s).Kept pq) :
    (threadAddrForm s t n rd a len).Kept pq := by
  unfold threadAddrForm
  repeat' first
    | with_reducible first | assumption | apply Blk_raise_kept | apply complete_kept | apply fresh_kept
    | simp only [kept_snd]

theorem parkOn_kept {pq : List Instr} {s : State} {t : Fin 160} {n : Nat} {rd : Nat} {w : Nat} {sg : Bool} {len : Nat} {a : Ask} (hs : (s).Kept pq) :
    (parkOn s t n rd w sg len a).Kept pq := by
  unfold parkOn
  repeat' with_reducible first | assumption | apply issueOne_kept | apply modThread_kept

theorem memAccess_kept {pq : List Instr} {s : State} {t : Fin 160} {n : Nat} {rd : Nat} {a : Nat} {w : Nat} {sg : Bool} {len : Nat} {data : Option (List Byte)} (hs : (s).Kept pq) :
    (memAccess s t n rd a w sg len data).Kept pq := by
  unfold memAccess
  repeat' first
    | with_reducible first | assumption | apply readNm_kept | apply writeLocal_kept | apply threadFault_kept | apply ownCount_kept | apply farCount_kept | apply complete_kept | apply watchHit_kept | apply threadAddrForm_kept | apply parkOn_kept
    | simp only [kept_snd]
    | split

theorem lrSc_kept {pq : List Instr} {s : State} {t : Fin 160} {n : Nat} {rd : Nat} {a : Nat} {w : Nat} {len : Nat} {sc : Option Nat} (hs : (s).Kept pq) :
    (lrSc s t n rd a w len sc).Kept pq := by
  unfold lrSc
  repeat' first
    | with_reducible first | assumption | apply readNm_kept | apply writeLocal_kept | apply modThread_kept | apply threadFault_kept | apply ownCount_kept | apply complete_kept | apply watchHit_kept
    | simp only [kept_snd]
    | split

theorem atomicAccess_kept {pq : List Instr} {s : State} {t : Fin 160} {n : Nat} {rd : Nat} {a : Nat} {op : Nat} {v : Nat} {cmp : Nat} {len : Nat} (hs : (s).Kept pq) :
    (atomicAccess s t n rd a op v cmp len).Kept pq := by
  unfold atomicAccess
  repeat' first
    | with_reducible first | assumption | apply rmwLocal_kept | apply threadFault_kept | apply issueOne_kept | apply ownCount_kept | apply farCount_kept | apply complete_kept | apply watchHit_kept | apply threadAddrForm_kept | apply parkOn_kept
    | simp only [kept_snd]
    | split

theorem amoAccess_kept {pq : List Instr} {s : State} {t : Fin 160} {n : Nat} {rd : Nat} {a : Nat} {op : Nat} {v : Nat} {len : Nat} (hs : (s).Kept pq) :
    (amoAccess s t n rd a op v len).Kept pq := by
  unfold amoAccess
  repeat' with_reducible first | assumption | apply atomicAccess_kept

theorem waitaIssue_kept {pq : List Instr} {s : State} {t : Fin 160} {n : Nat} {rd : Nat} {a : Nat} {ref : Nat} {cond : Nat} {wide : Bool} (hs : (s).Kept pq) :
    (waitaIssue s t n rd a ref cond wide).Kept pq := by
  unfold waitaIssue
  repeat' with_reducible first | assumption | apply modThread_kept | apply secError_kept | apply threadFault_kept | apply kept_ite

theorem waitaEnd_kept {pq : List Instr} {s : State} {t : Fin 160} {n : Nat} {a : Nat} {rd : Nat} {wide : Bool} (hs : (s).Kept pq) :
    (waitaEnd s t n a rd wide).Kept pq := by
  unfold waitaEnd
  repeat' first
    | with_reducible first | assumption | apply readNm_kept | apply threadFault_kept | apply complete_kept
    | simp only [kept_snd]
    | split

theorem ebreakIssue_kept {pq : List Instr} {s : State} {t : Fin 160} {n : Nat} {pc : Nat} (hs : (s).Kept pq) :
    (ebreakIssue s t n pc).Kept pq := by
  unfold ebreakIssue
  repeat' with_reducible first | assumption | apply debugHit_kept | apply threadFault_kept | apply kept_ite

theorem perform_kept {pq : List Instr} {s : State} {t : Fin 160} {n : Nat} {pc : Nat} {len : Nat} {x1 : RvOp} (hs : (s).Kept pq) :
    (perform s t n pc len x1).Kept pq := by
  unfold perform
  repeat' first
    | with_reducible first | assumption | apply modThread_kept | apply threadFault_kept | apply farCount_kept | apply complete_kept | apply watchHit_kept | apply threadAddrForm_kept | apply parkOn_kept | apply memAccess_kept | apply lrSc_kept | apply atomicAccess_kept | apply amoAccess_kept | apply waitaIssue_kept | apply ebreakIssue_kept
    | split

theorem slotTaken_kept {pq : List Instr} {s : State} {t : Fin 160} {n : Nat} (hs : (s).Kept pq) :
    (slotTaken s t n).Kept pq := by
  unfold slotTaken
  try dsimp only
  repeat' first
    | with_reducible first | assumption | apply Blk_add_kept | apply setDbg_kept | apply setTcc_kept
    | exact tccsOk_get hs.tcc _
    | split

theorem issued_kept {pq : List Instr} {s : State} {t : Fin 160} {n : Nat} (hs : (s).Kept pq) :
    (issued s t n).Kept pq := by
  unfold issued
  repeat' with_reducible first | assumption | apply fetchDone_kept | apply slotTaken_kept

theorem issueThread_kept {pq : List Instr} {row : TccRow} {t : Fin 160} {s : State} (hs : (s).Kept pq) :
    (issueThread row t s).Kept pq := by
  unfold issueThread
  repeat' first
    | with_reducible first | assumption | apply debugHit_kept | apply threadFault_kept | apply perform_kept | apply issued_kept
    | simp only
    | split

theorem execTccInstruction_kept {pq : List Instr} {t : Fin 160} {s : State} (hs : (s).Kept pq) :
    OutKept pq (execTccInstruction t s) := by
  unfold execTccInstruction
  repeat' with_reducible first | assumption | apply issueThread_kept | apply kept_next

theorem execWaita_kept {pq : List Instr} {t : Fin 160} {s : State} (hs : (s).Kept pq) :
    OutKept pq (execWaita t s) := by
  unfold execWaita
  repeat' with_reducible first | assumption | apply issueThread_kept | apply kept_next

theorem execEcall_kept {pq : List Instr} {t : Fin 160} {s : State} (hs : (s).Kept pq) :
    OutKept pq (execEcall t s) := by
  unfold execEcall
  repeat' with_reducible first | assumption | apply issueThread_kept | apply kept_next

theorem execEbreak_kept {pq : List Instr} {t : Fin 160} {s : State} (hs : (s).Kept pq) :
    OutKept pq (execEbreak t s) := by
  unfold execEbreak
  repeat' with_reducible first | assumption | apply issueThread_kept | apply kept_next

theorem execAmo_kept {pq : List Instr} {t : Fin 160} {s : State} (hs : (s).Kept pq) :
    OutKept pq (execAmo t s) := by
  unfold execAmo
  repeat' with_reducible first | assumption | apply issueThread_kept | apply kept_next

theorem execRamo_kept {pq : List Instr} {t : Fin 160} {s : State} (hs : (s).Kept pq) :
    OutKept pq (execRamo t s) := by
  unfold execRamo
  repeat' with_reducible first | assumption | apply issueThread_kept | apply kept_next

theorem execFstore_kept {pq : List Instr} {t : Fin 160} {s : State} (hs : (s).Kept pq) :
    OutKept pq (execFstore t s) := by
  unfold execFstore
  repeat' with_reducible first | assumption | apply issueThread_kept | apply kept_next

theorem execRfence_kept {pq : List Instr} {t : Fin 160} {s : State} (hs : (s).Kept pq) :
    OutKept pq (execRfence t s) := by
  unfold execRfence
  repeat' with_reducible first | assumption | apply issueThread_kept | apply kept_next

theorem execWaitaWake_kept {pq : List Instr} {t : Fin 160} {n : Fin 8} {s : State} (hs : (s).Kept pq) :
    OutKept pq (execWaitaWake t n s) := by
  unfold execWaitaWake
  repeat' first
    | with_reducible first | assumption | apply waitaEnd_kept | apply kept_next
    | split

theorem execWaitaTimeout_kept {pq : List Instr} {t : Fin 160} {n : Fin 8} {s : State} (hs : (s).Kept pq) :
    OutKept pq (execWaitaTimeout t n s) := by
  unfold execWaitaTimeout
  try dsimp only
  repeat' first
    | with_reducible first | assumption | apply Blk_event_kept | apply waitaEnd_kept | apply kept_next
    | split

theorem execRfenceResume_kept {pq : List Instr} {t : Fin 160} {n : Fin 8} {s : State} (hs : (s).Kept pq) :
    OutKept pq (execRfenceResume t n s) := by
  unfold execRfenceResume
  repeat' first
    | with_reducible first | assumption | apply complete_kept | apply kept_next
    | split


end Sys2Proof.Machine
end

