-- ==== Sys2Proof/Laws/KeptCommands.lean ====
section
/-! SUPPORT. Sys2Proof/Laws/KeptCommands.lean: each operation on the state keeps the waiting commands and the canonical form: register commands, the router, the host bridge and the package. -/
namespace Sys2Proof.Machine

/-! ### Commands -/

theorem cmdWr_kept {pq : List Instr} {s : State} {b : Blk} {p : Nat} {o : Nat} {v : Nat} (hs : (s).Kept pq) :
    OutKept pq (cmdWr s b p o v) := by
  unfold cmdWr
  repeat' with_reducible first | assumption | apply cmdWrite_kept | apply kept_next

theorem cmdWr8_kept {pq : List Instr} {s : State} {b : Blk} {p : Nat} {o : Nat} {v : Nat} (hs : (s).Kept pq) :
    OutKept pq (cmdWr8 s b p o v) := by
  unfold cmdWr8
  repeat' with_reducible first | assumption | apply cmdWrite_kept | apply kept_next

theorem execRegisterWrite_kept {pq : List Instr} {p : Nat} {off : Nat} {size : Nat} {val : Word64} {s : State} (hs : (s).Kept pq) :
    OutKept pq (execRegisterWrite p off size val s) := by
  unfold execRegisterWrite
  repeat' with_reducible first | assumption | apply cmdWrite_kept | apply kept_next

theorem execSoftReset_kept {pq : List Instr} {p : Nat} {off : Nat} {val : Word32} {s : State} (hs : (s).Kept pq) :
    OutKept pq (execSoftReset p off val s) := by
  unfold execSoftReset
  repeat' with_reducible first | assumption | apply cmdWrite_kept | apply kept_next

theorem execEnable_kept {pq : List Instr} {p : Nat} {off : Nat} {val : Word32} {s : State} (hs : (s).Kept pq) :
    OutKept pq (execEnable p off val s) := by
  unfold execEnable
  repeat' with_reducible first | assumption | apply cmdWrite_kept | apply kept_next

theorem execDrain_kept {pq : List Instr} {p : Nat} {off : Nat} {val : Word32} {s : State} (hs : (s).Kept pq) :
    OutKept pq (execDrain p off val s) := by
  unfold execDrain
  repeat' with_reducible first | assumption | apply cmdWrite_kept | apply kept_next

theorem execLock_kept {pq : List Instr} {p : Nat} {off : Nat} {val : Word32} {s : State} (hs : (s).Kept pq) :
    OutKept pq (execLock p off val s) := by
  unfold execLock
  repeat' with_reducible first | assumption | apply cmdWrite_kept | apply kept_next

theorem execSegData_kept {pq : List Instr} {p : Nat} {val : Word32} {s : State} (hs : (s).Kept pq) :
    OutKept pq (execSegData p val s) := by
  unfold execSegData
  repeat' with_reducible first | assumption | apply cmdWr_kept

theorem execTileOwner_kept {pq : List Instr} {p : Nat} {t : Fin 160} {val : Word32} {s : State} (hs : (s).Kept pq) :
    OutKept pq (execTileOwner p t val s) := by
  unfold execTileOwner
  repeat' with_reducible first | assumption | apply cmdWr_kept

theorem execEngOwner_kept {pq : List Instr} {p : Nat} {i : Fin 44} {val : Word32} {s : State} (hs : (s).Kept pq) :
    OutKept pq (execEngOwner p i val s) := by
  unfold execEngOwner
  repeat' with_reducible first | assumption | apply cmdWr_kept

theorem execSeqGo_kept {pq : List Instr} {p : Nat} {t : Fin 160} {val : Word32} {s : State} (hs : (s).Kept pq) :
    OutKept pq (execSeqGo p t val s) := by
  unfold execSeqGo
  repeat' with_reducible first | assumption | apply cmdWr_kept

theorem execThrStart_kept {pq : List Instr} {p : Nat} {t : Fin 160} {val : Word32} {s : State} (hs : (s).Kept pq) :
    OutKept pq (execThrStart p t val s) := by
  unfold execThrStart
  repeat' with_reducible first | assumption | apply cmdWr_kept

theorem execBpmAllocRead_kept {pq : List Instr} {p : Nat} {d : Fin 2} {k : Fin 4} {s : State} (hs : (s).Kept pq) :
    OutKept pq (execBpmAllocRead p d k s) := by
  unfold execBpmAllocRead
  repeat' with_reducible first | assumption | apply cmdRead_kept | apply kept_next

theorem execAllocSz_kept {pq : List Instr} {p : Nat} {d : Fin 2} {k : Fin 65} {s : State} (hs : (s).Kept pq) :
    OutKept pq (execAllocSz p d k s) := by
  unfold execAllocSz
  repeat' with_reducible first | assumption | apply cmdRead_kept | apply kept_next

theorem execBpmFreeWrite_kept {pq : List Instr} {p : Nat} {d : Fin 2} {val : Word32} {s : State} (hs : (s).Kept pq) :
    OutKept pq (execBpmFreeWrite p d val s) := by
  unfold execBpmFreeWrite
  repeat' with_reducible first | assumption | apply cmdWr_kept

theorem execPoolConfigWrite_kept {pq : List Instr} {p : Nat} {d : Fin 2} {off : Nat} {size : Nat} {val : Word64} {s : State} (hs : (s).Kept pq) :
    OutKept pq (execPoolConfigWrite p d off size val s) := by
  unfold execPoolConfigWrite
  repeat' with_reducible first | assumption | apply cmdWrite_kept | apply kept_ite | apply kept_next

theorem execXseqWrite_kept {pq : List Instr} {p : Nat} {d : Fin 2} {j : Fin 2} {val : Word32} {s : State} (hs : (s).Kept pq) :
    OutKept pq (execXseqWrite p d j val s) := by
  unfold execXseqWrite
  repeat' with_reducible first | assumption | apply cmdWr_kept

theorem execPartEntryValidSet_kept {pq : List Instr} {p : Nat} {k : Fin 16} {val : Word64} {s : State} (hs : (s).Kept pq) :
    OutKept pq (execPartEntryValidSet p k val s) := by
  unfold execPartEntryValidSet
  repeat' with_reducible first | assumption | apply cmdWr8_kept

theorem execPartitionTeardown_kept {pq : List Instr} {p : Nat} {k : Fin 16} {val : Word64} {s : State} (hs : (s).Kept pq) :
    OutKept pq (execPartitionTeardown p k val s) := by
  unfold execPartitionTeardown
  repeat' with_reducible first | assumption | apply cmdWr8_kept

theorem execMigDrain_kept {pq : List Instr} {p : Nat} {val : Word32} {s : State} (hs : (s).Kept pq) :
    OutKept pq (execMigDrain p val s) := by
  unfold execMigDrain
  repeat' with_reducible first | assumption | apply cmdWr_kept

theorem execMigHandover_kept {pq : List Instr} {p : Nat} {val : Word32} {s : State} (hs : (s).Kept pq) :
    OutKept pq (execMigHandover p val s) := by
  unfold execMigHandover
  repeat' with_reducible first | assumption | apply cmdWr_kept

theorem execMigFree_kept {pq : List Instr} {p : Nat} {val : Word32} {s : State} (hs : (s).Kept pq) :
    OutKept pq (execMigFree p val s) := by
  unfold execMigFree
  repeat' with_reducible first | assumption | apply cmdWr_kept

theorem execReplayWindowWrite_kept {pq : List Instr} {p : Nat} {val : Word32} {s : State} (hs : (s).Kept pq) :
    OutKept pq (execReplayWindowWrite p val s) := by
  unfold execReplayWindowWrite
  repeat' with_reducible first | assumption | apply cmdWr_kept

theorem execLnkRetrain_kept {pq : List Instr} {q : Nat} {p : Fin 32} {val : Word32} {s : State} (hs : (s).Kept pq) :
    OutKept pq (execLnkRetrain q p val s) := by
  unfold execLnkRetrain
  repeat' with_reducible first | assumption | apply cmdWr_kept

theorem execLnkSpare_kept {pq : List Instr} {q : Nat} {p : Fin 32} {val : Word32} {s : State} (hs : (s).Kept pq) :
    OutKept pq (execLnkSpare q p val s) := by
  unfold execLnkSpare
  repeat' with_reducible first | assumption | apply cmdWr_kept

theorem execLnkRetry_kept {pq : List Instr} {q : Nat} {p : Fin 32} {val : Word32} {s : State} (hs : (s).Kept pq) :
    OutKept pq (execLnkRetry q p val s) := by
  unfold execLnkRetry
  repeat' with_reducible first | assumption | apply cmdWr_kept

theorem execLnkCfgWrite_kept {pq : List Instr} {q : Nat} {p : Fin 32} {val : Word32} {s : State} (hs : (s).Kept pq) :
    OutKept pq (execLnkCfgWrite q p val s) := by
  unfold execLnkCfgWrite
  repeat' with_reducible first | assumption | apply cmdWr_kept

theorem execCreditWrite_kept {pq : List Instr} {q : Nat} {p : Fin 32} {val : Word32} {s : State} (hs : (s).Kept pq) :
    OutKept pq (execCreditWrite q p val s) := by
  unfold execCreditWrite
  repeat' with_reducible first | assumption | apply cmdWr_kept

theorem execRtDataWrite_kept {pq : List Instr} {p : Nat} {val : Word32} {s : State} (hs : (s).Kept pq) :
    OutKept pq (execRtDataWrite p val s) := by
  unfold execRtDataWrite
  repeat' with_reducible first | assumption | apply cmdWr_kept

theorem execPsetDataWrite_kept {pq : List Instr} {p : Nat} {val : Word64} {s : State} (hs : (s).Kept pq) :
    OutKept pq (execPsetDataWrite p val s) := by
  unfold execPsetDataWrite
  repeat' with_reducible first | assumption | apply cmdWr8_kept

theorem execWeightsWrite_kept {pq : List Instr} {p : Nat} {port : Fin 34} {val : Word64} {s : State} (hs : (s).Kept pq) :
    OutKept pq (execWeightsWrite p port val s) := by
  unfold execWeightsWrite
  repeat' with_reducible first | assumption | apply cmdWr8_kept

theorem execTgcModeOff_kept {pq : List Instr} {p : Nat} {c : Fin 256} {val : Word32} {s : State} (hs : (s).Kept pq) :
    OutKept pq (execTgcModeOff p c val s) := by
  unfold execTgcModeOff
  repeat' with_reducible first | assumption | apply cmdWr_kept

theorem execTgcModeBringup_kept {pq : List Instr} {p : Nat} {c : Fin 256} {val : Word32} {s : State} (hs : (s).Kept pq) :
    OutKept pq (execTgcModeBringup p c val s) := by
  unfold execTgcModeBringup
  repeat' with_reducible first | assumption | apply cmdWr_kept

theorem execTgcModeIdleFill_kept {pq : List Instr} {p : Nat} {c : Fin 256} {val : Word32} {s : State} (hs : (s).Kept pq) :
    OutKept pq (execTgcModeIdleFill p c val s) := by
  unfold execTgcModeIdleFill
  repeat' with_reducible first | assumption | apply cmdWr_kept

theorem execTgcModePatrol_kept {pq : List Instr} {p : Nat} {c : Fin 256} {val : Word32} {s : State} (hs : (s).Kept pq) :
    OutKept pq (execTgcModePatrol p c val s) := by
  unfold execTgcModePatrol
  repeat' with_reducible first | assumption | apply cmdWr_kept

theorem execHbmCmdLaneRepair_kept {pq : List Instr} {p : Nat} {i : Fin 32} {val : Word32} {s : State} (hs : (s).Kept pq) :
    OutKept pq (execHbmCmdLaneRepair p i val s) := by
  unfold execHbmCmdLaneRepair
  repeat' with_reducible first | assumption | apply cmdWr_kept

theorem execHbmCmdRemapRow_kept {pq : List Instr} {p : Nat} {i : Fin 32} {val : Word32} {s : State} (hs : (s).Kept pq) :
    OutKept pq (execHbmCmdRemapRow p i val s) := by
  unfold execHbmCmdRemapRow
  repeat' with_reducible first | assumption | apply cmdWr_kept

theorem execHbmCmdMarkErasure_kept {pq : List Instr} {p : Nat} {i : Fin 32} {val : Word32} {s : State} (hs : (s).Kept pq) :
    OutKept pq (execHbmCmdMarkErasure p i val s) := by
  unfold execHbmCmdMarkErasure
  repeat' with_reducible first | assumption | apply cmdWr_kept

theorem execHbmCmdRetrain_kept {pq : List Instr} {p : Nat} {i : Fin 32} {val : Word32} {s : State} (hs : (s).Kept pq) :
    OutKept pq (execHbmCmdRetrain p i val s) := by
  unfold execHbmCmdRetrain
  repeat' with_reducible first | assumption | apply cmdWr_kept

theorem execDtargetWrite_kept {pq : List Instr} {p : Nat} {n : Fin 20} {val : Word32} {s : State} (hs : (s).Kept pq) :
    OutKept pq (execDtargetWrite p n val s) := by
  unfold execDtargetWrite
  repeat' with_reducible first | assumption | apply cmdWr_kept

theorem execMark_kept {pq : List Instr} {p : Nat} {k : Fin 16} {val : Word32} {s : State} (hs : (s).Kept pq) :
    OutKept pq (execMark p k val s) := by
  unfold execMark
  repeat' with_reducible first | assumption | apply cmdWr_kept

theorem execResetCmd_kept {pq : List Instr} {p : Nat} {val : Word32} {s : State} (hs : (s).Kept pq) :
    OutKept pq (execResetCmd p val s) := by
  unfold execResetCmd
  repeat' with_reducible first | assumption | apply cmdWr_kept

theorem execBootFabricJoin_kept {pq : List Instr} {p : Nat} {val : Word32} {s : State} (hs : (s).Kept pq) :
    OutKept pq (execBootFabricJoin p val s) := by
  unfold execBootFabricJoin
  repeat' with_reducible first | assumption | apply cmdWr_kept

theorem execStageGo_kept {pq : List Instr} {p : Nat} {val : Word32} {s : State} (hs : (s).Kept pq) :
    OutKept pq (execStageGo p val s) := by
  unfold execStageGo
  repeat' with_reducible first | assumption | apply cmdWr_kept

theorem execBootSlotWrite_kept {pq : List Instr} {p : Nat} {val : Word32} {s : State} (hs : (s).Kept pq) :
    OutKept pq (execBootSlotWrite p val s) := by
  unfold execBootSlotWrite
  repeat' with_reducible first | assumption | apply cmdWr_kept

theorem signedCmd_kept {pq : List Instr} {s : State} {p : Nat} {n : Nat} {v : Nat} (hs : (s).Kept pq) :
    OutKept pq (signedCmd s p n v) := by
  unfold signedCmd
  repeat' with_reducible first | assumption | apply cmdWrite_kept | apply kept_ite | apply kept_next

theorem execOpenSession_kept {pq : List Instr} {p : Nat} {val : Word32} {s : State} (hs : (s).Kept pq) :
    OutKept pq (execOpenSession p val s) := by
  unfold execOpenSession
  repeat' with_reducible first | assumption | apply signedCmd_kept

theorem execInstallOwner_kept {pq : List Instr} {p : Nat} {val : Word32} {s : State} (hs : (s).Kept pq) :
    OutKept pq (execInstallOwner p val s) := by
  unfold execInstallOwner
  repeat' with_reducible first | assumption | apply signedCmd_kept

theorem execTransferOwner_kept {pq : List Instr} {p : Nat} {val : Word32} {s : State} (hs : (s).Kept pq) :
    OutKept pq (execTransferOwner p val s) := by
  unfold execTransferOwner
  repeat' with_reducible first | assumption | apply signedCmd_kept

theorem execInstallOperator_kept {pq : List Instr} {p : Nat} {val : Word32} {s : State} (hs : (s).Kept pq) :
    OutKept pq (execInstallOperator p val s) := by
  unfold execInstallOperator
  repeat' with_reducible first | assumption | apply signedCmd_kept

theorem execEndLease_kept {pq : List Instr} {p : Nat} {val : Word32} {s : State} (hs : (s).Kept pq) :
    OutKept pq (execEndLease p val s) := by
  unfold execEndLease
  repeat' with_reducible first | assumption | apply signedCmd_kept

theorem execReclaim_kept {pq : List Instr} {p : Nat} {val : Word32} {s : State} (hs : (s).Kept pq) :
    OutKept pq (execReclaim p val s) := by
  unfold execReclaim
  repeat' with_reducible first | assumption | apply signedCmd_kept

theorem execSessionClose_kept {pq : List Instr} {p : Nat} {val : Word32} {s : State} (hs : (s).Kept pq) :
    OutKept pq (execSessionClose p val s) := by
  unfold execSessionClose
  repeat' with_reducible first | assumption | apply cmdWr_kept

theorem execQuoteGo_kept {pq : List Instr} {p : Nat} {val : Word32} {s : State} (hs : (s).Kept pq) :
    OutKept pq (execQuoteGo p val s) := by
  unfold execQuoteGo
  repeat' with_reducible first | assumption | apply cmdWr_kept

theorem execSprReplace_kept {pq : List Instr} {p : Nat} {val : Word32} {s : State} (hs : (s).Kept pq) :
    OutKept pq (execSprReplace p val s) := by
  unfold execSprReplace
  repeat' with_reducible first | assumption | apply cmdWr_kept

theorem execLaneClear_kept {pq : List Instr} {p : Nat} {val : Word32} {s : State} (hs : (s).Kept pq) :
    OutKept pq (execLaneClear p val s) := by
  unfold execLaneClear
  repeat' with_reducible first | assumption | apply cmdWr_kept

theorem execRegrade_kept {pq : List Instr} {p : Nat} {val : Word32} {tests : Nat} {failed : List (Nat × FailedUnit)} {s : State} (hs : (s).Kept pq) :
    OutKept pq (execRegrade p val tests failed s) := by
  unfold execRegrade
  repeat' first
    | with_reducible first | assumption | apply sprCmd_kept | apply regCheck_kept | apply answered_kept | apply kept_ite | apply kept_next
    | simp only [kept_snd]

theorem execSnap_kept {pq : List Instr} {p : Nat} {off : Nat} {val : Word32} {s : State} (hs : (s).Kept pq) :
    OutKept pq (execSnap p off val s) := by
  unfold execSnap
  repeat' first
    | with_reducible first | assumption | apply cmdWrite_kept | apply kept_next
    | split

theorem execHaltReq_kept {pq : List Instr} {p : Nat} {t : Fin 160} {val : Word32} {s : State} (hs : (s).Kept pq) :
    OutKept pq (execHaltReq p t val s) := by
  unfold execHaltReq
  repeat' with_reducible first | assumption | apply cmdWr_kept

theorem execResume_kept {pq : List Instr} {p : Nat} {t : Fin 160} {val : Word32} {s : State} (hs : (s).Kept pq) :
    OutKept pq (execResume p t val s) := by
  unfold execResume
  repeat' with_reducible first | assumption | apply cmdWr_kept

theorem execDbgStep_kept {pq : List Instr} {p : Nat} {t : Fin 160} {val : Word32} {s : State} (hs : (s).Kept pq) :
    OutKept pq (execDbgStep p t val s) := by
  unfold execDbgStep
  repeat' with_reducible first | assumption | apply cmdWr_kept

theorem execPartHalt_kept {pq : List Instr} {p : Nat} {val : Word32} {s : State} (hs : (s).Kept pq) :
    OutKept pq (execPartHalt p val s) := by
  unfold execPartHalt
  repeat' with_reducible first | assumption | apply cmdWr_kept

theorem execPartResume_kept {pq : List Instr} {p : Nat} {val : Word32} {s : State} (hs : (s).Kept pq) :
    OutKept pq (execPartResume p val s) := by
  unfold execPartResume
  repeat' with_reducible first | assumption | apply cmdWr_kept

theorem execRegDataAccess_kept {pq : List Instr} {p : Nat} {t : Fin 160} {write : Bool} {val : Word64} {s : State} (hs : (s).Kept pq) :
    OutKept pq (execRegDataAccess p t write val s) := by
  unfold execRegDataAccess
  repeat' with_reducible first | assumption | apply cmdRead_kept | apply cmdWrite_kept | apply kept_ite | apply kept_next

theorem execTagDataWrite_kept {pq : List Instr} {p : Nat} {t : Fin 160} {val : Word32} {s : State} (hs : (s).Kept pq) :
    OutKept pq (execTagDataWrite p t val s) := by
  unfold execTagDataWrite
  repeat' with_reducible first | assumption | apply cmdWr_kept

theorem localAccess_kept {pq : List Instr} {s : State} {o : Nat} {n : Nat} {wr : Option Nat} (hs : (s).Kept pq) :
    TripleKept pq (localAccess s o n wr) := by
  unfold localAccess
  repeat' first
    | with_reducible first | assumption | apply checkForm_kept | apply checkPlace_kept | apply performRequest_kept | apply kept_ite_triple
    | simp only [kept_triple]
    | simp only [kept_snd]

theorem execI3cRead32_kept {pq : List Instr} {r : I3cAccess} {s : State} (hs : (s).Kept pq) :
    OutKept pq (execI3cRead32 r s) := by
  unfold execI3cRead32
  repeat' first
    | with_reducible first | assumption | apply i3cMode_kept | apply answered_kept | apply localAccess_kept | apply kept_ite | apply kept_next
    | simp only [kept_snd2]

theorem execI3cWrite32_kept {pq : List Instr} {r : I3cAccess} {val : Word32} {s : State} (hs : (s).Kept pq) :
    OutKept pq (execI3cWrite32 r val s) := by
  unfold execI3cWrite32
  repeat' first
    | with_reducible first | assumption | apply Blk_wr_kept | apply i3cMode_kept | apply answered_kept | apply localAccess_kept | apply kept_ite | apply kept_next
    | simp only [kept_snd2]

theorem jtagShift_kept {pq : List Instr} {s : State} {code : Nat} {l : List Bool} (hs : (s).Kept pq) :
    (jtagShift s code l).Kept pq := by
  unfold jtagShift
  repeat' first
    | with_reducible assumption
    | simp only [kept_upd]

theorem execJtagExtest_kept {pq : List Instr} {bits : List Bool} {s : State} (hs : (s).Kept pq) :
    OutKept pq (execJtagExtest bits s) := by
  unfold execJtagExtest
  repeat' first
    | with_reducible first | assumption | apply fresh_kept | apply jtagShift_kept | apply kept_ite | apply kept_next
    | simp only [kept_snd]
    | simp only [kept_upd]

theorem execJtagSamplePreload_kept {pq : List Instr} {bits : List Bool} {s : State} (hs : (s).Kept pq) :
    OutKept pq (execJtagSamplePreload bits s) := by
  unfold execJtagSamplePreload
  repeat' first
    | with_reducible first | assumption | apply fresh_kept | apply kept_next
    | simp only [kept_snd]
    | simp only [kept_upd]

theorem execJtagIdcode_kept {pq : List Instr} {s : State} (hs : (s).Kept pq) :
    OutKept pq (execJtagIdcode s) := by
  unfold execJtagIdcode
  repeat' first
    | with_reducible first | assumption | apply kept_next
    | simp only [kept_upd]

theorem execJtagDbgacc_kept {pq : List Instr} {write : Bool} {off : Nat} {size : Nat} {val : Word64} {s : State} (hs : (s).Kept pq) :
    OutKept pq (execJtagDbgacc write off size val s) := by
  unfold execJtagDbgacc
  repeat' first
    | with_reducible first | assumption | apply answered_kept | apply localAccess_kept | apply secError_kept | apply kept_ite_triple | apply kept_next
    | simp only [kept_triple]
    | simp only [kept_snd2]
    | simp only [kept_upd]

theorem execJtagBypass_kept {pq : List Instr} {code : Nat} {bit : Bool} {s : State} (hs : (s).Kept pq) :
    OutKept pq (execJtagBypass code bit s) := by
  unfold execJtagBypass
  repeat' with_reducible first | assumption | apply jtagShift_kept | apply kept_ite | apply kept_next


/-! ### Router -/

theorem noRoute_kept {pq : List Instr} {s : State} {k : Packet} (hs : (s).Kept pq) :
    (noRoute s k).Kept pq := by
  unfold noRoute
  repeat' first
    | with_reducible first | assumption | apply Blk_event_kept | apply Blk_raise_kept | apply Blk_sat_kept | apply onReply_kept | apply settleOuts_kept
    | simp only [kept_upd]
    | split

theorem forward_kept {pq : List Instr} {s : State} {k : Packet} (hs : (s).Kept pq) :
    (forward s k).Kept pq := by
  unfold forward
  repeat' first
    | with_reducible first | assumption | apply modPort_kept | apply noRoute_kept | apply noteBlocked_kept
    | simp only [kept_upd]
    | split

theorem flushComb_kept {pq : List Instr} {s : State} {e : CombEntry} {port : Nat} (hs : (s).Kept pq) :
    (flushComb s e port).Kept pq := by
  unfold flushComb
  repeat' first
    | with_reducible first | assumption | apply forward_kept
    | simp only [kept_upd]
    | split

theorem modComb_kept {pq : List Instr} {s : State} {p : CombEntry → Bool} {f : CombEntry → CombEntry} (hs : (s).Kept pq) :
    (modComb s p f).Kept pq := by
  unfold modComb
  repeat' first
    | with_reducible assumption
    | simp only [kept_upd]

theorem answerFollower_kept {pq : List Instr} {rep : Reply} {s : State} {r : Request} (hs : (s).Kept pq) :
    (answerFollower rep s r).Kept pq := by
  unfold answerFollower
  repeat' first
    | with_reducible assumption
    | simp only [kept_upd]

theorem combine_kept {pq : List Instr} {s : State} {r : Request} {sub : Nat} {port : Nat} (hs : (s).Kept pq) :
    (combine s r sub port).Kept pq := by
  unfold combine
  repeat' first
    | with_reducible first | assumption | apply Blk_add_kept | apply setComb_kept | apply forward_kept | apply flushComb_kept | apply modComb_kept | apply answerFollower_kept | apply kept_ite
    | split

theorem flushFlow_kept {pq : List Instr} {s : State} {f : Request} {port : Nat} (hs : (s).Kept pq) :
    (flushFlow s f port).Kept pq := by
  unfold flushFlow
  repeat' first
    | intro _
    | with_reducible first | assumption | apply flushComb_kept | apply modComb_kept | apply forEach_kept

theorem passReply_kept {pq : List Instr} {s : State} {rep : Reply} {part : Nat} {sub : Nat} {port : Nat} (hs : (s).Kept pq) :
    (passReply s rep part sub port).Kept pq := by
  unfold passReply
  repeat' first
    | with_reducible first | assumption | apply forEach_kept | apply setComb_kept | apply forward_kept | apply modComb_kept | apply answerFollower_kept
    | intro _
    | simp only [kept_upd]
    | split

theorem execRoutePacket_kept {pq : List Instr} {port : Fin 34} {s : State} (hs : (s).Kept pq) :
    OutKept pq (execRoutePacket port s) := by
  unfold execRoutePacket
  repeat' first
    | with_reducible first | assumption | apply Blk_sat_kept | apply combine_kept | apply flushFlow_kept | apply forward_kept | apply freeInput_kept | apply passReply_kept | apply kept_next
    | simp only [kept_upd]
    | split

theorem execCombWindowClose_kept {pq : List Instr} {i : Nat} {s : State} (hs : (s).Kept pq) :
    OutKept pq (execCombWindowClose i s) := by
  unfold execCombWindowClose
  repeat' first
    | with_reducible first | assumption | apply flushComb_kept | apply modComb_kept | apply setComb_kept | apply kept_next
    | split

theorem linkSend_kept {pq : List Instr} {s : State} {port : Nat} (hs : (s).Kept pq) :
    (linkSend s port).Kept pq := by
  unfold linkSend
  repeat' first
    | with_reducible first | assumption | apply setPort_kept | apply countPacket_kept | apply noteBlocked_kept
    | simp only
    | split

theorem execPacketSend_kept {pq : List Instr} {port : Fin 34} {s : State} (hs : (s).Kept pq) :
    OutKept pq (execPacketSend port s) := by
  unfold execPacketSend
  repeat' first
    | with_reducible first | assumption | apply setPort_kept | apply countPacket_kept | apply noRoute_kept | apply forward_kept | apply linkSend_kept | apply kept_next
    | simp only [kept_upd]
    | split

theorem execCreditTimeout_kept {pq : List Instr} {port : Fin 34} {vc : Fin 8} {s : State} (hs : (s).Kept pq) :
    OutKept pq (execCreditTimeout port vc s) := by
  unfold execCreditTimeout
  try dsimp only
  repeat' first
    | with_reducible first | assumption | apply Blk_event_kept | apply Blk_raise_kept | apply setPort_kept | apply kept_next
    | split


/-! ### HostBridge -/

theorem inBytes_kept {pq : List Instr} {s : State} {n : Nat} (hs : (s).Kept pq) :
    (inBytes s n).Kept pq := by
  unfold inBytes
  repeat' with_reducible first | assumption | apply Blk_add_kept

theorem unsupported_kept {pq : List Instr} {s : State} {tag : Option Nat} (hs : (s).Kept pq) :
    (unsupported s tag).Kept pq := by
  unfold unsupported
  repeat' first
    | with_reducible first | assumption | apply Blk_event_kept | apply Blk_sat_kept
    | simp only [kept_upd]
    | split

theorem execHostBar0Access_kept {pq : List Instr} {write : Bool} {off : Nat} {size : Nat} {val : Word64} {s : State} (hs : (s).Kept pq) :
    OutKept pq (execHostBar0Access write off size val s) := by
  unfold execHostBar0Access
  repeat' first
    | with_reducible first | assumption | apply answered_kept | apply cmdRead_kept | apply cmdWrite_kept | apply inBytes_kept | apply outBytes_kept | apply readAt_kept | apply writeAt_kept | apply kept_ite | apply kept_next
    | simp only [kept_snd]

theorem execHostBar2Read_kept {pq : List Instr} {off : Nat} {size : Nat} {tag : Nat} {s : State} (hs : (s).Kept pq) :
    OutKept pq (execHostBar2Read off size tag s) := by
  unfold execHostBar2Read
  repeat' first
    | with_reducible first | assumption | apply issue_kept | apply outBytes_kept | apply unsupported_kept | apply kept_next
    | split

theorem execHostBar2Write_kept {pq : List Instr} {off : Nat} {data : List Byte} {s : State} (hs : (s).Kept pq) :
    OutKept pq (execHostBar2Write off data s) := by
  unfold execHostBar2Write
  try dsimp only
  repeat' first
    | with_reducible first | assumption | apply Blk_event_kept | apply Blk_sat_kept | apply inBytes_kept | apply issue_kept | apply unsupported_kept | apply kept_next
    | split

theorem execHostBar2Atomic_kept {pq : List Instr} {kind : HostAtomic} {off : Nat} {size : Nat} {val : Word64} {cmp : Word64} {tag : Nat} {s : State} (hs : (s).Kept pq) :
    OutKept pq (execHostBar2Atomic kind off size val cmp tag s) := by
  unfold execHostBar2Atomic
  repeat' first
    | with_reducible first | assumption | apply inBytes_kept | apply issue_kept | apply unsupported_kept | apply kept_next
    | split

theorem execHostReadRelease_kept {pq : List Instr} {slot : Fin 64} {s : State} (hs : (s).Kept pq) :
    OutKept pq (execHostReadRelease slot s) := by
  unfold execHostReadRelease
  repeat' first
    | with_reducible first | assumption | apply releaseOne_kept | apply settleOuts_kept | apply kept_next
    | split

theorem execHostUr_kept {pq : List Instr} {off : Option Nat} {s : State} (hs : (s).Kept pq) :
    OutKept pq (execHostUr off s) := by
  unfold execHostUr
  repeat' first
    | with_reducible first | assumption | apply unsupported_kept | apply kept_next
    | split

theorem toHost_kept {pq : List Instr} {s : State} {r : Request} (hs : (s).Kept pq) :
    PairKept pq (toHost s r) := by
  unfold toHost
  repeat' first
    | with_reducible first | assumption | apply fresh_kept | apply freeBytes_kept | apply fabRaise_kept | apply outBytes_kept | apply filtered_kept | apply inBytes_kept | apply kept_ite_pair
    | intro _
    | simp only [kept_pair]
    | simp only [kept_snd]
    | simp only [kept_upd]

theorem execDeviceToHostRequest_kept {pq : List Instr} {s : State} (hs : (s).Kept pq) :
    OutKept pq (execDeviceToHostRequest s) := by
  unfold execDeviceToHostRequest
  repeat' first
    | with_reducible first | assumption | apply onReply_kept | apply settleOuts_kept | apply noRoute_kept | apply forward_kept | apply toHost_kept | apply kept_next
    | simp only [kept_snd]
    | simp only [kept_upd]
    | split

theorem execPcieLinkChange_kept {pq : List Instr} {up : Bool} {rate : Nat} {width : Nat} {shown : PcieShown} {s : State} (hs : (s).Kept pq) :
    OutKept pq (execPcieLinkChange up rate width shown s) := by
  unfold execPcieLinkChange
  repeat' first
    | with_reducible first | assumption | apply Blk_wr_kept | apply Blk_event_kept | apply sendPending_kept | apply kept_ite | apply kept_next
    | simp only [kept_upd]


/-! ### Package -/

theorem execTpulseEdge_kept {pq : List Instr} {s : State} (hs : (s).Kept pq) :
    OutKept pq (execTpulseEdge s) := by
  unfold execTpulseEdge
  repeat' first
    | with_reducible first | assumption | apply Blk_wr_kept | apply kept_ite | apply kept_next
    | simp only [kept_upd]

theorem execTpulseLost_kept {pq : List Instr} {s : State} (hs : (s).Kept pq) :
    OutKept pq (execTpulseLost s) := by
  unfold execTpulseLost
  repeat' with_reducible first | assumption | apply alert_kept | apply kept_ite | apply kept_next

theorem execRailFault_kept {pq : List Instr} {r : RailsShown} {s : State} (hs : (s).Kept pq) :
    OutKept pq (execRailFault r s) := by
  unfold execRailFault
  repeat' with_reducible first | assumption | apply Blk_wr_kept | apply alert_kept | apply kept_ite | apply kept_next

theorem showTj_kept {pq : List Instr} {s : State} (hs : (s).Kept pq) :
    (showTj s).Kept pq := by
  unfold showTj
  repeat' with_reducible first | assumption | apply Blk_wr_kept

theorem showStackTemp_kept {pq : List Instr} {s : State} {k : Nat} {old : Nat} {new : Nat} (hs : (s).Kept pq) :
    (showStackTemp s k old new).Kept pq := by
  unfold showStackTemp
  repeat' first
    | intro _
    | with_reducible first | assumption | apply Blk_event_kept | apply Blk_wr_kept | apply forEach_kept | apply kept_ite

theorem execThermalThreshold_kept {pq : List Instr} {sensor : Nat} {temp : Nat} {s : State} (hs : (s).Kept pq) :
    OutKept pq (execThermalThreshold sensor temp s) := by
  unfold execThermalThreshold
  repeat' first
    | with_reducible first | assumption | apply alert_kept | apply showStackTemp_kept | apply showTj_kept | apply kept_ite | apply kept_next
    | simp only [kept_upd]


/-! ### Tick -/

theorem replaceRows_kept {pq : List Instr} {s : State} (hs : (s).Kept pq) :
    (replaceRows s).Kept pq := by
  unfold replaceRows
  repeat' first
    | intro _
    | with_reducible first | assumption | apply forEach_kept | apply condemn_kept
    | simp only [kept_upd]
    | split

theorem execKettleBin_kept {pq : List Instr} {s : State} (hs : (s).Kept pq) :
    OutKept pq (execKettleBin s) := by
  unfold execKettleBin
  repeat' first
    | with_reducible first | assumption | apply forEach_kept | apply wearMinute_kept | apply closeBin_kept | apply portTick_kept | apply replaceRows_kept | apply kept_ite | apply kept_next
    | simp only [kept_upd]


end Sys2Proof.Machine
end

