-- ==== Sys2Proof/Laws/State.lean ====
section
/-! SUPPORT. Sys2Proof/Laws/State.lean: what each update of the state leaves in each field. -/
namespace Sys2Proof.Machine
set_option Elab.async false

variable (s : State)

/-! ### `wr` -/

section
variable (o v : Nat)
@[simp] theorem wr_pending : (wr s o v).pending = s.pending := rfl
@[simp] theorem wr_now : (wr s o v).now = s.now := rfl
@[simp] theorem wr_freeCtr : (wr s o v).freeCtr = s.freeCtr := rfl
@[simp] theorem wr_answer : (wr s o v).answer = s.answer := rfl
@[simp] theorem wr_regs : (wr s o v).regs = SMap.set resetVal s.regs o (BitVec.ofNat 64 v) := rfl
@[simp] theorem wr_mem : (wr s o v).mem = s.mem := rfl
@[simp] theorem wr_segOwner : (wr s o v).segOwner = s.segOwner := rfl
@[simp] theorem wr_tags : (wr s o v).tags = s.tags := rfl
@[simp] theorem wr_seqs : (wr s o v).seqs = s.seqs := rfl
@[simp] theorem wr_tccs : (wr s o v).tccs = s.tccs := rfl
@[simp] theorem wr_outs : (wr s o v).outs = s.outs := rfl
@[simp] theorem wr_nextOut : (wr s o v).nextOut = s.nextOut := rfl
@[simp] theorem wr_seqCtr : (wr s o v).seqCtr = s.seqCtr := rfl
@[simp] theorem wr_seqTime : (wr s o v).seqTime = s.seqTime := rfl
@[simp] theorem wr_ctxFail : (wr s o v).ctxFail = s.ctxFail := rfl
@[simp] theorem wr_movedFlows : (wr s o v).movedFlows = s.movedFlows := rfl
@[simp] theorem wr_filter : (wr s o v).filter = s.filter := rfl
@[simp] theorem wr_comb : (wr s o v).comb = s.comb := rfl
@[simp] theorem wr_heldFlags : (wr s o v).heldFlags = s.heldFlags := rfl
@[simp] theorem wr_migs : (wr s o v).migs = s.migs := rfl
@[simp] theorem wr_winHeld : (wr s o v).winHeld = s.winHeld := rfl
@[simp] theorem wr_routes : (wr s o v).routes = s.routes := rfl
@[simp] theorem wr_psets : (wr s o v).psets = s.psets := rfl
@[simp] theorem wr_toRoute : (wr s o v).toRoute = s.toRoute := rfl
@[simp] theorem wr_passBy : (wr s o v).passBy = s.passBy := rfl
@[simp] theorem wr_arrived : (wr s o v).arrived = s.arrived := rfl
@[simp] theorem wr_hostQ : (wr s o v).hostQ = s.hostQ := rfl
@[simp] theorem wr_hostOut : (wr s o v).hostOut = s.hostOut := rfl
@[simp] theorem wr_hostParts : (wr s o v).hostParts = s.hostParts := rfl
@[simp] theorem wr_pcieCfg : (wr s o v).pcieCfg = s.pcieCfg := rfl
@[simp] theorem wr_spent : (wr s o v).spent = s.spent := rfl
@[simp] theorem wr_reports : (wr s o v).reports = s.reports := rfl
@[simp] theorem wr_combOut : (wr s o v).combOut = s.combOut := rfl
@[simp] theorem wr_ports : (wr s o v).ports = s.ports := rfl
@[simp] theorem wr_creditQ : (wr s o v).creditQ = s.creditQ := rfl
@[simp] theorem wr_grants : (wr s o v).grants = s.grants := rfl
@[simp] theorem wr_halfMv : (wr s o v).halfMv = s.halfMv := rfl
@[simp] theorem wr_binE : (wr s o v).binE = s.binE := rfl
@[simp] theorem wr_totE : (wr s o v).totE = s.totE := rfl
@[simp] theorem wr_pageE : (wr s o v).pageE = s.pageE := rfl
@[simp] theorem wr_avg : (wr s o v).avg = s.avg := rfl
@[simp] theorem wr_marks : (wr s o v).marks = s.marks := rfl
@[simp] theorem wr_freqPend : (wr s o v).freqPend = s.freqPend := rfl
@[simp] theorem wr_ramps : (wr s o v).ramps = s.ramps := rfl
@[simp] theorem wr_lastLong : (wr s o v).lastLong = s.lastLong := rfl
@[simp] theorem wr_distCycles : (wr s o v).distCycles = s.distCycles := rfl
@[simp] theorem wr_slack : (wr s o v).slack = s.slack := rfl
@[simp] theorem wr_slackLow : (wr s o v).slackLow = s.slackLow := rfl
@[simp] theorem wr_railBase : (wr s o v).railBase = s.railBase := rfl
@[simp] theorem wr_nmErr : (wr s o v).nmErr = s.nmErr := rfl
@[simp] theorem wr_nmCorr : (wr s o v).nmCorr = s.nmCorr := rfl
@[simp] theorem wr_nmRows : (wr s o v).nmRows = s.nmRows := rfl
@[simp] theorem wr_hbmErr : (wr s o v).hbmErr = s.hbmErr := rfl
@[simp] theorem wr_flash : (wr s o v).flash = s.flash := rfl
@[simp] theorem wr_badBlocks : (wr s o v).badBlocks = s.badBlocks := rfl
@[simp] theorem wr_logOldest : (wr s o v).logOldest = s.logOldest := rfl
@[simp] theorem wr_logNext : (wr s o v).logNext = s.logNext := rfl
@[simp] theorem wr_powerOnS : (wr s o v).powerOnS = s.powerOnS := rfl
@[simp] theorem wr_west : (wr s o v).west = s.west := rfl
@[simp] theorem wr_east : (wr s o v).east = s.east := rfl
@[simp] theorem wr_units : (wr s o v).units = s.units := rfl
@[simp] theorem wr_unitSpare : (wr s o v).unitSpare = s.unitSpare := rfl
@[simp] theorem wr_waiting : (wr s o v).waiting = s.waiting := rfl
@[simp] theorem wr_portRec : (wr s o v).portRec = s.portRec := rfl
@[simp] theorem wr_wear : (wr s o v).wear = s.wear := rfl
@[simp] theorem wr_vfRec : (wr s o v).vfRec = s.vfRec := rfl
@[simp] theorem wr_held : (wr s o v).held = s.held := rfl
@[simp] theorem wr_resetAt : (wr s o v).resetAt = s.resetAt := rfl
@[simp] theorem wr_thermHeld : (wr s o v).thermHeld = s.thermHeld := rfl
@[simp] theorem wr_resetLow : (wr s o v).resetLow = s.resetLow := rfl
@[simp] theorem wr_pwrgd : (wr s o v).pwrgd = s.pwrgd := rfl
@[simp] theorem wr_i2cMode : (wr s o v).i2cMode = s.i2cMode := rfl
@[simp] theorem wr_wdogAt : (wr s o v).wdogAt = s.wdogAt := rfl
@[simp] theorem wr_bootEnv : (wr s o v).bootEnv = s.bootEnv := rfl
@[simp] theorem wr_commonClock : (wr s o v).commonClock = s.commonClock := rfl
@[simp] theorem wr_mfw : (wr s o v).mfw = s.mfw := rfl
@[simp] theorem wr_fwSigner : (wr s o v).fwSigner = s.fwSigner := rfl
@[simp] theorem wr_recov : (wr s o v).recov = s.recov := rfl
@[simp] theorem wr_secCmd : (wr s o v).secCmd = s.secCmd := rfl
@[simp] theorem wr_sessionEnd : (wr s o v).sessionEnd = s.sessionEnd := rfl
@[simp] theorem wr_quote : (wr s o v).quote = s.quote := rfl
@[simp] theorem wr_stepFrom : (wr s o v).stepFrom = s.stepFrom := rfl
@[simp] theorem wr_retired : (wr s o v).retired = s.retired := rfl
@[simp] theorem wr_scrubFailed : (wr s o v).scrubFailed = s.scrubFailed := rfl
@[simp] theorem wr_temps : (wr s o v).temps = s.temps := rfl
@[simp] theorem wr_hbmLat : (wr s o v).hbmLat = s.hbmLat := rfl
@[simp] theorem wr_hbmBulk : (wr s o v).hbmBulk = s.hbmBulk := rfl
@[simp] theorem wr_latRun : (wr s o v).latRun = s.latRun := rfl
@[simp] theorem wr_hbmUp : (wr s o v).hbmUp = s.hbmUp := rfl
@[simp] theorem wr_hbmHold : (wr s o v).hbmHold = s.hbmHold := rfl
@[simp] theorem wr_rowHold : (wr s o v).rowHold = s.rowHold := rfl
@[simp] theorem wr_hbmTrained : (wr s o v).hbmTrained = s.hbmTrained := rfl
@[simp] theorem wr_refreshDue : (wr s o v).refreshDue = s.refreshDue := rfl
@[simp] theorem wr_openRow : (wr s o v).openRow = s.openRow := rfl
@[simp] theorem wr_bankActs : (wr s o v).bankActs = s.bankActs := rfl
@[simp] theorem wr_hbmOnDie : (wr s o v).hbmOnDie = s.hbmOnDie := rfl
@[simp] theorem wr_calDrift : (wr s o v).calDrift = s.calDrift := rfl
@[simp] theorem wr_rowFails : (wr s o v).rowFails = s.rowFails := rfl
@[simp] theorem wr_pinFails : (wr s o v).pinFails = s.pinFails := rfl
@[simp] theorem wr_rowUnc : (wr s o v).rowUnc = s.rowUnc := rfl
@[simp] theorem wr_hbmFailing : (wr s o v).hbmFailing = s.hbmFailing := rfl
@[simp] theorem wr_hbmWorn : (wr s o v).hbmWorn = s.hbmWorn := rfl
@[simp] theorem wr_hbmKept : (wr s o v).hbmKept = s.hbmKept := rfl
@[simp] theorem wr_spareRows : (wr s o v).spareRows = s.spareRows := rfl
@[simp] theorem wr_pprRows : (wr s o v).pprRows = s.pprRows := rfl
@[simp] theorem wr_tgcPos : (wr s o v).tgcPos = s.tgcPos := rfl
@[simp] theorem wr_tgcPrbs : (wr s o v).tgcPrbs = s.tgcPrbs := rfl
@[simp] theorem wr_poolUsed : (wr s o v).poolUsed = s.poolUsed := rfl
@[simp] theorem wr_poolQ : (wr s o v).poolQ = s.poolQ := rfl
@[simp] theorem wr_poolAns : (wr s o v).poolAns = s.poolAns := rfl
@[simp] theorem wr_recs : (wr s o v).recs = s.recs := rfl
@[simp] theorem wr_arrs : (wr s o v).arrs = s.arrs := rfl
@[simp] theorem wr_xchs : (wr s o v).xchs = s.xchs := rfl
@[simp] theorem wr_embs : (wr s o v).embs = s.embs := rfl
@[simp] theorem wr_cols : (wr s o v).cols = s.cols := rfl
@[simp] theorem wr_hotDir : (wr s o v).hotDir = s.hotDir := rfl
@[simp] theorem wr_images : (wr s o v).images = s.images := rfl
@[simp] theorem wr_tileHeld : (wr s o v).tileHeld = s.tileHeld := rfl
@[simp] theorem wr_dbg : (wr s o v).dbg = s.dbg := rfl
@[simp] theorem wr_jtag : (wr s o v).jtag = s.jtag := rfl
@[simp] theorem wr_ibi : (wr s o v).ibi = s.ibi := rfl
@[simp] theorem wr_msixAt : (wr s o v).msixAt = s.msixAt := rfl
@[simp] theorem wr_msixHeld : (wr s o v).msixHeld = s.msixHeld := rfl
@[simp] theorem wr_lastEdge : (wr s o v).lastEdge = s.lastEdge := rfl
end

/-! ### `answered` -/

section
variable (st : Nat) (bs : List Byte)
@[simp] theorem answered_pending : (answered s st bs).pending = s.pending := rfl
@[simp] theorem answered_now : (answered s st bs).now = s.now := rfl
@[simp] theorem answered_freeCtr : (answered s st bs).freeCtr = s.freeCtr := rfl
@[simp] theorem answered_answer : (answered s st bs).answer = { status := st, data := bs } := rfl
@[simp] theorem answered_regs : (answered s st bs).regs = s.regs := rfl
@[simp] theorem answered_mem : (answered s st bs).mem = s.mem := rfl
@[simp] theorem answered_segOwner : (answered s st bs).segOwner = s.segOwner := rfl
@[simp] theorem answered_tags : (answered s st bs).tags = s.tags := rfl
@[simp] theorem answered_seqs : (answered s st bs).seqs = s.seqs := rfl
@[simp] theorem answered_tccs : (answered s st bs).tccs = s.tccs := rfl
@[simp] theorem answered_outs : (answered s st bs).outs = s.outs := rfl
@[simp] theorem answered_nextOut : (answered s st bs).nextOut = s.nextOut := rfl
@[simp] theorem answered_seqCtr : (answered s st bs).seqCtr = s.seqCtr := rfl
@[simp] theorem answered_seqTime : (answered s st bs).seqTime = s.seqTime := rfl
@[simp] theorem answered_ctxFail : (answered s st bs).ctxFail = s.ctxFail := rfl
@[simp] theorem answered_movedFlows : (answered s st bs).movedFlows = s.movedFlows := rfl
@[simp] theorem answered_filter : (answered s st bs).filter = s.filter := rfl
@[simp] theorem answered_comb : (answered s st bs).comb = s.comb := rfl
@[simp] theorem answered_heldFlags : (answered s st bs).heldFlags = s.heldFlags := rfl
@[simp] theorem answered_migs : (answered s st bs).migs = s.migs := rfl
@[simp] theorem answered_winHeld : (answered s st bs).winHeld = s.winHeld := rfl
@[simp] theorem answered_routes : (answered s st bs).routes = s.routes := rfl
@[simp] theorem answered_psets : (answered s st bs).psets = s.psets := rfl
@[simp] theorem answered_toRoute : (answered s st bs).toRoute = s.toRoute := rfl
@[simp] theorem answered_passBy : (answered s st bs).passBy = s.passBy := rfl
@[simp] theorem answered_arrived : (answered s st bs).arrived = s.arrived := rfl
@[simp] theorem answered_hostQ : (answered s st bs).hostQ = s.hostQ := rfl
@[simp] theorem answered_hostOut : (answered s st bs).hostOut = s.hostOut := rfl
@[simp] theorem answered_hostParts : (answered s st bs).hostParts = s.hostParts := rfl
@[simp] theorem answered_pcieCfg : (answered s st bs).pcieCfg = s.pcieCfg := rfl
@[simp] theorem answered_spent : (answered s st bs).spent = s.spent := rfl
@[simp] theorem answered_reports : (answered s st bs).reports = s.reports := rfl
@[simp] theorem answered_combOut : (answered s st bs).combOut = s.combOut := rfl
@[simp] theorem answered_ports : (answered s st bs).ports = s.ports := rfl
@[simp] theorem answered_creditQ : (answered s st bs).creditQ = s.creditQ := rfl
@[simp] theorem answered_grants : (answered s st bs).grants = s.grants := rfl
@[simp] theorem answered_halfMv : (answered s st bs).halfMv = s.halfMv := rfl
@[simp] theorem answered_binE : (answered s st bs).binE = s.binE := rfl
@[simp] theorem answered_totE : (answered s st bs).totE = s.totE := rfl
@[simp] theorem answered_pageE : (answered s st bs).pageE = s.pageE := rfl
@[simp] theorem answered_avg : (answered s st bs).avg = s.avg := rfl
@[simp] theorem answered_marks : (answered s st bs).marks = s.marks := rfl
@[simp] theorem answered_freqPend : (answered s st bs).freqPend = s.freqPend := rfl
@[simp] theorem answered_ramps : (answered s st bs).ramps = s.ramps := rfl
@[simp] theorem answered_lastLong : (answered s st bs).lastLong = s.lastLong := rfl
@[simp] theorem answered_distCycles : (answered s st bs).distCycles = s.distCycles := rfl
@[simp] theorem answered_slack : (answered s st bs).slack = s.slack := rfl
@[simp] theorem answered_slackLow : (answered s st bs).slackLow = s.slackLow := rfl
@[simp] theorem answered_railBase : (answered s st bs).railBase = s.railBase := rfl
@[simp] theorem answered_nmErr : (answered s st bs).nmErr = s.nmErr := rfl
@[simp] theorem answered_nmCorr : (answered s st bs).nmCorr = s.nmCorr := rfl
@[simp] theorem answered_nmRows : (answered s st bs).nmRows = s.nmRows := rfl
@[simp] theorem answered_hbmErr : (answered s st bs).hbmErr = s.hbmErr := rfl
@[simp] theorem answered_flash : (answered s st bs).flash = s.flash := rfl
@[simp] theorem answered_badBlocks : (answered s st bs).badBlocks = s.badBlocks := rfl
@[simp] theorem answered_logOldest : (answered s st bs).logOldest = s.logOldest := rfl
@[simp] theorem answered_logNext : (answered s st bs).logNext = s.logNext := rfl
@[simp] theorem answered_powerOnS : (answered s st bs).powerOnS = s.powerOnS := rfl
@[simp] theorem answered_west : (answered s st bs).west = s.west := rfl
@[simp] theorem answered_east : (answered s st bs).east = s.east := rfl
@[simp] theorem answered_units : (answered s st bs).units = s.units := rfl
@[simp] theorem answered_unitSpare : (answered s st bs).unitSpare = s.unitSpare := rfl
@[simp] theorem answered_waiting : (answered s st bs).waiting = s.waiting := rfl
@[simp] theorem answered_portRec : (answered s st bs).portRec = s.portRec := rfl
@[simp] theorem answered_wear : (answered s st bs).wear = s.wear := rfl
@[simp] theorem answered_vfRec : (answered s st bs).vfRec = s.vfRec := rfl
@[simp] theorem answered_held : (answered s st bs).held = s.held := rfl
@[simp] theorem answered_resetAt : (answered s st bs).resetAt = s.resetAt := rfl
@[simp] theorem answered_thermHeld : (answered s st bs).thermHeld = s.thermHeld := rfl
@[simp] theorem answered_resetLow : (answered s st bs).resetLow = s.resetLow := rfl
@[simp] theorem answered_pwrgd : (answered s st bs).pwrgd = s.pwrgd := rfl
@[simp] theorem answered_i2cMode : (answered s st bs).i2cMode = s.i2cMode := rfl
@[simp] theorem answered_wdogAt : (answered s st bs).wdogAt = s.wdogAt := rfl
@[simp] theorem answered_bootEnv : (answered s st bs).bootEnv = s.bootEnv := rfl
@[simp] theorem answered_commonClock : (answered s st bs).commonClock = s.commonClock := rfl
@[simp] theorem answered_mfw : (answered s st bs).mfw = s.mfw := rfl
@[simp] theorem answered_fwSigner : (answered s st bs).fwSigner = s.fwSigner := rfl
@[simp] theorem answered_recov : (answered s st bs).recov = s.recov := rfl
@[simp] theorem answered_secCmd : (answered s st bs).secCmd = s.secCmd := rfl
@[simp] theorem answered_sessionEnd : (answered s st bs).sessionEnd = s.sessionEnd := rfl
@[simp] theorem answered_quote : (answered s st bs).quote = s.quote := rfl
@[simp] theorem answered_stepFrom : (answered s st bs).stepFrom = s.stepFrom := rfl
@[simp] theorem answered_retired : (answered s st bs).retired = s.retired := rfl
@[simp] theorem answered_scrubFailed : (answered s st bs).scrubFailed = s.scrubFailed := rfl
@[simp] theorem answered_temps : (answered s st bs).temps = s.temps := rfl
@[simp] theorem answered_hbmLat : (answered s st bs).hbmLat = s.hbmLat := rfl
@[simp] theorem answered_hbmBulk : (answered s st bs).hbmBulk = s.hbmBulk := rfl
@[simp] theorem answered_latRun : (answered s st bs).latRun = s.latRun := rfl
@[simp] theorem answered_hbmUp : (answered s st bs).hbmUp = s.hbmUp := rfl
@[simp] theorem answered_hbmHold : (answered s st bs).hbmHold = s.hbmHold := rfl
@[simp] theorem answered_rowHold : (answered s st bs).rowHold = s.rowHold := rfl
@[simp] theorem answered_hbmTrained : (answered s st bs).hbmTrained = s.hbmTrained := rfl
@[simp] theorem answered_refreshDue : (answered s st bs).refreshDue = s.refreshDue := rfl
@[simp] theorem answered_openRow : (answered s st bs).openRow = s.openRow := rfl
@[simp] theorem answered_bankActs : (answered s st bs).bankActs = s.bankActs := rfl
@[simp] theorem answered_hbmOnDie : (answered s st bs).hbmOnDie = s.hbmOnDie := rfl
@[simp] theorem answered_calDrift : (answered s st bs).calDrift = s.calDrift := rfl
@[simp] theorem answered_rowFails : (answered s st bs).rowFails = s.rowFails := rfl
@[simp] theorem answered_pinFails : (answered s st bs).pinFails = s.pinFails := rfl
@[simp] theorem answered_rowUnc : (answered s st bs).rowUnc = s.rowUnc := rfl
@[simp] theorem answered_hbmFailing : (answered s st bs).hbmFailing = s.hbmFailing := rfl
@[simp] theorem answered_hbmWorn : (answered s st bs).hbmWorn = s.hbmWorn := rfl
@[simp] theorem answered_hbmKept : (answered s st bs).hbmKept = s.hbmKept := rfl
@[simp] theorem answered_spareRows : (answered s st bs).spareRows = s.spareRows := rfl
@[simp] theorem answered_pprRows : (answered s st bs).pprRows = s.pprRows := rfl
@[simp] theorem answered_tgcPos : (answered s st bs).tgcPos = s.tgcPos := rfl
@[simp] theorem answered_tgcPrbs : (answered s st bs).tgcPrbs = s.tgcPrbs := rfl
@[simp] theorem answered_poolUsed : (answered s st bs).poolUsed = s.poolUsed := rfl
@[simp] theorem answered_poolQ : (answered s st bs).poolQ = s.poolQ := rfl
@[simp] theorem answered_poolAns : (answered s st bs).poolAns = s.poolAns := rfl
@[simp] theorem answered_recs : (answered s st bs).recs = s.recs := rfl
@[simp] theorem answered_arrs : (answered s st bs).arrs = s.arrs := rfl
@[simp] theorem answered_xchs : (answered s st bs).xchs = s.xchs := rfl
@[simp] theorem answered_embs : (answered s st bs).embs = s.embs := rfl
@[simp] theorem answered_cols : (answered s st bs).cols = s.cols := rfl
@[simp] theorem answered_hotDir : (answered s st bs).hotDir = s.hotDir := rfl
@[simp] theorem answered_images : (answered s st bs).images = s.images := rfl
@[simp] theorem answered_tileHeld : (answered s st bs).tileHeld = s.tileHeld := rfl
@[simp] theorem answered_dbg : (answered s st bs).dbg = s.dbg := rfl
@[simp] theorem answered_jtag : (answered s st bs).jtag = s.jtag := rfl
@[simp] theorem answered_ibi : (answered s st bs).ibi = s.ibi := rfl
@[simp] theorem answered_msixAt : (answered s st bs).msixAt = s.msixAt := rfl
@[simp] theorem answered_msixHeld : (answered s st bs).msixHeld = s.msixHeld := rfl
@[simp] theorem answered_lastEdge : (answered s st bs).lastEdge = s.lastEdge := rfl
end

/-! ### `setSeq` -/

section
variable (q : SeqId) (x : SeqSt)
@[simp] theorem setSeq_pending : (setSeq s q x).pending = s.pending := rfl
@[simp] theorem setSeq_now : (setSeq s q x).now = s.now := rfl
@[simp] theorem setSeq_freeCtr : (setSeq s q x).freeCtr = s.freeCtr := rfl
@[simp] theorem setSeq_answer : (setSeq s q x).answer = s.answer := rfl
@[simp] theorem setSeq_regs : (setSeq s q x).regs = s.regs := rfl
@[simp] theorem setSeq_mem : (setSeq s q x).mem = s.mem := rfl
@[simp] theorem setSeq_segOwner : (setSeq s q x).segOwner = s.segOwner := rfl
@[simp] theorem setSeq_tags : (setSeq s q x).tags = s.tags := rfl
@[simp] theorem setSeq_seqs : (setSeq s q x).seqs = SMap.set dSeq s.seqs q.inst x := rfl
@[simp] theorem setSeq_tccs : (setSeq s q x).tccs = s.tccs := rfl
@[simp] theorem setSeq_outs : (setSeq s q x).outs = s.outs := rfl
@[simp] theorem setSeq_nextOut : (setSeq s q x).nextOut = s.nextOut := rfl
@[simp] theorem setSeq_seqCtr : (setSeq s q x).seqCtr = s.seqCtr := rfl
@[simp] theorem setSeq_seqTime : (setSeq s q x).seqTime = s.seqTime := rfl
@[simp] theorem setSeq_ctxFail : (setSeq s q x).ctxFail = s.ctxFail := rfl
@[simp] theorem setSeq_movedFlows : (setSeq s q x).movedFlows = s.movedFlows := rfl
@[simp] theorem setSeq_filter : (setSeq s q x).filter = s.filter := rfl
@[simp] theorem setSeq_comb : (setSeq s q x).comb = s.comb := rfl
@[simp] theorem setSeq_heldFlags : (setSeq s q x).heldFlags = s.heldFlags := rfl
@[simp] theorem setSeq_migs : (setSeq s q x).migs = s.migs := rfl
@[simp] theorem setSeq_winHeld : (setSeq s q x).winHeld = s.winHeld := rfl
@[simp] theorem setSeq_routes : (setSeq s q x).routes = s.routes := rfl
@[simp] theorem setSeq_psets : (setSeq s q x).psets = s.psets := rfl
@[simp] theorem setSeq_toRoute : (setSeq s q x).toRoute = s.toRoute := rfl
@[simp] theorem setSeq_passBy : (setSeq s q x).passBy = s.passBy := rfl
@[simp] theorem setSeq_arrived : (setSeq s q x).arrived = s.arrived := rfl
@[simp] theorem setSeq_hostQ : (setSeq s q x).hostQ = s.hostQ := rfl
@[simp] theorem setSeq_hostOut : (setSeq s q x).hostOut = s.hostOut := rfl
@[simp] theorem setSeq_hostParts : (setSeq s q x).hostParts = s.hostParts := rfl
@[simp] theorem setSeq_pcieCfg : (setSeq s q x).pcieCfg = s.pcieCfg := rfl
@[simp] theorem setSeq_spent : (setSeq s q x).spent = s.spent := rfl
@[simp] theorem setSeq_reports : (setSeq s q x).reports = s.reports := rfl
@[simp] theorem setSeq_combOut : (setSeq s q x).combOut = s.combOut := rfl
@[simp] theorem setSeq_ports : (setSeq s q x).ports = s.ports := rfl
@[simp] theorem setSeq_creditQ : (setSeq s q x).creditQ = s.creditQ := rfl
@[simp] theorem setSeq_grants : (setSeq s q x).grants = s.grants := rfl
@[simp] theorem setSeq_halfMv : (setSeq s q x).halfMv = s.halfMv := rfl
@[simp] theorem setSeq_binE : (setSeq s q x).binE = s.binE := rfl
@[simp] theorem setSeq_totE : (setSeq s q x).totE = s.totE := rfl
@[simp] theorem setSeq_pageE : (setSeq s q x).pageE = s.pageE := rfl
@[simp] theorem setSeq_avg : (setSeq s q x).avg = s.avg := rfl
@[simp] theorem setSeq_marks : (setSeq s q x).marks = s.marks := rfl
@[simp] theorem setSeq_freqPend : (setSeq s q x).freqPend = s.freqPend := rfl
@[simp] theorem setSeq_ramps : (setSeq s q x).ramps = s.ramps := rfl
@[simp] theorem setSeq_lastLong : (setSeq s q x).lastLong = s.lastLong := rfl
@[simp] theorem setSeq_distCycles : (setSeq s q x).distCycles = s.distCycles := rfl
@[simp] theorem setSeq_slack : (setSeq s q x).slack = s.slack := rfl
@[simp] theorem setSeq_slackLow : (setSeq s q x).slackLow = s.slackLow := rfl
@[simp] theorem setSeq_railBase : (setSeq s q x).railBase = s.railBase := rfl
@[simp] theorem setSeq_nmErr : (setSeq s q x).nmErr = s.nmErr := rfl
@[simp] theorem setSeq_nmCorr : (setSeq s q x).nmCorr = s.nmCorr := rfl
@[simp] theorem setSeq_nmRows : (setSeq s q x).nmRows = s.nmRows := rfl
@[simp] theorem setSeq_hbmErr : (setSeq s q x).hbmErr = s.hbmErr := rfl
@[simp] theorem setSeq_flash : (setSeq s q x).flash = s.flash := rfl
@[simp] theorem setSeq_badBlocks : (setSeq s q x).badBlocks = s.badBlocks := rfl
@[simp] theorem setSeq_logOldest : (setSeq s q x).logOldest = s.logOldest := rfl
@[simp] theorem setSeq_logNext : (setSeq s q x).logNext = s.logNext := rfl
@[simp] theorem setSeq_powerOnS : (setSeq s q x).powerOnS = s.powerOnS := rfl
@[simp] theorem setSeq_west : (setSeq s q x).west = s.west := rfl
@[simp] theorem setSeq_east : (setSeq s q x).east = s.east := rfl
@[simp] theorem setSeq_units : (setSeq s q x).units = s.units := rfl
@[simp] theorem setSeq_unitSpare : (setSeq s q x).unitSpare = s.unitSpare := rfl
@[simp] theorem setSeq_waiting : (setSeq s q x).waiting = s.waiting := rfl
@[simp] theorem setSeq_portRec : (setSeq s q x).portRec = s.portRec := rfl
@[simp] theorem setSeq_wear : (setSeq s q x).wear = s.wear := rfl
@[simp] theorem setSeq_vfRec : (setSeq s q x).vfRec = s.vfRec := rfl
@[simp] theorem setSeq_held : (setSeq s q x).held = s.held := rfl
@[simp] theorem setSeq_resetAt : (setSeq s q x).resetAt = s.resetAt := rfl
@[simp] theorem setSeq_thermHeld : (setSeq s q x).thermHeld = s.thermHeld := rfl
@[simp] theorem setSeq_resetLow : (setSeq s q x).resetLow = s.resetLow := rfl
@[simp] theorem setSeq_pwrgd : (setSeq s q x).pwrgd = s.pwrgd := rfl
@[simp] theorem setSeq_i2cMode : (setSeq s q x).i2cMode = s.i2cMode := rfl
@[simp] theorem setSeq_wdogAt : (setSeq s q x).wdogAt = s.wdogAt := rfl
@[simp] theorem setSeq_bootEnv : (setSeq s q x).bootEnv = s.bootEnv := rfl
@[simp] theorem setSeq_commonClock : (setSeq s q x).commonClock = s.commonClock := rfl
@[simp] theorem setSeq_mfw : (setSeq s q x).mfw = s.mfw := rfl
@[simp] theorem setSeq_fwSigner : (setSeq s q x).fwSigner = s.fwSigner := rfl
@[simp] theorem setSeq_recov : (setSeq s q x).recov = s.recov := rfl
@[simp] theorem setSeq_secCmd : (setSeq s q x).secCmd = s.secCmd := rfl
@[simp] theorem setSeq_sessionEnd : (setSeq s q x).sessionEnd = s.sessionEnd := rfl
@[simp] theorem setSeq_quote : (setSeq s q x).quote = s.quote := rfl
@[simp] theorem setSeq_stepFrom : (setSeq s q x).stepFrom = s.stepFrom := rfl
@[simp] theorem setSeq_retired : (setSeq s q x).retired = s.retired := rfl
@[simp] theorem setSeq_scrubFailed : (setSeq s q x).scrubFailed = s.scrubFailed := rfl
@[simp] theorem setSeq_temps : (setSeq s q x).temps = s.temps := rfl
@[simp] theorem setSeq_hbmLat : (setSeq s q x).hbmLat = s.hbmLat := rfl
@[simp] theorem setSeq_hbmBulk : (setSeq s q x).hbmBulk = s.hbmBulk := rfl
@[simp] theorem setSeq_latRun : (setSeq s q x).latRun = s.latRun := rfl
@[simp] theorem setSeq_hbmUp : (setSeq s q x).hbmUp = s.hbmUp := rfl
@[simp] theorem setSeq_hbmHold : (setSeq s q x).hbmHold = s.hbmHold := rfl
@[simp] theorem setSeq_rowHold : (setSeq s q x).rowHold = s.rowHold := rfl
@[simp] theorem setSeq_hbmTrained : (setSeq s q x).hbmTrained = s.hbmTrained := rfl
@[simp] theorem setSeq_refreshDue : (setSeq s q x).refreshDue = s.refreshDue := rfl
@[simp] theorem setSeq_openRow : (setSeq s q x).openRow = s.openRow := rfl
@[simp] theorem setSeq_bankActs : (setSeq s q x).bankActs = s.bankActs := rfl
@[simp] theorem setSeq_hbmOnDie : (setSeq s q x).hbmOnDie = s.hbmOnDie := rfl
@[simp] theorem setSeq_calDrift : (setSeq s q x).calDrift = s.calDrift := rfl
@[simp] theorem setSeq_rowFails : (setSeq s q x).rowFails = s.rowFails := rfl
@[simp] theorem setSeq_pinFails : (setSeq s q x).pinFails = s.pinFails := rfl
@[simp] theorem setSeq_rowUnc : (setSeq s q x).rowUnc = s.rowUnc := rfl
@[simp] theorem setSeq_hbmFailing : (setSeq s q x).hbmFailing = s.hbmFailing := rfl
@[simp] theorem setSeq_hbmWorn : (setSeq s q x).hbmWorn = s.hbmWorn := rfl
@[simp] theorem setSeq_hbmKept : (setSeq s q x).hbmKept = s.hbmKept := rfl
@[simp] theorem setSeq_spareRows : (setSeq s q x).spareRows = s.spareRows := rfl
@[simp] theorem setSeq_pprRows : (setSeq s q x).pprRows = s.pprRows := rfl
@[simp] theorem setSeq_tgcPos : (setSeq s q x).tgcPos = s.tgcPos := rfl
@[simp] theorem setSeq_tgcPrbs : (setSeq s q x).tgcPrbs = s.tgcPrbs := rfl
@[simp] theorem setSeq_poolUsed : (setSeq s q x).poolUsed = s.poolUsed := rfl
@[simp] theorem setSeq_poolQ : (setSeq s q x).poolQ = s.poolQ := rfl
@[simp] theorem setSeq_poolAns : (setSeq s q x).poolAns = s.poolAns := rfl
@[simp] theorem setSeq_recs : (setSeq s q x).recs = s.recs := rfl
@[simp] theorem setSeq_arrs : (setSeq s q x).arrs = s.arrs := rfl
@[simp] theorem setSeq_xchs : (setSeq s q x).xchs = s.xchs := rfl
@[simp] theorem setSeq_embs : (setSeq s q x).embs = s.embs := rfl
@[simp] theorem setSeq_cols : (setSeq s q x).cols = s.cols := rfl
@[simp] theorem setSeq_hotDir : (setSeq s q x).hotDir = s.hotDir := rfl
@[simp] theorem setSeq_images : (setSeq s q x).images = s.images := rfl
@[simp] theorem setSeq_tileHeld : (setSeq s q x).tileHeld = s.tileHeld := rfl
@[simp] theorem setSeq_dbg : (setSeq s q x).dbg = s.dbg := rfl
@[simp] theorem setSeq_jtag : (setSeq s q x).jtag = s.jtag := rfl
@[simp] theorem setSeq_ibi : (setSeq s q x).ibi = s.ibi := rfl
@[simp] theorem setSeq_msixAt : (setSeq s q x).msixAt = s.msixAt := rfl
@[simp] theorem setSeq_msixHeld : (setSeq s q x).msixHeld = s.msixHeld := rfl
@[simp] theorem setSeq_lastEdge : (setSeq s q x).lastEdge = s.lastEdge := rfl
end

/-! ### `setTcc` -/

section
variable (t : Nat) (x : Tcc)
@[simp] theorem setTcc_pending : (setTcc s t x).pending = s.pending := rfl
@[simp] theorem setTcc_now : (setTcc s t x).now = s.now := rfl
@[simp] theorem setTcc_freeCtr : (setTcc s t x).freeCtr = s.freeCtr := rfl
@[simp] theorem setTcc_answer : (setTcc s t x).answer = s.answer := rfl
@[simp] theorem setTcc_regs : (setTcc s t x).regs = s.regs := rfl
@[simp] theorem setTcc_mem : (setTcc s t x).mem = s.mem := rfl
@[simp] theorem setTcc_segOwner : (setTcc s t x).segOwner = s.segOwner := rfl
@[simp] theorem setTcc_tags : (setTcc s t x).tags = s.tags := rfl
@[simp] theorem setTcc_seqs : (setTcc s t x).seqs = s.seqs := rfl
@[simp] theorem setTcc_tccs : (setTcc s t x).tccs = SMap.set dTcc s.tccs t x := rfl
@[simp] theorem setTcc_outs : (setTcc s t x).outs = s.outs := rfl
@[simp] theorem setTcc_nextOut : (setTcc s t x).nextOut = s.nextOut := rfl
@[simp] theorem setTcc_seqCtr : (setTcc s t x).seqCtr = s.seqCtr := rfl
@[simp] theorem setTcc_seqTime : (setTcc s t x).seqTime = s.seqTime := rfl
@[simp] theorem setTcc_ctxFail : (setTcc s t x).ctxFail = s.ctxFail := rfl
@[simp] theorem setTcc_movedFlows : (setTcc s t x).movedFlows = s.movedFlows := rfl
@[simp] theorem setTcc_filter : (setTcc s t x).filter = s.filter := rfl
@[simp] theorem setTcc_comb : (setTcc s t x).comb = s.comb := rfl
@[simp] theorem setTcc_heldFlags : (setTcc s t x).heldFlags = s.heldFlags := rfl
@[simp] theorem setTcc_migs : (setTcc s t x).migs = s.migs := rfl
@[simp] theorem setTcc_winHeld : (setTcc s t x).winHeld = s.winHeld := rfl
@[simp] theorem setTcc_routes : (setTcc s t x).routes = s.routes := rfl
@[simp] theorem setTcc_psets : (setTcc s t x).psets = s.psets := rfl
@[simp] theorem setTcc_toRoute : (setTcc s t x).toRoute = s.toRoute := rfl
@[simp] theorem setTcc_passBy : (setTcc s t x).passBy = s.passBy := rfl
@[simp] theorem setTcc_arrived : (setTcc s t x).arrived = s.arrived := rfl
@[simp] theorem setTcc_hostQ : (setTcc s t x).hostQ = s.hostQ := rfl
@[simp] theorem setTcc_hostOut : (setTcc s t x).hostOut = s.hostOut := rfl
@[simp] theorem setTcc_hostParts : (setTcc s t x).hostParts = s.hostParts := rfl
@[simp] theorem setTcc_pcieCfg : (setTcc s t x).pcieCfg = s.pcieCfg := rfl
@[simp] theorem setTcc_spent : (setTcc s t x).spent = s.spent := rfl
@[simp] theorem setTcc_reports : (setTcc s t x).reports = s.reports := rfl
@[simp] theorem setTcc_combOut : (setTcc s t x).combOut = s.combOut := rfl
@[simp] theorem setTcc_ports : (setTcc s t x).ports = s.ports := rfl
@[simp] theorem setTcc_creditQ : (setTcc s t x).creditQ = s.creditQ := rfl
@[simp] theorem setTcc_grants : (setTcc s t x).grants = s.grants := rfl
@[simp] theorem setTcc_halfMv : (setTcc s t x).halfMv = s.halfMv := rfl
@[simp] theorem setTcc_binE : (setTcc s t x).binE = s.binE := rfl
@[simp] theorem setTcc_totE : (setTcc s t x).totE = s.totE := rfl
@[simp] theorem setTcc_pageE : (setTcc s t x).pageE = s.pageE := rfl
@[simp] theorem setTcc_avg : (setTcc s t x).avg = s.avg := rfl
@[simp] theorem setTcc_marks : (setTcc s t x).marks = s.marks := rfl
@[simp] theorem setTcc_freqPend : (setTcc s t x).freqPend = s.freqPend := rfl
@[simp] theorem setTcc_ramps : (setTcc s t x).ramps = s.ramps := rfl
@[simp] theorem setTcc_lastLong : (setTcc s t x).lastLong = s.lastLong := rfl
@[simp] theorem setTcc_distCycles : (setTcc s t x).distCycles = s.distCycles := rfl
@[simp] theorem setTcc_slack : (setTcc s t x).slack = s.slack := rfl
@[simp] theorem setTcc_slackLow : (setTcc s t x).slackLow = s.slackLow := rfl
@[simp] theorem setTcc_railBase : (setTcc s t x).railBase = s.railBase := rfl
@[simp] theorem setTcc_nmErr : (setTcc s t x).nmErr = s.nmErr := rfl
@[simp] theorem setTcc_nmCorr : (setTcc s t x).nmCorr = s.nmCorr := rfl
@[simp] theorem setTcc_nmRows : (setTcc s t x).nmRows = s.nmRows := rfl
@[simp] theorem setTcc_hbmErr : (setTcc s t x).hbmErr = s.hbmErr := rfl
@[simp] theorem setTcc_flash : (setTcc s t x).flash = s.flash := rfl
@[simp] theorem setTcc_badBlocks : (setTcc s t x).badBlocks = s.badBlocks := rfl
@[simp] theorem setTcc_logOldest : (setTcc s t x).logOldest = s.logOldest := rfl
@[simp] theorem setTcc_logNext : (setTcc s t x).logNext = s.logNext := rfl
@[simp] theorem setTcc_powerOnS : (setTcc s t x).powerOnS = s.powerOnS := rfl
@[simp] theorem setTcc_west : (setTcc s t x).west = s.west := rfl
@[simp] theorem setTcc_east : (setTcc s t x).east = s.east := rfl
@[simp] theorem setTcc_units : (setTcc s t x).units = s.units := rfl
@[simp] theorem setTcc_unitSpare : (setTcc s t x).unitSpare = s.unitSpare := rfl
@[simp] theorem setTcc_waiting : (setTcc s t x).waiting = s.waiting := rfl
@[simp] theorem setTcc_portRec : (setTcc s t x).portRec = s.portRec := rfl
@[simp] theorem setTcc_wear : (setTcc s t x).wear = s.wear := rfl
@[simp] theorem setTcc_vfRec : (setTcc s t x).vfRec = s.vfRec := rfl
@[simp] theorem setTcc_held : (setTcc s t x).held = s.held := rfl
@[simp] theorem setTcc_resetAt : (setTcc s t x).resetAt = s.resetAt := rfl
@[simp] theorem setTcc_thermHeld : (setTcc s t x).thermHeld = s.thermHeld := rfl
@[simp] theorem setTcc_resetLow : (setTcc s t x).resetLow = s.resetLow := rfl
@[simp] theorem setTcc_pwrgd : (setTcc s t x).pwrgd = s.pwrgd := rfl
@[simp] theorem setTcc_i2cMode : (setTcc s t x).i2cMode = s.i2cMode := rfl
@[simp] theorem setTcc_wdogAt : (setTcc s t x).wdogAt = s.wdogAt := rfl
@[simp] theorem setTcc_bootEnv : (setTcc s t x).bootEnv = s.bootEnv := rfl
@[simp] theorem setTcc_commonClock : (setTcc s t x).commonClock = s.commonClock := rfl
@[simp] theorem setTcc_mfw : (setTcc s t x).mfw = s.mfw := rfl
@[simp] theorem setTcc_fwSigner : (setTcc s t x).fwSigner = s.fwSigner := rfl
@[simp] theorem setTcc_recov : (setTcc s t x).recov = s.recov := rfl
@[simp] theorem setTcc_secCmd : (setTcc s t x).secCmd = s.secCmd := rfl
@[simp] theorem setTcc_sessionEnd : (setTcc s t x).sessionEnd = s.sessionEnd := rfl
@[simp] theorem setTcc_quote : (setTcc s t x).quote = s.quote := rfl
@[simp] theorem setTcc_stepFrom : (setTcc s t x).stepFrom = s.stepFrom := rfl
@[simp] theorem setTcc_retired : (setTcc s t x).retired = s.retired := rfl
@[simp] theorem setTcc_scrubFailed : (setTcc s t x).scrubFailed = s.scrubFailed := rfl
@[simp] theorem setTcc_temps : (setTcc s t x).temps = s.temps := rfl
@[simp] theorem setTcc_hbmLat : (setTcc s t x).hbmLat = s.hbmLat := rfl
@[simp] theorem setTcc_hbmBulk : (setTcc s t x).hbmBulk = s.hbmBulk := rfl
@[simp] theorem setTcc_latRun : (setTcc s t x).latRun = s.latRun := rfl
@[simp] theorem setTcc_hbmUp : (setTcc s t x).hbmUp = s.hbmUp := rfl
@[simp] theorem setTcc_hbmHold : (setTcc s t x).hbmHold = s.hbmHold := rfl
@[simp] theorem setTcc_rowHold : (setTcc s t x).rowHold = s.rowHold := rfl
@[simp] theorem setTcc_hbmTrained : (setTcc s t x).hbmTrained = s.hbmTrained := rfl
@[simp] theorem setTcc_refreshDue : (setTcc s t x).refreshDue = s.refreshDue := rfl
@[simp] theorem setTcc_openRow : (setTcc s t x).openRow = s.openRow := rfl
@[simp] theorem setTcc_bankActs : (setTcc s t x).bankActs = s.bankActs := rfl
@[simp] theorem setTcc_hbmOnDie : (setTcc s t x).hbmOnDie = s.hbmOnDie := rfl
@[simp] theorem setTcc_calDrift : (setTcc s t x).calDrift = s.calDrift := rfl
@[simp] theorem setTcc_rowFails : (setTcc s t x).rowFails = s.rowFails := rfl
@[simp] theorem setTcc_pinFails : (setTcc s t x).pinFails = s.pinFails := rfl
@[simp] theorem setTcc_rowUnc : (setTcc s t x).rowUnc = s.rowUnc := rfl
@[simp] theorem setTcc_hbmFailing : (setTcc s t x).hbmFailing = s.hbmFailing := rfl
@[simp] theorem setTcc_hbmWorn : (setTcc s t x).hbmWorn = s.hbmWorn := rfl
@[simp] theorem setTcc_hbmKept : (setTcc s t x).hbmKept = s.hbmKept := rfl
@[simp] theorem setTcc_spareRows : (setTcc s t x).spareRows = s.spareRows := rfl
@[simp] theorem setTcc_pprRows : (setTcc s t x).pprRows = s.pprRows := rfl
@[simp] theorem setTcc_tgcPos : (setTcc s t x).tgcPos = s.tgcPos := rfl
@[simp] theorem setTcc_tgcPrbs : (setTcc s t x).tgcPrbs = s.tgcPrbs := rfl
@[simp] theorem setTcc_poolUsed : (setTcc s t x).poolUsed = s.poolUsed := rfl
@[simp] theorem setTcc_poolQ : (setTcc s t x).poolQ = s.poolQ := rfl
@[simp] theorem setTcc_poolAns : (setTcc s t x).poolAns = s.poolAns := rfl
@[simp] theorem setTcc_recs : (setTcc s t x).recs = s.recs := rfl
@[simp] theorem setTcc_arrs : (setTcc s t x).arrs = s.arrs := rfl
@[simp] theorem setTcc_xchs : (setTcc s t x).xchs = s.xchs := rfl
@[simp] theorem setTcc_embs : (setTcc s t x).embs = s.embs := rfl
@[simp] theorem setTcc_cols : (setTcc s t x).cols = s.cols := rfl
@[simp] theorem setTcc_hotDir : (setTcc s t x).hotDir = s.hotDir := rfl
@[simp] theorem setTcc_images : (setTcc s t x).images = s.images := rfl
@[simp] theorem setTcc_tileHeld : (setTcc s t x).tileHeld = s.tileHeld := rfl
@[simp] theorem setTcc_dbg : (setTcc s t x).dbg = s.dbg := rfl
@[simp] theorem setTcc_jtag : (setTcc s t x).jtag = s.jtag := rfl
@[simp] theorem setTcc_ibi : (setTcc s t x).ibi = s.ibi := rfl
@[simp] theorem setTcc_msixAt : (setTcc s t x).msixAt = s.msixAt := rfl
@[simp] theorem setTcc_msixHeld : (setTcc s t x).msixHeld = s.msixHeld := rfl
@[simp] theorem setTcc_lastEdge : (setTcc s t x).lastEdge = s.lastEdge := rfl
end

/-! ### `setPort` -/

section
variable (p : Nat) (x : Port)
@[simp] theorem setPort_pending : (setPort s p x).pending = s.pending := rfl
@[simp] theorem setPort_now : (setPort s p x).now = s.now := rfl
@[simp] theorem setPort_freeCtr : (setPort s p x).freeCtr = s.freeCtr := rfl
@[simp] theorem setPort_answer : (setPort s p x).answer = s.answer := rfl
@[simp] theorem setPort_regs : (setPort s p x).regs = s.regs := rfl
@[simp] theorem setPort_mem : (setPort s p x).mem = s.mem := rfl
@[simp] theorem setPort_segOwner : (setPort s p x).segOwner = s.segOwner := rfl
@[simp] theorem setPort_tags : (setPort s p x).tags = s.tags := rfl
@[simp] theorem setPort_seqs : (setPort s p x).seqs = s.seqs := rfl
@[simp] theorem setPort_tccs : (setPort s p x).tccs = s.tccs := rfl
@[simp] theorem setPort_outs : (setPort s p x).outs = s.outs := rfl
@[simp] theorem setPort_nextOut : (setPort s p x).nextOut = s.nextOut := rfl
@[simp] theorem setPort_seqCtr : (setPort s p x).seqCtr = s.seqCtr := rfl
@[simp] theorem setPort_seqTime : (setPort s p x).seqTime = s.seqTime := rfl
@[simp] theorem setPort_ctxFail : (setPort s p x).ctxFail = s.ctxFail := rfl
@[simp] theorem setPort_movedFlows : (setPort s p x).movedFlows = s.movedFlows := rfl
@[simp] theorem setPort_filter : (setPort s p x).filter = s.filter := rfl
@[simp] theorem setPort_comb : (setPort s p x).comb = s.comb := rfl
@[simp] theorem setPort_heldFlags : (setPort s p x).heldFlags = s.heldFlags := rfl
@[simp] theorem setPort_migs : (setPort s p x).migs = s.migs := rfl
@[simp] theorem setPort_winHeld : (setPort s p x).winHeld = s.winHeld := rfl
@[simp] theorem setPort_routes : (setPort s p x).routes = s.routes := rfl
@[simp] theorem setPort_psets : (setPort s p x).psets = s.psets := rfl
@[simp] theorem setPort_toRoute : (setPort s p x).toRoute = s.toRoute := rfl
@[simp] theorem setPort_passBy : (setPort s p x).passBy = s.passBy := rfl
@[simp] theorem setPort_arrived : (setPort s p x).arrived = s.arrived := rfl
@[simp] theorem setPort_hostQ : (setPort s p x).hostQ = s.hostQ := rfl
@[simp] theorem setPort_hostOut : (setPort s p x).hostOut = s.hostOut := rfl
@[simp] theorem setPort_hostParts : (setPort s p x).hostParts = s.hostParts := rfl
@[simp] theorem setPort_pcieCfg : (setPort s p x).pcieCfg = s.pcieCfg := rfl
@[simp] theorem setPort_spent : (setPort s p x).spent = s.spent := rfl
@[simp] theorem setPort_reports : (setPort s p x).reports = s.reports := rfl
@[simp] theorem setPort_combOut : (setPort s p x).combOut = s.combOut := rfl
@[simp] theorem setPort_ports : (setPort s p x).ports = SMap.set dPort s.ports p x := rfl
@[simp] theorem setPort_creditQ : (setPort s p x).creditQ = s.creditQ := rfl
@[simp] theorem setPort_grants : (setPort s p x).grants = s.grants := rfl
@[simp] theorem setPort_halfMv : (setPort s p x).halfMv = s.halfMv := rfl
@[simp] theorem setPort_binE : (setPort s p x).binE = s.binE := rfl
@[simp] theorem setPort_totE : (setPort s p x).totE = s.totE := rfl
@[simp] theorem setPort_pageE : (setPort s p x).pageE = s.pageE := rfl
@[simp] theorem setPort_avg : (setPort s p x).avg = s.avg := rfl
@[simp] theorem setPort_marks : (setPort s p x).marks = s.marks := rfl
@[simp] theorem setPort_freqPend : (setPort s p x).freqPend = s.freqPend := rfl
@[simp] theorem setPort_ramps : (setPort s p x).ramps = s.ramps := rfl
@[simp] theorem setPort_lastLong : (setPort s p x).lastLong = s.lastLong := rfl
@[simp] theorem setPort_distCycles : (setPort s p x).distCycles = s.distCycles := rfl
@[simp] theorem setPort_slack : (setPort s p x).slack = s.slack := rfl
@[simp] theorem setPort_slackLow : (setPort s p x).slackLow = s.slackLow := rfl
@[simp] theorem setPort_railBase : (setPort s p x).railBase = s.railBase := rfl
@[simp] theorem setPort_nmErr : (setPort s p x).nmErr = s.nmErr := rfl
@[simp] theorem setPort_nmCorr : (setPort s p x).nmCorr = s.nmCorr := rfl
@[simp] theorem setPort_nmRows : (setPort s p x).nmRows = s.nmRows := rfl
@[simp] theorem setPort_hbmErr : (setPort s p x).hbmErr = s.hbmErr := rfl
@[simp] theorem setPort_flash : (setPort s p x).flash = s.flash := rfl
@[simp] theorem setPort_badBlocks : (setPort s p x).badBlocks = s.badBlocks := rfl
@[simp] theorem setPort_logOldest : (setPort s p x).logOldest = s.logOldest := rfl
@[simp] theorem setPort_logNext : (setPort s p x).logNext = s.logNext := rfl
@[simp] theorem setPort_powerOnS : (setPort s p x).powerOnS = s.powerOnS := rfl
@[simp] theorem setPort_west : (setPort s p x).west = s.west := rfl
@[simp] theorem setPort_east : (setPort s p x).east = s.east := rfl
@[simp] theorem setPort_units : (setPort s p x).units = s.units := rfl
@[simp] theorem setPort_unitSpare : (setPort s p x).unitSpare = s.unitSpare := rfl
@[simp] theorem setPort_waiting : (setPort s p x).waiting = s.waiting := rfl
@[simp] theorem setPort_portRec : (setPort s p x).portRec = s.portRec := rfl
@[simp] theorem setPort_wear : (setPort s p x).wear = s.wear := rfl
@[simp] theorem setPort_vfRec : (setPort s p x).vfRec = s.vfRec := rfl
@[simp] theorem setPort_held : (setPort s p x).held = s.held := rfl
@[simp] theorem setPort_resetAt : (setPort s p x).resetAt = s.resetAt := rfl
@[simp] theorem setPort_thermHeld : (setPort s p x).thermHeld = s.thermHeld := rfl
@[simp] theorem setPort_resetLow : (setPort s p x).resetLow = s.resetLow := rfl
@[simp] theorem setPort_pwrgd : (setPort s p x).pwrgd = s.pwrgd := rfl
@[simp] theorem setPort_i2cMode : (setPort s p x).i2cMode = s.i2cMode := rfl
@[simp] theorem setPort_wdogAt : (setPort s p x).wdogAt = s.wdogAt := rfl
@[simp] theorem setPort_bootEnv : (setPort s p x).bootEnv = s.bootEnv := rfl
@[simp] theorem setPort_commonClock : (setPort s p x).commonClock = s.commonClock := rfl
@[simp] theorem setPort_mfw : (setPort s p x).mfw = s.mfw := rfl
@[simp] theorem setPort_fwSigner : (setPort s p x).fwSigner = s.fwSigner := rfl
@[simp] theorem setPort_recov : (setPort s p x).recov = s.recov := rfl
@[simp] theorem setPort_secCmd : (setPort s p x).secCmd = s.secCmd := rfl
@[simp] theorem setPort_sessionEnd : (setPort s p x).sessionEnd = s.sessionEnd := rfl
@[simp] theorem setPort_quote : (setPort s p x).quote = s.quote := rfl
@[simp] theorem setPort_stepFrom : (setPort s p x).stepFrom = s.stepFrom := rfl
@[simp] theorem setPort_retired : (setPort s p x).retired = s.retired := rfl
@[simp] theorem setPort_scrubFailed : (setPort s p x).scrubFailed = s.scrubFailed := rfl
@[simp] theorem setPort_temps : (setPort s p x).temps = s.temps := rfl
@[simp] theorem setPort_hbmLat : (setPort s p x).hbmLat = s.hbmLat := rfl
@[simp] theorem setPort_hbmBulk : (setPort s p x).hbmBulk = s.hbmBulk := rfl
@[simp] theorem setPort_latRun : (setPort s p x).latRun = s.latRun := rfl
@[simp] theorem setPort_hbmUp : (setPort s p x).hbmUp = s.hbmUp := rfl
@[simp] theorem setPort_hbmHold : (setPort s p x).hbmHold = s.hbmHold := rfl
@[simp] theorem setPort_rowHold : (setPort s p x).rowHold = s.rowHold := rfl
@[simp] theorem setPort_hbmTrained : (setPort s p x).hbmTrained = s.hbmTrained := rfl
@[simp] theorem setPort_refreshDue : (setPort s p x).refreshDue = s.refreshDue := rfl
@[simp] theorem setPort_openRow : (setPort s p x).openRow = s.openRow := rfl
@[simp] theorem setPort_bankActs : (setPort s p x).bankActs = s.bankActs := rfl
@[simp] theorem setPort_hbmOnDie : (setPort s p x).hbmOnDie = s.hbmOnDie := rfl
@[simp] theorem setPort_calDrift : (setPort s p x).calDrift = s.calDrift := rfl
@[simp] theorem setPort_rowFails : (setPort s p x).rowFails = s.rowFails := rfl
@[simp] theorem setPort_pinFails : (setPort s p x).pinFails = s.pinFails := rfl
@[simp] theorem setPort_rowUnc : (setPort s p x).rowUnc = s.rowUnc := rfl
@[simp] theorem setPort_hbmFailing : (setPort s p x).hbmFailing = s.hbmFailing := rfl
@[simp] theorem setPort_hbmWorn : (setPort s p x).hbmWorn = s.hbmWorn := rfl
@[simp] theorem setPort_hbmKept : (setPort s p x).hbmKept = s.hbmKept := rfl
@[simp] theorem setPort_spareRows : (setPort s p x).spareRows = s.spareRows := rfl
@[simp] theorem setPort_pprRows : (setPort s p x).pprRows = s.pprRows := rfl
@[simp] theorem setPort_tgcPos : (setPort s p x).tgcPos = s.tgcPos := rfl
@[simp] theorem setPort_tgcPrbs : (setPort s p x).tgcPrbs = s.tgcPrbs := rfl
@[simp] theorem setPort_poolUsed : (setPort s p x).poolUsed = s.poolUsed := rfl
@[simp] theorem setPort_poolQ : (setPort s p x).poolQ = s.poolQ := rfl
@[simp] theorem setPort_poolAns : (setPort s p x).poolAns = s.poolAns := rfl
@[simp] theorem setPort_recs : (setPort s p x).recs = s.recs := rfl
@[simp] theorem setPort_arrs : (setPort s p x).arrs = s.arrs := rfl
@[simp] theorem setPort_xchs : (setPort s p x).xchs = s.xchs := rfl
@[simp] theorem setPort_embs : (setPort s p x).embs = s.embs := rfl
@[simp] theorem setPort_cols : (setPort s p x).cols = s.cols := rfl
@[simp] theorem setPort_hotDir : (setPort s p x).hotDir = s.hotDir := rfl
@[simp] theorem setPort_images : (setPort s p x).images = s.images := rfl
@[simp] theorem setPort_tileHeld : (setPort s p x).tileHeld = s.tileHeld := rfl
@[simp] theorem setPort_dbg : (setPort s p x).dbg = s.dbg := rfl
@[simp] theorem setPort_jtag : (setPort s p x).jtag = s.jtag := rfl
@[simp] theorem setPort_ibi : (setPort s p x).ibi = s.ibi := rfl
@[simp] theorem setPort_msixAt : (setPort s p x).msixAt = s.msixAt := rfl
@[simp] theorem setPort_msixHeld : (setPort s p x).msixHeld = s.msixHeld := rfl
@[simp] theorem setPort_lastEdge : (setPort s p x).lastEdge = s.lastEdge := rfl
end

/-! ### `setDbg` -/

section
variable (t : Nat) (x : DbgSt)
@[simp] theorem setDbg_pending : (setDbg s t x).pending = s.pending := rfl
@[simp] theorem setDbg_now : (setDbg s t x).now = s.now := rfl
@[simp] theorem setDbg_freeCtr : (setDbg s t x).freeCtr = s.freeCtr := rfl
@[simp] theorem setDbg_answer : (setDbg s t x).answer = s.answer := rfl
@[simp] theorem setDbg_regs : (setDbg s t x).regs = s.regs := rfl
@[simp] theorem setDbg_mem : (setDbg s t x).mem = s.mem := rfl
@[simp] theorem setDbg_segOwner : (setDbg s t x).segOwner = s.segOwner := rfl
@[simp] theorem setDbg_tags : (setDbg s t x).tags = s.tags := rfl
@[simp] theorem setDbg_seqs : (setDbg s t x).seqs = s.seqs := rfl
@[simp] theorem setDbg_tccs : (setDbg s t x).tccs = s.tccs := rfl
@[simp] theorem setDbg_outs : (setDbg s t x).outs = s.outs := rfl
@[simp] theorem setDbg_nextOut : (setDbg s t x).nextOut = s.nextOut := rfl
@[simp] theorem setDbg_seqCtr : (setDbg s t x).seqCtr = s.seqCtr := rfl
@[simp] theorem setDbg_seqTime : (setDbg s t x).seqTime = s.seqTime := rfl
@[simp] theorem setDbg_ctxFail : (setDbg s t x).ctxFail = s.ctxFail := rfl
@[simp] theorem setDbg_movedFlows : (setDbg s t x).movedFlows = s.movedFlows := rfl
@[simp] theorem setDbg_filter : (setDbg s t x).filter = s.filter := rfl
@[simp] theorem setDbg_comb : (setDbg s t x).comb = s.comb := rfl
@[simp] theorem setDbg_heldFlags : (setDbg s t x).heldFlags = s.heldFlags := rfl
@[simp] theorem setDbg_migs : (setDbg s t x).migs = s.migs := rfl
@[simp] theorem setDbg_winHeld : (setDbg s t x).winHeld = s.winHeld := rfl
@[simp] theorem setDbg_routes : (setDbg s t x).routes = s.routes := rfl
@[simp] theorem setDbg_psets : (setDbg s t x).psets = s.psets := rfl
@[simp] theorem setDbg_toRoute : (setDbg s t x).toRoute = s.toRoute := rfl
@[simp] theorem setDbg_passBy : (setDbg s t x).passBy = s.passBy := rfl
@[simp] theorem setDbg_arrived : (setDbg s t x).arrived = s.arrived := rfl
@[simp] theorem setDbg_hostQ : (setDbg s t x).hostQ = s.hostQ := rfl
@[simp] theorem setDbg_hostOut : (setDbg s t x).hostOut = s.hostOut := rfl
@[simp] theorem setDbg_hostParts : (setDbg s t x).hostParts = s.hostParts := rfl
@[simp] theorem setDbg_pcieCfg : (setDbg s t x).pcieCfg = s.pcieCfg := rfl
@[simp] theorem setDbg_spent : (setDbg s t x).spent = s.spent := rfl
@[simp] theorem setDbg_reports : (setDbg s t x).reports = s.reports := rfl
@[simp] theorem setDbg_combOut : (setDbg s t x).combOut = s.combOut := rfl
@[simp] theorem setDbg_ports : (setDbg s t x).ports = s.ports := rfl
@[simp] theorem setDbg_creditQ : (setDbg s t x).creditQ = s.creditQ := rfl
@[simp] theorem setDbg_grants : (setDbg s t x).grants = s.grants := rfl
@[simp] theorem setDbg_halfMv : (setDbg s t x).halfMv = s.halfMv := rfl
@[simp] theorem setDbg_binE : (setDbg s t x).binE = s.binE := rfl
@[simp] theorem setDbg_totE : (setDbg s t x).totE = s.totE := rfl
@[simp] theorem setDbg_pageE : (setDbg s t x).pageE = s.pageE := rfl
@[simp] theorem setDbg_avg : (setDbg s t x).avg = s.avg := rfl
@[simp] theorem setDbg_marks : (setDbg s t x).marks = s.marks := rfl
@[simp] theorem setDbg_freqPend : (setDbg s t x).freqPend = s.freqPend := rfl
@[simp] theorem setDbg_ramps : (setDbg s t x).ramps = s.ramps := rfl
@[simp] theorem setDbg_lastLong : (setDbg s t x).lastLong = s.lastLong := rfl
@[simp] theorem setDbg_distCycles : (setDbg s t x).distCycles = s.distCycles := rfl
@[simp] theorem setDbg_slack : (setDbg s t x).slack = s.slack := rfl
@[simp] theorem setDbg_slackLow : (setDbg s t x).slackLow = s.slackLow := rfl
@[simp] theorem setDbg_railBase : (setDbg s t x).railBase = s.railBase := rfl
@[simp] theorem setDbg_nmErr : (setDbg s t x).nmErr = s.nmErr := rfl
@[simp] theorem setDbg_nmCorr : (setDbg s t x).nmCorr = s.nmCorr := rfl
@[simp] theorem setDbg_nmRows : (setDbg s t x).nmRows = s.nmRows := rfl
@[simp] theorem setDbg_hbmErr : (setDbg s t x).hbmErr = s.hbmErr := rfl
@[simp] theorem setDbg_flash : (setDbg s t x).flash = s.flash := rfl
@[simp] theorem setDbg_badBlocks : (setDbg s t x).badBlocks = s.badBlocks := rfl
@[simp] theorem setDbg_logOldest : (setDbg s t x).logOldest = s.logOldest := rfl
@[simp] theorem setDbg_logNext : (setDbg s t x).logNext = s.logNext := rfl
@[simp] theorem setDbg_powerOnS : (setDbg s t x).powerOnS = s.powerOnS := rfl
@[simp] theorem setDbg_west : (setDbg s t x).west = s.west := rfl
@[simp] theorem setDbg_east : (setDbg s t x).east = s.east := rfl
@[simp] theorem setDbg_units : (setDbg s t x).units = s.units := rfl
@[simp] theorem setDbg_unitSpare : (setDbg s t x).unitSpare = s.unitSpare := rfl
@[simp] theorem setDbg_waiting : (setDbg s t x).waiting = s.waiting := rfl
@[simp] theorem setDbg_portRec : (setDbg s t x).portRec = s.portRec := rfl
@[simp] theorem setDbg_wear : (setDbg s t x).wear = s.wear := rfl
@[simp] theorem setDbg_vfRec : (setDbg s t x).vfRec = s.vfRec := rfl
@[simp] theorem setDbg_held : (setDbg s t x).held = s.held := rfl
@[simp] theorem setDbg_resetAt : (setDbg s t x).resetAt = s.resetAt := rfl
@[simp] theorem setDbg_thermHeld : (setDbg s t x).thermHeld = s.thermHeld := rfl
@[simp] theorem setDbg_resetLow : (setDbg s t x).resetLow = s.resetLow := rfl
@[simp] theorem setDbg_pwrgd : (setDbg s t x).pwrgd = s.pwrgd := rfl
@[simp] theorem setDbg_i2cMode : (setDbg s t x).i2cMode = s.i2cMode := rfl
@[simp] theorem setDbg_wdogAt : (setDbg s t x).wdogAt = s.wdogAt := rfl
@[simp] theorem setDbg_bootEnv : (setDbg s t x).bootEnv = s.bootEnv := rfl
@[simp] theorem setDbg_commonClock : (setDbg s t x).commonClock = s.commonClock := rfl
@[simp] theorem setDbg_mfw : (setDbg s t x).mfw = s.mfw := rfl
@[simp] theorem setDbg_fwSigner : (setDbg s t x).fwSigner = s.fwSigner := rfl
@[simp] theorem setDbg_recov : (setDbg s t x).recov = s.recov := rfl
@[simp] theorem setDbg_secCmd : (setDbg s t x).secCmd = s.secCmd := rfl
@[simp] theorem setDbg_sessionEnd : (setDbg s t x).sessionEnd = s.sessionEnd := rfl
@[simp] theorem setDbg_quote : (setDbg s t x).quote = s.quote := rfl
@[simp] theorem setDbg_stepFrom : (setDbg s t x).stepFrom = s.stepFrom := rfl
@[simp] theorem setDbg_retired : (setDbg s t x).retired = s.retired := rfl
@[simp] theorem setDbg_scrubFailed : (setDbg s t x).scrubFailed = s.scrubFailed := rfl
@[simp] theorem setDbg_temps : (setDbg s t x).temps = s.temps := rfl
@[simp] theorem setDbg_hbmLat : (setDbg s t x).hbmLat = s.hbmLat := rfl
@[simp] theorem setDbg_hbmBulk : (setDbg s t x).hbmBulk = s.hbmBulk := rfl
@[simp] theorem setDbg_latRun : (setDbg s t x).latRun = s.latRun := rfl
@[simp] theorem setDbg_hbmUp : (setDbg s t x).hbmUp = s.hbmUp := rfl
@[simp] theorem setDbg_hbmHold : (setDbg s t x).hbmHold = s.hbmHold := rfl
@[simp] theorem setDbg_rowHold : (setDbg s t x).rowHold = s.rowHold := rfl
@[simp] theorem setDbg_hbmTrained : (setDbg s t x).hbmTrained = s.hbmTrained := rfl
@[simp] theorem setDbg_refreshDue : (setDbg s t x).refreshDue = s.refreshDue := rfl
@[simp] theorem setDbg_openRow : (setDbg s t x).openRow = s.openRow := rfl
@[simp] theorem setDbg_bankActs : (setDbg s t x).bankActs = s.bankActs := rfl
@[simp] theorem setDbg_hbmOnDie : (setDbg s t x).hbmOnDie = s.hbmOnDie := rfl
@[simp] theorem setDbg_calDrift : (setDbg s t x).calDrift = s.calDrift := rfl
@[simp] theorem setDbg_rowFails : (setDbg s t x).rowFails = s.rowFails := rfl
@[simp] theorem setDbg_pinFails : (setDbg s t x).pinFails = s.pinFails := rfl
@[simp] theorem setDbg_rowUnc : (setDbg s t x).rowUnc = s.rowUnc := rfl
@[simp] theorem setDbg_hbmFailing : (setDbg s t x).hbmFailing = s.hbmFailing := rfl
@[simp] theorem setDbg_hbmWorn : (setDbg s t x).hbmWorn = s.hbmWorn := rfl
@[simp] theorem setDbg_hbmKept : (setDbg s t x).hbmKept = s.hbmKept := rfl
@[simp] theorem setDbg_spareRows : (setDbg s t x).spareRows = s.spareRows := rfl
@[simp] theorem setDbg_pprRows : (setDbg s t x).pprRows = s.pprRows := rfl
@[simp] theorem setDbg_tgcPos : (setDbg s t x).tgcPos = s.tgcPos := rfl
@[simp] theorem setDbg_tgcPrbs : (setDbg s t x).tgcPrbs = s.tgcPrbs := rfl
@[simp] theorem setDbg_poolUsed : (setDbg s t x).poolUsed = s.poolUsed := rfl
@[simp] theorem setDbg_poolQ : (setDbg s t x).poolQ = s.poolQ := rfl
@[simp] theorem setDbg_poolAns : (setDbg s t x).poolAns = s.poolAns := rfl
@[simp] theorem setDbg_recs : (setDbg s t x).recs = s.recs := rfl
@[simp] theorem setDbg_arrs : (setDbg s t x).arrs = s.arrs := rfl
@[simp] theorem setDbg_xchs : (setDbg s t x).xchs = s.xchs := rfl
@[simp] theorem setDbg_embs : (setDbg s t x).embs = s.embs := rfl
@[simp] theorem setDbg_cols : (setDbg s t x).cols = s.cols := rfl
@[simp] theorem setDbg_hotDir : (setDbg s t x).hotDir = s.hotDir := rfl
@[simp] theorem setDbg_images : (setDbg s t x).images = s.images := rfl
@[simp] theorem setDbg_tileHeld : (setDbg s t x).tileHeld = s.tileHeld := rfl
@[simp] theorem setDbg_dbg : (setDbg s t x).dbg = SMap.set dDbg s.dbg t x := rfl
@[simp] theorem setDbg_jtag : (setDbg s t x).jtag = s.jtag := rfl
@[simp] theorem setDbg_ibi : (setDbg s t x).ibi = s.ibi := rfl
@[simp] theorem setDbg_msixAt : (setDbg s t x).msixAt = s.msixAt := rfl
@[simp] theorem setDbg_msixHeld : (setDbg s t x).msixHeld = s.msixHeld := rfl
@[simp] theorem setDbg_lastEdge : (setDbg s t x).lastEdge = s.lastEdge := rfl
end

/-! ### `writeBytes` -/

section
variable (o : Nat) (bs : List Byte)
@[simp] theorem writeBytes_pending : (writeBytes s o bs).pending = s.pending := rfl
@[simp] theorem writeBytes_now : (writeBytes s o bs).now = s.now := rfl
@[simp] theorem writeBytes_freeCtr : (writeBytes s o bs).freeCtr = s.freeCtr := rfl
@[simp] theorem writeBytes_answer : (writeBytes s o bs).answer = s.answer := rfl
@[simp] theorem writeBytes_regs : (writeBytes s o bs).regs = s.regs := rfl
@[simp] theorem writeBytes_mem : (writeBytes s o bs).mem = SMap.setMany memDefault s.mem o bs := rfl
@[simp] theorem writeBytes_segOwner : (writeBytes s o bs).segOwner = s.segOwner := rfl
@[simp] theorem writeBytes_tags : (writeBytes s o bs).tags = s.tags := rfl
@[simp] theorem writeBytes_seqs : (writeBytes s o bs).seqs = s.seqs := rfl
@[simp] theorem writeBytes_outs : (writeBytes s o bs).outs = s.outs := rfl
@[simp] theorem writeBytes_nextOut : (writeBytes s o bs).nextOut = s.nextOut := rfl
@[simp] theorem writeBytes_seqCtr : (writeBytes s o bs).seqCtr = s.seqCtr := rfl
@[simp] theorem writeBytes_seqTime : (writeBytes s o bs).seqTime = s.seqTime := rfl
@[simp] theorem writeBytes_ctxFail : (writeBytes s o bs).ctxFail = s.ctxFail := rfl
@[simp] theorem writeBytes_movedFlows : (writeBytes s o bs).movedFlows = s.movedFlows := rfl
@[simp] theorem writeBytes_filter : (writeBytes s o bs).filter = s.filter := rfl
@[simp] theorem writeBytes_comb : (writeBytes s o bs).comb = s.comb := rfl
@[simp] theorem writeBytes_heldFlags : (writeBytes s o bs).heldFlags = s.heldFlags := rfl
@[simp] theorem writeBytes_migs : (writeBytes s o bs).migs = s.migs := rfl
@[simp] theorem writeBytes_winHeld : (writeBytes s o bs).winHeld = s.winHeld := rfl
@[simp] theorem writeBytes_routes : (writeBytes s o bs).routes = s.routes := rfl
@[simp] theorem writeBytes_psets : (writeBytes s o bs).psets = s.psets := rfl
@[simp] theorem writeBytes_toRoute : (writeBytes s o bs).toRoute = s.toRoute := rfl
@[simp] theorem writeBytes_passBy : (writeBytes s o bs).passBy = s.passBy := rfl
@[simp] theorem writeBytes_arrived : (writeBytes s o bs).arrived = s.arrived := rfl
@[simp] theorem writeBytes_hostQ : (writeBytes s o bs).hostQ = s.hostQ := rfl
@[simp] theorem writeBytes_hostOut : (writeBytes s o bs).hostOut = s.hostOut := rfl
@[simp] theorem writeBytes_hostParts : (writeBytes s o bs).hostParts = s.hostParts := rfl
@[simp] theorem writeBytes_pcieCfg : (writeBytes s o bs).pcieCfg = s.pcieCfg := rfl
@[simp] theorem writeBytes_spent : (writeBytes s o bs).spent = s.spent := rfl
@[simp] theorem writeBytes_reports : (writeBytes s o bs).reports = s.reports := rfl
@[simp] theorem writeBytes_combOut : (writeBytes s o bs).combOut = s.combOut := rfl
@[simp] theorem writeBytes_ports : (writeBytes s o bs).ports = s.ports := rfl
@[simp] theorem writeBytes_creditQ : (writeBytes s o bs).creditQ = s.creditQ := rfl
@[simp] theorem writeBytes_grants : (writeBytes s o bs).grants = s.grants := rfl
@[simp] theorem writeBytes_halfMv : (writeBytes s o bs).halfMv = s.halfMv := rfl
@[simp] theorem writeBytes_binE : (writeBytes s o bs).binE = s.binE := rfl
@[simp] theorem writeBytes_totE : (writeBytes s o bs).totE = s.totE := rfl
@[simp] theorem writeBytes_pageE : (writeBytes s o bs).pageE = s.pageE := rfl
@[simp] theorem writeBytes_avg : (writeBytes s o bs).avg = s.avg := rfl
@[simp] theorem writeBytes_marks : (writeBytes s o bs).marks = s.marks := rfl
@[simp] theorem writeBytes_freqPend : (writeBytes s o bs).freqPend = s.freqPend := rfl
@[simp] theorem writeBytes_ramps : (writeBytes s o bs).ramps = s.ramps := rfl
@[simp] theorem writeBytes_lastLong : (writeBytes s o bs).lastLong = s.lastLong := rfl
@[simp] theorem writeBytes_distCycles : (writeBytes s o bs).distCycles = s.distCycles := rfl
@[simp] theorem writeBytes_slack : (writeBytes s o bs).slack = s.slack := rfl
@[simp] theorem writeBytes_slackLow : (writeBytes s o bs).slackLow = s.slackLow := rfl
@[simp] theorem writeBytes_railBase : (writeBytes s o bs).railBase = s.railBase := rfl
@[simp] theorem writeBytes_nmErr : (writeBytes s o bs).nmErr = s.nmErr := rfl
@[simp] theorem writeBytes_nmCorr : (writeBytes s o bs).nmCorr = s.nmCorr := rfl
@[simp] theorem writeBytes_nmRows : (writeBytes s o bs).nmRows = s.nmRows := rfl
@[simp] theorem writeBytes_hbmErr : (writeBytes s o bs).hbmErr = s.hbmErr := rfl
@[simp] theorem writeBytes_flash : (writeBytes s o bs).flash = s.flash := rfl
@[simp] theorem writeBytes_badBlocks : (writeBytes s o bs).badBlocks = s.badBlocks := rfl
@[simp] theorem writeBytes_logOldest : (writeBytes s o bs).logOldest = s.logOldest := rfl
@[simp] theorem writeBytes_logNext : (writeBytes s o bs).logNext = s.logNext := rfl
@[simp] theorem writeBytes_powerOnS : (writeBytes s o bs).powerOnS = s.powerOnS := rfl
@[simp] theorem writeBytes_west : (writeBytes s o bs).west = s.west := rfl
@[simp] theorem writeBytes_east : (writeBytes s o bs).east = s.east := rfl
@[simp] theorem writeBytes_units : (writeBytes s o bs).units = s.units := rfl
@[simp] theorem writeBytes_unitSpare : (writeBytes s o bs).unitSpare = s.unitSpare := rfl
@[simp] theorem writeBytes_waiting : (writeBytes s o bs).waiting = s.waiting := rfl
@[simp] theorem writeBytes_portRec : (writeBytes s o bs).portRec = s.portRec := rfl
@[simp] theorem writeBytes_wear : (writeBytes s o bs).wear = s.wear := rfl
@[simp] theorem writeBytes_vfRec : (writeBytes s o bs).vfRec = s.vfRec := rfl
@[simp] theorem writeBytes_held : (writeBytes s o bs).held = s.held := rfl
@[simp] theorem writeBytes_resetAt : (writeBytes s o bs).resetAt = s.resetAt := rfl
@[simp] theorem writeBytes_thermHeld : (writeBytes s o bs).thermHeld = s.thermHeld := rfl
@[simp] theorem writeBytes_resetLow : (writeBytes s o bs).resetLow = s.resetLow := rfl
@[simp] theorem writeBytes_pwrgd : (writeBytes s o bs).pwrgd = s.pwrgd := rfl
@[simp] theorem writeBytes_i2cMode : (writeBytes s o bs).i2cMode = s.i2cMode := rfl
@[simp] theorem writeBytes_wdogAt : (writeBytes s o bs).wdogAt = s.wdogAt := rfl
@[simp] theorem writeBytes_bootEnv : (writeBytes s o bs).bootEnv = s.bootEnv := rfl
@[simp] theorem writeBytes_commonClock : (writeBytes s o bs).commonClock = s.commonClock := rfl
@[simp] theorem writeBytes_mfw : (writeBytes s o bs).mfw = s.mfw := rfl
@[simp] theorem writeBytes_fwSigner : (writeBytes s o bs).fwSigner = s.fwSigner := rfl
@[simp] theorem writeBytes_recov : (writeBytes s o bs).recov = s.recov := rfl
@[simp] theorem writeBytes_secCmd : (writeBytes s o bs).secCmd = s.secCmd := rfl
@[simp] theorem writeBytes_sessionEnd : (writeBytes s o bs).sessionEnd = s.sessionEnd := rfl
@[simp] theorem writeBytes_quote : (writeBytes s o bs).quote = s.quote := rfl
@[simp] theorem writeBytes_stepFrom : (writeBytes s o bs).stepFrom = s.stepFrom := rfl
@[simp] theorem writeBytes_retired : (writeBytes s o bs).retired = s.retired := rfl
@[simp] theorem writeBytes_scrubFailed : (writeBytes s o bs).scrubFailed = s.scrubFailed := rfl
@[simp] theorem writeBytes_temps : (writeBytes s o bs).temps = s.temps := rfl
@[simp] theorem writeBytes_hbmLat : (writeBytes s o bs).hbmLat = s.hbmLat := rfl
@[simp] theorem writeBytes_hbmBulk : (writeBytes s o bs).hbmBulk = s.hbmBulk := rfl
@[simp] theorem writeBytes_latRun : (writeBytes s o bs).latRun = s.latRun := rfl
@[simp] theorem writeBytes_hbmUp : (writeBytes s o bs).hbmUp = s.hbmUp := rfl
@[simp] theorem writeBytes_hbmHold : (writeBytes s o bs).hbmHold = s.hbmHold := rfl
@[simp] theorem writeBytes_rowHold : (writeBytes s o bs).rowHold = s.rowHold := rfl
@[simp] theorem writeBytes_hbmTrained : (writeBytes s o bs).hbmTrained = s.hbmTrained := rfl
@[simp] theorem writeBytes_refreshDue : (writeBytes s o bs).refreshDue = s.refreshDue := rfl
@[simp] theorem writeBytes_openRow : (writeBytes s o bs).openRow = s.openRow := rfl
@[simp] theorem writeBytes_bankActs : (writeBytes s o bs).bankActs = s.bankActs := rfl
@[simp] theorem writeBytes_hbmOnDie : (writeBytes s o bs).hbmOnDie = s.hbmOnDie := rfl
@[simp] theorem writeBytes_calDrift : (writeBytes s o bs).calDrift = s.calDrift := rfl
@[simp] theorem writeBytes_rowFails : (writeBytes s o bs).rowFails = s.rowFails := rfl
@[simp] theorem writeBytes_pinFails : (writeBytes s o bs).pinFails = s.pinFails := rfl
@[simp] theorem writeBytes_rowUnc : (writeBytes s o bs).rowUnc = s.rowUnc := rfl
@[simp] theorem writeBytes_hbmFailing : (writeBytes s o bs).hbmFailing = s.hbmFailing := rfl
@[simp] theorem writeBytes_hbmWorn : (writeBytes s o bs).hbmWorn = s.hbmWorn := rfl
@[simp] theorem writeBytes_hbmKept : (writeBytes s o bs).hbmKept = s.hbmKept := rfl
@[simp] theorem writeBytes_spareRows : (writeBytes s o bs).spareRows = s.spareRows := rfl
@[simp] theorem writeBytes_pprRows : (writeBytes s o bs).pprRows = s.pprRows := rfl
@[simp] theorem writeBytes_tgcPos : (writeBytes s o bs).tgcPos = s.tgcPos := rfl
@[simp] theorem writeBytes_tgcPrbs : (writeBytes s o bs).tgcPrbs = s.tgcPrbs := rfl
@[simp] theorem writeBytes_poolUsed : (writeBytes s o bs).poolUsed = s.poolUsed := rfl
@[simp] theorem writeBytes_poolQ : (writeBytes s o bs).poolQ = s.poolQ := rfl
@[simp] theorem writeBytes_poolAns : (writeBytes s o bs).poolAns = s.poolAns := rfl
@[simp] theorem writeBytes_recs : (writeBytes s o bs).recs = s.recs := rfl
@[simp] theorem writeBytes_arrs : (writeBytes s o bs).arrs = s.arrs := rfl
@[simp] theorem writeBytes_xchs : (writeBytes s o bs).xchs = s.xchs := rfl
@[simp] theorem writeBytes_embs : (writeBytes s o bs).embs = s.embs := rfl
@[simp] theorem writeBytes_cols : (writeBytes s o bs).cols = s.cols := rfl
@[simp] theorem writeBytes_hotDir : (writeBytes s o bs).hotDir = s.hotDir := rfl
@[simp] theorem writeBytes_images : (writeBytes s o bs).images = s.images := rfl
@[simp] theorem writeBytes_tileHeld : (writeBytes s o bs).tileHeld = s.tileHeld := rfl
@[simp] theorem writeBytes_dbg : (writeBytes s o bs).dbg = s.dbg := rfl
@[simp] theorem writeBytes_jtag : (writeBytes s o bs).jtag = s.jtag := rfl
@[simp] theorem writeBytes_ibi : (writeBytes s o bs).ibi = s.ibi := rfl
@[simp] theorem writeBytes_msixAt : (writeBytes s o bs).msixAt = s.msixAt := rfl
@[simp] theorem writeBytes_msixHeld : (writeBytes s o bs).msixHeld = s.msixHeld := rfl
@[simp] theorem writeBytes_lastEdge : (writeBytes s o bs).lastEdge = s.lastEdge := rfl
end

end Sys2Proof.Machine
end

