-- ==== Sys2Proof/Laws/Threads.lean ====
section
/-! SUPPORT. Sys2Proof/Laws/Threads.lean: what a change of one thread, a taken slot and a thread fault do to the other threads and to registers. -/
namespace Sys2Proof.Machine

theorem getThread_modThread {s : State} (h : s.Canon) (t : Fin 160) {n : Nat} (hn : n < 8) (f : Thread → Thread) :
    getThread (modThread s t.val n f) t n = f (getThread s t n) := by
  have hw : SMap.wf dTcc s.tccs = true := by have := h.tcc; simp only [TccsOk, Bool.and_eq_true] at this; exact this.1
  have hl := tccsOk_get h.tcc t.val
  unfold getThread modThread getTcc setTcc
  dsimp only
  rw [SMap.get_set_same hw]
  dsimp only
  rw [List.getD_eq_getElem?_getD, List.getElem?_set_self (by rw [hl]; omega)]; rfl
theorem getThread_modThread_ne {s : State} (h : s.Canon) (t : Fin 160) {n m : Nat} (hn : m ≠ n) (f : Thread → Thread) :
    getThread (modThread s t.val n f) t m = (getThread s t m) := by
  have hw : SMap.wf dTcc s.tccs = true := by have := h.tcc; simp only [TccsOk, Bool.and_eq_true] at this; exact this.1
  unfold getThread modThread getTcc setTcc
  dsimp only
  rw [SMap.get_set_same hw]
  dsimp only
  rw [List.getD_eq_getElem?_getD, List.getElem?_set_ne (by omega), ← List.getD_eq_getElem?_getD]
theorem Blk.raise_tccs (b : Blk) (s : State) (c p i) : (b.raise s c p i).tccs = s.tccs := by
  unfold Blk.raise Blk.countErr Blk.event Blk.setBit; dsimp only; repeat' (split <;> try rfl)
theorem Blk.raise_dbg (b : Blk) (s : State) (c p i) : (b.raise s c p i).dbg = s.dbg := by
  unfold Blk.raise Blk.countErr Blk.event Blk.setBit; dsimp only; repeat' (split <;> try rfl)
theorem threadFault_tccs (s : State) (t : Fin 160) (n cause) : (threadFault s t n cause).tccs = (modThread s t.val n (fun h => { h with phase := .stopped, faulted := true, rsv := none })).tccs := by
  unfold threadFault; dsimp only
  split
  · unfold Blk.event Blk.setBit; dsimp only; repeat' (split <;> try rfl)
  · rw [Blk.raise_tccs]; unfold Blk.event Blk.setBit; dsimp only; repeat' (split <;> try rfl)
theorem threadFault_dbg (s : State) (t : Fin 160) (n cause) : (threadFault s t n cause).dbg = s.dbg := by
  unfold threadFault; dsimp only
  split
  · unfold Blk.event Blk.setBit; dsimp only; repeat' (split <;> try rfl)
  · rw [Blk.raise_dbg]; unfold Blk.event Blk.setBit; dsimp only; repeat' (split <;> try rfl)
theorem getThread_congr {s t : State} (h : s.tccs = t.tccs) (u n) : getThread s u n = getThread t u n := by unfold getThread getTcc; rw [h]
theorem threadFault_other (s : State) (h : s.Canon) (t : Fin 160) {n m : Nat} (cause) (hm : m ≠ n) : getThread (threadFault s t n cause) t m = getThread s t m := by
  rw [getThread_congr (threadFault_tccs s t n cause), getThread_modThread_ne h t hm]
theorem slotTaken_canon {s : State} (h : s.Canon) (t n) : (slotTaken s t n).Canon := (slotTaken_kept h.kept).canon
theorem slotTaken_thread {s : State} (h : s.Canon) (t : Fin 160) (n m) : getThread (slotTaken s t n) t m = getThread s t m := by
  have hw : SMap.wf dTcc s.tccs = true := by have := h.tcc; simp only [TccsOk, Bool.and_eq_true] at this; exact this.1
  have : (slotTaken s t n).tccs = (setTcc s t.val { getTcc s t.val with rr := (n + 1) % 8 }).tccs := by
    unfold slotTaken; dsimp only; split <;> rfl
  rw [getThread_congr this]; unfold getThread getTcc setTcc; dsimp only; rw [SMap.get_set_same hw]
theorem slotTaken_regs (s : State) (t n) : (slotTaken s t n).regs = ((Blk.cntT t).add s 0x60 1).regs := by
  unfold slotTaken; dsimp only; split <;> rfl
theorem Blk.rd_congr {s t : State} (h : s.regs = t.regs) (b : Blk) (o) : b.rd s o = b.rd t o := by unfold Blk.rd Machine.rd; rw [h]
theorem slotTaken_rd {s : State} (h : s.Canon) (t n) (b : Blk) (o) (hne : b.base + o ≠ (Blk.cntT t).base + 0x60) : b.rd (slotTaken s t n) o = b.rd s o := by
  rw [Blk.rd_congr (slotTaken_regs s t n)]; exact Machine.rd_wr_ne h.regs _ hne
theorem Blk.base_ne (b c : Blk) {o k : Nat} (ho : o < 0x1000) (hk : k < 0x1000) (hne : o ≠ k) : b.base + o ≠ c.base + k := by
  have := b.base_page; have := c.base_page; omega

end Sys2Proof.Machine
end

