-- ==== Sys2Proof/Laws/Writes.lean ====
section
/-! SUPPORT. Sys2Proof/Laws/Writes.lean: what a write of each register that acts does, one lemma per register, and the place of
the arrays of registers in their pages. -/
namespace Sys2Proof.Machine

set_option Elab.async false
variable (s : State) (p v : Nat) (r : RegDesc)

/-! ### SVC -/

theorem writeOne_resetCmd : writeOne s p .svc r 0x48 v = resetCmdWrite s v := rfl
theorem writeOne_bootSlot : writeOne s p .svc r 0x90 v = bootSlotWrite s v := rfl
theorem writeOne_stageGo : writeOne s p .svc r 0xA4 v = stageGo s := rfl
theorem writeOne_alertEn : writeOne s p .svc r 0xCC v = Blk.svc.wr s 0xCC (v &&& 0x3E ||| 1) := rfl
theorem writeOne_segData : writeOne s p .svc r 0x3A04 v = segDataWrite s p v := rfl
theorem writeOne_tileOwner {t : Nat} (h : t < 160) : writeOne s p .svc r (0x3A40 + t * 4) v = tileOwnerWrite s p t v := by
  unfold writeOne
  dsimp only
  repeat rw [if_neg (by omega)]
  rw [if_pos (by omega)]
  congr 1
  omega
theorem writeOne_engOwner {i : Nat} : writeOne s p .svc r (0x3D00 + i * 4) v = engOwnerWrite s p i v := by
  unfold writeOne
  dsimp only
  repeat rw [if_neg (by omega)]
  rw [if_pos (by omega)]
  congr 1
  omega
theorem find_segData : Blk.svc.find 0x3A04 = some (rw4 0x3A04 0xFFF, 0) := rfl
theorem find_tileOwner : ∀ t : Fin 160, Blk.svc.find (0x3A40 + 4 * t.val) = some (rw4 0x3A40 0xFFF 0 160, t.val) := by decide +kernel
theorem find_engOwner : ∀ i : Fin 44, Blk.svc.find (0x3D00 + 4 * i.val) = some (rw4 0x3D00 0xFFF 0 44, i.val) := by decide +kernel

/-! ### KTL, SEC, SPR -/

theorem writeOne_dtarget {n : Nat} (h : n < 20) : writeOne s p .ktl r (0x180 + n * 4) v = dtargetWrite s n (v % 4096) := by
  unfold writeOne
  dsimp only
  rw [if_pos (by omega)]
  congr 1
  omega
theorem writeOne_mark {k : Nat} (h : k < 16) : writeOne s p .ktl r (0x2180 + k * 4) v = markWrite s k := by
  unfold writeOne
  dsimp only
  rw [if_neg (by omega), if_pos (by omega)]
  congr 1
  omega
theorem writeOne_pkgLimit : writeOne s p .ktl r 0x3040 v = pkgLimitWrite s v := rfl
theorem find_dtarget : ∀ n : Fin 20, (Blk.ktl.find (0x180 + 4 * n.val)).map (fun e => (e.1.off, e.1.size, e.1.stride, e.2)) =
    some (0x180, 4, 4, n.val) := by decide +kernel
theorem find_mark : ∀ k : Fin 16, (Blk.ktl.find (0x2180 + 4 * k.val)).map (fun e => (e.1.off, e.1.size, e.1.stride, e.2)) =
    some (0x2180, 4, 4, k.val) := by decide +kernel
theorem writeOne_sessionClose : writeOne s p .sec r 0x44 v = closeSession s := rfl
theorem writeOne_sessionTimeout : writeOne s p .sec r 0x48 v = rangeWrite s .sec 0x48 1 86400 v := rfl
theorem writeOne_cmdGo : writeOne s p .sec r 0x58 v = cmdGo s := rfl
theorem writeOne_quoteGo : writeOne s p .sec r 0x188 v = quoteGo s := rfl
theorem writeOne_sprCmd : writeOne s p .spr r 0x78 v = sprCmd s v 0 [] := rfl

/-! ### FAB, LNK, HBM, TGC -/

theorem writeOne_selfId (h : Blk.fab.locked s = false) : writeOne s p .fab r 0x40 v = selfIdWrite s v := by
  unfold writeOne; dsimp only; rw [if_pos rfl, if_neg (by simp [h])]
theorem writeOne_weights {o : Nat} (h : 0x100 ≤ o ∧ o < 0x210) : writeOne s p .fab r o v = weightsWrite s o v := by
  unfold writeOne; dsimp only; rw [if_neg (by omega), if_pos h]
theorem writeOne_rtData : writeOne s p .fab r 0x1044 v = rtDataWrite s v := rfl
theorem writeOne_psetData : writeOne s p .fab r 0x1050 v = psetDataWrite s v := rfl
theorem writeOne_replayWindow : writeOne s p .fab r 0x8040 v = replayWindowSet s v := rfl
theorem writeOne_migCmd : writeOne s p .fab r 0x8098 v = migCmd s v := rfl
theorem writeOne_partEntry {k : Nat} (h : k < 16) : writeOne s p .fab r (0x8100 + 16 * k) v = partWrite s k v := by
  unfold writeOne
  dsimp only
  repeat rw [if_neg (by omega)]
  rw [if_pos (by omega)]
  congr 1
  omega
theorem find_partEntry : ∀ k : Fin 16, (Blk.fab.find (0x8100 + 16 * k.val)).map (fun e => (e.1.off, e.1.size, e.1.stride, e.2)) =
    some (0x8100, 8, 16, k.val) := by decide +kernel
theorem find_weights : ∀ k : Fin 34, (Blk.fab.find (0x100 + 8 * k.val)).map (fun e => (e.1.off, e.1.size, e.1.stride, e.2)) =
    some (0x100, 8, 8, k.val) := by decide +kernel
theorem writeOne_lnkCmd (n : Fin 32) : writeOne s p (.lnk n) r 0x50 v = lnkCmd s n v := rfl
theorem writeOne_credit (n : Fin 32) : writeOne s p (.lnk n) r 0x64 v = creditRegWrite s n v := rfl
theorem writeOne_hbmCmd (i : Fin 32) : writeOne s p (.hbm i) r 0x58 v = hbmCmd s i v := rfl
theorem writeOne_tgcMode (c : Fin 256) : writeOne s p (.tgc c) r 0x40 v = tgcModeWrite s c.val v := rfl

/-! ### Counters, debug, threads, pools -/

theorem writeOne_snapTile (t : Fin 160) : writeOne s p (.cntT t) r 0x7FC v = snapTile s t := rfl
theorem writeOne_partHalt : writeOne s p .dbgD r 0x40 v = partHaltWrite s v := rfl
theorem writeOne_dbgCtrl (t : Fin 160) : writeOne s p (.dbgT t) r 0x70 v = dbgCtrlWrite s t v := rfl
theorem writeOne_regData (t : Fin 160) : writeOne s p (.dbgT t) r 0x88 v = regDataWrite s t v := rfl
theorem writeOne_tagData (t : Fin 160) : writeOne s p (.dbgT t) r 0x94 v = tagDataWrite s t v := rfl
theorem writeOne_seqGo (t : Fin 160) : writeOne s p (.til t) r 0x40 v = seqGoWrite s t v := rfl
theorem writeOne_thrStart (t : Fin 160) : writeOne s p (.til t) r 0x44 v = thrStartWrite s t v := rfl
theorem writeOne_bpmFree (d : Fin 2) : writeOne s p (bpm d) r 0xA0 v = freeHandle s d v := rfl
theorem writeOne_poolConfig (d : Fin 2) {o : Nat} (h : o < 0x70) : writeOne s p (bpm d) r o v = poolConfig s d o (v &&& r.mask) := by
  unfold writeOne bpm
  dsimp only
  have e : engKind (20 : Fin 22).val = .bpm := rfl
  simp only [e]
  rw [if_neg (by omega), if_pos h]

end Sys2Proof.Machine
end

