-- ==== Sys2Proof/WellFormed.lean ====
section
/-! DEFINITION. Sys2Proof/WellFormed.lean: the ranges of a command's operands that its type leaves open: partition IDs, register
offsets, packet fields. A command outside them is no command of the spec; the meanings are total and take it all the same. -/
namespace Sys2Proof

/-- The fields of a request and their bounds (Table 9.4). -/
def Request.fields (r : Request) : List (Nat × Nat) :=
  [(r.op, 0x100), (r.addr, 0x400000000000000), (r.size, 0x2000), (r.src, 0x20000), (r.ctx, 0x1000), (r.part, 0x1000), (r.vc, 8),
   (r.seq, 0x10000), (r.issueTime, 0x100000), (r.epoch, 0x100000000), (r.data.length, 4097), (r.cmp, 0x10000000000000000)]

/-- The fields of a reply and their bounds (Table 9.5). -/
def Reply.fields (r : Reply) : List (Nat × Nat) :=
  [(r.status, 16), (r.dst, 0x20000), (r.ctx, 0x1000), (r.seq, 0x10000), (r.newOwner, 0x20000), (r.newBase, 0x20000000000),
   (r.newEpoch, 0x100000000), (r.data.length, 4097)]

/-- A flit (R223) has 256 bytes. -/
def Flit.fields (f : Flit) : List (Nat × Nat) := [(f.bytes.length, 257), (255, f.bytes.length), (f.uncorr, 3), (f.eyes.length, 10)]

/-- What the host may set (Table 10.9). -/
def PcieCfg.fields (c : PcieCfg) : List (Nat × Nat) := [(c.maxPayload, 513), (127, c.maxPayload), (c.maxRead, 4097), (127, c.maxRead)]

/-- A request to a burst (R292): inside its 32 bytes. -/
def HbmReq.fields (r : HbmReq) : List (Nat × Nat) := [(r.off, 0x40000000), (r.off % 32 + r.len, 33), (r.part, 0x1000)]

/-- A symbol in error: its pin and the bits (R291). -/
def symbolFields (e : Nat × Nat) : List (Nat × Nat) := [(e.1, 36), (e.2, 256)]

/-- What a boot meets: a boot step, tiles, stacks. -/
def BootEnv.fields (e : BootEnv) : List (Nat × Nat) :=
  [(e.stall, 9), (e.times.length, 9), (e.rails, 16), (e.pufCells, 65537)] ++ e.badTiles.map (fun t => (t, 160)) ++ e.badSeqs.map (fun u => (u, 160 * 256)) ++ e.lostStacks.map (fun k => (k, 8))

/-- Every operand that its type leaves unbounded, with its bound. -/
def Instr.fields : Instr → List (Nat × Nat)
  | .registerWrite p off size _ => [(p, 4096)] ++ [(off, 0x40000000)] ++ [(size, 9)]
  | .softReset p off _ => [(p, 4096)] ++ [(off, 0x40000000)]
  | .enable p off _ => [(p, 4096)] ++ [(off, 0x40000000)]
  | .drain p off _ => [(p, 4096)] ++ [(off, 0x40000000)]
  | .lock p off _ => [(p, 4096)] ++ [(off, 0x40000000)]
  | .segData p _ => [(p, 4096)]
  | .tileOwner p _ _ => [(p, 4096)]
  | .engOwner p _ _ => [(p, 4096)]
  | .republish => []
  | .cmdNop _ => []
  | .cmdRun _ => []
  | .creditGrant _ => []
  | .stepWaitMet _ => []
  | .emitAfterQueueSpace _ => []
  | .tokenArrive _ => []
  | .tableComplete _ => []
  | .seqWaitTimeout _ => []
  | .tccInstruction _ => []
  | .waita _ => []
  | .waitaWake _ _ => []
  | .waitaTimeout _ _ => []
  | .ecall _ => []
  | .ebreak _ => []
  | .amo _ => []
  | .ramo _ => []
  | .fstore _ => []
  | .rfence _ => []
  | .rfenceResume _ _ => []
  | .seqGo p _ _ => [(p, 4096)]
  | .thrStart p _ _ => [(p, 4096)]
  | .loaderLoad _ block _ => [(block.length, 65)]
  | .loaderUnload _ block => [(block.length, 65)]
  | .mxaConfig _ _ => []
  | .mxaLoad _ _ => []
  | .mxaPass _ _ => []
  | .drainVerdict _ _ => []
  | .lateTokenLeave _ => []
  | .layConfig _ => []
  | .copy _ => []
  | .transpose _ => []
  | .skewStream _ => []
  | .skewStat _ => []
  | .pack24 _ => []
  | .quant _ => []
  | .dequant _ => []
  | .rowquant _ => []
  | .tilePack _ => []
  | .tileUnpack _ => []
  | .blocklist _ => []
  | .layInflightRelease _ => []
  | .ptwAdd _ => []
  | .ptwSub _ => []
  | .ptwMul _ => []
  | .ptwFma _ => []
  | .ptwMax _ => []
  | .ptwMin _ => []
  | .ptwFunc _ => []
  | .rowsum _ => []
  | .rowsumsq _ => []
  | .rowmax _ => []
  | .softmax _ => []
  | .bpmAllocRead p _ _ => [(p, 4096)]
  | .allocSz p _ _ => [(p, 4096)]
  | .bpmFreeWrite p _ _ => [(p, 4096)]
  | .poolConfigWrite p _ off size _ => [(p, 4096)] ++ [(off, 0x1000)] ++ [(size, 9)]
  | .bpmAllocOp _ => []
  | .bpmFreeOp _ => []
  | .bpmPortRequest _ _ _ => []
  | .bpmWaiterServed _ _ => []
  | .rteConfig _ _ => []
  | .route _ _ => []
  | .xchConfig _ _ => []
  | .counts _ _ => []
  | .xchCountsReceived _ _ => []
  | .xchGrantsReceived _ _ => []
  | .dispatch _ _ => []
  | .dispatchBwd _ _ => []
  | .xchDataIterComplete _ _ => []
  | .returnRows _ _ => []
  | .returnBwd _ _ => []
  | .combine _ _ => []
  | .combineBwd _ _ => []
  | .xchReturnsReceived _ _ => []
  | .stepClear _ _ => []
  | .xchHeaderArrive _ _ off => [(off, 0x20000000000)]
  | .xchPhaseTimeout _ _ => []
  | .xseqWrite p _ _ _ => [(p, 4096)]
  | .embConfig _ _ => []
  | .prep _ _ => []
  | .sort _ _ => []
  | .gather _ _ => []
  | .embHotHeadersReceived _ _ => []
  | .pool _ _ => []
  | .scatter _ _ => []
  | .push _ _ => []
  | .pushRepliesDone _ _ => []
  | .embHeaderArrive _ _ m => [(m, 16384)]
  | .apply _ _ => []
  | .embUpdateHeadersReceived _ _ => []
  | .embPhaseTimeout _ _ => []
  | .refresh _ _ => []
  | .hotHeaderArrive _ _ m => [(m, 16384)]
  | .remoteLoad _ r => r.fields
  | .remoteStore _ r => r.fields
  | .flaggedStore _ r => r.fields
  | .flagDevicePerform => []
  | .flagAllRelease ctx => [(ctx, 4096)]
  | .atomicAdd _ r => r.fields
  | .atomicMin _ r => r.fields
  | .atomicMax _ r => r.fields
  | .atomicSwap _ r => r.fields
  | .atomicCas _ r => r.fields
  | .atomicAnd _ r => r.fields
  | .atomicOr _ r => r.fields
  | .atomicXor _ r => r.fields
  | .replyArrive _ r => r.fields
  | .requestReissue _ => []
  | .waitReissue _ => []
  | .filterBusyReissue _ => []
  | .seqHoldRelease ctx => [(ctx, 4096)]
  | .gangLost _ => []
  | .isoTimeout _ => []
  | .combWindowClose i => [(i, 4096)]
  | .filterEntryExpire _ => []
  | .partEntryValidSet p _ _ => [(p, 4096)]
  | .partitionTeardown p _ _ => [(p, 4096)]
  | .migDrain p _ => [(p, 4096)]
  | .migHandover p _ => [(p, 4096)]
  | .migTransfer => []
  | .migFree p _ => [(p, 4096)]
  | .replayWindowWrite p _ => [(p, 4096)]
  | .replayWindowLowerDone => []
  | .dataFlitReceive _ f => f.fields
  | .controlFlitReceive _ f => f.fields
  | .replayStorm _ => []
  | .linkUp _ _ lanes => [(lanes.eyes.length, 10)]
  | .linkTrainTimeout _ => []
  | .trainRetryTimer _ => []
  | .laneFail _ _ => []
  | .linkIdent _ _ delay => [(delay, 0x100000000)]
  | .lnkRetrain q _ _ => [(q, 4096)]
  | .lnkSpare q _ _ => [(q, 4096)]
  | .lnkRetry q _ _ => [(q, 4096)]
  | .lnkCfgWrite q _ _ => [(q, 4096)]
  | .creditWrite q _ _ => [(q, 4096)]
  | .routePacket _ => []
  | .packetSend _ => []
  | .creditTimeout _ _ => []
  | .rtDataWrite p _ => [(p, 4096)]
  | .psetDataWrite p _ => [(p, 4096)]
  | .weightsWrite p _ _ => [(p, 4096)]
  | .hostBar0Access _ off size _ => [(off, 0x400000)] ++ [(size, 9)]
  | .hostBar2Read off size tag => [(off, 0x10000000000000000)] ++ [(size, 4097)] ++ [(tag, 1024)]
  | .hostBar2Write off data => [(off, 0x10000000000000000)] ++ [(data.length, 4097)]
  | .hostBar2Atomic _ off size _ _ tag => [(off, 0x10000000000000000)] ++ [(size, 4097)] ++ [(tag, 1024)]
  | .hostReadRelease _ => []
  | .hostUr _ => []
  | .deviceToHostRequest => []
  | .msixHoldoffExpire _ => []
  | .pcieLinkChange _ rate width x => [(rate, 16)] ++ [(width, 32)] ++ [(x.ltssm, 16)] ++ x.cfg.fields
  | .colConfig _ _ => []
  | .contrib _ _ => []
  | .finish _ _ => []
  | .colPieceArrive _ _ off src => [(off, 0x20000000000)] ++ [(src, 0x20000)]
  | .colReady _ _ off => [(off, 0x20000000000)]
  | .colAck _ _ off => [(off, 0x20000000000)]
  | .colNak _ _ off => [(off, 0x20000000000)]
  | .colExclude _ _ off => [(off, 0x20000000000)]
  | .colRetarget _ _ off => [(off, 0x20000000000)]
  | .colRack _ _ off => [(off, 0x20000000000)]
  | .colDeadline _ _ => []
  | .colPhaseTimeout _ _ => []
  | .staAmax _ => []
  | .optConfig _ _ => []
  | .update _ _ => []
  | .cast _ _ => []
  | .optCopy _ _ => []
  | .hbmIssue _ _ arrivals found => arrivals.flatMap HbmReq.fields ++ found.errs.flatMap symbolFields
  | .bulkAgeExpire _ _ => []
  | .hbmRefresh _ => []
  | .hbmWriteTraining _ _ hold _ _ _ => [(hold, 201)]
  | .hbmPatrolRead _ x => x.errs.flatMap symbolFields
  | .tgcTestAccess _ x => x.errs.flatMap symbolFields
  | .tgcModeOff p _ _ => [(p, 4096)]
  | .tgcModeBringup p _ _ => [(p, 4096)]
  | .tgcModeIdleFill p _ _ => [(p, 4096)]
  | .tgcModePatrol p _ _ => [(p, 4096)]
  | .hbmRepair _ => []
  | .hbmCmdLaneRepair p _ _ => [(p, 4096)]
  | .hbmCmdRemapRow p _ _ => [(p, 4096)]
  | .hbmCmdMarkErasure p _ _ => [(p, 4096)]
  | .hbmCmdRetrain p _ _ => [(p, 4096)]
  | .kettleBin => []
  | .holdLimitExpire _ => []
  | .raiseDelayExpire _ => []
  | .dtargetWrite p _ _ => [(p, 4096)]
  | .freqChange _ => []
  | .voltTrimDown _ slackSeen => [(slackSeen, 256)]
  | .voltTrimUp _ slackSeen => [(slackSeen, 256)]
  | .gainUpdate _ => []
  | .floorUpdate _ => []
  | .mark p _ _ => [(p, 4096)]
  | .vddAonRise => []
  | .resetNAssert => []
  | .pwrgdFall => []
  | .resetCmd p _ => [(p, 4096)]
  | .thermtrip => []
  | .watchdogExpire => []
  | .resetNRelease env => env.fields
  | .bootFabricJoin p _ => [(p, 4096)]
  | .bootStepTimeout => []
  | .stageGo p _ => [(p, 4096)]
  | .bootSlotWrite p _ => [(p, 4096)]
  | .openSession p _ => [(p, 4096)]
  | .installOwner p _ => [(p, 4096)]
  | .transferOwner p _ => [(p, 4096)]
  | .installOperator p _ => [(p, 4096)]
  | .endLease p _ => [(p, 4096)]
  | .reclaim p _ => [(p, 4096)]
  | .sessionClose p _ => [(p, 4096)]
  | .sessionTimeout => []
  | .quoteGo p _ => [(p, 4096)]
  | .wearCondemn cls unit slackSeen _ _ _ => [(cls, 8)] ++ [(unit, 0x1000000)] ++ [(slackSeen, 0x100000000)]
  | .spareBringIn cls unit _ => [(cls, 8)] ++ [(unit, 0x1000000)]
  | .unitFail cls u => [(cls, 8)] ++ [(u.unit, 0x1000000)]
  | .ccacheBankFail bank => [(bank, 17)]
  | .statusRecord => []
  | .sprReplace p _ => [(p, 4096)]
  | .laneClear p _ => [(p, 4096)]
  | .regrade p _ _ _ => [(p, 4096)]
  | .snap p off _ => [(p, 4096)] ++ [(off, 0x40000000)]
  | .haltReq p _ _ => [(p, 4096)]
  | .resume p _ _ => [(p, 4096)]
  | .dbgStep p _ _ => [(p, 4096)]
  | .dbgHalted _ => []
  | .partHalt p _ => [(p, 4096)]
  | .partResume p _ => [(p, 4096)]
  | .regDataAccess p _ _ _ => [(p, 4096)]
  | .tagDataWrite p _ _ => [(p, 4096)]
  | .jtagExtest _ => []
  | .jtagSamplePreload _ => []
  | .jtagIdcode => []
  | .jtagDbgacc _ off size _ => [(off, 0x20000000000)] ++ [(size, 9)]
  | .jtagBypass code _ => [(code, 32)]
  | .tpulseEdge => []
  | .tpulseLost => []
  | .i3cRead32 a => [(a.off, 0x20000000000)] ++ [(a.addr.getD 0, 0x80)]
  | .i3cWrite32 a _ => [(a.off, 0x20000000000)] ++ [(a.addr.getD 0, 0x80)]
  | .i3cRecovery x => [(x.data.length, 257)] ++ [(x.cmd, 256)] ++ [(x.addr.getD 0, 0x80)]
  | .railFault r => [(r.stat, 16)]
  | .thermalThreshold sensor temp => [(sensor, 40)] ++ [(temp, 256)]
  | .thermalThrottle _ => []
  | .voltageRampEnd _ => []
  | .vinIvrRemoved => []
  | .cmdDone _ _ => []
  | .quoteDone => []
  | .stageDone _ => []

/-- A command is well-formed: every operand is in its range. -/
def Instr.wellFormed (i : Instr) : Bool := i.fields.all (fun f => f.1 < f.2)

end Sys2Proof
end

