-- ==== Sys2Proof/Tests/Slice0.lean ====
section
/-! SUPPORT. Sys2Proof/Tests/Slice0.lean: the model's own tests: ill-formed commands are refused by `wellFormed`; every statement's hypotheses are met
by a named state; results of single commands. -/
set_option maxRecDepth 4000
namespace Sys2Proof.Machine

set_option Elab.async false

/-! ### States -/

/-- Reset released: the device serves accesses. -/
def live : State := { State.reset with held := false }
/-- An open vendor session. -/
def vendor : State := Blk.sec.wr live 0x40 1
/-- A request. -/
def rq0 : Request :=
  { op := 0x10, addr := 0, size := 4, src := 1, ctx := 0x7B0, part := 0, vc := 0, isolated := true, seq := 0, data := [1, 2, 3, 4] }
/-- A sequencer that runs the iterations of a one-step table with the given operation. -/
def running (q : SeqId) (st : Step) : State :=
  setSeq live q { phase := .iter, table := some { steps := [st] }, b0 := 1, b1 := 1, b2 := 1 }

/-- The checks of `Admits`, as a Bool. -/
def admits (s : State) (p : Nat) (b : Blk) (o size : Nat) (w : Bool) : Bool :=
  serving s && decide (o < b.pages * 0x1000) && granted s (b.privNow s (o / 0x1000)) (b.owner s) p w &&
    (decide (size = 4) || decide (size = 8)) && decide (o % size = 0)
theorem admits_ok {s : State} {p : Nat} {b : Blk} {o size : Nat} {w : Bool} (h : admits s p b o size w = true) :
    Admits s p b o size w := by
  simp only [admits, Bool.and_eq_true, Bool.or_eq_true, decide_eq_true_eq] at h
  exact ⟨h.1.1.1.1, h.1.1.1.2, h.1.1.2, h.1.2, h.2⟩
/-- Every one of a list of accesses is admitted. -/
def admitsAll (l : List (State × Nat × Blk × Nat × Nat × Bool)) : Bool := l.all (fun a => admits a.1 a.2.1 a.2.2.1 a.2.2.2.1 a.2.2.2.2.1 a.2.2.2.2.2)

theorem live_canon : live.Canon := ⟨rfl, rfl, rfl, rfl⟩

/-! ### The hypotheses of the statements are met: the queue, memory, numbers -/

theorem witness_StepRunsFrontCommand : ({ live with pending := [.jtagIdcode] } : State).pending = .jtagIdcode :: [] := rfl
theorem witness_StepIdlesOnEmptyQueue : State.reset.pending = [] := rfl
theorem witness_StepTakesOneCommand :
    State.reset.Canon ∧ ∃ t, step { State.reset with pending := [.jtagIdcode] } = .next t ∧ t.pending = [] :=
  ⟨⟨rfl, rfl, rfl, rfl⟩, _, rfl, rfl⟩
theorem witness_EqualReads : live.Canon ∧ ∀ a, SMap.get memDefault live.mem a = SMap.get memDefault live.mem a :=
  ⟨live_canon, fun _ => rfl⟩
theorem witness_StoredBytes : (writeBytes live 0x8000000000 []).Canon ∧ (writeBytes live 5 [1, 2]).mem = [(5, 1), (6, 2)] :=
  ⟨⟨rfl, rfl, rfl, rfl⟩, rfl⟩
theorem witness_LittleEndian : (leBytes 2 0x1234)[1]? = some 0x12 ∧ readNat (writeNat live 8 2 0x1234) 8 2 = 0x1234 := by decide +kernel
/-- Both ends of both ranges of a slot (R22). -/
theorem witness_NearMemorySlots :
    placeOf (slotBase 159 + 0x6FFFFF) = .nm 159 0x6FFFFF ∧ placeOf (slotBase 0) = .nm 0 0 ∧
      placeOf (slotBase 0 + 0x700000) = .unmapped ∧ placeOf (slotBase 159 + 0x7FFFFF) = .unmapped := by decide +kernel
/-- The corners of Table 1.1: W0, E9. -/
theorem witness_DistrictNumbers : districtOfPhys 0 = 0 ∧ districtOfPhys (80 * 1 + 8 * 9 + 7) = 19 := by decide +kernel
theorem witness_MaxAndMin :
    (NumVal.nan true 5).isNan = true ∧ NumVal.one.isNan = false ∧ NumVal.zero.lt NumVal.one = true ∧
      NumVal.one.eqv (.fin false 2 (-1)) = true := by decide +kernel

/-! ### Registers -/

theorem witness_RegisterWriteActs : Admits live 0 .cal 0x40 4 true ∧ Admits vendor 0 .fab 0xFFF8 8 true :=
  ⟨admits_ok (by decide +kernel), admits_ok (by decide +kernel)⟩
theorem witness_RefusedRegisterWrites :
    serving live = true ∧ blkAt 0x21000 = none ∧ blkAt 0x8044 = some (.cal, 0) ∧
      granted live (Blk.cal.privNow live 0) (Blk.cal.owner live) 5 true = false ∧
      granted live (Blk.cal.privNow live 0) (Blk.cal.owner live) 0 true = true ∧ 0x8044 % 8 ≠ 0 ∧ (3 ≠ 4 ∧ 3 ≠ 8) := by decide +kernel
theorem witness_HeldRegister : Blk.cal.onlyHolds = true ∧ Admits live 0 .cal 0x40 4 true ∧
    ∃ r, RegAt .cal 0x40 r 0 ∧ r.acc = .rw ∧ r.size = 4 :=
  ⟨rfl, admits_ok (by decide +kernel), _, ⟨rfl, rfl, by decide +kernel⟩, rfl, rfl⟩
/-- BLK_CTRL in the first page of a block and in its last. -/
theorem witness_BlockControlWrites : Admits live 0 .cal (0x1000 * 0 + 0x10) 4 true ∧ Admits live 0 .fab (0x1000 * 15 + 0x10) 4 true ∧
    Admits live 0 (.lnk 31) (0x1000 * 0 + 0x10) 4 true :=
  ⟨admits_ok (by decide +kernel), admits_ok (by decide +kernel), admits_ok (by decide +kernel)⟩
theorem witness_SoftReset : Blk.cal.faulted live = false ∧ Blk.cal.faulted (Blk.cal.wr live 0x14 5) = true ∧
    Admits (Blk.cal.wr live 0x14 5) 0 .cal 0x10 4 true := ⟨by decide +kernel, by decide +kernel, admits_ok (by decide +kernel)⟩
/-- SEG_INDEX 253, the last segment below a reserved slice; all 160 slots are logical tiles. -/
def allot : State := Blk.svc.wr (Blk.svc.wr live 0x3A00 253) 0x104C 160
theorem witness_AllotmentWrites :
    admitsAll [(allot, 0, .svc, 0x3A04, 4, true), (allot, 0, .svc, 0x3A40 + 4 * 159, 4, true), (allot, 0, .svc, 0x3D00 + 4 * 43, 4, true)] = true ∧
      bits (Blk.svc.rd allot 0x3A00) 0 11 = 253 ∧ bit (Blk.svc.rd allot 0x3A00) 16 = false ∧ reservedSeg 253 = false ∧
      159 < logicalTiles allot := by decide +kernel
/-- Pools 0 and 3 of BPM[1] with one free buffer each. -/
def pools : State := (bpm 1).wr ((bpm 1).wr ((bpm 1).wr ((bpm 1).wr live 0x60 1) 0x70 1) 0x6C 1) 0x7C 1
theorem witness_BufferPoolRequests :
    admitsAll [(pools, 0, bpm 1, 0x10C, 4, false), (pools, 0, bpm 1, 0x204, 4, false), (pools, 0, bpm 1, 0x300, 4, false),
      (pools, 0, bpm 1, 0xA0, 4, true), (pools, 0, bpm 1, 0x58, 8, true)] = true ∧
    waitsOf pools 1 3 = [] ∧ lowestFree pools 1 3 = some 0 ∧ poolFor (4096 * 64) = some 3 ∧ poolFor (4096 * 1) = some 0 ∧
    waitsOf pools 1 0 = [] ∧ lowestFree pools 1 0 = some 0 := by decide +kernel
theorem witness_BufferPoolPort :
    (portRequest pools 1 (putBits ((4096 : Word64).toNat % 2 ^ 49) 32 16 (SeqId.die 1 20).inst) 0).1 = some (handleOf 1 0 0) ∧
    (portRequest pools 1 (putBits ((0x1000080000000 : Word64).toNat % 2 ^ 49) 32 16 (SeqId.die 1 20).inst) 0).1 = none ∧
    waitsOf { pools with poolQ := [(4, [⟨0x8114, 0⟩])] } 1 0 = [⟨0x8114, 0⟩] ∧
    lowestFree { pools with poolQ := [(4, [⟨0x8114, 0⟩])] } 1 0 = some 0 := by decide +kernel
theorem witness_FreesOfBuffers :
    pools.Canon ∧ 0 < poolCount pools 1 0 ∧ bufferUsed { pools with poolUsed := [(poolKey 1 0 0, 1)] } 1 0 0 = true ∧
      bufferUsed pools 1 0 0 = false ∧ bits 1 21 11 ≠ 0x400 ∧ bits (handleOf 0 0 0) 20 1 ≠ 1 ∧
      poolCount pools 1 (bits (handleOf 1 1 0) 16 4) ≤ bits (handleOf 1 1 0) 0 16 :=
  ⟨⟨by decide +kernel, by decide +kernel, by decide +kernel, by decide +kernel⟩, by decide +kernel⟩

/-! ### Fabric, links, memory controllers, power, spares -/

/-- Entry 1 of a placement table at 0x1000, in a given state. -/
def placed (st : Nat) : State := setEntryState (Blk.fab.wr live 0x8090 0x1000) 1 st
theorem witness_Migration :
    admits (placed plOwned) 0 .fab 0x8098 4 true = true ∧ placeBase (placed plOwned) ≠ 0 ∧ bits (1 : Word32).toNat 0 12 = 1 ∧
      entryState (placed plOwned) 1 = plOwned ∧ admits (placed plDraining) 0 .fab 0x8098 4 true = true ∧
      entryState (placed plDraining) 1 = plDraining := by decide +kernel
theorem witness_FabricRegisterWrites :
    admitsAll [(live, 0, .fab, 0x8100 + 16 * 15, 8, true), (live, 0, .fab, 0x8040, 4, true), (live, 0, .fab, 0x1044, 4, true),
      (Blk.fab.wr live 0x1048 1, 0, .fab, 0x1050, 8, true), (live, 0, .fab, 0x100 + 8 * 33, 8, true),
      (Blk.svc.wr live 0x40 9, 0, .fab, 0x40, 4, true)] = true ∧
    10 ≤ (10 : Word32).toNat % 2 ^ 14 ∧ (10000 : Word32).toNat % 2 ^ 14 ≤ 10000 ∧ bit (Blk.fab.rd live 0x1040) 31 = false ∧
    bits (Blk.fab.rd (Blk.fab.wr live 0x1048 1) 0x1048) 0 10 ≠ 0 ∧ Blk.fab.locked (Blk.svc.wr live 0x40 9) = false ∧
    bits (Blk.svc.rd (Blk.svc.wr live 0x40 9) 0x40) 0 4 = 9 := by decide +kernel
/-- Port 31 up; port 31 with a lost lane. -/
def linkUp31 : State := (Blk.lnk 31).wr live 0x44 6
theorem witness_LinkRegisterWrites :
    admitsAll [(linkUp31, 0, .lnk 31, 0x50, 4, true), (live, 0, .lnk 31, 0x40, 4, true), (live, 0, .lnk 31, 0x64, 4, true)] = true ∧
    linkState linkUp31 31 = 6 ∧ (getPort linkUp31 31).badLanes = [] ∧ bits (0x72 : Word32).toNat 4 4 < 8 ∧
    admits (setPort live 31 { laneLost := true }) 0 (.lnk 31) 0x50 4 true = true ∧
    (getPort (setPort live 31 { laneLost := true }) 31).laneLost = true ∧
    ((List.range 8).map (fun i => bits (0x88888888 : Word32).toNat (4 * i) 4)).sum ≤ 64 := by decide +kernel
theorem witness_MemoryControllerWrites :
    admits live 0 (.tgc 255) 0x40 4 true = true ∧ stackAllotted live 7 = false ∧
    stackAllotted { live with segOwner := [(256 * 7, 5)] } 7 = true ∧
    admits { live with segOwner := [(256 * 7, 5)] } 0 (.tgc 255) 0x40 4 true = true ∧
    admits live 0 (.hbm 31) 0x58 4 true = true ∧ bits ((Blk.hbm 31).rd live 0x50) 0 2 ≠ 2 ∧ bits (pcRepair live 511) 16 2 < 2 ∧
    freeSpare live 511 (rowBank ((Blk.hbm 31).rd live 0x60)) = some 0 ∧ (markedPins live 511).contains 35 = false ∧
    (markedPins live 511).length < 2 ∧ bits (0x230F : Word32).toNat 8 6 = 35 := by decide +kernel
theorem witness_PowerAndSpareWrites :
    admitsAll [(live, 0, .ktl, 0x180 + 4 * 19, 4, true), (live, 0, .ktl, 0x2180 + 4 * 15, 4, true), (vendor, 0, .spr, 0x78, 4, true),
      (vendor, 0, .cntT 159, 0x7FC, 4, true)] = true ∧
    districtMhz live 19 ≤ 1600 ∧ 800 % 25 = 0 ∧ unitExists (bits (Blk.spr.rd live 0x68) 0 3) (bits (Blk.spr.rd live 0x68) 8 24) = true ∧
    unitState live (bits (Blk.spr.rd live 0x68) 0 3) (bits (Blk.spr.rd live 0x68) 8 24) = 0 ∧ admits live 0 .spr 0x78 4 true = true ∧
    session (Blk.sec.wr live 0x40 2) = 2 ∧ admits (Blk.sec.wr live 0x40 2) 0 .spr 0x78 4 true = true ∧
    validParts (Blk.sec.wr live 0x40 2) = [] := by decide +kernel

/-! ### Debug, management -/

theorem witness_DebugAndThreadWrites :
    admitsAll [(vendor, 0, .dbgT 159, 0x70, 4, true), (vendor, 0, .dbgD, 0x40, 4, true), (vendor, 0, .dbgT 159, 0x88, 8, true),
      (vendor, 0, .dbgT 159, 0x88, 8, false), ((Blk.dbgT 159).wr vendor 0x74 2, 0, .dbgT 159, 0x94, 4, true), (vendor, 0, .til 159, 0x40, 4, true),
      (vendor, 0, .til 159, 0x44, 4, true), (vendor, 0, engineBlk (xchQ 1 1), 0x4C, 4, true)] = true ∧
    regSel vendor 159 = (0, 0) ∧ threadStopped vendor 159 0 = true ∧ dbgPhase ((Blk.dbgT 159).wr vendor 0x74 2) 159 = 2 ∧
    (engineBlk (xchQ 1 1)).busy vendor = false := by decide +kernel
theorem witness_ManagementWrites :
    admitsAll [(live, 0, .svc, 0x48, 4, true), (live, 0, .svc, 0xA4, 4, true), (vendor, 0, .svc, 0x90, 4, true),
      (vendor, 0, .sec, 0x44, 4, true), (live, 0, .sec, 0x188, 4, true), (live, 0, .sec, 0x58, 4, true)] = true ∧
    (0xD1A50001 : Word32).toNat = 0xD1A50001 ∧ bits (Blk.svc.rd live 0xA8) 0 2 ≠ 1 ∧ session vendor ≠ 0 ∧
    bits (Blk.sec.rd live 0x18C) 0 2 ≠ 1 := by decide +kernel
/-- A signed command with OP `n` at an HBM address that SEC.CMD_ADDR names. -/
def signed0 (n : Byte) : State := Blk.sec.wr (writeBytes live 0x1000 (List.replicate 4 0 ++ [n])) 0x50 0x1000
theorem witness_SignedCommands :
    ([1, 3, 4, 5, 6, 7].all (fun n => cmdOpIs (signed0 (BitVec.ofNat 8 n)) n && admits (signed0 (BitVec.ofNat 8 n)) 0 .sec 0x58 4 true)) = true := by
  decide +kernel
theorem witness_ManagementPorts :
    serving live = true ∧ State.reset.resetLow = true ∧ ({ live with resetLow := false } : State).resetLow = false ∧
    0x50 = 0x50 + bits (Blk.svc.rd live 0xC4) 0 3 ∧ 0x51 ≠ 0x50 + bits (Blk.svc.rd live 0xC4) 0 3 ∧ [0, 1, 2, 8].contains (31 % 32) = false ∧ session vendor ≠ 0 ∧ serving vendor = true := by
  decide +kernel

/-! ### Sequencers -/

/-- SEQ[0][0]. -/
def sq : SeqId := .tile 0 0
/-- SEQ[0][0] is enabled with a ring of one command block, `cmd` in its first byte; segment 0 is CODE, the binding block at
0x3000 lists one table, at 0x5000, with no steps. -/
def ring (cmd : Byte) : State :=
  let s := (Blk.seq sq).wr ((Blk.seq sq).wr ((Blk.seq sq).wr live 0x10 1) 0x40 0x2000) 0x50 0x1000
  let s := Blk.svc.wr (Blk.svc.wr s 0x3040 1) 0x3200 0x3000
  writeNat (writeNat (writeNat (writeNat (writeBytes (writeNat s 0x1000 4 1) 0x2000 [cmd]) 0x3000 8 0x4000) 0x3008 8 1) 0x4000 8 0x5000) 0x5000 8 0
theorem witness_SequencerTakesCommands :
    (nextCmd (ring 0) sq).1.map (·.cmd) = some 0 ∧ (nextCmd (ring 1) sq).1.map (·.cmd) = some 1 ∧
    bits ((Blk.seq sq).rd (nextCmd (ring 1) sq).2 0x60) 2 6 = 0 ∧
    (scheduleOf (nextCmd (ring 1) sq).2 sq 0).1 = some (0x4000, 1) ∧
    (tableAt ((Blk.seq sq).wr (scheduleOf (nextCmd (ring 1) sq).2 sq 0).2 0x60 0) sq 0x4000 0).1.isSome = true ∧
    takenCmds (getSeq (ring 0) sq) = 0 ∧ (getSeq (ring 1) sq).loaded = [] := by decide +kernel
/-- The ring's command under a table in force, which began with schedule 0 and leaves position 0 or 1; its SCHED is 0, or 1. -/
def under (sched pos : Nat) : State :=
  setSeq (writeBytes (writeNat ((Blk.seq sq).wr (ring 1) 0x48 1) 0x1000 4 2) 0x2040 [1, BitVec.ofNat 8 sched]) sq
    { phase := .iter, table := some {}, nextPos := pos }
theorem witness_SecondTable :
    (nextCmd (under 0 0) sq).1.map (fun c => (c.cmd, schedWrong (nextCmd (under 0 0) sq).2 sq c)) = some (1, false) ∧
    (nextCmd (under 1 1) sq).1.map (fun c => (c.cmd, schedWrong (nextCmd (under 1 1) sq).2 sq c)) = some (1, true) ∧
    takenCmds (getSeq (under 0 0) sq) = 1 ∧ (getSeq (under 1 1) sq).phase ≠ .idle ∧
    (scheduleOf (nextCmd (under 0 0) sq).2 sq 0).1 = some (0x4000, 1) ∧
    (tableAt (scheduleOf (nextCmd (under 0 0) sq).2 sq 0).2 sq 0x4000 0).1.isSome = true ∧
    (getSeq (setSeq (ring 1) sq { loaded := [({}, {}, 0)] }) sq).loaded = [({}, {}, 0)] ∧ serving (ring 1) = true ∧
    (Blk.seq sq).enabled (ring 1) = true ∧ (Blk.seq sq).draining (ring 1) = false := by decide +kernel
def creq : CreditReq := { inst := sq.inst, queue := 20, part := 0, since := 0, charge := 0, rate := 0, bins := 0, scale := 0, clamped := false }
/-- PKG_LIMIT holds no limit. -/
def crediting : State := { setSeq (Blk.ktl.wr live 0x3040 0) sq { phase := .credit } with creditQ := [creq] }
theorem witness_CreditGrant :
    crediting.creditQ.find? (fun c => c.inst = sq.inst) = some creq ∧ (getSeq crediting sq).phase = .credit ∧
    canGrant crediting (askNow crediting creq) = true := by decide +kernel
/-- Before the wait of a step with all bounds 1. -/
def waiting1 (refused : Bool) : State :=
  setSeq live sq { phase := .wait, refused := refused, table := some { steps := [{ op := 0x10, l0 := 1, l1 := 1, l2 := 1 }] } }
theorem witness_StepWaitMet : ∀ r : Bool,
    (getSeq (waiting1 r) sq).phase = .wait ∧ (getSeq (waiting1 r) sq).emits = [] ∧ tokensMet (waiting1 r) sq = true ∧
    (let t := setBounds (takeTokens (endWait (waiting1 r) sq) sq) sq
     (getSeq t sq).refused = r ∧ waitsEach sq (curStep (getSeq (waiting1 r) sq)).op = false ∧
       (curStep (getSeq (waiting1 r) sq)).op ≠ 0 ∧ (getSeq t sq).b0 * (getSeq t sq).b1 * (getSeq t sq).b2 ≠ 0) := by
  decide +kernel
/-- A step waits for a token that has not come, longer than WAIT_TIMEOUT; district 0 at 800 MHz. -/
def lateWait : State :=
  { Blk.spr.wr (Blk.ktl.wr ((Blk.seq sq).wr (setSeq live sq { phase := .wait, table := some { steps := [{ waitEn := true, waitCount := 1 }] } }) 0x64 1)
      0x100 800) 0x1040 0 with now := 100 }
theorem witness_SeqWaitTimeout :
    (getSeq lateWait sq).phase = .wait ∧ (curStep (getSeq lateWait sq)).waitEn = true ∧
    (Blk.seq sq).rd lateWait (tokenReg (curStep (getSeq lateWait sq)).waitCtr) < (curStep (getSeq lateWait sq)).waitCount ∧
    (Blk.seq sq).rd lateWait 0x64 ≠ 0 ∧ 1024 * (Blk.seq sq).rd lateWait 0x64 < waited lateWait sq := by decide +kernel
def tok : QEntry := { counter := 0, status := 0, origin := 0 }
theorem witness_TokensMove :
    (getSeq (setSeq live sq { emits := [((SeqId.die 1 21).inst, tok)] }) sq).emits = [((SeqId.die 1 21).inst, tok)] ∧
    queueFull (setSeq live sq { emits := [((SeqId.die 1 21).inst, tok)] }) (.die 1 21) = false ∧
    (getSeq (setSeq live sq { inFlight := [tok] }) sq).inFlight = [tok] ∧
    (Blk.seq sq).rd (setSeq live sq { inFlight := [tok] }) (tokenReg 0) ≠ 0xFFFF ∧
    (getSeq ((Blk.seq sq).wr (setSeq live sq { inFlight := [tok] }) (tokenReg 0) 0xFFFF) sq).inFlight = [tok] ∧
    (Blk.seq sq).rd ((Blk.seq sq).wr (setSeq live sq { inFlight := [tok] }) (tokenReg 0) 0xFFFF) (tokenReg 0) = 0xFFFF ∧
    (getSeq (setSeq live sq { late := [⟨0, tok, 0, 1⟩] }) sq).late = [⟨0, tok, 0, 1⟩] ∧ live.outs = [] ∧
    (getSeq (setSeq live sq { phase := .ended, table := some {} }) sq).phase = .ended ∧
    (getSeq (completionTokens (setSeq live sq { phase := .ended, table := some {} }) sq) sq).emits = [] := by decide +kernel

/-! ### Threads -/

/-- Thread 7 of tile 159 is ready at 0x6000, in CODE segment 0, where the instruction `w` stands; x2 is 0x1004F800000, in the
tile's own slot. -/
def issuing (w : Nat) : State :=
  let th : Thread := { phase := .ready, pc := 0x6000, x := [0, 0, 0x1004F800000] ++ List.replicate 29 0 }
  writeNat (Blk.svc.wr (Blk.svc.wr (setTcc live 159 { threads := List.replicate 7 {} ++ [th] }) 0x3040 1) 0x104C 160) 0x6000 4 w
/-- The checks of `Issues`, as a Bool. -/
def issues (s : State) (t : Fin 160) (n : Nat) (op : RvOp) (len : Nat) : Bool :=
  decide (nextThread s t = some n) &&
    (match fetchInstr s t (getThread s t n).pc with
     | some (w, l) => decide (l = len) && decide (rvOp w l (getThread s t n).pc (getThread s t n).reg = op)
     | none => false) && !brkHit s t n (getThread s t n).pc
theorem issues_ok {s : State} {t : Fin 160} {n : Nat} {op : RvOp} {len : Nat} (h : issues s t n op len = true) : Issues s t n op len := by
  unfold issues at h
  split at h
  · rename_i w l hf
    simp only [Bool.and_eq_true, decide_eq_true_eq, Bool.not_eq_true'] at h
    obtain ⟨⟨h1, rfl, h2⟩, h3⟩ := h
    exact ⟨h1, ⟨w, hf, h2⟩, h3⟩
  · simp at h
/-- Words of RV64IMAC and of the custom opcodes: ADDI x1,x0,5; LW x1,0(x2); SW x1,0(x2); JAL x1,+8; LR.W; SC.W; an undefined word;
WAITA; ECALL; EBREAK; AMOADD.W; RAMO; FSTORE; RFENCE (R56, R57, R194). -/
theorem witness_Issues :
    Issues (issuing 0x00500093) 159 7 (.wr 1 5) 4 ∧ Issues (issuing 0x00012083) 159 7 (.load 1 0x1004F800000 4 true) 4 ∧
    Issues (issuing 0x00112023) 159 7 (.store 0x1004F800000 4 0) 4 ∧ Issues (issuing 0x008000EF) 159 7 (.jump 1 0x6008) 4 ∧
    Issues (issuing 0x100120AF) 159 7 (.lr 1 0x1004F800000 4) 4 ∧ Issues (issuing 0x183120AF) 159 7 (.sc 1 0x1004F800000 4 0) 4 ∧
    Issues (issuing 0xFFFFFFFF) 159 7 .illegal 4 ∧ Issues (issuing 0x0031108B) 159 7 (.waita 1 0x1004F800000 0 1 false) 4 ∧
    Issues (issuing 0x0021108B) 159 7 (.waita 1 0x1004F800000 0x1004F800000 1 false) 4 ∧
    Issues (issuing 0x00000073) 159 7 .ecall 4 ∧ Issues (issuing 0x00100073) 159 7 .ebreak 4 ∧
    Issues (issuing 0x003120AF) 159 7 (.amo 1 0x1004F800000 4 1 0) 4 ∧ Issues (issuing 0x023100AB) 159 7 (.ramo 1 0x1004F800000 0x81 0 0) 4 ∧
    Issues (issuing 0x0031102B) 159 7 (.fstore 0x1004F800000 4 0 false) 4 ∧ Issues (issuing 0x0000202B) 159 7 .rfence 4 := by
  refine ⟨?_, ?_, ?_, ?_, ?_, ?_, ?_, ?_, ?_, ?_, ?_, ?_, ?_, ?_, ?_⟩ <;> exact issues_ok (by decide +kernel)
theorem witness_Waita :
    addrOk 0x1004F800000 = true ∧ devOf 0x1004F800000 = selfId (issued (issuing 0x0031108B) 159 7) ∧ placeOf (offOf 0x1004F800000) = .nm 159 0 ∧
    0x1004F800000 % waitaBytes false = 0 ∧
    spanStatus (issued (issuing 0x0031108B) 159 7) (offOf 0x1004F800000) (waitaBytes false)
      (tileOwner (issued (issuing 0x0031108B) 159 7) 159) false = stOk := by decide +kernel
/-- A WAITA on a misaligned word, an EBREAK with and without its debug bit, a fetch outside CODE. -/
theorem witness_ThreadStops :
    Issues (setTcc (issuing 0x0031108B) 159 { threads := [{ phase := .ready, pc := 0x6000, x := [0, 0, 2] ++ List.replicate 29 0 }] }) 159 0
      (.waita 1 2 0 1 false) 4 ∧ 2 % waitaBytes false ≠ 0 ∧ Issues ((Blk.dbgT 159).wr (issuing 0x00100073) 0x70 0x400) 159 7 .ebreak 4 ∧
    bit ((Blk.dbgT 159).rd (issued ((Blk.dbgT 159).wr (issuing 0x00100073) 0x70 0x400) 159 7) 0x70) 10 = true ∧
    bit ((Blk.dbgT 159).rd (issued (issuing 0x00100073) 159 7) 0x70) 10 = false ∧
    nextThread (Blk.svc.wr (issuing 0) 0x3040 0) 159 = some 7 ∧
    fetchInstr (Blk.svc.wr (issuing 0) 0x3040 0) 159 (getThread (Blk.svc.wr (issuing 0) 0x3040 0) 159 7).pc = none :=
  ⟨issues_ok (by decide +kernel), by decide +kernel, issues_ok (by decide +kernel), by decide +kernel⟩
/-- A thread in WAITA on a word that is 0, and one in RFENCE. -/
def inWaita : State := (Blk.til 159).wr (setTcc live 159 { threads := [{ phase := .waita 0x1004F800000 0 1 false 0 0 }] }) 0x58 1
theorem witness_ThreadsWake :
    (getThread inWaita 159 0).phase = .waita 0x1004F800000 0 1 false 0 0 ∧
    waitaHolds 0 false (readNat inWaita 0x1004F800000 (waitaBytes false)) 0 = true ∧
    (Blk.til 159).rd inWaita 0x58 ≠ 0 ∧
    1024 * (Blk.til 159).rd inWaita 0x58 ≤ tileCycles { inWaita with distCycles := [(0, 2048)] } 159 - 0 ∧
    (getThread (setTcc live 159 { threads := [{ phase := .fence }] }) 159 0).phase = .fence ∧ live.outs = [] := by decide +kernel
theorem witness_FaultingThreadsStop :
    (issuing 0x73).Canon ∧ bit ((Blk.til 159).rd (issuing 0x73) 0x18) 16 = false ∧
    bit ((Blk.til 159).rd (fetchDone (issuing 0x73) 159 0x6000) 0x18) 16 = false :=
  ⟨⟨by decide +kernel, by decide +kernel, by decide +kernel, by decide +kernel⟩, by decide +kernel⟩

/-! ### The loader -/

/-- An image with no table set, no table and no code, at 0x1000; its loader header asks for `tiles` tiles (Table 3.11). Launch ring 15
belongs to partition 0. -/
def image (tiles : Nat) : State :=
  writeNat (writeNat (writeNat (writeNat (writeNat (Blk.svc.wr live (0x3140 + 8 * 15) (2 ^ 63)) 0x1000 4 0x57504E31) 0x1004 2 1) 0x1008 8 0x60)
    0x1010 2 tiles) 0x1050 8 0x58
/-- A command block: CMD, P0 = 0x1000, P1 = 0x2000, P2: no segments. -/
def block (cmd : Byte) : List Byte := [cmd] ++ List.replicate 8 0 ++ [0x10] ++ List.replicate 7 0 ++ [0x20] ++ List.replicate 46 0
/-- What `readImage` makes of it. -/
def loaded (tiles : Nat) : Image :=
  { part := 0, addr := 0x1000, result := 0x2000, first := 0, count := 0, minTiles := tiles, minPorts := 0, minEng := 0, minHbm := 0,
    sets := [], tables := [], binds := [], codeSrc := 0x1000, codeBytes := 0, pages := [] }
theorem witness_LoaderCommands :
    ringPart (image 0) 15 = some 0 ∧ (parseCmd (block 0x10)).cmd = 0x10 ∧ (parseCmd (block 0x10)).p0 = 0x1000 ∧
    (parseCmd (block 0x10)).p1 = 0x2000 ∧ bits (parseCmd (block 0x10)).p2 0 11 = 0 ∧ bits (parseCmd (block 0x10)).p2 11 11 = 0 ∧
    readImage (image 0) 0 0x1000 0x2000 0 0 [] = some (loaded 0, []) ∧ loadVerdict (image 0) (loaded 0) [] = none ∧
    readImage (image 1) 0 0x1000 0x2000 0 0 [] = some (loaded 1, []) ∧ loadVerdict (image 1) (loaded 1) [] = some (0x0102, none) ∧
    (parseCmd (block 0x11)).cmd = 0x11 ∧
    ({ image 0 with images := [loaded 0] } : State).images.find? (fun im => im.part = 0 && im.addr = (parseCmd (block 0x11)).p0) =
      some (loaded 0) := by decide +kernel

/-! ### Engine iterations -/

theorem getSeq_running (q : SeqId) (st : Step) : curStep (getSeq (running q st) q) = st ∧ (getSeq (running q st) q).phase = .iter ∧
    (getSeq (running q st) q).emits = [] := by
  have h : getSeq (running q st) q = { phase := .iter, table := some { steps := [st] }, b0 := 1, b1 := 1, b2 := 1 } := by
    unfold running getSeq setSeq; exact SMap.get_set_same rfl _ _
  rw [h]; exact ⟨rfl, rfl, rfl⟩
/-- A sequencer of any engine runs the iterations of any step. -/
theorem witness_Iterating (q : SeqId) (st : Step) (sel : Step → Prop) (h : sel st) : Iterating (running q st) q sel :=
  ⟨(getSeq_running q st).2.1, (getSeq_running q st).2.2, by rw [(getSeq_running q st).1]; exact h⟩
/-- The body of a step with operation `op` and else zeros, run by sequencer `q`. -/
def ranOn (q : SeqId) (st : Step) (body : State → Step → IterResult) : Bool :=
  match body (running q st) st with
  | .ran _ _ => true
  | .hold _ => false
theorem witness_MatrixIterations :
    (ranOn (mxaQ 159 1) { op := 0x10 } (mxaConfigIter 159 1) && ranOn (mxaQ 159 1) { op := 0x11 } (mxaLoadIter 159 1) &&
      ranOn (mxaQ 159 1) { op := 0x12 } (mxaPassIter 159 1)) = true := by decide +kernel
theorem witness_TamperIterations :
    (ranOn (layQ 159) { op := 0x10 } (layConfigIter 159) && ranOn (layQ 159) { op := 0x11 } (layUnder 159 (layCopyIter 159 false)) &&
      ranOn (layQ 159) { op := 0x12 } (layUnder 159 (layCopyIter 159 true)) && ranOn (layQ 159) { op := 0x13 } (layUnder 159 (laySkewStreamIter 159)) &&
      ranOn (layQ 159) { op := 0x14 } (layUnder 159 (laySkewStatIter 159)) && ranOn (layQ 159) { op := 0x15 } (layUnder 159 (layPack24Iter 159)) &&
      ranOn (layQ 159) { op := 0x16 } (layUnder 159 (layQuantIter 159 false)) && ranOn (layQ 159) { op := 0x17 } (layUnder 159 (layQuantIter 159 true)) &&
      ranOn (layQ 159) { op := 0x18 } (layUnder 159 (layRowQuantIter 159)) && ranOn (layQ 159) { op := 0x19 } (layUnder 159 (layTilePackIter 159)) &&
      ranOn (layQ 159) { op := 0x1A } (layUnder 159 (layTileUnpackIter 159)) && ranOn (layQ 159) { op := 0x1B } (layUnder 159 (layBlockListIter 159))) = true := by
  decide +kernel
theorem witness_PointwiseIterations :
    (ranOn (ptwQ 159) { op := 0x10 } (ptwElems 159 true false (fun a b _ => a.add b)) &&
      ranOn (ptwQ 159) { op := 0x11 } (ptwElems 159 true false (fun a b _ => a.sub b)) &&
      ranOn (ptwQ 159) { op := 0x12 } (ptwElems 159 true false (fun a b _ => a.mul b)) &&
      ranOn (ptwQ 159) { op := 0x13 } (ptwElems 159 true true (fun a b d => a.fma b d)) &&
      ranOn (ptwQ 159) { op := 0x14 } (ptwElems 159 true false (fun a b _ => a.maxn b)) &&
      ranOn (ptwQ 159) { op := 0x15 } (ptwElems 159 true false (fun a b _ => a.minn b)) &&
      ranOn (ptwQ 159) { op := 0x18 } (ptwFuncIter 159) && ranOn (ptwQ 159) { op := 0x20 } (ptwRow 159 rowSum) &&
      ranOn (ptwQ 159) { op := 0x21 } (ptwRow 159 rowSumSq) && ranOn (ptwQ 159) { op := 0x22 } (ptwRow 159 rowMax) &&
      ranOn (ptwQ 159) { op := 0x28 } (ptwSoftmaxIter 159)) = true := by decide +kernel
theorem witness_RoutingAndExchangeIterations :
    (ranOn (rteQ 1 1) { op := 0x10 } (rteConfigIter 1 1) && ranOn (rteQ 1 1) { op := 0x11 } (routeIter 1 1) &&
      ranOn (xchQ 1 1) { op := 0x10 } (xchConfigIter 1 1) && ranOn (xchQ 1 1) { op := 0x11 } (xchUnder 1 1 true (countsIter 1 1)) &&
      ranOn (xchQ 1 1) { op := 0x12 } (xchUnder 1 1 true (dispatchStep 1 1 false)) &&
      ranOn (xchQ 1 1) { op := 0x12, mode := 1 } (xchUnder 1 1 true (dispatchStep 1 1 true)) &&
      ranOn (xchQ 1 1) { op := 0x13 } (xchUnder 1 1 true (returnIter 1 1 false)) &&
      ranOn (xchQ 1 1) { op := 0x13, mode := 1 } (xchUnder 1 1 true (returnIter 1 1 true)) &&
      ranOn (xchQ 1 1) { op := 0x14 } (xchUnder 1 1 true (combineIter 1 1 false)) &&
      ranOn (xchQ 1 1) { op := 0x14, mode := 1 } (xchUnder 1 1 true (combineIter 1 1 true)) &&
      ranOn (xchQ 1 1) { op := 0x15 } (xchUnder 1 1 true (stepClearIter 1 1))) = true := by decide +kernel
theorem witness_EmbeddingIterations :
    (ranOn (embQ 1 3) { op := 0x10 } (embConfigIter 1 3) && ranOn (embQ 1 3) { op := 0x11 } (embUnder 1 3 true (prepIter 1 3)) &&
      ranOn (grdQ 1 3) { op := 0x11 } (sortIter 1 3) && ranOn (embQ 1 3) { op := 0x12 } (embUnder 1 3 true (gatherIter 1 3)) &&
      ranOn (embQ 1 3) { op := 0x13 } (embUnder 1 3 true (poolIter 1 3)) && ranOn (embQ 1 3) { op := 0x14 } (embUnder 1 3 true (scatterIter 1 3)) &&
      ranOn (embQ 1 3) { op := 0x15 } (embUnder 1 3 true (pushIter 1 3)) && ranOn (embQ 1 3) { op := 0x16 } (embUnder 1 3 true (applyIter 1 3)) &&
      ranOn (embQ 1 3) { op := 0x17 } (embUnder 1 3 true (refreshIter 1 3))) = true := by decide +kernel
theorem witness_CollectiveAndOptimiserIterations :
    (ranOn (colQ 1 3) { op := 0x10 } (colConfigIter 1 3) && ranOn (colQ 1 3) { op := 0x11 } (colUnder 1 3 true (contribIter 1 3)) &&
      ranOn (colQ 1 3) { op := 0x12 } (colUnder 1 3 true (finishIter 1 3)) && ranOn (staQ 1) { op := 0x10 } (amaxIter 1) &&
      ranOn (optQ 1 3) { op := 0x10 } (optConfigIter 1 3) && ranOn (optQ 1 3) { op := 0x11 } (optUnder 1 3 (updateIter 1 3)) &&
      ranOn (optQ 1 3) { op := 0x12 } (optUnder 1 3 (castIter 1 3)) && ranOn (optQ 1 3) { op := 0x13 } (optCopyIter 1 3) &&
      ranOn (.die 1 20) { op := 0x10 } (allocIter 1) && ranOn (.die 1 20) { op := 0x11 } (freeIter 1)) = true := by decide +kernel

/-! ### Events within a step -/

/-- A sequencer in a step's iteration whose engine has a record of zeros, with word 100, or another, of the step set. -/
def within (q : SeqId) (b : Blk) (st : Step) (k v : Nat) : State := setScr (setRec (running q st) b [0]) q k v
/-- What a body made of it: done, or the value of word 100 it left. -/
def tookOn (q : SeqId) (s : State) (st : Step) (body : State → Step → IterResult) : Option (Option Nat) :=
  match body s st with
  | .ran _ _ => none
  | .hold t => some (scr t q 100)
/-- The phase of an embedding engine's APPLY ran over its limit, with the header of its one member still to come. -/
def embLate : State := { (embBlk 1 3).wr (setRec (within (embQ 1 3) (embBlk 1 3) { op := 0x16 } 100 1) (embBlk 1 3) [1]) 0x54 1 with now := 100 }
theorem witness_EventIterations :
    tookOn (mxaQ 159 1) (within (mxaQ 159 1) (.mxa 159 1) { op := 0x12 } 20 0) { op := 0x12 } (verdictIter 159 1) = none ∧
    tookOn (xchQ 1 1) (within (xchQ 1 1) (xchBlk 1 1) { op := 0x11 } 100 1) { op := 0x11 } (xchUnder 1 1 false (countsReceivedIter 1 1)) =
      some (some 3) ∧
    tookOn (xchQ 1 1) (within (xchQ 1 1) (xchBlk 1 1) { op := 0x11 } 100 3) { op := 0x11 } (xchUnder 1 1 false (grantsReceivedIter 1 1)) = none ∧
    tookOn (xchQ 1 1) (within (xchQ 1 1) (xchBlk 1 1) { op := 0x12 } 100 4) { op := 0x12 } (xchUnder 1 1 false (dataIterDone 1 1)) = none ∧
    tookOn (xchQ 1 1) (within (xchQ 1 1) (xchBlk 1 1) { op := 0x14 } 104 1) { op := 0x14 } (xchUnder 1 1 false (returnsReceivedIter 1 1)) =
      some (some 6) ∧
    tookOn (embQ 1 3) (within (embQ 1 3) (embBlk 1 3) { op := 0x12 } 100 1) { op := 0x12 } (embUnder 1 3 false (hotReceivedIter 1 3)) =
      some (some 2) ∧
    tookOn (embQ 1 3) (within (embQ 1 3) (embBlk 1 3) { op := 0x15 } 101 1) { op := 0x15 } (embUnder 1 3 false (pushRepliesIter 1 3)) = none ∧
    tookOn (embQ 1 3) (within (embQ 1 3) (embBlk 1 3) { op := 0x16 } 100 1) { op := 0x16 } (embUnder 1 3 false (updatesReceivedIter 1 3)) = none ∧
    tookOn (embQ 1 3) embLate { op := 0x16 } (embUnder 1 3 false (embTimeoutIter 1 3)) = none := by decide +kernel
/-- Bodies that cannot run yet: the engine has no record. -/
theorem witness_BodiesHold :
    ranOn (mxaQ 159 1) { op := 0x12 } (verdictIter 159 1) = false ∧
    ranOn (xchQ 1 1) { op := 0x11 } (xchUnder 1 1 false (countsReceivedIter 1 1)) = false ∧
    ranOn (embQ 1 3) { op := 0x12 } (embUnder 1 3 false (hotReceivedIter 1 3)) = false := by decide +kernel

/-! ### Messages -/

/-- XCH[1][1] with a record of one member, and a COUNT header of exchange 0 in its inbox. -/
def xchMsg : State :=
  let s := setRec live (xchBlk 1 1) [1]
  writeNat s ((xchRec [1]).countHdr 0 0 0) 8 0x10000
/-- A step of XCH[1][1] past its PHASE_TIMEOUT. -/
def xchLate : State :=
  { (xchBlk 1 1).wr (setScr (setRec (within (xchQ 1 1) (xchBlk 1 1) { op := 0x11 } 104 0) (xchBlk 1 1) [1]) (xchQ 1 1) 100 1) 0x58 1 with now := 100 }
theorem witness_ExchangeMessages :
    recOf xchMsg (xchBlk 1 1) = [1] ∧
    slotKinds (xchRec [1]) (xseqOf xchMsg 1 1) ((xchRec [1]).countHdr 0 0 0) = [1] ∧
    readNat xchMsg ((xchRec [1]).countHdr 0 0 0) 8 = 0x10000 ∧ bits 0x10000 0 16 = xseqOf xchMsg 1 1 ∧ [1].contains (bits 0x10000 16 4) = true ∧
    (getXch xchMsg 1 1).bwd = false ∧ bits 0x10000 16 4 < 3 ∧ bits 0x30000 16 4 = 3 ∧ [1].contains (bits 0x30000 16 4) = false ∧
    slotKinds (xchRec [1]) (xseqOf xchMsg 1 1) ((xchRec [1]).countHdr 0 1 0) = [] ∧
    slotKinds (xchRec [1]) (xseqOf xchMsg 1 1 + 1) ((xchRec [1]).countHdr 0 1 0) = [1] ∧
    bits 0x10001 0 16 = (xseqOf xchMsg 1 1 + 1) % 2 ^ 16 ∧ bits 0x10000 0 16 ≠ (xseqOf xchMsg 1 1 + 1) % 2 ^ 16 ∧
    scr xchLate (xchQ 1 1) 104 = some 0 ∧ headersAwaited xchLate 1 1 = (0, 1) ∧ (xchBlk 1 1).rd xchLate 0x58 = 1 ∧
    1024 * 1 < (xchLate.now - 0) * seqMhz xchLate (xchQ 1 1) := by decide +kernel
/-- EMB[1][3] with a record of one member, of step 0, and an update header, of kind 1, in slot 0 of its inbox at 0. -/
def embMsg (step : Nat) : State := writeNat (setRec live (embBlk 1 3) [1]) 0 8 (step + 2 ^ 56)
theorem witness_EmbeddingMessages :
    recOf (embMsg 0) (embBlk 1 3) = [1] ∧ 0 < (embRec [1]).m ∧ bits (readNat (embMsg 0) (embRec [1]).inbox 8) 56 6 = 1 ∧
    bits (readNat (embMsg 0) (embRec [1]).inbox 8) 0 32 = (embRec [1]).step ∧
    bits (readNat (embMsg 1) (embRec [1]).inbox 8) 56 6 = 1 ∧ bits (readNat (embMsg 1) (embRec [1]).inbox 8) 0 32 ≠ (embRec [1]).step ∧
    (embRec [1 + 2 ^ 31]).hrd = true ∧ (embRec [1 + 2 ^ 31]).m = 1 := by decide +kernel
/-- COL[1][3] with a record, and a message with sequence number `n` at 0x100. -/
def colMsg (n : Nat) : State := writeNat (setRec live (colBlk 1 3) [0]) 0x100 8 n
/-- A step of COL[1][3] past its PHASE_TIMEOUT, and one whose record has DEADLINE 0 that TIME, 1, has passed. -/
def colLate : State := { (colBlk 1 3).wr (within (colQ 1 3) (colBlk 1 3) { op := 0x11 } 104 0) 0x58 1 with now := 100 }
def colDead : State := Blk.fab.wr (setRec live (colBlk 1 3) [0x20]) 0x804C 1
theorem witness_CollectiveMessages :
    recOf (colMsg 0) (colBlk 1 3) = [0] ∧ bits (readNat (colMsg 0) 0x100 8) 0 16 = cseqOf (colMsg 0) 1 3 ∧
    bits (readNat (colMsg 1) 0x100 8) 0 16 = (cseqOf (colMsg 1) 1 3 + 1) % 2 ^ 16 ∧
    bits (readNat (colMsg 2) 0x100 8) 0 16 ≠ (cseqOf (colMsg 2) 1 3 + 1) % 2 ^ 16 ∧
    bits (readNat (colMsg 2) 0x100 8) 0 16 ≠ cseqOf (colMsg 2) 1 3 ∧
    recOf colDead (colBlk 1 3) = [0x20] ∧ pastDeadline colDead (colRec [0x20]) = true ∧
    (getSeq colLate (colQ 1 3)).phase = .iter ∧ scr colLate (colQ 1 3) 104 = some 0 ∧ (colBlk 1 3).rd colLate 0x58 = 1 ∧
    1024 * 1 < (colLate.now - 0) * seqMhz colLate (colQ 1 3) ∧
    scr (setScr live (layQ 159) 9 0) (layQ 159) 9 = some 0 ∧
    (inFlightIters (setScr live (layQ 159) 9 0) (layQ 159)).length < 64 := by decide +kernel

/-! ### Requests of the fabric -/

/-- A request of device 1 with an OP to HBM offset 0x40, or to another address, with tag (1, 0x7B0, 5). -/
def farReq (op : Nat) (addr : Nat := 0x40) (size : Nat := 4) : Request :=
  { op := op, addr := addr, size := size, src := 1, ctx := 0x7B0, part := 0, vc := 0, isolated := true, seq := 5, data := List.replicate size 1 }
/-- A load, a store, a flagged store and an atomic of each kind (Table 9.3). -/
def farOps : List Nat := [0x00, 0x10, 0x20, 0x01, 0x02, 0x03, 0x04, 0x05, 0x06, 0x07, 0x08]
theorem witness_RemoteRequestsServed :
    serving live = true ∧ (farOps.all (fun op => devOf (farReq op).addr = selfId live && (farReq op).src ≠ selfId live &&
      (farReq op).src ≠ selfId (serve (takeArrived live (farReq op)) (farReq op)).2)) = true ∧
    flowWaits live (farReq 0x20) = false ∧ live.heldFlags = [] ∧ 0x01 % 16 = 1 := by decide +kernel
/-- The served store reaches memory, and its reply is on its way to the sender. -/
theorem test_remote_store :
    (match execRemoteStore 33 (farReq 0x10) live with
     | .next t => decide (readBytes t 0x40 4 = [1, 1, 1, 1]) && decide (t.toRoute.length = 1)
     | _ => false) = true := by decide +kernel
/-- A flagged store behind a store of its flow that still waits at a die port; a held one that nothing precedes. -/
def flagBehind : State := { live with arrived := [.req (farReq 0x10) 0 33] }
def flagFirst : State := { live with heldFlags := [⟨farReq 0x20, 33⟩] }
def allFlag : OutReq := { id := 1, req := farReq 0x20, orig := 0, flagAll := true, waiter := .posted, phase := .rowHeld }
theorem witness_FlagsWaitForTheirFlow :
    serving flagBehind = true ∧ devOf (farReq 0x20).addr = selfId flagBehind ∧ flowWaits flagBehind (farReq 0x20) = true ∧
    (checked (takeArrived flagBehind (farReq 0x20)) (farReq 0x20)).1 = none ∧
    (checked (takeArrived flagBehind (farReq 0x20 0x40 3)) (farReq 0x20 0x40 3)).1.isSome = true ∧
    flowWaits flagBehind (farReq 0x20 0x40 3) = true ∧
    flagFirst.heldFlags = [⟨farReq 0x20, 33⟩] ∧ flowWaits flagFirst (farReq 0x20) = false ∧
    ({ live with outs := [allFlag] } : State).outs.find? (fun o => o.req.ctx = 0x7B0 && o.flagAll && o.phase = .rowHeld) = some allFlag ∧
    mustHold { live with outs := [allFlag] } allFlag = false := by decide +kernel
/-- The Roast Log window (Table 1.3). -/
theorem witness_RoastLogIsReadOnly :
    live.Canon ∧ placeOf (offOf (0x1C000000040)) = .log 0x40 ∧ devOf (0x1C000000040) = selfId live ∧ reqLoad (farReq 0x10 (0x1C000000040)) = false ∧
    partValid live (farReq 0x10).part = true ∧ (farReq 0x10).src ≠ selfId live ∧ isTransfer (farReq 0x20 (0x1C000000040)) = false ∧
    isTransfer (farReq 0x10 (0x1C000000040)) = false :=
  ⟨live_canon, by decide +kernel⟩
/-- −1 and 1 as 64-bit operands: the order of the signed types. -/
theorem witness_AtomicValues : signed 64 (2 ^ 64 - 1) ≤ signed 64 1 ∧ signed 64 (2 ^ 64 - 1) < signed 64 1 ∧
    signed 32 (2 ^ 32 - 1) < signed 32 1 ∧ 5 % 2 ^ 32 ≠ 6 ∧ 2 ^ 64 - 1 < 2 ^ 64 ∧ (5 : Nat) ≠ 6 ∧ 0x81 = 0x80 + 0x01 := by decide +kernel
/-- The filter holds the tag of an atomic with FETCH, and the value it found. -/
def tagHeld : State := { live with filter := [(setOf 1 0x7B0 5, [.single 1 0x7B0 5 0 0x40 9])] }
theorem witness_AppliedAtomic :
    (farReq 0x81).more = [] ∧
    findTag (dropOld tagHeld (SMap.get dFilter tagHeld.filter (setOf 1 0x7B0 5))) 1 0x7B0 (5 % 65536) = some 9 := by decide +kernel

/-- Outstanding requests of this device, one in each condition; time 50 µs, a replay window of 100. -/
def outOf (op : Nat) (iso : Bool) (ph : OutPhase) : OutReq :=
  { id := 1, req := { farReq op with isolated := iso, ctx := 0x7B0 }, orig := 0, waiter := .posted, phase := ph, copies := 1 }
def outs50 (o : OutReq) : State := { live with outs := [o], now := 5000 }
theorem witness_OutstandingRequests :
    (outs50 (outOf 0x10 true .sent)).outs.find? (fun o => o.req.ctx = 0x7B0 && o.req.seq % 65536 = 5 && o.copies ≠ 0) =
      some (outOf 0x10 true .sent) ∧ (outOf 0x10 true .sent).waiter.seq = none ∧ 0 = selfId (outs50 (outOf 0x10 true .sent)) ∧
    findOut { outs50 (outOf 0x81 true .sent) with now := 50 } 1 = some (outOf 0x81 true .sent) ∧ reqAtomic (outOf 0x81 true .sent).req = true ∧
    50 - (outOf 0x81 true .sent).firstIssue < replayW { outs50 (outOf 0x81 true .sent) with now := 50 } ∧
    reqAtomic (outOf 0x10 false .sent).req = false ∧ (outOf 0x10 false .sent).gangTimeout ≤ 5000 ∧
    findOut (outs50 (outOf 0x10 false (.waitUntil 9))) 1 = some (outOf 0x10 false (.waitUntil 9)) ∧
    isoTimeout (outs50 (outOf 0x10 true .sent)) 0 ≤ 5000 ∧
    (outOf 0x10 true .sent).retryPeriod ≤ 20 ∧ 20 < isoTimeout { outs50 (outOf 0x10 true .sent) with now := 20 } 0 ∧
    (outs50 (outOf 0x81 true .seqHeld)).outs.find? (fun o => o.req.ctx = 0x7B0 && o.phase = .seqHeld) = some (outOf 0x81 true .seqHeld) ∧
    seqRecent (outs50 (outOf 0x81 true .seqHeld)) 0x7B0 5 = false := by decide +kernel
/-- A request that a thread of the last tile, and one that the engine of a sequencer, waits for. -/
def outFor (ctx : Nat) (w : Waiter) : OutReq :=
  { id := 1, req := { farReq 0x00 with ctx := ctx }, orig := 0, waiter := w, phase := .sent, copies := 1 }
theorem witness_RepliesToTiles :
    (outs50 (outFor (12 * 159 + 11) (.thread 159 7 1 4 false))).outs.find? (fun o => o.req.ctx = 12 * 159 + 11 && o.req.seq % 65536 = 5 && o.copies ≠ 0) =
      some (outFor (12 * 159 + 11) (.thread 159 7 1 4 false)) ∧ (outFor (12 * 159 + 11) (.thread 159 7 1 4 false)).waiter.seq = none ∧
    (12 * 159 + 11) / 12 = 159 ∧ 4 ≤ (12 * 159 + 11) % 12 ∧
    selfId (threadEnergy (remoteCount (outs50 (outFor (12 * 159 + 11) (.thread 159 7 1 4 false))) (12 * 159 + 11) 16 false) 159 .link 16) =
      selfId (outs50 (outFor (12 * 159 + 11) (.thread 159 7 1 4 false))) ∧
    (outFor 0x780 (.store (SeqId.die 0 0).inst)).waiter.seq = some (.die 0 0) ∧
    selfId (seqEnergy (remoteCount (outs50 (outFor 0x780 (.store (SeqId.die 0 0).inst))) 0x780 16 false) (.die 0 0) .link 16
      (dataPage (.die 0 0) true)) = selfId live := by decide +kernel
def farRep : Reply := { status := 0, dst := 5, ctx := 0x7B0, seq := 5 }
/-- A device that has joined the fabric; a packet queued at a die port, and one at P31, UP, with credit. -/
def joined : State := Blk.fab.wr live 0x40 (2 ^ 31)
def sending (p : Nat) : State :=
  setPort linkUp31 p { outq := [.req (farReq 0x10) 0 0], credit := List.replicate 16 100 }
def stuck : State := { Blk.fab.wr (setPort live 33 { blockedSince := [(14, 0)] }) 0x44 1 with now := 5 }
def open1 : CombEntry := { first := farReq 0x01, openedAt := 0 }
theorem witness_FabricEvents :
    ({ live with winHeld := some (100, 5), now := 6 } : State).winHeld = some (100, 5) ∧
    ({ live with migs := [{ entry := 1, handover := true }] } : State).migs.find? (fun m => m.handover && !m.sent && !heldIn live m.entry) =
      some { entry := 1, handover := true } ∧
    ({ joined with passBy := [farReq 0x10] } : State).passBy.contains (farReq 0x10) = true ∧
    joined.passBy.contains (farReq 0x10) = false ∧ drr true (Blk.fab.rd live 0x208) 100 (getPort live 33) = none ∧
    bit (Blk.fab.rd joined 0x40) 31 = true ∧ ({ joined with toRoute := [.rep farRep 0 0 33] } : State).toRoute = [.rep farRep 0 0 33] ∧
    reqAtomic (farReq 0x10) = false ∧ reqFlag (farReq 0x10) = false ∧ combinable (farReq 0x10) = false ∧
    (drr true (Blk.fab.rd (sending 33) 0x208) 100 (getPort (sending 33) 33)).isSome = true ∧
    portUp (sending 31) 31 = true ∧
    (drr false (Blk.fab.rd (sending 31) 0x1F8) 100 (getPort (sending 31) 31)).isSome = true ∧
    (getPort (sending 31) 31).txBuf.length + newFlits (getPort (sending 31) 31) (pktSize (.req (farReq 0x10) 0 0)) ≤ 512 ∧
    deadAt (sending 31) (getPort (sending 31) 31) = none ∧ heldIn live 1 = false ∧
    portUp (setPort live 30 { outq := [.req (farReq 0x10) 0 0] }) 30 = false ∧
    ({ live with comb := [open1], now := 2 } : State).comb[0]? = some open1 ∧
    (getPort stuck 33).blockedSince.find? (fun e => e.1 / 2 = 7 && !(getPort stuck 33).creditRaised.contains e.1) = some (14, 0) ∧
    Blk.fab.rd stuck 0x44 = 1 := by decide +kernel
/-- A DATA flit numbered 0 that carries the store of `farReq`, in the bytes of Tables 10.2 and 10.4. -/
def flit1 : Flit := { bytes := flitBytes flitData 0 (encodePacket (.req (farReq 0x10) 0 0)) }
theorem witness_FlitsAreTakenInOrder :
    linkUp31.Canon ∧ portUp linkUp31 31 = true ∧ (getPort linkUp31 31).expect = 0 ∧ flitCrcOk flit1.bytes = true ∧
    flitKind flit1.bytes = flitData ∧ flitSeq flit1.bytes = 0 ∧ flit1.uncorr = 0 ∧ flit1.pairBad = false ∧
    flitCrcOk idleFlit = true ∧ flitKind idleFlit ≠ flitData ∧ flitCrcOk (1 :: flit1.bytes.drop 1) = false :=
  ⟨⟨by decide +kernel, by decide +kernel, by decide +kernel, by decide +kernel⟩, by decide +kernel⟩
/-- The check value of CRC-32C: of the nine bytes "123456789" it is 0xE306_9283. -/
theorem test_crc32c : crc32c [0x31, 0x32, 0x33, 0x34, 0x35, 0x36, 0x37, 0x38, 0x39] = 0xE3069283 := by decide +kernel
/-- A packet's bytes read back. -/
theorem test_packet_bytes :
    takePackets 31 40 (encodePacket (.req (farReq 0x10) 1 0) ++ encodePacket (.rep { status := 0, dst := 5, ctx := 0x7B0, seq := 5, data := [1] } 0 0 0)) =
      ([.req (farReq 0x10) 1 31, .rep { status := 0, dst := 5, ctx := 0x7B0, seq := 5, data := [1] } 4096 0 31], []) := by decide +kernel
/-- P31 while it trains, from time 0. -/
def trainingPort (retrain : Bool) (now : Nat) : State :=
  { (Blk.lnk 31).wr (setPort live 31 { trainFrom := some 0, retraining := retrain, met := true }) 0x44 5 with now := now }
/-- A control flit that acknowledges flit 4,095, and one with NAK. -/
def flitAck (nak : Bool) : Flit := { bytes := flitBytes flitControl 0 (controlPayload 4095 nak [] []) }
def downPort : State := { (Blk.lnk 31).wr (setPort live 31 { downSince := some 0 }) 0x10 1 with now := 1000000 }
theorem witness_LinkEvents :
    portUp (setPort linkUp31 31 { txBuf := [{ seq := 0, bytes := [], resent := 8 }] }) 31 = true ∧
    (getPort (setPort linkUp31 31 { txBuf := [{ seq := 0, bytes := [], resent := 8 }] }) 31).txBuf.any (fun t => 8 ≤ t.resent) = true ∧
    (getPort (trainingPort true 500) 31).trainFrom = some 0 ∧ linkState (trainingPort true 500) 31 = 5 ∧
    (getPort (trainingPort true 500) 31).met = true ∧ flitCrcOk (flitAck true).bytes = true ∧
    flitKind (flitAck false).bytes = flitControl ∧ ctlNak (flitPayload (flitAck true).bytes) = true ∧
    ctlNak (flitPayload (flitAck false).bytes) = false ∧ ctlAck (flitPayload (flitAck false).bytes) = 4095 ∧
    wiringOk (bits (Blk.svc.rd (Blk.svc.wr live 0xC0 1) 0xC4) 0 3) 0 1 0 = false ∧ (getPort (trainingPort true 500) 31).laneLost = false ∧
    (getPort (trainingPort true 500) 31).badLanes = [] ∧
    (getPort (trainingPort false 100000) 31).retraining = false ∧ (trainingPort false 100000).now - 0 = 100000 ∧
    (getPort downPort 31).downSince = some 0 ∧ (getPort downPort 31).laneLost = false ∧ (Blk.lnk 31).enabled downPort = true ∧
    (29 : Fin 32).val < 30 ∧ isBridge live = false ∧ Blk.svc.rd (trainingPort true 500) 0xC0 = 0 := by decide +kernel
theorem witness_LinkCanon : linkUp31.Canon ∧ (trainingPort true 500).Canon :=
  ⟨⟨by decide +kernel, by decide +kernel, by decide +kernel, by decide +kernel⟩,
    by decide +kernel, by decide +kernel, by decide +kernel, by decide +kernel⟩

/-! ### The host, HBM, the Kettle -/

/-- A bridge device whose BAR2 slot 63 has a window of a mode. -/
def bridge (mode : Nat) : State := Blk.hst.wr (Blk.svc.wr live 0xC4 16) 0x2F8 (2 ^ 63 + mode * 2 ^ 60)
def heldRead : OutReq := { id := 1, req := { farReq 0x00 with ctx := 0x7C0 + 63 }, orig := 0, waiter := .hostRead 63 0 0 4, phase := .rowHeld }
theorem witness_HostCommands :
    serving (bridge 0) = true ∧ isBridge (bridge 0) = true ∧ hostDirect 0x3FFFFC = false ∧
    window (bridge 0) (63 * 2 ^ 30) = some (63, 0, 0) ∧ window (bridge 1) (63 * 2 ^ 30) = some (63, 0, 1) ∧
    window (bridge 2) (63 * 2 ^ 30 + 8) = some (63, 8, 2) ∧
    ({ live with outs := [heldRead] } : State).outs.find? (fun o => o.req.ctx = 0x7C0 + 63 && reqLoad o.req && o.phase = .rowHeld) = some heldRead ∧
    mustHold { live with outs := [heldRead] } heldRead = false ∧ (farReq 0x10).src ≠ selfId live ∧
    SMap.get d0 ({ live with msixHeld := [(63, 1)], msixAt := [(63, 1)] } : State).msixHeld 63 = 1 ∧
    bits (Blk.hst.rd live 0x60) 0 16 ≤ 100000 + 1 - 1 ∧ pcieUp (bridge 0) = false ∧
    pcieUp (Blk.hst.wr (bridge 0) 0x44 0x10000) = true ∧ isHostId (Blk.hst.wr (bridge 0) 0x48 (7 + 2 ^ 31)) 7 = true := by decide +kernel
/-- The top of HBM: burst 0x7FFFFFFFE0 and its last byte (R288). -/
theorem witness_HbmAddressMap :
    0x7FFFFFFF00 % 256 = 0 ∧ pcOf (0x7FFFFFFF00 + 255) = pcOf 0x7FFFFFFF00 ∧ pcoffOf (0x7FFFFFFF00 + 255) = pcoffOf 0x7FFFFFFF00 + 255 := by
  decide +kernel
def lastQ (lat : Bool) : State :=
  if lat then { live with hbmLat := [(511, [(0, { sender := .core, off := 0 })])] }
  else { live with hbmBulk := [(511, [(0, { sender := .other, off := 0 })])] }
/-- Traffic generator 255 under PATROL, at its upper pseudo-channel, and in BRINGUP, writing. -/
def patrolling : State := { (Blk.tgc 255).wr live 0x40 3 with tgcPos := [(255, 1)] }
def bringup : State := (Blk.tgc 255).wr ((Blk.tgc 255).wr live 0x40 1) 0x44 0x20
theorem witness_HbmCommands :
    (chooseReq (lastQ true) 511 7).isSome = true ∧
    (bulkQ (lastQ false) 511).filter (fun e => !rowHeld (lastQ false) 511 10000 e.2) = [(0, { sender := .other, off := 0 })] ∧
    bulkAge (lastQ false) 511 < 10000 - 0 ∧ bits ((hbmPage 511).rd live 0x4C) 0 10 ≠ 0 ∧
    enqueue live 511 [] = live ∧ openSlot (lastQ false) 511 10000 = true ∧ SMap.get d0 live.refreshDue (16 * 511 + 15) ≤ 0 ∧
    SMap.get d0 ({ live with bankActs := [(16 * 511 + 15, 1)] } : State).bankActs (16 * 511 + 15) ≠ 0 ∧
    trainingFrom live 511 (SMap.get d0 live.hbmTrained 511 + 100000 * bits ((hbmPage 511).rd live 0x4C) 0 10) ≤ 0xFFFFFFFF ∧ bits ((hbmPage 511).rd live 0x50) 0 2 ≠ 2 ∧
    bits ((tgcPage 255).rd patrolling 0x40) 0 2 = 3 ∧ bits ((hbmPage 511).rd patrolling 0x48) 0 8 ≠ 0 ∧
    SMap.get d0 patrolling.tgcPos 255 % 2 = 511 % 2 ∧ idleSlot patrolling 511 0 = true ∧ openSlot bringup 510 0 = true ∧
    (tgcNext 0 1 0 0x3FFFFFE0).2 = false ∧
    bits ((Blk.tgc 255).rd bringup 0x40) 0 2 = 1 ∧ bits ((Blk.tgc 255).rd bringup 0x44) 4 2 = 2 := by decide +kernel
/-- The package's averages stand above every limit. -/
def hot : State := { live with avg := [(0, 2 ^ 80), (1, 2 ^ 80), (2, 2 ^ 80)] }
/-- District 19 at 800 MHz, that may rise to 1,600. -/
def rising : State := { Blk.svc.wr (Blk.ktl.wr (Blk.ktl.wr live 0x14C 800) 0x1CC 1600) 0x1064 1600 with now := 10000000 }
theorem witness_KettleAndCalibration :
    SMap.get d0 ({ live with freqPend := [(19, 800)] } : State).freqPend 19 = 800 ∧ live.grants = [] ∧ SMap.get d0 live.halfMv 19 = 0 ∧
    SMap.get (fun _ => (0, 0, 0)) ({ live with ramps := [(19, (800, 1500, 0))] } : State).ramps 19 = (800, 1500, 0) ∧
    ({ live with creditQ := [creq], now := 10000000 } : State).creditQ.find? (fun c => c.inst = sq.inst) = some creq ∧
    max 1 (Blk.ktl.rd live 0x50) < 10000000 - creq.since ∧ (failing hot (askNow hot creq)).filter (fun k => !creq.raised.contains k) ≠ [] ∧
    creq.queue = 20 ∧ ((failing hot (askNow hot { creq with queue := 19 })).filter (fun k => !creq.raised.contains k)).any (· ≤ 20) = true ∧
    districtMhz rising 19 = 800 ∧ min (bits (Blk.ktl.rd rising 0x1CC) 0 12) (bits (Blk.svc.rd rising 0x1064) 0 12) = 1600 ∧ rising.creditQ = [] ∧
    rising.temps = [] ∧ rising.freqPend = [] ∧ Blk.ktl.rd rising 0x54 ≤ rising.now - 0 ∧
    guardSteps (reportSlack live 0 255) + 2 < smallestSlack (reportSlack live 0 255) (islandKey 0) ∧
    0 < guardSteps (Blk.cal.wr live 0x48 1) ∧ SMap.get d0 live.halfMv (islandKey 160) < 1700 ∧
    100 ≤ SMap.get d0 ({ Blk.ktl.wr live 0x14C 900 with temps := [(19, 100)] } : State).temps 19 ∧
    districtMhz (Blk.ktl.wr live 0x14C 900) 19 = 900 ∧
    districtHot { live with temps := [(64 + 19, 1)] } 19 = true ∧ districtHot live 19 = false ∧ districtMhz live 19 < 800 := by decide +kernel

/-! ### Reset, security, spares, package -/

theorem witness_ResetCommands :
    live.held = false ∧ thermLimit { live with temps := [(20, 125)] } = true ∧ Blk.svc.rd (Blk.svc.wr live 0xB0 1) 0xB0 ≠ 0 ∧
    State.reset.held = true ∧ State.reset.thermHeld = false ∧ bits (Blk.svc.rd (Blk.svc.wr live 0x40 1) 0x40) 0 4 = 1 ∧
    bits (Blk.svc.rd (Blk.svc.wr live 0x40 3) 0x40) 0 4 = 3 ∧ bits (Blk.svc.rd (Blk.svc.wr live 0x40 13) 0x40) 0 4 = 13 ∧
    (live.recov ++ [1]).length < 0x2000 ∧ live.wdogAt = none ∧ ({ live with wdogAt := some 0 } : State).now < 0 + 86400000000 ∧
    bit (Blk.svc.rd (Blk.svc.wr live 0xAC 7) 0xAC) 0 = true ∧ unitState live 5 0 ≠ 1 ∧
    ([2, 4, 5, 8].all (fun n => bits (Blk.svc.rd (Blk.svc.wr live 0x40 n) 0x40) 0 4 = n)) = true ∧
    (live.bootEnv.getD {}).times.getD 2 0 ≤ 200000 ∧ 200000 < ([0, 0, 200001].getD 2 0) := by decide +kernel
/-- An image of one byte is staged from 0x1000. -/
def staging : State := Blk.svc.wr (Blk.svc.wr (Blk.svc.wr live 0xA8 1) 0xA0 1) 0x98 0x1000
/-- A command that changes a key, and one that scrubs, is in progress. -/
theorem witness_CommandsDone :
    ({ live with secCmd := some (3, 1, []) } : State).secCmd = some (3, 1, []) ∧ scrubs 3 = false ∧ scrubs 5 = true ∧
    ({} : ReadBack).bad = [] ∧ ({} : ReadBack).still = [] ∧ ({ still := [0] } : ReadBack).still ≠ [] ∧
    placeOf (Blk.svc.rd staging 0x98) = .hbm 0 := by decide +kernel
theorem witness_SecurityEvents :
    session vendor ≠ 0 ∧ vendor.sessionEnd ≤ vendor.now ∧
    spanStatus ({ live with quote := some [1] } : State) (Blk.sec.rd live 0x180) 1 0 true = stOk ∧
    bits (Blk.svc.rd staging 0xA8) 0 2 = 1 ∧ Blk.svc.rd staging 0xA0 = 1 ∧
    spanStatus staging (Blk.svc.rd staging 0x98) (Blk.svc.rd staging 0xA0) 0 false = stOk ∧
    (readLocal staging 0 (Blk.svc.rd staging 0x98) (Blk.svc.rd staging 0xA0)).1.isSome = true := by decide +kernel
theorem witness_SpareEvents :
    unitExists 2 0 = true ∧ unitState live 2 0 = 0 ∧ unitExists 3 0 = true ∧ unitState live 3 0 = 0 ∧
    unitExists 7 0 = true ∧ unitState live 7 0 = 0 ∧ unitState live 0 159 = 0 ∧ unitState (setUnit live 0 159 1) 0 159 = 1 ∧
    statusDue (Blk.spr.wr live 0x80 0) = true ∧ statusDue (Blk.spr.wr live 0x80 1) = false ∧ Blk.svc.rd (Blk.svc.wr live 0x1040 1) 0x1040 ≠ 0 ∧
    allDrained (Blk.svc.wr live 0x1040 1) = true := by decide +kernel
/-- The example of R344: W3 at DV_MAX 60 mV, with a drift of 45 mV at 20,000 h, and of 52.5 mV at 22,400 h. -/
theorem test_wear_forecast :
    wearValue live 90 = 192 ∧ forecastValue live 90 320000 = 6667 ∧ wearValue live 105 = 224 ∧
    forecastValue live 105 358400 = 3200 ∧ wearValue live 0 = 0 ∧ forecastValue live 0 320000 = 0xFFFFFFFF := by decide +kernel
/-- A tile's own drift: district W0 stands 40 mV over its boot value; the limiting tile has slack 2, another slack 6. -/
def aged : State :=
  { Blk.ktl.wr (Blk.cal.wr live 0x1060 750) 0x100 1600 with halfMv := [(0, 1580)], slack := [(0, 3), (1, 7)] }
theorem test_tile_drift : tileDrift aged 0 = 80 ∧ tileDrift aged 1 = 60 ∧ tileDrift aged 2 = 0 := by decide +kernel
/-- Locked to TPULSE; the last edge long ago. -/
def locked0 : State := { Blk.fab.wr (Blk.svc.wr live 0xD8 1) 0x804C 3 with now := 3000000 }
theorem witness_PackageEvents :
    bit (Blk.svc.rd live 0xD8) 0 = false ∧ bit (Blk.svc.rd locked0 0xD8) 0 = true ∧ 2 < Blk.fab.rd locked0 0x804C ∧
    Blk.fab.rd locked0 0x804C < 2 ^ 20 - 2 ∧ locked0.lastEdge + 2 * 2 ^ 20 + 2 < locked0.now ∧ live.held = false ∧ State.reset.held = true ∧
    ({ live with pwrgd := true } : State).pwrgd = true ∧ live.pwrgd = false ∧ 14 % 16 ≠ 15 ∧
    dbgPhase ((Blk.dbgT 159).wr live 0x74 1) 159 = 1 ∧ tileAtDrain ((Blk.dbgT 159).wr live 0x74 1) 159 = true := by decide +kernel

/-! ### Well-formedness: each check refuses an operand at its bound, and takes the one below -/

def rep0 : Reply := { status := 0, dst := 0, ctx := 0, seq := 0 }
def flit0 : Flit := { bytes := idleFlit }
/-- The command is ill-formed with the operand at the bound, and well-formed one below. -/
def edge (f : Nat → Instr) (bound : Nat) : Bool := !(f bound).wellFormed && (f (bound - 1)).wellFormed
theorem test_wellFormed_1 :
    (edge (fun v => .registerWrite v 0 0 0) 4096 &&
      edge (fun v => .registerWrite 0 v 0 0) 0x40000000 &&
      edge (fun v => .registerWrite 0 0 v 0) 9 &&
      edge (fun v => .softReset v 0 0) 4096 &&
      edge (fun v => .softReset 0 v 0) 0x40000000 &&
      edge (fun v => .enable v 0 0) 4096 &&
      edge (fun v => .enable 0 v 0) 0x40000000 &&
      edge (fun v => .drain v 0 0) 4096 &&
      edge (fun v => .drain 0 v 0) 0x40000000 &&
      edge (fun v => .lock v 0 0) 4096 &&
      edge (fun v => .lock 0 v 0) 0x40000000 &&
      edge (fun v => .segData v 0) 4096 &&
      edge (fun v => .tileOwner v 0 0) 4096 &&
      edge (fun v => .engOwner v 0 0) 4096 &&
      edge (fun v => .seqGo v 0 0) 4096 &&
      edge (fun v => .thrStart v 0 0) 4096 &&
      edge (fun v => .loaderLoad 0 (List.replicate v 0) []) 65 &&
      edge (fun v => .loaderUnload 0 (List.replicate v 0)) 65 &&
      edge (fun v => .bpmAllocRead v 0 0) 4096 &&
      edge (fun v => .allocSz v 0 0) 4096 &&
      edge (fun v => .bpmFreeWrite v 0 0) 4096 &&
      edge (fun v => .poolConfigWrite v 0 0 0 0) 4096 &&
      edge (fun v => .poolConfigWrite 0 0 v 0 0) 0x1000 &&
      edge (fun v => .poolConfigWrite 0 0 0 v 0) 9) = true := by decide +kernel
theorem test_wellFormed_2 :
    (edge (fun v => .xchHeaderArrive 0 0 v) 0x20000000000 &&
      edge (fun v => .xseqWrite v 0 0 0) 4096 &&
      edge (fun v => .embHeaderArrive 0 0 v) 16384 &&
      edge (fun v => .hotHeaderArrive 0 0 v) 16384 &&
      edge (fun v => .remoteLoad 0 { rq0 with op := v }) 0x100 &&
      edge (fun v => .remoteLoad 0 { rq0 with addr := v }) 0x400000000000000 &&
      edge (fun v => .remoteLoad 0 { rq0 with size := v }) 0x2000 &&
      edge (fun v => .remoteLoad 0 { rq0 with src := v }) 0x20000 &&
      edge (fun v => .remoteLoad 0 { rq0 with ctx := v }) 0x1000 &&
      edge (fun v => .remoteLoad 0 { rq0 with part := v }) 0x1000 &&
      edge (fun v => .remoteLoad 0 { rq0 with vc := v }) 8 &&
      edge (fun v => .remoteLoad 0 { rq0 with seq := v }) 0x10000 &&
      edge (fun v => .remoteLoad 0 { rq0 with issueTime := v }) 0x100000 &&
      edge (fun v => .remoteLoad 0 { rq0 with epoch := v }) 0x100000000 &&
      edge (fun v => .remoteLoad 0 { rq0 with cmp := v }) 0x10000000000000000 &&
      edge (fun v => .remoteLoad 0 { rq0 with data := List.replicate v 0 }) 4097 &&
      edge (fun v => .remoteStore 0 { rq0 with op := v }) 0x100 &&
      edge (fun v => .flaggedStore 0 { rq0 with op := v }) 0x100 &&
      edge (fun v => .flagAllRelease v) 4096 &&
      edge (fun v => .atomicAdd 0 { rq0 with op := v }) 0x100 &&
      edge (fun v => .atomicMin 0 { rq0 with op := v }) 0x100 &&
      edge (fun v => .atomicMax 0 { rq0 with op := v }) 0x100 &&
      edge (fun v => .atomicSwap 0 { rq0 with op := v }) 0x100 &&
      edge (fun v => .atomicCas 0 { rq0 with op := v }) 0x100) = true := by decide +kernel
theorem test_wellFormed_3 :
    (edge (fun v => .atomicAnd 0 { rq0 with op := v }) 0x100 &&
      edge (fun v => .atomicOr 0 { rq0 with op := v }) 0x100 &&
      edge (fun v => .atomicXor 0 { rq0 with op := v }) 0x100 &&
      edge (fun v => .replyArrive 0 { rep0 with status := v }) 16 &&
      edge (fun v => .replyArrive 0 { rep0 with dst := v }) 0x20000 &&
      edge (fun v => .replyArrive 0 { rep0 with ctx := v }) 0x1000 &&
      edge (fun v => .replyArrive 0 { rep0 with seq := v }) 0x10000 &&
      edge (fun v => .replyArrive 0 { rep0 with newOwner := v }) 0x20000 &&
      edge (fun v => .replyArrive 0 { rep0 with newBase := v }) 0x20000000000 &&
      edge (fun v => .replyArrive 0 { rep0 with newEpoch := v }) 0x100000000 &&
      edge (fun v => .replyArrive 0 { rep0 with data := List.replicate v 0 }) 4097 &&
      edge (fun v => .seqHoldRelease v) 4096 &&
      edge (fun v => .combWindowClose v) 4096 &&
      edge (fun v => .partEntryValidSet v 0 0) 4096 &&
      edge (fun v => .partitionTeardown v 0 0) 4096 &&
      edge (fun v => .migDrain v 0) 4096 &&
      edge (fun v => .migHandover v 0) 4096 &&
      edge (fun v => .migFree v 0) 4096 &&
      edge (fun v => .replayWindowWrite v 0) 4096 &&
      edge (fun v => .dataFlitReceive 0 { flit0 with bytes := List.replicate v 0 }) 257 &&
      !(Instr.dataFlitReceive 0 { flit0 with bytes := List.replicate 255 0 }).wellFormed &&
      edge (fun v => .dataFlitReceive 0 { flit0 with uncorr := v }) 3) = true := by decide +kernel
theorem test_wellFormed_4 :
    (edge (fun v => .controlFlitReceive 0 { flit0 with uncorr := v }) 3 &&
      edge (fun v => .controlFlitReceive 0 { flit0 with eyes := List.replicate v 0 }) 10 &&
      edge (fun v => .linkUp 0 false { eyes := List.replicate v 0 }) 10 &&
      edge (fun v => .linkIdent 0 0 v) 0x100000000 &&
      edge (fun v => .lnkRetrain v 0 0) 4096 &&
      edge (fun v => .lnkSpare v 0 0) 4096 &&
      edge (fun v => .lnkRetry v 0 0) 4096 &&
      edge (fun v => .lnkCfgWrite v 0 0) 4096 &&
      edge (fun v => .creditWrite v 0 0) 4096 &&
      edge (fun v => .rtDataWrite v 0) 4096 &&
      edge (fun v => .psetDataWrite v 0) 4096 &&
      edge (fun v => .weightsWrite v 0 0) 4096 &&
      edge (fun v => .hostBar0Access false v 0 0) 0x400000 &&
      edge (fun v => .hostBar0Access false 0 v 0) 9 &&
      edge (fun v => .hostBar2Read v 0 0) 0x10000000000000000 &&
      edge (fun v => .hostBar2Read 0 v 0) 4097 &&
      edge (fun v => .hostBar2Read 0 0 v) 1024 &&
      edge (fun v => .hostBar2Write v []) 0x10000000000000000 &&
      edge (fun v => .hostBar2Write 0 (List.replicate v 0)) 4097 &&
      edge (fun v => .hostBar2Atomic .swap v 0 0 0 0) 0x10000000000000000 &&
      edge (fun v => .hostBar2Atomic .swap 0 v 0 0 0) 4097 &&
      edge (fun v => .hostBar2Atomic .swap 0 0 0 0 v) 1024) = true := by decide +kernel
theorem test_wellFormed_5 :
    (edge (fun v => .pcieLinkChange false v 0 { ltssm := 0 }) 16 &&
      edge (fun v => .pcieLinkChange false 0 v { ltssm := 0 }) 32 &&
      edge (fun v => .pcieLinkChange false 0 0 { ltssm := v }) 16 &&
      edge (fun v => .pcieLinkChange false 0 0 { ltssm := 0, cfg := { maxPayload := v } }) 513 &&
      edge (fun v => .pcieLinkChange false 0 0 { ltssm := 0, cfg := { maxRead := v } }) 4097 &&
      !(Instr.pcieLinkChange false 0 0 { ltssm := 0, cfg := { maxPayload := 127 } }).wellFormed && !(Instr.pcieLinkChange false 0 0 { ltssm := 0, cfg := { maxRead := 127 } }).wellFormed &&
      edge (fun v => .colPieceArrive 0 0 v 0) 0x20000000000 &&
      edge (fun v => .colPieceArrive 0 0 0 v) 0x20000 &&
      edge (fun v => .colReady 0 0 v) 0x20000000000 &&
      edge (fun v => .colAck 0 0 v) 0x20000000000 &&
      edge (fun v => .colNak 0 0 v) 0x20000000000 &&
      edge (fun v => .colExclude 0 0 v) 0x20000000000 &&
      edge (fun v => .colRetarget 0 0 v) 0x20000000000 &&
      edge (fun v => .colRack 0 0 v) 0x20000000000 &&
      edge (fun v => .hbmIssue 0 0 [{ sender := .other, off := v, len := 1 }] {}) 0x40000000 &&
      edge (fun v => .hbmIssue 0 0 [{ sender := .other, off := 0, len := v }] {}) 33 &&
      edge (fun v => .hbmIssue 0 0 [{ sender := .other, off := 0, part := v }] {}) 0x1000 &&
      edge (fun v => .hbmIssue 0 0 [] { errs := [(v, 0)] }) 36 &&
      edge (fun v => .hbmIssue 0 0 [] { errs := [(0, v)] }) 256 &&
      edge (fun v => .hbmWriteTraining 0 0 v 0 0 0) 201 &&
      edge (fun v => .hbmPatrolRead 0 { t := 0, errs := [(v, 0)] }) 36 &&
      edge (fun v => .hbmPatrolRead 0 { t := 0, errs := [(0, v)] }) 256 &&
      edge (fun v => .tgcTestAccess 0 { t := 0, errs := [(v, 0)] }) 36 &&
      edge (fun v => .tgcTestAccess 0 { t := 0, errs := [(0, v)] }) 256 &&
      edge (fun v => .tgcModeOff v 0 0) 4096 &&
      edge (fun v => .tgcModeBringup v 0 0) 4096 &&
      edge (fun v => .tgcModeIdleFill v 0 0) 4096) = true := by decide +kernel
theorem test_wellFormed_6 :
    (edge (fun v => .tgcModePatrol v 0 0) 4096 &&
      edge (fun v => .hbmCmdLaneRepair v 0 0) 4096 &&
      edge (fun v => .hbmCmdRemapRow v 0 0) 4096 &&
      edge (fun v => .hbmCmdMarkErasure v 0 0) 4096 &&
      edge (fun v => .hbmCmdRetrain v 0 0) 4096 &&
      edge (fun v => .dtargetWrite v 0 0) 4096 &&
      edge (fun v => .voltTrimDown 0 v) 256 &&
      edge (fun v => .voltTrimUp 0 v) 256 &&
      edge (fun v => .mark v 0 0) 4096 &&
      edge (fun v => .resetCmd v 0) 4096 &&
      edge (fun v => .resetNRelease { stall := v }) 9 &&
      edge (fun v => .resetNRelease { times := List.replicate v 0 }) 9 &&
      edge (fun v => .resetNRelease { badTiles := [v] }) 160 &&
      edge (fun v => .resetNRelease { badSeqs := [v] }) 40960 &&
      edge (fun v => .resetNRelease { lostStacks := [v] }) 8 &&
      edge (fun v => .bootFabricJoin v 0) 4096 &&
      edge (fun v => .stageGo v 0) 4096 &&
      edge (fun v => .bootSlotWrite v 0) 4096 &&
      edge (fun v => .openSession v 0) 4096 &&
      edge (fun v => .installOwner v 0) 4096 &&
      edge (fun v => .transferOwner v 0) 4096 &&
      edge (fun v => .installOperator v 0) 4096 &&
      edge (fun v => .endLease v 0) 4096 &&
      edge (fun v => .reclaim v 0) 4096 &&
      edge (fun v => .sessionClose v 0) 4096) = true := by decide +kernel
theorem test_wellFormed_7 :
    (edge (fun v => .quoteGo v 0) 4096 &&
      edge (fun v => .wearCondemn v 0 0 false [] []) 8 &&
      edge (fun v => .wearCondemn 0 v 0 false [] []) 0x1000000 &&
      edge (fun v => .wearCondemn 0 0 v false [] []) 0x100000000 &&
      edge (fun v => .spareBringIn v 0 []) 8 &&
      edge (fun v => .spareBringIn 0 v []) 0x1000000 &&
      edge (fun v => .unitFail v { unit := 0 }) 8 &&
      edge (fun v => .unitFail 0 { unit := v }) 0x1000000 &&
      edge (fun v => .ccacheBankFail v) 17 &&
      edge (fun v => .sprReplace v 0) 4096 &&
      edge (fun v => .laneClear v 0) 4096 &&
      edge (fun v => .regrade v 0 0 []) 4096 &&
      edge (fun v => .snap v 0 0) 4096 &&
      edge (fun v => .snap 0 v 0) 0x40000000 &&
      edge (fun v => .haltReq v 0 0) 4096 &&
      edge (fun v => .resume v 0 0) 4096 &&
      edge (fun v => .dbgStep v 0 0) 4096 &&
      edge (fun v => .partHalt v 0) 4096 &&
      edge (fun v => .partResume v 0) 4096 &&
      edge (fun v => .regDataAccess v 0 false 0) 4096 &&
      edge (fun v => .tagDataWrite v 0 0) 4096 &&
      edge (fun v => .jtagDbgacc false v 0 0) 0x20000000000 &&
      edge (fun v => .jtagDbgacc false 0 v 0) 9) = true := by decide +kernel
theorem test_wellFormed_8 :
    (edge (fun v => .jtagBypass v false) 32 &&
      edge (fun v => .i3cRead32 { off := v }) 0x20000000000 &&
      edge (fun v => .i3cRead32 { off := 0, addr := some v }) 128 &&
      edge (fun v => .i3cWrite32 { off := v } 0) 0x20000000000 &&
      edge (fun v => .i3cRecovery { data := List.replicate v 0 }) 257 &&
      edge (fun v => .i3cRecovery { data := [], cmd := v }) 256 &&
      edge (fun v => .i3cRecovery { data := [], addr := some v }) 128 &&
      edge (fun v => .railFault { stat := v, long := true }) 16 &&
      edge (fun v => .resetNRelease { rails := v }) 16 &&
      edge (fun v => .resetNRelease { pufCells := v }) 65537 &&
      edge (fun v => .thermalThreshold v 0) 40 &&
      edge (fun v => .thermalThreshold 0 v) 256) = true := by decide +kernel

/-! ### Results that the spec works out itself -/

/-- The worked address of the second chapter: logical tile 75 of device 0x2A31. -/
theorem test_worked_address :
    devOf 0x54630025801234 = 0x2A31 ∧ placeOf (offOf 0x54630025801234) = .nm 75 0x1234 := by decide +kernel
/-- The page of MXA[17][1]. -/
theorem test_worked_page : regBase + (Blk.mxa 17 1).base = 0x18010118000 := by decide +kernel
/-- Table 7.9: the grants and first rows of experts 0, 2 and 5, C = 6. -/
theorem test_worked_admission :
    (admitRows 6 [(3, 0), (4, 0), (2, 0)]).1 = [(3, 0, 0), (3, 0, 3), (0, 0, 6)] ∧
    admitRows 6 [(3, 0), (2, 0), (4, 0)] = ([(3, 0, 0), (2, 0, 3), (1, 0, 5)], 6, 9) ∧
    (admitRows 6 [(0, 0), (0, 0), (0, 0)]).2 = (0, 0) := by decide +kernel
/-- Table 5.6: 102.4, −1.6 and 640 in E4M3. -/
theorem test_worked_e4m3 :
    e4m3.encode false 0 0 ((NumVal.fin false 1024 0).div (.fin false 10 0)) = { v := 0x6D } ∧
    e4m3.encode false 0 0 ((NumVal.fin true 16 0).div (.fin false 10 0)) = { v := 0xBD } ∧
    (e4m3.encode false 0 0 (.fin false 640 0)).beyond = true ∧ e4m3.decode 0x6D = .fin false 13 3 := by decide +kernel
/-- Table 5.6: OUT = 129 + 1 − 8 = 122, and AMAX 132 of an observed maximum of 20. -/
theorem test_worked_scale : scaleByte 129 1 8 = 122 ∧ boundExp [.fin false 20 0] = 132 := by decide +kernel
/-- The worked draw of R103: 1.0029296875 to BF16. -/
theorem test_worked_draw :
    (bf16.encode false 2 0xB12345 (.fin false 1027 (-10))).v = 0x3F81 ∧
    (bf16.encode false 2 0x123456 (.fin false 1027 (-10))).v = 0x3F80 := by decide +kernel
/-- The worked HBM offset (R288, R289). -/
theorem test_worked_hbm : pcOf 0x05323456789 % 64 = 6 ∧ pcoffOf 0x05323456789 = 0xC8D1589 := by decide +kernel
/-- The worked BAR2 window (R239). -/
theorem test_worked_window :
    window (Blk.hst.wr live (0x100 + 8 * 13) (2 ^ 63 + 0x1518C00)) 0x340001000 = some (13, 0x54630000001000, 0) := by decide +kernel
/-- Table 9.9: the error values of a failed load. -/
theorem test_error_values :
    leNat (errorBytes 1 4) = 0x7FC00E0D ∧ leNat (errorBytes 2 2) = 0x7FC1 ∧ leNat (errorBytes 4 1) = 0x7F ∧
      leNat (errorBytes 6 8) = 0x10000000000 ∧ leNat (errorBytes 0 2) = 0xFFFF := by decide +kernel

end Sys2Proof.Machine
end

/-! ### Little-endian byte lists (R5) -/

namespace Sys2Proof.Machine

@[simp] theorem leBytes_length (n v : Nat) : (leBytes n v).length = n := by
  induction n generalizing v with
  | zero => rfl
  | succ n ih => simp [leBytes, ih]

/-- Byte `i` of a number is its digit of weight 256^i. -/
theorem leBytes_getElem? {n i : Nat} (h : i < n) (v : Nat) : (leBytes n v)[i]? = some (BitVec.ofNat 8 (v / 256 ^ i)) := by
  induction n generalizing i v with
  | zero => omega
  | succ n ih =>
    cases i with
    | zero => simp [leBytes]
    | succ i =>
      have hdiv : v / 256 ^ (i + 1) = v / 256 / 256 ^ i := by rw [Nat.div_div_eq_div_mul, Nat.pow_succ']
      rw [leBytes, List.getElem?_cons_succ, ih (by omega), hdiv]

/-- Each step splits `v mod 256^(n+1)` into its lowest byte and 256 times the number of the others (`Nat.mod_mul`). -/
theorem leNat_leBytes (n v : Nat) : leNat (leBytes n v) = v % 256 ^ n := by
  induction n generalizing v with
  | zero => simp [leBytes, leNat, Nat.mod_one]
  | succ n ih =>
    have hsplit : v % 256 ^ (n + 1) = v % 256 + 256 * (v / 256 % 256 ^ n) := by rw [Nat.pow_succ', Nat.mod_mul]
    rw [leBytes, leNat, ih, BitVec.toNat_ofNat, hsplit]

/-- Bytes stored at a local offset read back there. -/
theorem readBytes_writeBytes {s : State} (h : s.Canon) (o : Nat) (bs : List Byte) :
    readBytes (writeBytes s o bs) o bs.length = bs := by
  rw [readBytes, writeBytes_mem, SMap.getMany_setMany h.mem]

/-- A number stored in `n` bytes reads back from them modulo 256^n. -/
theorem readNat_writeNat {s : State} (h : s.Canon) (o n v : Nat) : readNat (writeNat s o n v) o n = v % 256 ^ n := by
  have hread : readBytes (writeBytes s o (leBytes n v)) o n = leBytes n v := by
    simpa using readBytes_writeBytes h o (leBytes n v)
  rw [readNat, writeNat, hread, leNat_leBytes]

/-! ### Registers that only hold what is written (R7, R33) -/

/-- REGISTER_WRITE that the checks admit is the block's own write of the value. -/
theorem exec_registerWrite_of_admits {s : State} {p : Nat} {b : Blk} {o size : Nat} (h : Admits s p b o size true) (val : Word64) :
    exec (.registerWrite p (b.base + o) size val) s = .next (answered (writeAt s p b o size val.toNat) stOk []) :=
  congrArg _ (cmdWrite_of_admits h val.toNat)

/-- In a block that only holds, no RW register's write acts: the masked value is stored. -/
theorem writeOne_of_onlyHolds {b : Blk} (hb : b.onlyHolds = true) {r : RegDesc} (hr : r.acc = .rw) (s : State) (p o v : Nat) :
    writeOne s p b r o v = b.wr s o (v &&& r.mask) := by
  unfold writeOne
  rw [hr]
  cases b with
  | cal | log | seq | mxa | dqu | ptw | lay => rfl
  | _ => simp [Blk.onlyHolds] at hb

/-- A four-byte write of an RW register of such a block. -/
theorem writeAt_of_onlyHolds {b : Blk} {o : Nat} {r : RegDesc} {i : Nat} (hb : b.onlyHolds = true) (hat : RegAt b o r i)
    (hr : r.acc = .rw) (hs : r.size = 4) (s : State) (p v : Nat) :
    writeAt s p b o 4 v = b.wr s o (v % 2 ^ 32 &&& r.mask) := by
  rw [writeAt_four hat.found hs hat.above, writeOne_of_onlyHolds hb hr, ← hat.start]

theorem rd_answered (s : State) (st : Nat) (data : List Byte) (k : Nat) : rd (answered s st data) k = rd s k := rfl

theorem Blk.rd_answered (b : Blk) (s : State) (st : Nat) (data : List Byte) (o : Nat) : b.rd (answered s st data) o = b.rd s o := rfl

/-! ### The obligations -/

/-- Settles O9, by induction on the number of bytes; memory gives back the bytes stored. -/
theorem littleEndian : Obligations.LittleEndian :=
  ⟨fun _ v _ h => leBytes_getElem? h v, leNat_leBytes, fun _ o n v h => readNat_writeNat h o n v⟩

/-- Settles O15: the admitted write is one plain store of the masked value at the register's key. -/
theorem heldRegisterTakesMaskedValue : Obligations.HeldRegisterTakesMaskedValue := by
  intro s p b o r i val hc hb hat hr hs hadm
  have hval : (val.setWidth 64).toNat % 2 ^ 32 = val.toNat := by
    have := val.isLt
    rw [BitVec.toNat_setWidth]; omega
  have hfits : (val.toNat &&& r.mask) % 2 ^ 64 = val.toNat &&& r.mask := by
    have := val.isLt
    have := Nat.and_le_left (n := val.toNat) (m := r.mask)
    omega
  refine ⟨answered (b.wr s o (val.toNat &&& r.mask)) stOk [], ?_, ?_, ?_, rfl, rfl, rfl⟩
  · rw [exec_registerWrite_of_admits hadm, writeAt_of_onlyHolds hb hat hr hs, hval]
  · rw [Blk.rd_answered, Blk.rd_wr_same hc.regs, hfits]
  · intro k hk
    rw [rd_answered, Blk.wr, rd_wr_ne hc.regs _ hk]

end Sys2Proof.Machine

/-! ### The local map (R22) -/

namespace Sys2Proof.Machine

/-- Below 7 MiB an offset of a slot is the tile's, above it is unmapped. -/
theorem placeOf_slot {t i : Nat} (ht : t < 160) (hi : i < 0x800000) :
    placeOf (slotBase t + i) = if i < 0x700000 then .nm t i else .unmapped := by
  have hmod : (slotBase t + i - nmBase) % 0x800000 = i := by unfold slotBase; omega
  have hdiv : (slotBase t + i - nmBase) / 0x800000 = t := by unfold slotBase; omega
  have hnm : nmBase ≤ slotBase t + i ∧ slotBase t + i < 0x10050000000 := by unfold slotBase nmBase; omega
  unfold placeOf
  rw [if_neg (by have := hnm.1; unfold nmBase at this; omega), if_pos hnm]
  simp only [hmod, hdiv]

/-! ### What an error leaves unchanged (R35) -/

theorem Blk.setBit_regs_only (b : Blk) (s : State) (o i : Nat) : ∃ m, b.setBit s o i = { s with regs := m } := by
  unfold Blk.setBit
  dsimp only
  split
  · exact ⟨s.regs, rfl⟩
  · exact ⟨_, rfl⟩

theorem Blk.countErr_regs_only (b : Blk) (s : State) : ∃ m, b.countErr s = { s with regs := m } := by
  unfold Blk.countErr
  dsimp only
  split
  · obtain ⟨m, hm⟩ := b.setBit_regs_only (b.wr s 0x28 (min (b.rd s 0x28 + 1) 0xFFFFFFFF)) 0x18 2
    exact ⟨m, hm⟩
  · exact ⟨_, rfl⟩

/-- An error changes registers only. -/
theorem Blk.raise_regs_only (b : Blk) (s : State) (code part info : Nat) :
    ∃ m, b.raise s code part info = { s with regs := m } := by
  unfold Blk.raise
  dsimp only
  split
  · exact b.countErr_regs_only s
  · obtain ⟨m, hm⟩ := b.setBit_regs_only (b.wr (b.wr s 0x20 (code % 2 ^ 16 + part % 2 ^ 12 * 2 ^ 16)) 0x24 (info % 2 ^ 32)) 0x18 0
    rw [Blk.event, hm]
    obtain ⟨m', hm'⟩ := b.countErr_regs_only { s with regs := m }
    exact ⟨m', hm'⟩

section
variable {s : State} (h : SMap.wf resetVal s.regs = true) (b : Blk) {k : Nat}
include h

/-- A set bit leaves every register of the map but its own. -/
theorem rd_setBit_ne {o : Nat} (i : Nat) (hk : k ≠ b.base + o) : rd (b.setBit s o i) k = rd s k := by
  unfold Blk.setBit
  dsimp only
  split
  · rfl
  · exact rd_wr_ne h _ hk

theorem rd_countErr_ne (hevent : k ≠ b.base + 0x18) (hcount : k ≠ b.base + 0x28) : rd (b.countErr s) k = rd s k := by
  have hwr : ∀ v, rd (b.wr s 0x28 v) k = rd s k := fun v => rd_wr_ne h v hcount
  unfold Blk.countErr
  dsimp only
  split
  · rw [Blk.event, rd_setBit_ne (Blk.wf_wr h b _ _) b _ hevent, hwr]
  · exact hwr _

/-- An error leaves every register of the map, of whatever block, but the four of its block's header. -/
theorem rd_raise_ne (code part info : Nat) (hk : ∀ o ∈ [0x18, 0x20, 0x24, 0x28], k ≠ b.base + o) :
    rd (b.raise s code part info) k = rd s k := by
  simp only [List.mem_cons, List.not_mem_nil, or_false, forall_eq_or_imp, forall_eq] at hk
  obtain ⟨hevent, hinfo0, hinfo1, hcount⟩ := hk
  unfold Blk.raise
  dsimp only
  split
  · exact rd_countErr_ne h b hevent hcount
  · have hwf := Blk.wf_wr (Blk.wf_wr h b 0x20 (code % 2 ^ 16 + part % 2 ^ 12 * 2 ^ 16)) b 0x24 (info % 2 ^ 32)
    rw [rd_countErr_ne (Blk.wf_event hwf b 0) b hevent hcount, Blk.event, rd_setBit_ne hwf b 0 hevent,
      Blk.wr, rd_wr_ne (Blk.wf_wr h b _ _) _ hinfo1, Blk.wr, rd_wr_ne h _ hinfo0]
end

/-! ### Register writes that the checks refuse (R28, R29, R31) -/

theorem regCheck_unmapped {s : State} {p off size : Nat} {write : Bool} (hb : blkAt off = none) :
    regCheck s p off size write = (stUnmapped, secError s 2 p (regBase + off)) := by
  simp only [regCheck, regPlace, hb]

theorem regCheck_denied {s : State} {p off size : Nat} {write : Bool} {b : Blk} {pg : Nat} (hb : blkAt off = some (b, pg))
    (hg : granted s (b.privNow s pg) (b.owner s) p write = false) :
    regCheck s p off size write = (stAccessDenied, secError s 1 p (regBase + off)) := by
  simp [regCheck, regPlace, hb, hg]

theorem regCheck_misaligned {s : State} {p off size : Nat} {write : Bool} {b : Blk} {pg : Nat} (hb : blkAt off = some (b, pg))
    (hg : granted s (b.privNow s pg) (b.owner s) p write = true) (ha : (size ≠ 4 ∧ size ≠ 8) ∨ off % size ≠ 0) :
    regCheck s p off size write = (stMisaligned, b.raise s 3 p ((regBase + off) % 2 ^ 32)) := by
  simp only [regCheck, regPlace, hb, hg, Bool.not_true, Bool.false_eq_true, if_false]
  rw [if_pos ha]

/-- A refused REGISTER_WRITE answers the check's status, and what the check raised is all it does. -/
theorem exec_registerWrite_of_refused {s t : State} {p off size st : Nat} (val : Word64) (hs : serving s = true)
    (hc : regCheck s p off size true = (st, t)) (hst : st ≠ stOk) :
    exec (.registerWrite p off size val) s = .next (answered t st []) := by
  show Host.Outcome.next (cmdWrite s p off size val.toNat) = _
  simp only [cmdWrite, regWrite, hc, hs, hst, if_true, if_false]

/-! ### BLK_CTRL writes (R33, R34, Table 2.7) -/

/-- A replaced field stands between the bits below it and those above it. -/
theorem putBits_eq (v lo len x : Nat) :
    putBits v lo len x = 2 ^ lo * (2 ^ len * (v / 2 ^ lo / 2 ^ len) + x % 2 ^ len) + v % 2 ^ lo := by
  have hfield : v = v / 2 ^ lo % 2 ^ len * 2 ^ lo + (2 ^ lo * (2 ^ len * (v / 2 ^ lo / 2 ^ len)) + v % 2 ^ lo) := by
    calc v = 2 ^ lo * (2 ^ len * (v / 2 ^ lo / 2 ^ len) + v / 2 ^ lo % 2 ^ len) + v % 2 ^ lo := by
          rw [Nat.div_add_mod, Nat.div_add_mod]
      _ = v / 2 ^ lo % 2 ^ len * 2 ^ lo + (2 ^ lo * (2 ^ len * (v / 2 ^ lo / 2 ^ len)) + v % 2 ^ lo) := by
          rw [Nat.mul_add, Nat.mul_comm (2 ^ lo) (v / 2 ^ lo % 2 ^ len), Nat.add_comm (2 ^ lo * _), Nat.add_assoc]
  have hrest : v - v / 2 ^ lo % 2 ^ len * 2 ^ lo = 2 ^ lo * (2 ^ len * (v / 2 ^ lo / 2 ^ len)) + v % 2 ^ lo := by omega
  unfold putBits bits
  rw [hrest, Nat.mul_add, Nat.mul_comm (2 ^ lo) (x % 2 ^ len)]
  exact Nat.add_right_comm _ _ _

/-- A field replaced within `n` bits leaves a number of `n` bits. -/
theorem putBits_lt {v n lo len : Nat} (x : Nat) (hv : v < 2 ^ n) (hlen : lo + len ≤ n) : putBits v lo len x < 2 ^ n := by
  obtain ⟨k, rfl⟩ := Nat.exists_eq_add_of_le hlen
  have hlow : v % 2 ^ lo < 2 ^ lo := Nat.mod_lt v (Nat.two_pow_pos lo)
  have hfield : x % 2 ^ len < 2 ^ len := Nat.mod_lt x (Nat.two_pow_pos len)
  have hhigh : v / 2 ^ lo / 2 ^ len < 2 ^ k := by
    rw [Nat.div_div_eq_div_mul, ← Nat.pow_add]
    exact Nat.div_lt_of_lt_mul (by rwa [← Nat.pow_add])
  rw [putBits_eq]
  calc 2 ^ lo * (2 ^ len * (v / 2 ^ lo / 2 ^ len) + x % 2 ^ len) + v % 2 ^ lo
      < 2 ^ lo * (2 ^ len * (v / 2 ^ lo / 2 ^ len) + x % 2 ^ len + 1) := by rw [Nat.mul_succ]; omega
    _ ≤ 2 ^ lo * (2 ^ len * (v / 2 ^ lo / 2 ^ len + 1)) := Nat.mul_le_mul_left _ (by rw [Nat.mul_succ]; omega)
    _ ≤ 2 ^ lo * (2 ^ len * 2 ^ k) := Nat.mul_le_mul_left _ (Nat.mul_le_mul_left _ hhigh)
    _ = 2 ^ (lo + len + k) := by rw [Nat.pow_add, Nat.pow_add, Nat.mul_assoc]

/-- BLK_CTRL of the page that holds it is at the offset itself. -/
theorem ctrlOf_ctrl (b : Blk) (pg : Nat) : ctrlOf (b.base + (0x1000 * pg + 0x10)) = b.base + (0x1000 * pg + 0x10) := by
  have := b.base_page
  unfold ctrlOf
  omega

/-- An admitted BLK_CTRL write of a 32-bit value is the block's own. -/
theorem cmdWrite_ctrl {s : State} {p : Nat} {b : Blk} {pg v : Nat} (h : Admits s p b (0x1000 * pg + 0x10) 4 true) (hv : v < 2 ^ 32) :
    cmdWrite s p (ctrlOf (b.base + (0x1000 * pg + 0x10))) 4 v = answered (ctrlWrite s b p v) stOk [] := by
  rw [ctrlOf_ctrl, cmdWrite_of_admits h, writeAt_ctrl, Nat.mod_eq_of_lt hv]

section
variable {s : State} {p : Nat} {b : Blk} {pg : Nat} (h : Admits s p b (0x1000 * pg + 0x10) 4 true) (val : Word32)
include h

theorem exec_softReset_of_admits :
    exec (.softReset p (b.base + (0x1000 * pg + 0x10)) val) s = .next (answered (ctrlWrite s b p (putBits val.toNat 1 1 1)) stOk []) :=
  congrArg _ (cmdWrite_ctrl h (putBits_lt 1 val.isLt (by decide)))

theorem exec_enable_of_admits :
    exec (.enable p (b.base + (0x1000 * pg + 0x10)) val) s =
      .next (answered (ctrlWrite s b p (putBits (putBits val.toNat 1 1 0) 0 1 1)) stOk []) :=
  congrArg _ (cmdWrite_ctrl h (putBits_lt 1 (putBits_lt 0 val.isLt (by decide)) (by decide)))

theorem exec_drain_of_admits :
    exec (.drain p (b.base + (0x1000 * pg + 0x10)) val) s = .next (answered (ctrlWrite s b p (putBits val.toNat 1 1 0)) stOk []) :=
  congrArg _ (cmdWrite_ctrl h (putBits_lt 0 val.isLt (by decide)))

theorem exec_lock_of_admits :
    exec (.lock p (b.base + (0x1000 * pg + 0x10)) val) s =
      .next (answered (ctrlWrite s b p (putBits (putBits val.toNat 1 1 0) 31 1 1)) stOk []) :=
  congrArg _ (cmdWrite_ctrl h (putBits_lt 1 (putBits_lt 0 val.isLt (by decide)) (by decide)))
end

/-! ### SOFT_RESET (R34) -/

/-- The work that a soft reset abandons: the TABLE_ID it raises ABORTED with, if any, and the state without that work. -/
def abandonWork (s : State) (b : Blk) : Option Nat × State :=
  match b with
  | .seq q => abandon s q
  | _ => match b.driver with
    | some q => abandonTable s q
    | none => (if b.moving s then some 0 else none, s)

/-- The state a soft reset leaves but for its BLK_CTRL write and ABORTED. -/
def beforeCtrlReset (s : State) (b : Blk) : State := clearEngine (resetRegs (abandonWork s b).2 b) b

/-- A soft reset up to the capture of ABORTED: the events are cleared, and of BLK_CTRL only LOCK stays. -/
def ctrlReset (s : State) (b : Blk) : State :=
  b.wr (b.wr (b.wr (beforeCtrlReset s b) 0x18 0) 0x1C 0) 0x10 (if b.locked (beforeCtrlReset s b) then 2 ^ 31 else 0)

theorem softReset_eq (s : State) (b : Blk) (p : Nat) :
    softReset s b p = (abandonWork s b).1.elim (ctrlReset s b) (b.raise (ctrlReset s b) 0x0006 p) := by
  show (match (abandonWork s b).1 with | some tid => b.raise (ctrlReset s b) 0x0006 p tid | none => ctrlReset s b) = _
  cases (abandonWork s b).1 <;> rfl

theorem abandonWork_kept {pq : List Instr} {s : State} (hs : s.Kept pq) (b : Blk) : (abandonWork s b).2.Kept pq := by
  unfold abandonWork
  split
  · exact abandon_kept hs
  · split
    · exact abandonTable_kept hs
    · exact hs

theorem beforeCtrlReset_kept {pq : List Instr} {s : State} (hs : s.Kept pq) (b : Blk) : (beforeCtrlReset s b).Kept pq :=
  clearEngine_kept (resetRegs_kept (abandonWork_kept hs b))

/-- After a soft reset BLK_CTRL holds at most LOCK. -/
theorem rd_softReset_ctrl {s : State} (hs : s.Canon) (b : Blk) (p : Nat) :
    b.rd (softReset s b p) 0x10 = if b.locked (beforeCtrlReset s b) then 2 ^ 31 else 0 := by
  have hcleared := Blk.wf_wr (Blk.wf_wr (beforeCtrlReset_kept hs.kept b).regs b 0x18 0) b 0x1C 0
  have hctrl : b.rd (ctrlReset s b) 0x10 = if b.locked (beforeCtrlReset s b) then 2 ^ 31 else 0 := by
    rw [ctrlReset, Blk.rd_wr_same hcleared]
    split <;> rfl
  rw [softReset_eq]
  cases (abandonWork s b).1 with
  | none => exact hctrl
  | some tid => exact (Blk.rd_raise_ne (Blk.wf_wr hcleared b _ _) b _ _ _ (by decide)).trans hctrl

theorem softReset_disables {s : State} (hs : s.Canon) (b : Blk) (p : Nat) :
    b.enabled (softReset s b p) = false ∧ b.draining (softReset s b p) = false := by
  unfold Blk.enabled Blk.draining
  rw [rd_softReset_ctrl hs]
  split <;> decide

theorem bit_putBits_softReset (v : Nat) : bit (putBits v 1 1 1) 1 = true := by
  simp only [bit, putBits, bits, beq_iff_eq]
  omega

/-- A BLK_CTRL write with SOFT_RESET set is a soft reset, once the block's LOCK bit is stored (Table 2.7). -/
theorem blkCtrlWrite_softReset {s : State} {b : Blk} {v : Nat} (p : Nat) (hf : b.faulted s = false) (hv : bit v 1 = true) :
    blkCtrlWrite s b p v = softReset (b.wr s 0x10 (if bit v 31 ∨ b.locked s then 2 ^ 31 else 0)) b p := by
  simp [blkCtrlWrite, hf, hv]

theorem blkCtrlWrite_faulted {s : State} {b : Blk} (p v : Nat) (hf : b.faulted s = true) : blkCtrlWrite s b p v = s := by
  simp [blkCtrlWrite, hf]

/-! ### The enable of a link port (R228) -/

theorem linkEnable_same (s : State) (n : Fin 32) : linkEnable s n ((Blk.lnk n).enabled s) = s := by
  cases h : (Blk.lnk n).enabled s <;> simp [linkEnable, h]

theorem rd_showLink_ctrl {s : State} (h : SMap.wf resetVal s.regs = true) (n : Fin 32) (st : Nat) :
    (Blk.lnk n).rd (showLink s n st) 0x10 = (Blk.lnk n).rd s 0x10 := Blk.rd_wr_ne h _ _ (by decide)

theorem rd_startTraining_ctrl {s : State} (h : SMap.wf resetVal s.regs = true) (n : Fin 32) :
    (Blk.lnk n).rd (startTraining s n) 0x10 = (Blk.lnk n).rd s 0x10 := by
  unfold startTraining
  split
  · rfl
  · exact rd_showLink_ctrl (by exact h) n 1

theorem rd_goDown_ctrl {s : State} (h : SMap.wf resetVal s.regs = true) (n : Fin 32) (lost : Bool) :
    (Blk.lnk n).rd (goDown s n lost) 0x10 = (Blk.lnk n).rd s 0x10 :=
  (Blk.rd_event_ne (Blk.wf_wr (by exact h) _ _ _) _ 17 (by decide)).trans (rd_showLink_ctrl (by exact h) n 0)

/-- What a changed enable starts or ends at a port leaves BLK_CTRL. -/
theorem rd_linkEnable_ctrl {s : State} (h : SMap.wf resetVal s.regs = true) (n : Fin 32) (was : Bool) :
    (Blk.lnk n).rd (linkEnable s n was) 0x10 = (Blk.lnk n).rd s 0x10 := by
  unfold linkEnable
  dsimp only
  split
  · exact rd_startTraining_ctrl h n
  · split
    · exact rd_goDown_ctrl h n false
    · rfl

/-- BLK_CTRL after its write, in a link port too. -/
theorem rd_ctrlWrite_ctrl {s : State} (hs : s.Canon) (b : Blk) (p v : Nat) :
    b.rd (ctrlWrite s b p v) 0x10 = b.rd (blkCtrlWrite s b p v) 0x10 := by
  cases b with
  | lnk n => exact rd_linkEnable_ctrl (blkCtrlWrite_kept hs.kept).regs n _
  | _ => rfl

theorem ctrlWrite_faulted {s : State} {b : Blk} (p v : Nat) (hf : b.faulted s = true) : ctrlWrite s b p v = s := by
  unfold ctrlWrite
  rw [blkCtrlWrite_faulted p v hf]
  cases b with
  | lnk n => exact linkEnable_same s n
  | _ => rfl

/-- A BLK_CTRL write with SOFT_RESET set leaves the block neither enabled nor draining. -/
theorem ctrlWrite_softReset_disables {s : State} (hs : s.Canon) {b : Blk} {v : Nat} (p : Nat) (hf : b.faulted s = false)
    (hv : bit v 1 = true) : b.enabled (ctrlWrite s b p v) = false ∧ b.draining (ctrlWrite s b p v) = false := by
  unfold Blk.enabled Blk.draining
  rw [rd_ctrlWrite_ctrl hs, blkCtrlWrite_softReset p hf hv]
  exact softReset_disables (Blk_wr_kept hs.kept).canon b p

/-! ### Allotment (R23, R24) -/

/-- A command that writes a 32-bit value to a four-byte register does what the register's write does, and answers OK. -/
theorem cmdWr_word {s t : State} {p : Nat} {b : Blk} {o : Nat} {r : RegDesc} {i : Nat} {val : Word32} (h : Admits s p b o 4 true)
    (hf : b.find o = some (r, i)) (hs : r.size = 4) (ho : 0x40 ≤ o % 0x1000)
    (hw : writeOne s p b r (r.off + i * r.stride) val.toNat = t) :
    cmdWr s b p o val.toNat = .next (answered t stOk []) := by
  rw [cmdWr_four h hf hs ho, Nat.mod_eq_of_lt val.isLt, hw]

theorem segDataWrite_eq {s : State} {n : Nat} (p v : Nat) (hn : n = bits (Blk.svc.rd s 0x3A00) 0 11)
    (hauto : bit (Blk.svc.rd s 0x3A00) 16 = false) (hres : reservedSeg n = false) :
    segDataWrite s p v = if allotBusy s (segOwner s n) (v % 4096) then Blk.svc.raise s 0x0103 p n
      else { s with segOwner := SMap.set d0 s.segOwner n (v % 4096) } := by
  subst hn
  simp only [segDataWrite, svc, hauto, hres, Bool.false_eq_true, if_false]
  rfl

theorem tileOwnerWrite_eq {s : State} {t : Nat} (p v : Nat) (ht : t < logicalTiles s) :
    tileOwnerWrite s p t v = if allotBusy s (tileOwner s t) (v % 4096) then Blk.svc.raise s 0x0103 p t
      else Blk.svc.wr s (0x3A40 + 4 * t) (v % 4096) := by
  unfold tileOwnerWrite
  rw [if_neg (by omega)]
  rfl

/-! ### Stores and atomics to the Roast Log (R25, R213) -/

theorem secError_regs_only (s : State) (code p o : Nat) : ∃ m, secError s code p o = { s with regs := m } :=
  Blk.raise_regs_only _ s code p _

/-- A packet that enters the router joins those it holds; only counters may change beside. -/
theorem enterRouter_regs_only (s : State) (k : Packet) : ∃ m, enterRouter s k = { s with toRoute := s.toRoute ++ [k], regs := m } := by
  unfold enterRouter
  cases k with
  | _ =>
    dsimp only
    split
    · exact ⟨_, rfl⟩
    · exact ⟨s.regs, rfl⟩

/-- An access error of SEC leaves SELF_ID. -/
theorem selfId_secError {s : State} (hs : s.Canon) (code p o : Nat) : selfId (secError s code p o) = selfId s := by
  have hkey : ∀ e ∈ [0x18, 0x20, 0x24, 0x28], Blk.fab.base + 0x40 ≠ Blk.sec.base + e := by decide
  unfold selfId Blk.rd secError
  rw [show sec = Blk.sec from rfl, rd_raise_ne hs.regs .sec _ _ _ hkey]

theorem checkPart_of_valid {s : State} {r : Request} (h : partValid s r.part = true) : checkPart s r = (stOk, s) := by
  simp [checkPart, h]

/-- A store, flagged store or atomic of a hosted partition comes from another device to byte `o` of the Roast Log window, and is
no filter entry of a migration. -/
structure LogWrite (s : State) (r : Request) (o : Nat) : Prop where
  canon : s.Canon
  serves : serving s = true
  here : devOf r.addr = selfId s
  place : placeOf (offOf r.addr) = .log o
  noLoad : reqLoad r = false
  noTransfer : isTransfer r = false
  hosted : partValid s r.part = true
  foreign : r.src ≠ selfId s

/-- The denial of such a request: SEC has recorded it, and its reply has entered the router. -/
def logDenied (s : State) (r : Request) : State :=
  enterRouter (secError (takeArrived s r) 1 r.part (offOf r.addr)) (.rep (replyTo r stAccessDenied) r.part 0 32)

theorem logDenied_flash_mem (s : State) (r : Request) : (logDenied s r).flash = s.flash ∧ (logDenied s r).mem = s.mem := by
  obtain ⟨m, hrouter⟩ := enterRouter_regs_only (secError (takeArrived s r) 1 r.part (offOf r.addr))
    (.rep (replyTo r stAccessDenied) r.part 0 32)
  obtain ⟨m', hsec⟩ := secError_regs_only (takeArrived s r) 1 r.part (offOf r.addr)
  rw [logDenied, hrouter, hsec]
  exact ⟨rfl, rfl⟩

theorem checkPlace_logWrite (s : State) {r : Request} {o : Nat} (hplace : placeOf (offOf r.addr) = .log o) (hload : reqLoad r = false) :
    checkPlace s r = (stAccessDenied, secError s 1 r.part (offOf r.addr)) := by
  simp [checkPlace, hplace, hload, stAccessDenied, stOk, stUnmapped]

section
variable {s : State} {r : Request} {o : Nat} (h : LogWrite s r o)
include h

/-- The second check of R213 denies the access. -/
theorem LogWrite.checked_eq :
    checked (takeArrived s r) r = (some (replyTo r stAccessDenied), secError (takeArrived s r) 1 r.part (offOf r.addr)) := by
  have hpart : checkPart (takeArrived s r) r = (stOk, takeArrived s r) := checkPart_of_valid h.hosted
  simp [checked, hpart, checkPlace_logWrite _ h.place h.noLoad, h.noLoad, stAccessDenied, stOk]

theorem LogWrite.serve_eq :
    serve (takeArrived s r) r = (replyTo r stAccessDenied, secError (takeArrived s r) 1 r.part (offOf r.addr)) := by
  simp [serve, h.noTransfer, h.checked_eq]

/-- The reply goes to another device, and by port 32, since the window lies on no die. -/
theorem LogWrite.sendReply_eq :
    sendReply (secError (takeArrived s r) 1 r.part (offOf r.addr)) r (replyTo r stAccessDenied) = logDenied s r := by
  have hself : selfId (secError (takeArrived s r) 1 r.part (offOf r.addr)) = selfId s :=
    selfId_secError (takeArrived_kept h.canon.kept).canon 1 r.part _
  simp [sendReply, logDenied, hself, h.foreign, dieOfOffset, h.place]

theorem LogWrite.arrive_eq {isRow : Bool} (hrow : isRow = true) : arrive s r isRow = logDenied s r := by
  unfold arrive
  rw [if_pos ⟨hrow, h.serves, h.here⟩, h.serve_eq]
  exact h.sendReply_eq

/-- A flagged store is denied at once, whatever of its flow it would wait for: the checks come before the hold (R198, R213). -/
theorem LogWrite.execFlaggedStore_eq (port : Fin 34) (hflag : reqFlag r = true) :
    execFlaggedStore port r s = .next (logDenied s r) := by
  unfold execFlaggedStore
  split
  · rw [h.checked_eq]
    exact congrArg _ h.sendReply_eq
  · rw [h.arrive_eq hflag]
end

/-! ### The obligations -/

/-- Settles O10: both halves are the place of a slot's byte. -/
theorem nearMemorySlots : Obligations.NearMemorySlots := by
  intro t i ht
  refine ⟨fun hi => ?_, fun hlo hhi => ?_⟩
  · rw [placeOf_slot ht (by omega), if_pos (by omega)]
  · rw [placeOf_slot ht (by omega), if_neg (by omega)]

/-- Settles O11: of 80d + 8r + c the quotient by 80 is d, and by 8 of the remainder r. -/
theorem districtNumbers : Obligations.DistrictNumbers := by
  intro d r c hd hr hc
  have hdie : (80 * d + 8 * r + c) / 80 = d := by omega
  have hrow : (80 * d + 8 * r + c) % 80 / 8 = r := by omega
  refine ⟨by omega, ?_⟩
  rw [districtOfPhys, hdie, hrow]
  omega

/-- Settles O13: the admitted write of `exec_registerWrite_of_admits`, for every register. -/
theorem registerWriteActs : Obligations.RegisterWriteActs :=
  fun _ _ _ _ _ val h => exec_registerWrite_of_admits h val

/-- Settles O14: each refusal is one outcome of the checks. -/
theorem refusedRegisterWrites : Obligations.RefusedRegisterWrites := by
  intro s p off size val hs
  refine ⟨fun hb => ?_, fun b pg hb => ⟨fun hg => ?_, fun hg ha => ?_⟩⟩
  · exact exec_registerWrite_of_refused val hs (regCheck_unmapped hb) (by decide)
  · exact exec_registerWrite_of_refused val hs (regCheck_denied hb hg) (by decide)
  · exact exec_registerWrite_of_refused val hs (regCheck_misaligned hb hg ha) (by decide)

/-- Settles O16: each row is one write of the block's BLK_CTRL. -/
theorem blockControlWrites : Obligations.BlockControlWrites := fun _ _ _ _ val h =>
  ⟨exec_softReset_of_admits h val, exec_enable_of_admits h val, exec_drain_of_admits h val, exec_lock_of_admits h val⟩

/-- Settles O17: the last write of a soft reset leaves of BLK_CTRL only LOCK, and neither ABORTED nor a link port going DOWN
changes it. -/
theorem softResetLeavesDisabled : Obligations.SoftResetLeavesDisabled := by
  intro s p b pg val hc hadm
  rw [exec_softReset_of_admits hadm]
  refine ⟨fun hf => ⟨_, rfl, ?_⟩, fun hf => ?_⟩
  · exact ctrlWrite_softReset_disables hc p hf (bit_putBits_softReset val.toNat)
  · rw [ctrlWrite_faulted p _ hf]

/-- Settles O18: each of the three is one register's write. -/
theorem allotmentWrites : Obligations.AllotmentWrites := by
  intro s p val
  refine ⟨fun hadm n hn hauto hres => ?_, fun t hadm ht => ?_, fun i hadm => ?_⟩
  · exact cmdWr_word hadm find_segData rfl (by decide) (segDataWrite_eq p _ hn hauto hres)
  · exact cmdWr_word hadm (find_tileOwner t) rfl (by omega)
      ((writeOne_tileOwner s p _ _ t.isLt).trans (tileOwnerWrite_eq p _ ht))
  · exact cmdWr_word hadm (find_engOwner i) rfl (by omega) (writeOne_engOwner s p _ _)

/-- Settles O45: the second check of R213 denies the access before anything is performed. -/
theorem roastLogIsReadOnly : Obligations.RoastLogIsReadOnly := by
  intro port s r o hc hs hhere hplace hload htransfer hpart hsrc t ht
  subst ht
  have hwrite : LogWrite s r o := ⟨hc, hs, hhere, hplace, hload, htransfer, hpart, hsrc⟩
  have hatomic : ∀ k, r.op % 16 = k → (.next (arrive s r (reqKind r = k)) : Out) = .next (logDenied s r) :=
    fun k hk => congrArg _ (hwrite.arrive_eq (decide_eq_true hk))
  refine ⟨fun hop => ?_, fun hop => ?_, hatomic 1, hatomic 2, hatomic 3, hatomic 4, hatomic 5, hatomic 6, hatomic 7, hatomic 8,
    logDenied_flash_mem s r⟩
  · exact congrArg _ (hwrite.arrive_eq (by simp [hload, reqFlag, reqKind, hop, bits]))
  · exact hwrite.execFlaggedStore_eq port (by simp [reqFlag, hop, bits])

end Sys2Proof.Machine

/-! ### One iteration of an engine's operation (R48) -/

namespace Sys2Proof.Machine

section
variable {s : State} {q : SeqId} {sel : Step → Prop} {op : Nat} {body : State → Step → IterResult}

/-- After an iteration that ran comes the next one or the step's end. -/
theorem runIter_ran (h : Iterating s q sel) (hop : (curStep (getSeq s q)).op = op) {s1 : State} {dAddr : Nat}
    (hbody : body s (curStep (getSeq s q)) = .ran s1 dAddr) :
    runIter q op body s = afterIter (modSeq s1 q (fun x => { x with rbuf := [], rfail := false })) q (lateBound q op) dAddr := by
  unfold runIter
  rw [if_pos ⟨h.running, h.noEmits, hop⟩, hbody]

/-- An iteration that cannot run yet leaves the state its body left. -/
theorem runIter_hold (h : Iterating s q sel) (hop : (curStep (getSeq s q)).op = op) {s1 : State}
    (hbody : body s (curStep (getSeq s q)) = .hold s1) : runIter q op body s = s1 := by
  unfold runIter
  rw [if_pos ⟨h.running, h.noEmits, hop⟩, hbody]
end

section
variable {c : Instr} {q : SeqId} {sel : Step → Prop} {op : Nat} {body : State → Step → IterResult}

/-- A command that does what `runIter` does, on the steps whose OP is the operation's, runs one iteration. -/
theorem RunsIteration.of_runIter (hop : ∀ st, sel st → st.op = op)
    (hexec : ∀ s, sel (curStep (getSeq s q)) → exec c s = .next (runIter q op body s)) : RunsIteration c q sel body := by
  intro s h
  have hop := hop _ h.step
  rw [hexec s h.step, hop]
  exact ⟨fun s1 dAddr hbody => by rw [runIter_ran h hop hbody], fun s1 hbody => by rw [runIter_hold h hop hbody]⟩

/-- A command that is `runIter` of its operation. -/
theorem RunsIteration.of_op (hexec : ∀ s, exec c s = .next (runIter q op body s)) :
    RunsIteration c q (fun st => st.op = op) body :=
  .of_runIter (fun _ h => h) (fun s _ => hexec s)
end

/-! ### The exchange engine's directions (R162) -/

section
variable {c : Instr} {d j : Fin 2} {op : Nat} {main : Bool} {body : XchRec → State → Step → IterResult}

/-- An operation that runs in both directions. -/
theorem RunsIteration.of_xch (hexec : ∀ s, exec c s = runXch d j op none main body s) :
    RunsIteration c (xchQ d j) (fun st => st.op = op) (xchUnder d j main body) :=
  .of_op fun s => by rw [hexec, runXch, if_neg (by simp)]

/-- An operation of one direction, which MODE[0] of the step tells. -/
theorem RunsIteration.of_xch_dir {bwd : Bool} (hexec : ∀ s, exec c s = runXch d j op (some bwd) main body s) :
    RunsIteration c (xchQ d j) (fun st => st.op = op ∧ bit st.mode 0 = bwd) (xchUnder d j main body) :=
  .of_runIter (fun _ h => h.1) fun s h => by rw [hexec, runXch, if_neg (by simp [h.2])]
end

/-! ### The obligations on iterations -/

/-- Settles O34: each row of an array is `runIter` of its OP; a PASS's verdict shares the PASS's. -/
theorem matrixIterations : Obligations.MatrixIterations := fun _ _ =>
  ⟨.of_op fun _ => rfl, .of_op fun _ => rfl, .of_op fun _ => rfl, .of_op fun _ => rfl⟩

/-- Settles O35: each Tamper operation is `runIter` of its OP. -/
theorem tamperIterations : Obligations.TamperIterations := fun _ =>
  ⟨.of_op fun _ => rfl, .of_op fun _ => rfl, .of_op fun _ => rfl, .of_op fun _ => rfl, .of_op fun _ => rfl, .of_op fun _ => rfl,
    .of_op fun _ => rfl, .of_op fun _ => rfl, .of_op fun _ => rfl, .of_op fun _ => rfl, .of_op fun _ => rfl, .of_op fun _ => rfl⟩

/-- Settles O36: each Pointwise operation is `runIter` of its OP. -/
theorem pointwiseIterations : Obligations.PointwiseIterations := fun _ =>
  ⟨.of_op fun _ => rfl, .of_op fun _ => rfl, .of_op fun _ => rfl, .of_op fun _ => rfl, .of_op fun _ => rfl, .of_op fun _ => rfl,
    .of_op fun _ => rfl, .of_op fun _ => rfl, .of_op fun _ => rfl, .of_op fun _ => rfl, .of_op fun _ => rfl⟩

/-- Settles O37: the routing rows are `runIter` of their OP, and so is an exchange row once MODE[0] is its direction. -/
theorem routingAndExchangeIterations : Obligations.RoutingAndExchangeIterations := fun _ _ =>
  ⟨.of_op fun _ => rfl, .of_op fun _ => rfl, .of_op fun _ => rfl, .of_xch fun _ => rfl, .of_xch fun _ => rfl, .of_xch fun _ => rfl,
    .of_xch_dir fun _ => rfl, .of_xch_dir fun _ => rfl, .of_xch fun _ => rfl, .of_xch_dir fun _ => rfl, .of_xch_dir fun _ => rfl,
    .of_xch_dir fun _ => rfl, .of_xch_dir fun _ => rfl, .of_xch fun _ => rfl, .of_xch fun _ => rfl⟩

/-- Settles O38: each embedding operation and phase, and SORT, is `runIter` of its OP. -/
theorem embeddingIterations : Obligations.EmbeddingIterations := fun _ _ =>
  ⟨.of_op fun _ => rfl, .of_op fun _ => rfl, .of_op fun _ => rfl, .of_op fun _ => rfl, .of_op fun _ => rfl, .of_op fun _ => rfl,
    .of_op fun _ => rfl, .of_op fun _ => rfl, .of_op fun _ => rfl, .of_op fun _ => rfl, .of_op fun _ => rfl, .of_op fun _ => rfl,
    .of_op fun _ => rfl⟩

/-- Settles O39: each row of these engines is `runIter` of its OP. -/
theorem collectiveAndOptimiserIterations : Obligations.CollectiveAndOptimiserIterations := fun _ _ =>
  ⟨.of_op fun _ => rfl, .of_op fun _ => rfl, .of_op fun _ => rfl, .of_op fun _ => rfl, .of_op fun _ => rfl, .of_op fun _ => rfl,
    .of_op fun _ => rfl, .of_op fun _ => rfl, .of_op fun _ => rfl, .of_op fun _ => rfl⟩

end Sys2Proof.Machine

/-! ### Issue of a thread's instruction (R56) -/

namespace Sys2Proof.Machine

section
variable {s : State} {t : Fin 160} {n len : Nat} {op : RvOp}

/-- The instruction that issues is performed by the command of its row. -/
theorem issueThread_of_issues (h : Issues s t n op len) :
    issueThread op.row t s = perform (issued s t n) t n (getThread s t n).pc len op := by
  obtain ⟨w, hfetch, hop⟩ := h.fetched
  unfold issueThread
  simp only [h.next, hfetch, hop, h.noBreak, Bool.false_eq_true, false_and, if_false, if_true]

/-- A fetch that fails faults its thread in the plain row. -/
theorem exec_tccInstruction_of_fetch_none (hnext : nextThread s t = some n) (hfetch : fetchInstr s t (getThread s t n).pc = none) :
    exec (.tccInstruction t) s = .next (threadFault (issued s t n) t n (fetchCause s t (getThread s t n).pc)) := by
  show Host.Outcome.next (issueThread .plain t s) = _
  unfold issueThread
  simp only [hnext, hfetch, if_true]
end

/-! ### WAITA and EBREAK as they issue (R57, R362) -/

section
variable {s : State} {t : Fin 160} {n : Nat}

theorem waitaIssue_malformed {a : Nat} {wide : Bool} (rd ref cond : Nat) (h : addrOk a = false ∨ a % waitaBytes wide ≠ 0) :
    waitaIssue s t n rd a ref cond wide = threadFault s t n causeWaita := by
  unfold waitaIssue
  rcases h with h | h <;> simp [h]

/-- On an aligned word of this device's Near Memory that the partition may read, the thread waits. -/
theorem waitaIssue_waits {a u i : Nat} {wide : Bool} (rd ref cond : Nat) (ha : addrOk a = true) (hdev : devOf a = selfId s)
    (hplace : placeOf (offOf a) = .nm u i) (halign : a % waitaBytes wide = 0)
    (hspan : spanStatus s (offOf a) (waitaBytes wide) (tileOwner s t.val) false = stOk) :
    waitaIssue s t n rd a ref cond wide =
      modThread s t.val n (fun h => { h with phase := .waita (offOf a) cond rd wide ref (tileCycles s t) }) := by
  unfold waitaIssue
  simp [ha, hdev, hplace, halign, hspan]

theorem ebreakIssue_faults (pc : Nat) (h : bit ((Blk.dbgT t).rd s 0x70) 10 = false) :
    ebreakIssue s t n pc = threadFault s t n causeEbreak := if_neg (by simp [h])

theorem ebreakIssue_hits (pc : Nat) (h : bit ((Blk.dbgT t).rd s 0x70) 10 = true) :
    ebreakIssue s t n pc = debugHit s t n 3 pc := if_pos h
end

/-! ### Wakes (R57, R194) -/

section
variable {s : State} {t : Fin 160} {n : Fin 8} {a cond rd ref since : Nat} {wide : Bool}

theorem exec_waitaWake_of_holds (hphase : (getThread s t n.val).phase = .waita a cond rd wide ref since)
    (hholds : waitaHolds cond wide (readNat s a (waitaBytes wide)) ref = true) :
    exec (.waitaWake t n) s = .next (waitaEnd s t n.val a rd wide) := by
  show execWaitaWake t n s = _
  simp only [execWaitaWake, hphase, hholds, if_true]

theorem exec_waitaTimeout_of_expired (hphase : (getThread s t n.val).phase = .waita a cond rd wide ref since)
    (hset : (Blk.til t).rd s 0x58 ≠ 0) (hexpired : 1024 * (Blk.til t).rd s 0x58 ≤ tileCycles s t - since) :
    exec (.waitaTimeout t n) s = .next ((Blk.til t).event (waitaEnd s t n.val a rd wide) 17) := by
  show execWaitaTimeout t n s = _
  simp only [execWaitaTimeout, hphase]
  rw [if_pos ⟨by omega, hexpired⟩]

/-- With no request of the thread's context outstanding, an RFENCE ends. -/
theorem exec_rfenceResume_of_done (hphase : (getThread s t n.val).phase = .fence)
    (hdone : ∀ o ∈ s.outs, o.req.ctx ≠ 12 * t.val + 4 + n.val) :
    exec (.rfenceResume t n) s = .next (complete s t n.val 0 0 4) := by
  have hnone : ¬ s.outs.any (fun o => o.req.ctx = 12 * t.val + 4 + n.val) = true := by simpa using hdone
  show execRfenceResume t n s = _
  simp only [execRfenceResume, hphase]
  rw [if_neg hnone]
end

/-- Settles O31: the command of an instruction's row performs it, and each clause is one case of `perform`. -/
theorem threadInstructions : Obligations.ThreadInstructions := by
  intro s t
  refine ⟨fun n len op h => ?_, fun n hnext hfetch => exec_tccInstruction_of_fetch_none hnext hfetch, fun n => ⟨?_, ?_⟩⟩
  · have performed : ∀ row, op.row = row →
        (.next (issueThread row t s) : Out) = .next (perform (issued s t n) t n (getThread s t n).pc len op) :=
      fun _ hrow => congrArg _ (hrow ▸ issueThread_of_issues h)
    refine ⟨?wr, ?load, ?store, ?jump, ?lr, ?sc, ?illegal, ?malformed, ?waits, ?ecall, ?ebreakFaults, ?ebreakHits, ?amo, ?ramo, ?fstore,
      ?rfence⟩
    case wr | load | store | jump | lr | sc | illegal => intros; subst op; exact performed .plain rfl
    case malformed =>
      rintro rd a ref cond wide rfl ha
      exact (performed .waita rfl).trans (congrArg _ (waitaIssue_malformed rd ref cond ha))
    case waits =>
      rintro rd a ref cond wide rfl ha hdev ⟨u, i, hplace⟩ halign hspan
      exact (performed .waita rfl).trans (congrArg _ (waitaIssue_waits rd ref cond ha hdev hplace halign hspan))
    case ecall => rintro rfl; exact performed .ecall rfl
    case ebreakFaults =>
      rintro rfl hbit
      exact (performed .ebreak rfl).trans (congrArg _ (ebreakIssue_faults _ hbit))
    case ebreakHits =>
      rintro rfl hbit
      exact (performed .ebreak rfl).trans (congrArg _ (ebreakIssue_hits _ hbit))
    case amo => rintro rd a w aop v rfl; exact performed .amo rfl
    case ramo => rintro rd a rop v cmp rfl; exact performed .ramo rfl
    case fstore =>
      rintro a w v all rfl ha
      exact (performed .fstore rfl).trans (congrArg _ (if_neg (by simp [ha])))
    case rfence => rintro rfl; exact performed .rfence rfl
  · exact fun a cond rd wide ref since hphase =>
      ⟨exec_waitaWake_of_holds hphase, exec_waitaTimeout_of_expired hphase⟩
  · exact exec_rfenceResume_of_done

end Sys2Proof.Machine

/-! ### A fetch leaves every thread (R56, R292) -/

namespace Sys2Proof.Machine

section
variable (b : Blk) (s : State)

@[simp] theorem Blk.wr_tccs (o v : Nat) : (b.wr s o v).tccs = s.tccs := rfl
@[simp] theorem Blk.put_tccs (o lo len x : Nat) : (b.put s o lo len x).tccs = s.tccs := rfl
@[simp] theorem Blk.add_tccs (o k : Nat) : (b.add s o k).tccs = s.tccs := rfl
@[simp] theorem Blk.sat_tccs (o k : Nat) : (b.sat s o k).tccs = s.tccs := rfl

@[simp] theorem Blk.event_tccs (i : Nat) : (b.event s i).tccs = s.tccs := by
  obtain ⟨m, hm⟩ := b.setBit_regs_only s 0x18 i
  rw [Blk.event, hm]
end

@[simp] theorem ite_tccs (c : Prop) [Decidable c] (a b : State) : (if c then a else b).tccs = if c then a.tccs else b.tccs :=
  apply_ite State.tccs c a b

/-- What every step of a loop leaves, the loop leaves. -/
theorem forEach_tccs {α : Type} {f : State → α → State} (hf : ∀ s a, (f s a).tccs = s.tccs) (l : List α) (s : State) :
    (forEach l s f).tccs = s.tccs := by
  induction l generalizing s with
  | nil => rfl
  | cons a l ih => exact (ih (f s a)).trans (hf s a)

theorem foldl_snd_tccs {α β : Type} {f : β × State → α → β × State} (hf : ∀ r a, (f r a).2.tccs = r.2.tccs) (l : List α)
    (r : β × State) : (l.foldl f r).2.tccs = r.2.tccs := by
  induction l generalizing r with
  | nil => rfl
  | cons a l ih => exact (ih (f r a)).trans (hf r a)

section
variable (s : State)

@[simp] theorem pageEnergy_tccs (b : Blk) (e : Nat) : (pageEnergy s b e).tccs = s.tccs := by
  unfold pageEnergy
  simp

@[simp] theorem burstEnergy_tccs (pc k : Nat) : (burstEnergy s pc k).tccs = s.tccs := pageEnergy_tccs _ _ _

@[simp] theorem noteFailing_tccs (pc : Nat) (u : HbmFail) : (noteFailing s pc u).tccs = s.tccs := by
  unfold noteFailing
  repeat' split
  all_goals rfl

@[simp] theorem corrected_tccs (pc pcoff : Nat) (pattern : List (Nat × Nat)) : (corrected s pc pcoff pattern).tccs = s.tccs := by
  unfold corrected
  dsimp only
  split
  · simp
  · rw [forEach_tccs]
    · simp
    · simp

/-! The loss of a stack writes the Roast Log and the feature page (R301, R345, R350). -/

@[simp] theorem setStackState_tccs (stack : Nat) (f : Nat → Nat) : (setStackState s stack f).tccs = s.tccs := by
  apply forEach_tccs
  exact fun _ _ => rfl

@[simp] theorem writeFlash_tccs (o : Nat) (bs : List Byte) : (writeFlash s o bs).tccs = s.tccs := rfl

@[simp] theorem setRegBytes8_tccs (b : Blk) (o n : Nat) (bs : List Byte) : (setRegBytes8 s b o n bs).tccs = s.tccs := by
  apply forEach_tccs
  exact fun _ _ => rfl

@[simp] theorem appendOne_tccs (type : Nat) (payload : List Byte) : (appendOne s type payload).tccs = s.tccs := by
  unfold appendOne
  simp [Blk.raise_tccs]

@[simp] theorem eraseOld_tccs (keep fuel : Nat) : (eraseOld s keep fuel).tccs = s.tccs := by
  induction fuel generalizing s with
  | zero => rfl
  | succ fuel ih =>
    unfold eraseOld
    dsimp only
    split
    · rfl
    · split
      · rfl
      · exact ih _

@[simp] theorem appendRecord_tccs (type : Nat) (payload : List Byte) : (appendRecord s type payload).tccs = s.tccs := by
  unfold appendRecord
  dsimp only
  split
  · simp
  · simp only [Blk.wr_tccs, eraseOld_tccs]
    rw [forEach_tccs]
    · simp
    · simp

@[simp] theorem alert_tccs (i : Nat) : (alert s i).tccs = s.tccs := by
  unfold alert
  simp

@[simp] theorem setPending_tccs (g : Nat) : (setPending s g).tccs = s.tccs := by
  unfold setPending
  simp [changePending, gradeChange]

@[simp] theorem recordRetired_tccs (cause : Nat) : (recordRetired s cause).tccs = s.tccs := by
  unfold recordRetired
  simp

@[simp] theorem retireInService_tccs (cause : Nat) : (retireInService s cause).tccs = s.tccs := by
  unfold retireInService
  simp

@[simp] theorem loseStack_tccs (pc : Nat) : (loseStack s pc).tccs = s.tccs := by
  unfold loseStack
  simp [Blk.raise_tccs]

@[simp] theorem uncorrectable_tccs (part pc pcoff : Nat) : (uncorrectable s part pc pcoff).tccs = s.tccs := by
  unfold uncorrectable
  simp [Blk.raise_tccs]

/-! Reads of HBM (R292). -/

@[simp] theorem decodeBurst_tccs (part a : Nat) : (decodeBurst s part a).2.tccs = s.tccs := by
  unfold decodeBurst
  dsimp only
  split <;> simp

@[simp] theorem healBurst_tccs (a : Nat) (bs : List Byte) : (healBurst s a bs).tccs = s.tccs := rfl

@[simp] theorem readBurst_tccs (part a : Nat) : (readBurst s part a).2.tccs = s.tccs := by
  unfold readBurst
  dsimp only
  split
  · simp
  · simp

@[simp] theorem readSpan_tccs (part o n : Nat) : (readSpan s part o n).2.tccs = s.tccs := by
  apply foldl_snd_tccs
  exact fun r _ => readBurst_tccs r.2 part _

@[simp] theorem fetchDone_tccs (t : Fin 160) (pc : Nat) : (fetchDone s t pc).tccs = s.tccs := by
  unfold fetchDone
  simp
end

/-! ### What a fault of a thread changes (R58, Table 3.9) -/

/-- The thread stops and is marked faulted. -/
def faultStopped (s : State) (t : Fin 160) (n : Nat) : State :=
  modThread s t.val n (fun h => { h with phase := .stopped, faulted := true, rsv := none })

/-- What a fault leaves but for the error it raises: the thread stopped, THR_FAULT and its event. -/
def faultNoted (s : State) (t : Fin 160) (n cause : Nat) : State :=
  (Blk.til t).event
    (if bit ((Blk.til t).rd (faultStopped s t n) 0x18) 16 then faultStopped s t n
     else (Blk.til t).wr ((Blk.til t).wr (faultStopped s t n) 0x4C (n + 16 * cause)) 0x50 (getThread s t n).pc) 16

theorem threadFault_eq (s : State) (t : Fin 160) (n cause : Nat) :
    threadFault s t n cause = if cause = causeEcall ∨ cause = causeEbreak then faultNoted s t n cause
      else (Blk.til t).raise (faultNoted s t n cause) (if cause = causeWaita then 0x0102 else 0x0101)
        (tileOwner (faultNoted s t n cause) t.val) (getThread s t n).pc := rfl

/-- Stopping a thread changes no register. -/
theorem rd_faultStopped (b : Blk) (s : State) (t : Fin 160) (n o : Nat) : b.rd (faultStopped s t n) o = b.rd s o := rfl

theorem wf_faultStopped {s : State} (h : s.Canon) (t : Fin 160) (n : Nat) : SMap.wf resetVal (faultStopped s t n).regs = true := h.regs

theorem wf_faultNoted {s : State} (h : s.Canon) (t : Fin 160) (n cause : Nat) : SMap.wf resetVal (faultNoted s t n cause).regs = true := by
  have hwf := wf_faultStopped h t n
  unfold faultNoted
  split
  · exact Blk.wf_event hwf _ _
  · exact Blk.wf_event (Blk.wf_wr (Blk.wf_wr hwf _ _ _) _ _ _) _ _

section
variable {s : State} (h : s.Canon) (t : Fin 160) {n : Nat} (cause : Nat)
include h

theorem threadFault_thread (hn : n < 8) :
    getThread (threadFault s t n cause) t n = { getThread s t n with phase := .stopped, faulted := true, rsv := none } := by
  rw [getThread_congr (threadFault_tccs s t n cause), getThread_modThread h t hn]

theorem threadFault_mayIssue {m : Nat} (hm : m ≠ n) : mayIssue (threadFault s t n cause) t m = mayIssue s t m := by
  unfold mayIssue getDbg
  rw [threadFault_other s h t cause hm, threadFault_dbg]

/-- No thread of another tile changes. -/
theorem threadFault_tile_ne {u : Fin 160} (hu : u ≠ t) : getTcc (threadFault s t n cause) u.val = getTcc s u.val := by
  have hwf : SMap.wf dTcc s.tccs = true := (Bool.and_eq_true_iff.1 h.tcc).1
  unfold getTcc
  rw [threadFault_tccs]
  exact SMap.get_set_ne hwf _ (Fin.val_ne_of_ne hu)

/-- THR_FAULT records the thread and the cause while its event stands clear. -/
theorem rd_threadFault_thrFault (hn : n < 8) (hcause : cause < 16) (hclear : bit ((Blk.til t).rd s 0x18) 16 = false) :
    (Blk.til t).rd (threadFault s t n cause) 0x4C = n + 16 * cause := by
  have hnoted : (Blk.til t).rd (faultNoted s t n cause) 0x4C = n + 16 * cause := by
    have hwf := Blk.wf_wr (wf_faultStopped h t n) (.til t) 0x4C (n + 16 * cause)
    rw [faultNoted, rd_faultStopped, hclear, if_neg Bool.false_ne_true, Blk.rd_event_ne (Blk.wf_wr hwf _ _ _) _ _ (by decide),
      Blk.rd_wr_ne hwf _ _ (by decide), Blk.rd_wr_same (wf_faultStopped h t n)]
    omega
  rw [threadFault_eq]
  split
  · exact hnoted
  · rw [Blk.rd_raise_ne (wf_faultNoted h t n cause) _ _ _ _ (by decide), hnoted]

/-- A cause that raises no error leaves every block's error registers (R58, R362). -/
theorem rd_threadFault_errInfo (hquiet : cause = causeEcall ∨ cause = causeEbreak) (b : Blk) {o : Nat}
    (ho : o = 0x20 ∨ o = 0x24 ∨ o = 0x28) : b.rd (threadFault s t n cause) o = b.rd s o := by
  have hkey : ∀ k, k = 0x18 ∨ k = 0x4C ∨ k = 0x50 → b.base + o ≠ (Blk.til t).base + k := fun k hk =>
    Blk.base_ne b _ (by omega) (by omega) (by omega)
  have hevent : ∀ u : State, SMap.wf resetVal u.regs = true → b.rd ((Blk.til t).event u 16) o = b.rd u o := fun _ hu =>
    rd_setBit_ne hu _ _ (hkey 0x18 (by decide))
  rw [threadFault_eq, if_pos hquiet, faultNoted]
  split
  · rw [hevent _ (wf_faultStopped h t n), rd_faultStopped]
  · have hwf := Blk.wf_wr (wf_faultStopped h t n) (.til t) 0x4C (n + 16 * cause)
    rw [hevent _ (Blk.wf_wr hwf _ _ _), Blk.rd_wr_other hwf _ _ _ (hkey 0x50 (by decide)),
      Blk.rd_wr_other (wf_faultStopped h t n) _ _ _ (hkey 0x4C (by decide)), rd_faultStopped]
end

/-! ### ECALL (R58) -/

section
variable {s : State} (h : s.Canon) (t : Fin 160) (n : Nat)
include h

theorem fetchDone_canon (pc : Nat) : (fetchDone s t pc).Canon := (fetchDone_kept h.kept).canon

theorem issued_canon : (issued s t n).Canon := slotTaken_canon (fetchDone_canon h t _) t n

/-- The fetch and the issue slot leave every thread. -/
theorem issued_thread (m : Nat) : getThread (issued s t n) t m = getThread s t m := by
  unfold issued
  rw [slotTaken_thread (fetchDone_canon h t _), getThread_congr (fetchDone_tccs s t _)]

/-- Of the registers below 0x60 in a page the issue slot leaves what the fetch left. -/
theorem rd_issued (b : Blk) {o : Nat} (ho : o < 0x60) : b.rd (issued s t n) o = b.rd (fetchDone s t (getThread s t n).pc) o :=
  slotTaken_rd (fetchDone_canon h t _) t n b o (Blk.base_ne b _ (by omega) (by omega) (by omega))
end

/-- Settles O32: a fault changes its own thread, THR_FAULT and its event, and ECALL's adds no error; what comes before it, the
fetch and the issue slot, leaves the threads. -/
theorem faultingThreadsStop : Obligations.FaultingThreadsStop := by
  intro s t n cause hs hn
  refine ⟨?_, ?_, fun m hm => ⟨threadFault_other s hs t cause hm, threadFault_mayIssue hs t cause hm⟩,
    fun u hu => threadFault_tile_ne hs t cause hu, fun hclear hcause => rd_threadFault_thrFault hs t cause hn hcause hclear, ?_⟩
  · rw [threadFault_thread hs t cause hn]
  · rw [threadFault_thread hs t cause hn]
  · rintro len v hissues rfl
    have hissued := issued_canon hs t n
    refine ⟨threadFault (issued s t n) t n causeEcall, congrArg Host.Outcome.next (issueThread_of_issues hissues), ?_, fun m hm => ?_,
      fun hclear => ?_, fun b o ho => ?_⟩
    · rw [threadFault_thread hissued t _ hn]
    · rw [threadFault_other _ hissued t _ hm, issued_thread hs]
    · exact rd_threadFault_thrFault hissued t causeEcall hn (by decide) (by rwa [rd_issued hs t n _ (by decide)])
    · rw [rd_threadFault_errInfo hissued t _ (.inl rfl) b ho, rd_issued hs t n b (by omega)]

end Sys2Proof.Machine

/-! ### Commands of a sequencer's ring (R41, R43, R48) -/

namespace Sys2Proof.Machine

section
variable {s : State} {q : SeqId}

theorem exec_cmdNop_completes {c : Cmd} {s1 : State} (htaken : takenCmds (getSeq s q) = 0) (hnext : nextCmd s q = (some c, s1))
    (hcmd : c.cmd = 0) (hsched : schedWrong s1 q c = false) : exec (.cmdNop q) s = .next (completeCmd s1 q c tkOk q.inst) := by
  show execCmdNop q s = _
  simp [execCmdNop, htaken, hnext, hcmd, hsched]

/-- At the table boundary RUN starts the table that waits in a slot. -/
theorem exec_cmdRun_starts {c : Cmd} {tb : Table} {pos : Nat} {rest : List (Cmd × Table × Nat)} (hidle : (getSeq s q).phase = .idle)
    (hloaded : (getSeq s q).loaded = (c, tb, pos) :: rest) (hserves : serving s = true) (henabled : (Blk.seq q).enabled s = true)
    (hdraining : (Blk.seq q).draining s = false) :
    exec (.cmdRun q) s = .next (loadTable
      ((Blk.seq q).put (modSeq s q (fun x => { x with loaded := rest })) 0x60 0 2 c.sched) q c tb pos) := by
  show execCmdRun q s = _
  simp [execCmdRun, startLoaded, hidle, hloaded, hserves, henabled, hdraining]

section
variable {c : Cmd} {s1 : State} (hslot : (getSeq s q).phase ≠ .idle ∨ (getSeq s q).loaded = [])
  (hnext : nextCmd s q = (some c, s1)) (hcmd : c.cmd = 1)
include hslot hnext hcmd

theorem exec_cmdRun_schedOrder (hsched : schedWrong s1 q c = true) :
    exec (.cmdRun q) s = .next (schedOrder s1 q) := by
  show execCmdRun q s = _
  unfold execCmdRun
  rw [if_neg fun h => hslot.elim (fun hphase => hphase h.1) h.2]
  simp [hnext, hcmd, hsched]

section
variable {pos list len : Nat} {tb : Table} {s2 s3 : State} (hsched : schedWrong s1 q c = false) (hpos : pos = (schedAfter s1 q).2)
  (hlist : scheduleOf s1 q c.sched = (some (list, len), s2)) (hlen : len ≠ 0) (htable : tableAt s2 q list pos = (some tb, s3))
include hsched hpos hlist hlen htable

theorem exec_cmdRun_loads (htaken : takenCmds (getSeq s q) = 0) :
    exec (.cmdRun q) s = .next (loadTable ((Blk.seq q).wr s3 0x60 (c.sched + 4 * pos)) q c tb ((pos + 1) % len)) := by
  show execCmdRun q s = _
  subst hpos
  unfold execCmdRun
  rw [if_neg fun h => hslot.elim (fun hphase => hphase h.1) h.2]
  simp [hnext, hcmd, hsched, hlist, hlen, htable, htaken]

/-- While another table is taken, the table waits in the second slot. -/
theorem exec_cmdRun_keeps (htaken : takenCmds (getSeq s q) ≠ 0) :
    exec (.cmdRun q) s = .next (modSeq s3 q (fun x => { x with loaded := x.loaded ++ [(c, tb, (pos + 1) % len)] })) := by
  show execCmdRun q s = _
  subst hpos
  unfold execCmdRun
  rw [if_neg fun h => hslot.elim (fun hphase => hphase h.1) h.2]
  simp [hnext, hcmd, hsched, hlist, hlen, htable, htaken]
end
end
end

/-- Settles O28: each clause is one way through NOP or RUN. -/
theorem sequencerTakesCommands : Obligations.SequencerTakesCommands := by
  intro s q
  refine ⟨fun c s1 hnext => ⟨fun hcmd htaken hsched => ?_, fun hcmd hslot => ⟨fun hsched => ?_, ?_⟩⟩, fun c tb pos rest => ?_⟩
  · exact exec_cmdNop_completes htaken hnext hcmd hsched
  · exact exec_cmdRun_schedOrder hslot hnext hcmd hsched
  · intro pos list len tb s2 s3 hsched hpos hlist hlen htable
    exact ⟨exec_cmdRun_loads hslot hnext hcmd hsched hpos hlist hlen htable,
      exec_cmdRun_keeps hslot hnext hcmd hsched hpos hlist hlen htable⟩
  · exact exec_cmdRun_starts

/-! ### Credit and waits (R50 to R53, R312) -/

section
variable {s : State} {q : SeqId}

theorem exec_creditGrant_grants {c : CreditReq} (hfind : s.creditQ.find? (fun c => c.inst = q.inst) = some c)
    (hphase : (getSeq s q).phase = .credit) (hcan : canGrant s (askNow s c) = true) :
    exec (.creditGrant q) s = .next (grantCredit s q (askNow s c)) := by
  show execCreditGrant q s = _
  simp [execCreditGrant, hfind, hphase, hcan]

/-- The state in which a step whose wait is met begins: its tokens are taken and its bounds are set. -/
def stepBegun (s : State) (q : SeqId) : State := setBounds (takeTokens (endWait s q) q) q

section
variable (hphase : (getSeq s q).phase = .wait) (hemits : (getSeq s q).emits = []) (hmet : tokensMet s q = true)
  (hbounds : (getSeq (stepBegun s q) q).b0 * (getSeq (stepBegun s q) q).b1 * (getSeq (stepBegun s q) q).b2 ≠ 0)
include hphase hemits hmet hbounds

/-- A met wait whose step has iterations idles them or runs them. -/
theorem exec_stepWaitMet_of_bounds :
    exec (.stepWaitMet q) s = .next (
      if (curStep (getSeq s q)).op = 0 ∨ ((getSeq (stepBegun s q) q).refused ∧ !waitsEach q (curStep (getSeq s q)).op) then
        idleStep (stepBegun s q) q
      else modSeq (stepBegun s q) q (fun x =>
        { x with phase := .iter, waitFrom := (stepBegun s q).now, outFrom := List.replicate 4 (stepBegun s q).nextOut })) := by
  show execStepWaitMet q s = _
  unfold execStepWaitMet
  rw [if_neg (by simp [hphase, hemits, hmet])]
  exact congrArg _ (if_neg fun h => hbounds h.1)

theorem exec_stepWaitMet_iterates (hop : (curStep (getSeq s q)).op ≠ 0)
    (hruns : (getSeq (stepBegun s q) q).refused = false ∨ waitsEach q (curStep (getSeq s q)).op = true) :
    exec (.stepWaitMet q) s = .next (modSeq (stepBegun s q) q (fun x =>
      { x with phase := .iter, waitFrom := (stepBegun s q).now, outFrom := List.replicate 4 (stepBegun s q).nextOut })) := by
  rw [exec_stepWaitMet_of_bounds hphase hemits hmet hbounds, if_neg]
  rcases hruns with hruns | hruns <;> simp [hop, hruns]

/-- A step whose data are refused performs no operation, unless its iterations take tokens of their own. -/
theorem exec_stepWaitMet_idles (hrefused : (getSeq (stepBegun s q) q).refused = true)
    (heach : waitsEach q (curStep (getSeq s q)).op = false) :
    exec (.stepWaitMet q) s = .next (idleStep (stepBegun s q) q) := by
  rw [exec_stepWaitMet_of_bounds hphase hemits hmet hbounds, if_pos (.inr ⟨hrefused, by rw [heach]; rfl⟩)]
end

theorem exec_seqWaitTimeout_of_expired (hphase : (getSeq s q).phase = .wait) (hwait : (curStep (getSeq s q)).waitEn = true)
    (hcount : (Blk.seq q).rd s (tokenReg (curStep (getSeq s q)).waitCtr) < (curStep (getSeq s q)).waitCount)
    (hset : (Blk.seq q).rd s 0x64 ≠ 0) (hexpired : 1024 * (Blk.seq q).rd s 0x64 < waited s q) :
    exec (.seqWaitTimeout q) s = .next (modSeq
      (seqRaise (noteStatus (endWait s q) q tkTimeout) q (some 19) 0x0104 (curStep (getSeq s q)).waitCtr) q
      (fun x => { x with phase := .ended })) := by
  show execSeqWaitTimeout q s = _
  unfold execSeqWaitTimeout
  rw [if_neg (by simp [hphase, hwait]; omega)]
end

/-- Settles O29: each clause is one way through the command. -/
theorem sequencerStepBegins : Obligations.SequencerStepBegins := by
  intro s q
  refine ⟨fun c => exec_creditGrant_grants, fun hphase hemits hmet t ht => ?_, exec_seqWaitTimeout_of_expired⟩
  subst ht
  exact ⟨fun hruns hop hbounds => exec_stepWaitMet_iterates hphase hemits hmet hbounds hop hruns,
    fun hrefused heach hbounds => exec_stepWaitMet_idles hphase hemits hmet hbounds hrefused heach⟩

/-! ### Tokens (R51 to R53) -/

/-- A sequencer is found by its BLK_IDENT number. -/
@[simp] theorem seqOfInst_inst (q : SeqId) : seqOfInst q.inst = some q := by
  cases q with
  | tile t i =>
    have hlt : 8 * t.val + i.val < 1280 := by omega
    have hmod : (8 * t.val + i.val) % 8 = i.val := by omega
    have hdiv : (8 * t.val + i.val) / 8 = t.val := by omega
    simp [seqOfInst, SeqId.inst, hlt, hmod, hdiv]
  | die d e =>
    have hge : ¬ 0x8000 + 256 * d.val + e.val < 1280 := by omega
    have hmod : (0x8000 + 256 * d.val + e.val - 0x8000) % 256 = e.val := by omega
    have hdiv : (0x8000 + 256 * d.val + e.val - 0x8000) / 256 = d.val := by omega
    have hle : 0x8000 ≤ 0x8000 + 256 * d.val + e.val := by omega
    unfold seqOfInst SeqId.inst
    rw [dif_neg hge, if_pos hle]
    simp only [hmod, hdiv, Fin.is_lt, and_self, dif_pos]

section
variable {s : State} {q : SeqId}

/-- One token waits, and its destination's queue has room: it leaves. -/
theorem exec_emitAfterQueueSpace_one {d : SeqId} {e : QEntry} (hemits : (getSeq s q).emits = [(d.inst, e)])
    (hroom : queueFull s d = false) :
    exec (.emitAfterQueueSpace q) s = .next
      (modSeq (modSeq s q (fun x => { x with emits := [] })) d (fun x => { x with inFlight := x.inFlight ++ [e] })) := by
  show execEmitAfterQueueSpace q s = _
  simp [execEmitAfterQueueSpace, hemits, flushEmits, hroom]

theorem exec_tokenArrive_cons {e : QEntry} {rest : List QEntry} (hflight : (getSeq s q).inFlight = e :: rest) :
    exec (.tokenArrive q) s = .next (arriveToken (modSeq s q (fun x => { x with inFlight := rest })) q e) := by
  show execTokenArrive q s = _
  simp only [execTokenArrive, hflight]

/-- No store of the token's own iteration or step is outstanding. -/
theorem exec_lateTokenLeave_head {l : LateTok} {rest : List LateTok} (hlate : (getSeq s q).late = l :: rest)
    (hdone : ∀ o ∈ s.outs, o.waiter = .store q.inst → l.first ≤ o.id → l.bound ≤ o.id) :
    exec (.lateTokenLeave q) s = .next (emitToken (modSeq s q (fun x => { x with late := rest })) q l.link l.entry) := by
  show execLateTokenLeave q s = _
  unfold execLateTokenLeave
  simp only [hlate]
  rw [List.find?_cons_of_pos]
  · simp [modSeq, hlate]
  · rw [Bool.not_eq_true', List.any_eq_false]
    intro o ho
    have hlater := hdone o ho
    split
    case h_1 n hwaiter =>
      simp only [Bool.and_eq_true, decide_eq_true_eq, not_and, Nat.not_lt]
      rintro ⟨rfl, hfirst⟩
      exact hlater hwaiter hfirst
    case h_2 => exact Bool.false_ne_true

theorem exec_tableComplete_finishes (hphase : (getSeq s q).phase = .ended) (hemits : (getSeq s q).emits = [])
    (hlate : (getSeq s q).late = []) (hsent : (getSeq (completionTokens s q) q).emits = []) :
    exec (.tableComplete q) s = .next (finishTable (completionTokens s q) q) := by
  show execTableComplete q s = _
  simp [execTableComplete, hphase, hemits, hlate, hsent]
end

/-- Settles O30: each clause is one event of a token. -/
theorem tokensMove : Obligations.TokensMove := by
  intro s q
  refine ⟨fun d e => exec_emitAfterQueueSpace_one, fun e rest s1 hflight hs1 => ?_, fun l rest => exec_lateTokenLeave_head,
    exec_tableComplete_finishes⟩
  subst hs1
  rw [exec_tokenArrive_cons hflight]
  exact ⟨fun hroom => congrArg _ (if_neg hroom), fun hfull => congrArg _ (if_pos hfull)⟩

end Sys2Proof.Machine

/-! ### The loader's commands (R60–R62) -/

namespace Sys2Proof.Machine

section
variable {s : State} {k : Fin 16} {block : List Byte} {p : Nat} {im : Image}
variable (hring : ringPart s k = some p)
include hring

section
variable {binds : List LoadBind} {raw : List (List Byte)} (hcmd : (parseCmd block).cmd = 0x10)
  (hread : readImage s p (parseCmd block).p0 (parseCmd block).p1 (bits (parseCmd block).p2 0 11) (bits (parseCmd block).p2 11 11) binds
    = some (im, raw))
include hcmd hread

theorem exec_loaderLoad_accepts (hverdict : loadVerdict s im raw = none) :
    exec (.loaderLoad k block binds) s = .next (loaderFlag (acceptImage s im raw) (parseCmd block)) := by
  show execLoaderLoad k block binds s = _
  simp [execLoaderLoad, hring, hcmd, hread, hverdict]

theorem exec_loaderLoad_rejects {code : Nat} {idx : Option Nat} (hverdict : loadVerdict s im raw = some (code, idx)) :
    exec (.loaderLoad k block binds) s =
      .next (loaderFlag (writeResult (Blk.svc.countErr s) (parseCmd block).p1 code idx) (parseCmd block)) := by
  show execLoaderLoad k block binds s = _
  simp [execLoaderLoad, hring, hcmd, hread, hverdict]
end

theorem exec_loaderUnload_of_loaded (hcmd : (parseCmd block).cmd = 0x11)
    (hfind : s.images.find? (fun im => im.part = p && im.addr = (parseCmd block).p0) = some im) :
    exec (.loaderUnload k block) s =
      .next (loaderFlag (writeResult (unloadImage s im) (parseCmd block).p1 0 (some 0)) (parseCmd block)) := by
  show execLoaderUnload k block s = _
  simp [execLoaderUnload, hring, hcmd, hfind]
end

/-- Settles O33: LOAD follows its verdict, and UNLOAD finds the image. -/
theorem loaderCommands : Obligations.LoaderCommands := by
  intro s k block p hring
  refine ⟨fun binds im raw hcmd hread => ⟨?_, fun code idx => ?_⟩, fun im => ?_⟩
  · exact exec_loaderLoad_accepts hring hcmd hread
  · exact exec_loaderLoad_rejects hring hcmd hread
  · exact exec_loaderUnload_of_loaded hring

end Sys2Proof.Machine

/-! ### MAX and MIN of floating-point values (R107) -/

namespace Sys2Proof.Machine

section
variable {a b : NumVal}

theorem NumVal.lt_iff : a.lt b = true ↔ a.isNan = false ∧ b.isNan = false ∧ a.cmp b = .lt := by
  simp [NumVal.lt, and_assoc]

theorem NumVal.eqv_iff : a.eqv b = true ↔ a.isNan = false ∧ b.isNan = false ∧ a.cmp b = .eq := by
  simp [NumVal.eqv, and_assoc]

/-- Exchanging the operands turns the comparison round: both sides align at the smaller of the two exponents. -/
theorem NumVal.cmp_swap (a b : NumVal) : (a.cmp b).swap = b.cmp a := by
  cases a with
  | nan n p => cases b with
    | inf n' => cases n' <;> rfl
    | nan | fin => rfl
  | inf n => cases b with
    | inf n' => cases n <;> cases n' <;> rfl
    | nan | fin => cases n <;> rfl
  | fin n m e => cases b with
    | nan => rfl
    | inf n' => cases n' <;> rfl
    | fin n' m' e' =>
      simp only [NumVal.cmp]
      rw [Int.min_comm e' e, Std.OrientedOrd.eq_swap, Ordering.swap_swap]

/-- Zeros compare equal, whatever their signs. -/
theorem NumVal.eqv_zeros (n n' : Bool) (e e' : Int) : (NumVal.fin n 0 e).eqv (.fin n' 0 e') = true := by
  have hsgn (n : Bool) : sgn n 0 = 0 := by cases n <;> rfl
  exact NumVal.eqv_iff.mpr ⟨rfl, rfl, by simp [NumVal.cmp, hsgn]⟩

/-! The result by case: NaN operands, unequal operands in either order, equal operands. -/

theorem NumVal.max_min_of_both_nan (ha : a.isNan = true) (hb : b.isNan = true) : a.maxn b = .qnan ∧ a.minn b = .qnan := by
  simp [NumVal.maxn, NumVal.minn, ha, hb]

theorem NumVal.max_min_of_left_nan (ha : a.isNan = true) (hb : b.isNan = false) : a.maxn b = b ∧ a.minn b = b := by
  simp [NumVal.maxn, NumVal.minn, ha, hb]

theorem NumVal.max_min_of_right_nan (ha : a.isNan = false) (hb : b.isNan = true) : a.maxn b = a ∧ a.minn b = a := by
  simp [NumVal.maxn, NumVal.minn, ha, hb]

theorem NumVal.max_min_of_lt (h : a.lt b = true) : a.maxn b = b ∧ a.minn b = a := by
  obtain ⟨ha, hb, hcmp⟩ := NumVal.lt_iff.mp h
  simp [NumVal.maxn, NumVal.minn, ha, hb, hcmp]

theorem NumVal.max_min_of_gt (h : b.lt a = true) : a.maxn b = a ∧ a.minn b = b := by
  obtain ⟨hb, ha, hlt⟩ := NumVal.lt_iff.mp h
  have hcmp : a.cmp b = .gt := by rw [← NumVal.cmp_swap, hlt]; rfl
  simp [NumVal.maxn, NumVal.minn, ha, hb, hcmp]

/-- Of equal operands MAX takes the second and MIN the first exactly when the first is negative: so MAX of zeros of both
signs is +0, and MIN is −0. -/
theorem NumVal.max_min_of_eqv (h : a.eqv b = true) :
    a.maxn b = (if a.isNeg then b else a) ∧ a.minn b = (if a.isNeg then a else b) := by
  obtain ⟨ha, hb, hcmp⟩ := NumVal.eqv_iff.mp h
  simp [NumVal.maxn, NumVal.minn, ha, hb, hcmp]

/-- Of two numbers one is the smaller, or they compare equal. -/
theorem NumVal.lt_or_gt_or_eqv (ha : a.isNan = false) (hb : b.isNan = false) :
    a.lt b = true ∨ b.lt a = true ∨ a.eqv b = true := by
  cases h : a.cmp b with
  | lt => exact .inl (NumVal.lt_iff.mpr ⟨ha, hb, h⟩)
  | gt => exact .inr (.inl (NumVal.lt_iff.mpr ⟨hb, ha, by rw [← NumVal.cmp_swap, h]; rfl⟩))
  | eq => exact .inr (.inr (NumVal.eqv_iff.mpr ⟨ha, hb, h⟩))

theorem NumVal.max_min_eq_or_of_eqv (h : a.eqv b = true) :
    (a.maxn b = a ∨ a.maxn b = b) ∧ (a.minn b = a ∨ a.minn b = b) := by
  rw [(NumVal.max_min_of_eqv h).1, (NumVal.max_min_of_eqv h).2]
  cases a.isNeg
  · exact ⟨.inl rfl, .inr rfl⟩
  · exact ⟨.inr rfl, .inl rfl⟩

/-- MAX and MIN of two numbers are one of the two. -/
theorem NumVal.max_min_eq_or (ha : a.isNan = false) (hb : b.isNan = false) :
    (a.maxn b = a ∨ a.maxn b = b) ∧ (a.minn b = a ∨ a.minn b = b) := by
  rcases NumVal.lt_or_gt_or_eqv ha hb with h | h | h
  · exact (NumVal.max_min_of_lt h).imp .inr .inl
  · exact (NumVal.max_min_of_gt h).imp .inl .inr
  · exact NumVal.max_min_eq_or_of_eqv h
end

/-- MAX and MIN are NaN only when both operands are. -/
theorem NumVal.isNan_max_min (a b : NumVal) :
    (a.maxn b).isNan = (a.isNan && b.isNan) ∧ (a.minn b).isNan = (a.isNan && b.isNan) := by
  cases ha : a.isNan <;> cases hb : b.isNan
  · obtain ⟨hmax, hmin⟩ := NumVal.max_min_eq_or ha hb
    constructor
    · rcases hmax with h | h <;> simp [h, ha, hb]
    · rcases hmin with h | h <;> simp [h, ha, hb]
  · simp [NumVal.max_min_of_right_nan ha hb, ha]
  · simp [NumVal.max_min_of_left_nan ha hb, hb]
  · simp [NumVal.max_min_of_both_nan ha hb, NumVal.qnan, NumVal.isNan]

/-- A fold by an operation that is NaN only on two NaNs is NaN only when every value is. -/
theorem isNan_foldl_iff {f : NumVal → NumVal → NumVal} (hf : ∀ a b, (f a b).isNan = (a.isNan && b.isNan))
    (x : NumVal) (xs : List NumVal) : (xs.foldl f x).isNan = true ↔ ∀ y ∈ x :: xs, y.isNan = true := by
  induction xs generalizing x with
  | nil => simp
  | cons z zs ih => rw [List.foldl_cons, ih]; simp [hf, and_assoc]

/-- Settles O12: each clause is one case of MAX and MIN, and the reductions are folds of them. -/
theorem maxAndMin : Obligations.MaxAndMin := by
  refine ⟨fun a b => ⟨NumVal.max_min_of_both_nan, fun ha hb => ?_, fun h => ?_, NumVal.max_min_eq_or_of_eqv⟩,
    fun e e' => ?_, by decide, fun x xs => ⟨?_, ?_, rfl⟩⟩
  · obtain ⟨hmax, hmin⟩ := NumVal.max_min_of_left_nan ha hb
    obtain ⟨hmax', hmin'⟩ := NumVal.max_min_of_right_nan hb ha
    exact ⟨hmax, hmax', hmin, hmin'⟩
  · obtain ⟨hmax, hmin⟩ := NumVal.max_min_of_lt h
    obtain ⟨hmax', hmin'⟩ := NumVal.max_min_of_gt h
    exact ⟨hmax, hmax', hmin, hmin'⟩
  · obtain ⟨hmax, hmin⟩ := NumVal.max_min_of_eqv (NumVal.eqv_zeros false true e e')
    obtain ⟨hmax', hmin'⟩ := NumVal.max_min_of_eqv (NumVal.eqv_zeros true false e' e)
    exact ⟨hmax, hmax', hmin, hmin'⟩
  · exact isNan_foldl_iff (fun a b => (NumVal.isNan_max_min a b).1) x xs
  · exact isNan_foldl_iff (fun a b => (NumVal.isNan_max_min a b).2) x xs

end Sys2Proof.Machine

/-! ### What a free does (R140) -/

namespace Sys2Proof.Machine

section
variable {d p i : Nat}

/-- The fields of a buffer's handle are its form, its die, its pool and its index. -/
theorem bits_handleOf (hd : d < 2) (hp : p < 4) (hi : i < 2 ^ 16) :
    bits (handleOf d p i) 21 11 = 0x400 ∧ bits (handleOf d p i) 20 1 = d ∧
      bits (handleOf d p i) 16 4 = p ∧ bits (handleOf d p i) 0 16 = i := by
  unfold bits handleOf poolKey
  omega

theorem handleOf_lt (hd : d < 2) (hp : p < 4) (hi : i < 2 ^ 16) : handleOf d p i < 2 ^ 32 := by
  unfold handleOf poolKey
  omega

theorem handleOf_ne_hEmpty : handleOf d p i ≠ hEmpty := by
  unfold handleOf hEmpty
  omega
end

theorem freeHandle_hEmpty (s : State) (d : Fin 2) : freeHandle s d hEmpty = s := if_pos rfl

/-- No buffer of BPM[d] has handle `h`: its form, die, pool or index does not exist. -/
def NoBuffer (s : State) (d : Fin 2) (h : Nat) : Prop :=
  bits h 21 11 ≠ 0x400 ∨ bits h 20 1 ≠ d.val ∨ 4 ≤ bits h 16 4 ∨ poolCount s d (bits h 16 4) ≤ bits h 0 16

/-- Error `k` of a free: the handle is captured in LAST_BAD, and the error raised. -/
def freeError (s : State) (d : Fin 2) (k h : Nat) : State := bpmError ((bpm d).wr s 0xAC h) d k h

/-- BAD_HANDLE: the free of a handle that names no buffer. -/
theorem freeHandle_of_noBuffer {s : State} {d : Fin 2} {h : Nat} (hne : h ≠ hEmpty) (hno : NoBuffer s d h) :
    freeHandle s d h = freeError s d 1 h := by
  unfold freeHandle
  rw [if_neg hne]
  exact if_pos hno

section
variable {s : State} {d : Fin 2} {p i : Nat} (hp : p < 4) (hcount : i < poolCount s d p) (hi : i < 2 ^ 16)
include hp hcount hi

/-- The free of a buffer's handle turns on its state bit alone. -/
theorem freeHandle_handleOf :
    freeHandle s d (handleOf d.val p i) =
      if !bufferUsed s d.val p i then freeError ((bpm d).sat s 0xA4) d 0 (handleOf d.val p i)
      else setFree { s with poolUsed := SMap.set d0 s.poolUsed (poolKey d.val p i) 0 } d p ((bpm d).rd s (0x70 + 4 * p) + 1) := by
  obtain ⟨hform, hdie, hpool, hindex⟩ := bits_handleOf d.isLt hp hi
  unfold freeHandle freeError
  simp only [if_neg handleOf_ne_hEmpty, hform, hdie, hpool, hindex]
  rw [if_neg (by omega)]

theorem freeHandle_of_used (hused : bufferUsed s d.val p i = true) :
    freeHandle s d (handleOf d.val p i) =
      setFree { s with poolUsed := SMap.set d0 s.poolUsed (poolKey d.val p i) 0 } d p ((bpm d).rd s (0x70 + 4 * p) + 1) := by
  rw [freeHandle_handleOf hp hcount hi, hused]
  rfl

/-- DOUBLE_FREE: the free of a buffer that is free. -/
theorem freeHandle_of_unused (hunused : bufferUsed s d.val p i = false) :
    freeHandle s d (handleOf d.val p i) = freeError ((bpm d).sat s 0xA4) d 0 (handleOf d.val p i) := by
  rw [freeHandle_handleOf hp hcount hi, hunused]
  rfl
end

/-- What is shown of a pool in POOL_FREE and POOL_LOW depends on no state bit, and moves none. -/
theorem setFree_withBits (s : State) (m : SMap Nat) (d : Fin 2) (p n : Nat) :
    (setFree { s with poolUsed := m } d p n).poolUsed = m ∧
      (setFree { s with poolUsed := m } d p n).regs = (setFree s d p n).regs := by
  have hlow : (bpm d).rd ((bpm d).wr { s with poolUsed := m } (0x70 + 4 * p) n) (0x80 + 4 * p) =
      (bpm d).rd ((bpm d).wr s (0x70 + 4 * p) n) (0x80 + 4 * p) := rfl
  unfold setFree
  dsimp only
  rw [hlow]
  split <;> exact ⟨rfl, rfl⟩

/-! ### Errors of a Buffer Pool Manager (R140, R143) -/

theorem bpmError_regs_only (s : State) (d : Fin 2) (k info : Nat) : ∃ m, bpmError s d k info = { s with regs := m } := by
  obtain ⟨m, hevent⟩ := (bpm d).setBit_regs_only s 0x18 (16 + k)
  obtain ⟨m', hraise⟩ := (bpm d).raise_regs_only { s with regs := m } (0x0101 + k) (engOwner s (22 * d.val + 20)) info
  refine ⟨m', ?_⟩
  rw [bpmError, Blk.event, hevent, hraise]

section
variable {s : State} (hs : SMap.wf resetVal s.regs = true) (d : Fin 2) (k info : Nat)
include hs

/-- An error leaves every register of the block above the header. -/
theorem rd_bpmError {o : Nat} (ho : 0x40 ≤ o) : (bpm d).rd (bpmError s d k info) o = (bpm d).rd s o := by
  unfold bpmError
  rw [Blk.rd_raise_ne (Blk.wf_event hs _ _) _ _ _ _ (by omega), Blk.rd_event_ne hs _ _ (by omega)]

/-- Each error sets its event, which its capture and its count leave set. -/
theorem bit_bpmError (hk : k < 4) : bit ((bpm d).rd (bpmError s d k info) 0x18) (16 + k) = true := by
  unfold bpmError
  rw [Blk.bit_raise (Blk.wf_event hs _ _) _ _ _ _ (by omega) (by omega) (by omega)]
  exact Blk.bit_setBit hs _ _ (by omega)

/-- A free in error captures its handle in LAST_BAD and raises its event; no state bit and no other register above the header
changes. -/
theorem freeError_effects {h : Nat} (hh : h < 2 ^ 32) (hk : k < 4) :
    (freeError s d k h).poolUsed = s.poolUsed ∧ (bpm d).rd (freeError s d k h) 0xAC = h ∧
      bit ((bpm d).rd (freeError s d k h) 0x18) (16 + k) = true ∧
      ∀ o, 0x40 ≤ o → o ≠ 0xAC → (bpm d).rd (freeError s d k h) o = (bpm d).rd s o := by
  have hwf := Blk.wf_wr hs (bpm d) 0xAC h
  unfold freeError
  refine ⟨?_, ?_, bit_bpmError hwf d k h hk, fun o ho hne => ?_⟩
  · obtain ⟨m, hm⟩ := bpmError_regs_only ((bpm d).wr s 0xAC h) d k h
    rw [hm]
    rfl
  · rw [rd_bpmError hwf d k h (by decide), Blk.rd_wr_same hs]
    omega
  · rw [rd_bpmError hwf d k h ho, Blk.rd_wr_ne hs _ _ hne]
end

/-! ### Allocations as register reads (R139, Table 6.7) -/

/-- The `n` low bytes of a number are those of its remainder modulo 256^n. -/
theorem leBytes_mod (n v : Nat) : leBytes n (v % 256 ^ n) = leBytes n v := by
  induction n generalizing v with
  | zero => rfl
  | succ n ih =>
    have hlow : BitVec.ofNat 8 (v % 256 ^ (n + 1)) = BitVec.ofNat 8 v :=
      BitVec.eq_of_toNat_eq (by
        rw [BitVec.toNat_ofNat, BitVec.toNat_ofNat, Nat.pow_succ]
        exact Nat.mod_mod_of_dvd v ⟨256 ^ n, Nat.mul_comm ..⟩)
    have hhigh : v % 256 ^ (n + 1) / 256 = v / 256 % 256 ^ n := by
      rw [Nat.pow_succ, Nat.mul_comm, Nat.mod_mul_right_div_self]
    rw [leBytes, hlow, hhigh, ih, leBytes]

theorem find_bpmAlloc : ∀ (d : Fin 2) (k : Fin 4), (bpm d).find (0x100 + 4 * k.val) = some (rc4 0x100 4, k.val) := by
  decide +kernel
theorem find_bpmAllocSz : ∀ (d : Fin 2) (k : Fin 65), (bpm d).find (0x200 + 4 * k.val) = some (rc4 0x200 65, k.val) := by
  decide +kernel
theorem find_bpmFree : ∀ d : Fin 2, (bpm d).find 0xA0 = some (wo4 0xA0, 0) := by decide +kernel
theorem find_bpmPoolBase : ∀ (d : Fin 2) (k : Fin 4), (bpm d).find (0x40 + 8 * k.val) = some (rw8 0x40 m41 0 4, k.val) := by
  decide +kernel

theorem readOne_alloc (s : State) (p : Nat) (d : Fin 2) (k : Fin 4) :
    readOne s p (bpm d) (rc4 0x100 4) (0x100 + 4 * k.val) = readAlloc s d k.val := by
  have hpage : ¬(0x100 + 4 * k.val) % 0x1000 < 0x40 := by omega
  have hoff : (0x100 + 4 * k.val - 0x100) / 4 = k.val := by omega
  unfold readOne
  rw [if_neg hpage, if_neg (by decide)]
  dsimp only [bpm]
  rw [if_pos ⟨rfl, by omega, by omega⟩, hoff]

theorem readOne_allocSz (s : State) (p : Nat) (d : Fin 2) (k : Fin 65) :
    readOne s p (bpm d) (rc4 0x200 65) (0x200 + 4 * k.val) = readAllocSz s d k.val := by
  have hpage : ¬(0x200 + 4 * k.val) % 0x1000 < 0x40 := by omega
  have hoff : (0x200 + 4 * k.val - 0x200) / 4 = k.val := by omega
  unfold readOne
  rw [if_neg hpage, if_neg (by decide)]
  dsimp only [bpm]
  rw [if_neg (by omega), if_pos ⟨rfl, by omega⟩, hoff]

/-- An admitted read of a four-byte register answers the value that the read of the register gives. -/
theorem cmdRead_four {s : State} {p : Nat} {b : Blk} {o : Nat} {r : RegDesc} {i : Nat} {x : Nat × State}
    (h : Admits s p b o 4 false) (hat : RegAt b o r i) (hread : readOne s p b r o = x) :
    cmdRead s p (b.base + o) 4 = answered x.2 stOk (leBytes 4 x.1) := by
  rw [cmdRead_of_admits h, readAt_four hat.found hat.start hat.above, hread]
  exact congrArg _ (leBytes_mod 4 x.1)

section
variable {s : State} {d : Fin 2} {q i : Nat} (hwaits : waitsOf s d q = []) (hfree : lowestFree s d q = some i)
include hwaits hfree

/-- With no request ahead, a read takes the lowest free buffer. -/
theorem readAlloc_of_free : readAlloc s d q = takeBuffer s d q i := by
  simp [readAlloc, hwaits, hfree]

theorem readAllocSz_of_free {k : Nat} (hpool : poolFor (4096 * k) = some q) (hk : k ≠ 0) :
    readAllocSz s d k = takeBuffer s d q i := by
  rw [readAllocSz, if_neg hk, hpool]
  exact readAlloc_of_free hwaits hfree

end

theorem exec_bpmAllocRead_takes {s : State} {p : Nat} {d : Fin 2} {k : Fin 4} {i : Nat}
    (h : Admits s p (bpm d) (0x100 + 4 * k.val) 4 false) (hwaits : waitsOf s d k.val = [])
    (hfree : lowestFree s d k.val = some i) :
    exec (.bpmAllocRead p d k) s =
      .next (answered (takeBuffer s d k.val i).2 stOk (leBytes 4 (handleOf d.val k.val i))) := by
  have hat : RegAt (bpm d) (0x100 + 4 * k.val) (rc4 0x100 4) k.val :=
    ⟨find_bpmAlloc d k, by rw [Nat.mul_comm 4]; rfl, by omega⟩
  show execBpmAllocRead p d k s = _
  rw [execBpmAllocRead, Nat.add_assoc, cmdRead_four h hat ((readOne_alloc s p d k).trans (readAlloc_of_free hwaits hfree))]
  rfl

theorem exec_allocSz_takes {s : State} {p : Nat} {d : Fin 2} {k : Fin 65} {q i : Nat}
    (h : Admits s p (bpm d) (0x200 + 4 * k.val) 4 false) (hpool : poolFor (4096 * k.val) = some q) (hk : k.val ≠ 0)
    (hwaits : waitsOf s d q = []) (hfree : lowestFree s d q = some i) :
    exec (.allocSz p d k) s =
      .next (answered (takeBuffer s d q i).2 stOk (leBytes 4 (handleOf d.val q i))) := by
  have hat : RegAt (bpm d) (0x200 + 4 * k.val) (rc4 0x200 65) k.val :=
    ⟨find_bpmAllocSz d k, by rw [Nat.mul_comm 4]; rfl, by omega⟩
  show execAllocSz p d k s = _
  rw [execAllocSz, Nat.add_assoc,
    cmdRead_four h hat ((readOne_allocSz s p d k).trans (readAllocSz_of_free hwaits hfree hpool hk))]
  rfl

/-! ### Frees and configuration as register writes (R138, R140) -/

theorem exec_bpmFreeWrite_frees {s : State} {p : Nat} {d : Fin 2} (h : Admits s p (bpm d) 0xA0 4 true) (val : Word32) :
    exec (.bpmFreeWrite p d val) s = .next (answered (freeHandle s d val.toNat) stOk []) :=
  cmdWr_word h (find_bpmFree d) rfl (by decide) (writeOne_bpmFree s p val.toNat _ d)

theorem exec_poolConfigWrite_configures {s : State} {p : Nat} {d : Fin 2} {k : Fin 4}
    (h : Admits s p (bpm d) (0x40 + 8 * k.val) 8 true) (val : Word64) :
    exec (.poolConfigWrite p d (0x40 + 8 * k.val) 8 val) s =
      .next (answered (poolConfig s d (0x40 + 8 * k.val) (val.toNat &&& 0x1FFFFFFFFFF)) stOk []) := by
  have hwrite : writeAt s p (bpm d) (0x40 + 8 * k.val) 8 val.toNat =
      poolConfig s d (0x40 + 8 * k.val) (val.toNat &&& 0x1FFFFFFFFFF) := by
    rw [writeAt_eight (find_bpmPoolBase d k) rfl (by rw [Nat.mul_comm 8]; rfl) (by omega), Nat.mod_eq_of_lt val.isLt,
      writeOne_poolConfig s p _ _ d (by omega)]
    rfl
  show execPoolConfigWrite p d (0x40 + 8 * k.val) 8 val s = _
  rw [execPoolConfigWrite, if_pos (by omega), cmdWrite_of_admits h, hwrite]

/-! ### The allocation port and its waiters (R139, R142) -/

section
variable {s t : State} {d : Fin 2} {src : SeqId} {word : Word64}

theorem exec_bpmPortRequest_answers {h : Nat}
    (hreq : portRequest s d (putBits (word.toNat % 2 ^ 49) 32 16 src.inst) 0 = (some h, t)) :
    exec (.bpmPortRequest d src word) s = .next (poolAnswer t src.inst 0 h) := by
  show execBpmPortRequest d src word s = _
  simp only [execBpmPortRequest, hreq]

theorem exec_bpmPortRequest_unanswered (hreq : portRequest s d (putBits (word.toNat % 2 ^ 49) 32 16 src.inst) 0 = (none, t)) :
    exec (.bpmPortRequest d src word) s = .next t := by
  show execBpmPortRequest d src word s = _
  simp only [execBpmPortRequest, hreq]
end

theorem exec_bpmWaiterServed_serves {s : State} {d : Fin 2} {k : Fin 4} {w : PoolWait} {rest : List PoolWait} {i : Nat}
    (hwaits : waitsOf s d k.val = w :: rest) (hfree : lowestFree s d k.val = some i) :
    exec (.bpmWaiterServed d k) s = .next (
      poolAnswer (setWaits (takeBuffer s d k.val i).2 d k.val rest) w.inst w.tag (handleOf d.val k.val i)) := by
  show execBpmWaiterServed d k s = _
  simp only [execBpmWaiterServed, hwaits, hfree]
  rfl

/-! ### The obligations on buffer pools -/

/-- Settles O19: each clause is one command's equation. -/
theorem bufferPoolRequests : Obligations.BufferPoolRequests := fun _ _ =>
  ⟨fun _ _ _ => exec_bpmAllocRead_takes,
    fun _ _ _ _ => exec_allocSz_takes,
    fun _ val h => exec_bpmFreeWrite_frees h val,
    fun _ _ val h => exec_poolConfigWrite_configures h val,
    fun _ _ _ => ⟨fun _ => exec_bpmPortRequest_answers, exec_bpmPortRequest_unanswered⟩,
    fun _ _ _ _ => exec_bpmWaiterServed_serves⟩

/-- Settles O20: a free of a buffer's handle turns on its state bit, and both errors of a free capture the handle and leave the
bits and POOL_FREE. -/
theorem freesOfBuffers : Obligations.FreesOfBuffers := by
  intro s d p i h hc
  refine ⟨freeHandle_hEmpty s d, fun hp hcount hi hh => ?_, fun hne hlt hno => ?_⟩
  · subst hh
    refine ⟨fun hused => ?_, fun hunused => ?_⟩
    · obtain ⟨hbits, hregs⟩ := setFree_withBits s (SMap.set d0 s.poolUsed (poolKey d.val p i) 0) d p
        ((bpm d).rd s (0x70 + 4 * p) + 1)
      rw [freeHandle_of_used hp hcount hi hused]
      exact ⟨by simp [bufferUsed, hbits, SMap.get_set_same hc.pool], hregs⟩
    · have hlt := handleOf_lt d.isLt hp hi
      obtain ⟨hpool, hlast, hevent, hrest⟩ := freeError_effects (Blk.wf_sat hc.regs (bpm d) 0xA4 1) d 0 hlt (by decide)
      rw [freeHandle_of_unused hp hcount hi hunused]
      refine ⟨hpool, ?_, ?_, hevent, ?_⟩
      · rw [hlast, Nat.mod_eq_of_lt hlt]
      · rw [hrest 0xA4 (by decide) (by decide), Blk.rd_sat hc.regs]
      · rw [hrest _ (by omega) (by omega), Blk.rd_sat_ne hc.regs _ _ (by omega)]
  · obtain ⟨hpool, hlast, hevent, hrest⟩ := freeError_effects hc.regs d 1 hlt (by decide)
    rw [freeHandle_of_noBuffer hne hno]
    exact ⟨hpool, hlast, hevent, fun k => hrest _ (by omega) (by omega)⟩

end Sys2Proof.Machine

/-! ### Exchange headers and the wait's limit (R154 to R156, R164) -/

namespace Sys2Proof.Machine

/-- No slot takes a header of kind 0. -/
theorem kind_pos_of_slotKinds {r : XchRec} {p o k : Nat} (h : (slotKinds r p o).contains k = true) : 0 < k := by
  have hall : ∀ i ∈ slotKinds r p o, 0 < i := by
    simp only [slotKinds]
    repeat' split
    all_goals decide
  exact hall k (List.contains_iff_mem.mp h)

/-- The bytes received with a header are its own 8 and those its kind announces (log entry 124). -/
theorem headerBytes_eq {s : State} {r : XchRec} {p off w n : Nat} (hkind : 0 < bits w 16 4)
    (hcount : bits w 16 4 = 1 → n = 8 * r.localE)
    (hgrant : bits w 16 4 = 2 → n = 16 * (ownedBy r (readBytes s r.emap (8 * r.e)) ((off - r.grantHdr r.localE p 0) / 8)).length)
    (hdata : bits w 16 4 = 3 → n = bits w 24 24 * r.rowBytes)
    (hrows : 3 < bits w 16 4 → n = bits w 24 24 * (r.hidden * (elemBits r.retFmt / 8))) :
    headerBytes s r p off w = 8 + n := by
  simp only [headerBytes]
  by_cases h1 : bits w 16 4 = 1
  · rw [if_pos h1, hcount h1]
  by_cases h2 : bits w 16 4 = 2
  · rw [if_neg h1, if_pos h2, hgrant h2]
  by_cases h3 : bits w 16 4 = 3
  · rw [if_neg h1, if_neg h2, if_pos h3, hdata h3]
  · rw [if_neg h1, if_neg h2, if_neg h3, hrows (by omega)]

/-- The state with the header word `w` kept as the one at inbox offset `off`. -/
def headerKept (s : State) (d j : Fin 2) (off w : Nat) : State :=
  setXch s d j { getXch s d j with hdrs := (off, w) :: (getXch s d j).hdrs.filter (fun e => !(e.1 == off)) }

section
variable {s : State} {d j : Fin 2} {rq : List Nat} (hrec : recOf s (xchBlk d j) = rq) (hne : rq ≠ []) {off w : Nat}
  (hw : w = readNat s off 8)
include hrec hne hw

/-- What a header's arrival does while a record is in force, by its place and whether it agrees with it. -/
theorem exec_xchHeaderArrive : exec (.xchHeaderArrive d j off) s = .next (
    if slotKinds (xchRec rq) (xseqOf s d j) off ≠ [] then
      if bits w 0 16 = xseqOf s d j ∧ (slotKinds (xchRec rq) (xseqOf s d j) off).contains (bits w 16 4) = true ∧
          ((getXch s d j).bwd = true ↔ 5 ≤ bits w 16 4) then
        (xchBlk d j).add (headerKept s d j off w) 0x88 (headerBytes s (xchRec rq) (xseqOf s d j) off w)
      else (xchBlk d j).event ((xchBlk d j).sat s 0x5C) 17
    else if slotKinds (xchRec rq) (xseqOf s d j + 1) off ≠ [] then
      if bits w 0 16 = (xseqOf s d j + 1) % 2 ^ 16 ∧
          (slotKinds (xchRec rq) (xseqOf s d j + 1) off).contains (bits w 16 4) = true then
        (xchBlk d j).add (headerKept s d j off w) 0x88
          (headerBytes (headerKept s d j off w) (xchRec rq) (xseqOf s d j + 1) off w)
      else headerKept s d j off w
    else s) := by
  show Host.Outcome.next (xchHeaderArrive d j off s) = _
  obtain ⟨v, vs, rfl⟩ := List.exists_cons_of_ne_nil hne
  subst hw
  simp only [xchHeaderArrive, hrec]
  rfl

section
variable (hslot : slotKinds (xchRec rq) (xseqOf s d j) off ≠ [])
include hslot

theorem exec_xchHeaderArrive_takes (hseq : bits w 0 16 = xseqOf s d j)
    (hkind : (slotKinds (xchRec rq) (xseqOf s d j) off).contains (bits w 16 4) = true)
    (hdir : (getXch s d j).bwd = true ↔ 5 ≤ bits w 16 4) :
    exec (.xchHeaderArrive d j off) s =
      .next ((xchBlk d j).add (headerKept s d j off w) 0x88 (headerBytes s (xchRec rq) (xseqOf s d j) off w)) := by
  rw [exec_xchHeaderArrive hrec hne hw, if_pos hslot, if_pos ⟨hseq, hkind, hdir⟩]

theorem exec_xchHeaderArrive_stale
    (hstale : bits w 0 16 ≠ xseqOf s d j ∨ (slotKinds (xchRec rq) (xseqOf s d j) off).contains (bits w 16 4) = false) :
    exec (.xchHeaderArrive d j off) s = .next ((xchBlk d j).event ((xchBlk d j).sat s 0x5C) 17) := by
  rw [exec_xchHeaderArrive hrec hne hw, if_pos hslot, if_neg fun h => hstale.elim (· h.1) (Bool.eq_false_iff.mp · h.2.1)]
end

section
variable (hslot : slotKinds (xchRec rq) (xseqOf s d j) off = []) (hnext : slotKinds (xchRec rq) (xseqOf s d j + 1) off ≠ [])
include hslot hnext

theorem exec_xchHeaderArrive_takesNext (hseq : bits w 0 16 = (xseqOf s d j + 1) % 2 ^ 16)
    (hkind : (slotKinds (xchRec rq) (xseqOf s d j + 1) off).contains (bits w 16 4) = true) :
    exec (.xchHeaderArrive d j off) s = .next ((xchBlk d j).add (headerKept s d j off w) 0x88
      (headerBytes (headerKept s d j off w) (xchRec rq) (xseqOf s d j + 1) off w)) := by
  rw [exec_xchHeaderArrive hrec hne hw, if_neg (fun h => h hslot), if_pos hnext, if_pos ⟨hseq, hkind⟩]

/-- At a place of the next exchange a word that does not agree is kept, and not counted. -/
theorem exec_xchHeaderArrive_keepsNext
    (hstale : bits w 0 16 ≠ (xseqOf s d j + 1) % 2 ^ 16 ∨
      (slotKinds (xchRec rq) (xseqOf s d j + 1) off).contains (bits w 16 4) = false) :
    exec (.xchHeaderArrive d j off) s = .next (headerKept s d j off w) := by
  rw [exec_xchHeaderArrive hrec hne hw, if_neg (fun h => h hslot), if_pos hnext,
    if_neg fun h => hstale.elim (· h.1) (Bool.eq_false_iff.mp · h.2)]
end
end

/-- Past the limit, with headers missing, the step takes TIMEOUT and its remaining iterations idle. -/
theorem exec_xchPhaseTimeout_of_late {s : State} {d j : Fin 2} {since : Nat}
    (hsince : since = (scr s (xchQ d j) 104).getD (getSeq s (xchQ d j)).waitFrom)
    (hmissing : (headersAwaited s d j).1 < (headersAwaited s d j).2) (hlimit : (xchBlk d j).rd s 0x58 ≠ 0)
    (hlate : 1024 * (xchBlk d j).rd s 0x58 < (s.now - since) * seqMhz s (xchQ d j)) :
    exec (.xchPhaseTimeout d j) s = .next (idleRest ((xchBlk d j).raise
      ((xchBlk d j).event (noteStatus s (xchQ d j) tkTimeout) 20) 0x0103 (seqPart s (xchQ d j)) 0) (xchQ d j)
      (itersLeft (getSeq s (xchQ d j)) + 1)) := by
  show Host.Outcome.next (xchPhaseTimeout d j s) = _
  unfold xchPhaseTimeout
  rw [if_neg (by rw [← hsince]; omega)]

/-- Settles O40: a header falls under one of the four cases of its place, and a late phase under the one of its limit. -/
theorem exchangeMessages : Obligations.ExchangeMessages := by
  intro s d j rq hrec hne
  refine ⟨fun off w hw hslot => ⟨fun hseq hkind hdir n hcount hgrant hdata hrows => ?_, ?_⟩,
    fun off w u hw hu hslot hnext => ?_, fun since => exec_xchPhaseTimeout_of_late⟩
  · rw [← headerBytes_eq (kind_pos_of_slotKinds hkind) hcount hgrant hdata hrows]
    exact exec_xchHeaderArrive_takes hrec hne hw hslot hseq hkind hdir
  · exact exec_xchHeaderArrive_stale hrec hne hw hslot
  · subst hu
    exact ⟨exec_xchHeaderArrive_takesNext hrec hne hw hslot hnext, exec_xchHeaderArrive_keepsNext hrec hne hw hslot hnext⟩

end Sys2Proof.Machine

/-! ### Update headers and hot headers of the embedding engine (R179, R184) -/

namespace Sys2Proof.Machine

/-- The state with the word `w` kept as member `m`'s update header. -/
def updateHeaderKept (s : State) (d : Fin 2) (j : Fin 4) (m w : Nat) : State :=
  setEmb s d j { getEmb s d j with hdrs := (m, w) :: (getEmb s d j).hdrs.filter (fun h => !(h.1 == m)) }

/-- The state with the words `q0` and `q1` kept as member `m`'s hot header. -/
def hotHeaderKept (s : State) (d : Fin 2) (j : Fin 4) (m q0 q1 : Nat) : State :=
  setEmb s d j { getEmb s d j with hots := (m, q0, q1) :: (getEmb s d j).hots.filter (fun h => !(h.1 == m)) }

section
variable {s : State} {d : Fin 2} {j : Fin 4} {rq : List Nat} (hrec : recOf s (embBlk d j) = rq) (hne : rq ≠ []) {m : Nat}
include hrec hne

/-- What an update header's arrival does while a record is in force, by its member, its kind and its STEP. -/
theorem exec_embHeaderArrive {w : Nat} (hw : w = readNat s ((embRec rq).inbox + 8 * m) 8) :
    exec (.embHeaderArrive d j m) s = .next (
      if (embRec rq).m ≤ m ∨ (bits w 56 6 ≠ 1 ∧ bits w 56 6 ≠ 2) then s
      else if bits w 0 32 ≠ (embRec rq).step then (embBlk d j).event ((embBlk d j).sat s 0x84) 22
      else (embBlk d j).add (updateHeaderKept s d j m w) 0x98 (8 + bits w 32 24 * (embRec rq).entryBytes)) := by
  show Host.Outcome.next (embHeaderArrive d j m s) = _
  obtain ⟨v, vs, rfl⟩ := List.exists_cons_of_ne_nil hne
  subst hw
  simp only [embHeaderArrive, hrec]
  rfl

/-- What a hot header's arrival does while a record is in force, by its member and HRD_EN. -/
theorem exec_hotHeaderArrive : exec (.hotHeaderArrive d j m) s = .next (
    if (embRec rq).m ≤ m ∨ !(embRec rq).hrd then s
    else (embBlk d j).add (hotHeaderKept s d j m (readNat s ((embRec rq).hrdBase + 16 * m) 8)
      (readNat s ((embRec rq).hrdBase + 16 * m + 8) 8)) 0x98 16) := by
  show Host.Outcome.next (hotHeaderArrive d j m s) = _
  obtain ⟨v, vs, rfl⟩ := List.exists_cons_of_ne_nil hne
  simp only [hotHeaderArrive, hrec]
  rfl

section
variable (hm : m < (embRec rq).m)
include hm

section
variable {w : Nat} (hw : w = readNat s ((embRec rq).inbox + 8 * m) 8) (hkind : bits w 56 6 = 1 ∨ bits w 56 6 = 2)
include hw hkind

theorem exec_embHeaderArrive_takes (hstep : bits w 0 32 = (embRec rq).step) :
    exec (.embHeaderArrive d j m) s =
      .next ((embBlk d j).add (updateHeaderKept s d j m w) 0x98 (8 + bits w 32 24 * (embRec rq).entryBytes)) := by
  rw [exec_embHeaderArrive hrec hne hw, if_neg (by omega), if_neg (not_not_intro hstep)]

theorem exec_embHeaderArrive_stale (hstep : bits w 0 32 ≠ (embRec rq).step) :
    exec (.embHeaderArrive d j m) s = .next ((embBlk d j).event ((embBlk d j).sat s 0x84) 22) := by
  rw [exec_embHeaderArrive hrec hne hw, if_neg (by omega), if_pos hstep]
end

theorem exec_hotHeaderArrive_takes (hhrd : (embRec rq).hrd = true) :
    exec (.hotHeaderArrive d j m) s = .next ((embBlk d j).add (hotHeaderKept s d j m
      (readNat s ((embRec rq).hrdBase + 16 * m) 8) (readNat s ((embRec rq).hrdBase + 16 * m + 8) 8)) 0x98 16) := by
  rw [exec_hotHeaderArrive hrec hne, if_neg (by simp [hhrd, hm])]
end
end

/-- Settles O41: a member's update header falls under one of the two cases of its STEP, and its hot header under the one of
HRD_EN. -/
theorem embeddingMessages : Obligations.EmbeddingMessages := by
  intro s d j rq m hrec hne hm
  refine ⟨fun w hw hkind => ⟨?_, ?_⟩, fun hhrd o ho => ?_⟩
  · exact exec_embHeaderArrive_takes hrec hne hm hw hkind
  · exact exec_embHeaderArrive_stale hrec hne hm hw hkind
  · subst ho
    exact exec_hotHeaderArrive_takes hrec hne hm hhrd

end Sys2Proof.Machine

/-! ### New values of atomics (R191, Table 9.1) -/

namespace Sys2Proof.Machine

/-- Of OP the new value uses KIND and TYPE alone; FETCH changes nothing. -/
theorem atomicResult_congr {op op' : Nat} (hkind : op % 16 = op' % 16) (htype : bits op 4 3 = bits op' 4 3) :
    atomicResult op = atomicResult op' := by
  unfold atomicResult atomicWidth
  rw [hkind, htype]

theorem atomicResult_fetch {f : Nat} (hf : f = 0 ∨ f = 0x80) (op : Nat) : atomicResult (f + op) = atomicResult op :=
  atomicResult_congr (by omega) (by unfold bits; omega)

/-- A signed number tells its bits. -/
theorem signed_inj {n a b : Nat} (ha : a < 2 ^ n) (hb : b < 2 ^ n) (h : signed n a = signed n b) : a = b := by
  unfold signed at h
  rw [Nat.mod_eq_of_lt ha, Nat.mod_eq_of_lt hb] at h
  split at h <;> split at h <;> omega

/-- A signed number is that of its low bits. -/
theorem signed_mod (n v : Nat) : signed n (v % 2 ^ n) = signed n v := by
  unfold signed
  rw [Nat.mod_mod]

section
variable {ty w a b : Nat} (hty : ty ≤ 1)
include hty

/-- MIN and MAX of signed words in order take the first and the second; of equal ones it is the same. -/
theorem pickExtreme_signed_of_le (ha : a < 2 ^ (8 * w)) (hb : b < 2 ^ (8 * w)) (h : signed (8 * w) a ≤ signed (8 * w) b) :
    pickExtreme ty w false a b = a ∧ pickExtreme ty w true a b = b := by
  have htype : ty ≠ 4 := by omega
  rcases Int.lt_or_eq_of_le h with hlt | heq
  · simp [pickExtreme, htype, hty, hlt]
  · obtain rfl := signed_inj ha hb heq
    simp [pickExtreme, htype, hty]

theorem pickExtreme_signed_of_gt (h : signed (8 * w) b < signed (8 * w) a) :
    pickExtreme ty w false a b = b ∧ pickExtreme ty w true a b = a := by
  have htype : ty ≠ 4 := by omega
  have hnot : ¬ signed (8 * w) a < signed (8 * w) b := by omega
  simp [pickExtreme, htype, hty, hnot]
end

/-- Settles O46: each clause is the equation of one KIND and TYPE, whatever FETCH. -/
theorem atomicValues : Obligations.AtomicValues := by
  intro old x cmp hold hx
  have hlow : ∀ v, v % 2 ^ 32 < 2 ^ 32 := fun v => Nat.mod_lt v (by decide)
  refine ⟨fun f hf => ?_, rfl, rfl, if_pos rfl, fun h => if_neg h, if_pos rfl, fun h => if_neg h⟩
  simp only [atomicResult_fetch hf]
  refine ⟨?_, rfl, rfl, rfl, rfl, rfl, pickExtreme_signed_of_le (ty := 1) (w := 8) (by decide) hold hx,
    pickExtreme_signed_of_gt (ty := 1) (w := 8) (by decide), ?_, ?_,
    rfl, rfl, rfl, rfl, rfl, rfl⟩
  · exact (Nat.add_mod old x _).symm
  · rw [← signed_mod 32 old, ← signed_mod 32 x]
    exact pickExtreme_signed_of_le (ty := 0) (w := 4) (by decide) (hlow old) (hlow x)
  · rw [← signed_mod 32 old, ← signed_mod 32 x]
    exact pickExtreme_signed_of_gt (ty := 0) (w := 4) (by decide)

/-! ### The replay filter (R202) -/

@[simp] theorem setFilter_mem (s : State) (k : Nat) (l : List FEntry) : (setFilter s k l).mem = s.mem := rfl
@[simp] theorem Blk.sat_mem (b : Blk) (s : State) (o k : Nat) : (b.sat s o k).mem = s.mem := rfl

/-- A tag that its set holds is answered DUPLICATE with the old value kept; the set loses only what is past its age. -/
theorem admitTag_of_found {s : State} {t : Tag} {old : Nat} (sg : Bool)
    (h : findTag (dropOld s (SMap.get dFilter s.filter (setOf t.src t.ctx t.seq))) t.src t.ctx (t.seq % 65536) = some old) :
    admitTag s sg t = (some (stDuplicate, old),
      setFilter s (setOf t.src t.ctx t.seq) (dropOld s (SMap.get dFilter s.filter (setOf t.src t.ctx t.seq)))) := by
  simp only [admitTag, h]

/-- An atomic answered DUPLICATE is not performed. -/
theorem filterAtomic_of_duplicate {s t : State} {r : Request} {old : Nat}
    (h : admitTag s (takesSingle s r) (ownTag r) = (some (stDuplicate, old), t)) (perform : State → Option Nat × State) :
    filterAtomic s r perform = (replyTo r stDuplicate (if reqFetch r then leBytes r.size old else []), Blk.fab.sat t 0x805C) := by
  simp [filterAtomic, h, countFilter]

/-- Settles O47: the filter answers before anything is performed, and changes only itself and counters. -/
theorem appliedAtomicIsNotAppliedAgain : Obligations.AppliedAtomicIsNotAppliedAgain := by
  intro s r old perform hone hfound
  have hadmit := admitTag_of_found (t := ownTag r) (takesSingle s r) hfound
  exact ⟨_, (if_pos hone).trans (filterAtomic_of_duplicate hadmit perform), by simp⟩

end Sys2Proof.Machine

/-! ### Fields of a written value -/

namespace Sys2Proof.Machine

/-- A replaced field leaves the bits below it. -/
theorem putBits_mod (v lo len x : Nat) : putBits v lo len x % 2 ^ lo = v % 2 ^ lo := by
  rw [putBits_eq, Nat.mul_add_mod, Nat.mod_mod]

/-- A replaced field reads as it was set. -/
theorem bits_putBits_same (v lo len x : Nat) : bits (putBits v lo len x) lo len = x % 2 ^ len := by
  have hlow : v % 2 ^ lo / 2 ^ lo = 0 := Nat.div_eq_of_lt (Nat.mod_lt v (Nat.two_pow_pos lo))
  rw [bits, putBits_eq, Nat.mul_add_div (Nat.two_pow_pos lo), hlow, Nat.add_zero, Nat.mul_add_mod, Nat.mod_mod]

theorem bits_putBits_below (v x : Nat) {lo len lo' len' : Nat} (h : lo' + len' ≤ lo) :
    bits (putBits v lo len x) lo' len' = bits v lo' len' := by
  rw [← bits_mod h, putBits_mod, bits_mod h]

theorem bit_putBits_same (v i : Nat) : bit (putBits v i 1 1) i = true := by
  have h := bits_putBits_same v i 1 1
  simpa [bit, bits] using h

/-! ### Writes of the Fabric's registers (R208, R214, R218, R220, R233, R234, R327) -/

section
variable {s t : State} {p : Nat} {b : Blk} {o : Nat} {r : RegDesc} {i v : Nat}

/-- A command that writes a value of 32 bits to a four-byte register does what the register's write does, and answers OK. -/
theorem cmdWr_of_writeOne (h : Admits s p b o 4 true) (hat : RegAt b o r i) (hs : r.size = 4) (hv : v < 2 ^ 32)
    (hw : writeOne s p b r o v = t) : cmdWr s b p o v = .next (answered t stOk []) := by
  rw [cmdWr_four h hat.found hs hat.above, ← hat.start, Nat.mod_eq_of_lt hv, hw]

/-- The same of a value of 64 bits and an eight-byte register. -/
theorem cmdWr8_of_writeOne (h : Admits s p b o 8 true) (hat : RegAt b o r i) (hs : r.size = 8) (hv : v < 2 ^ 64)
    (hw : writeOne s p b r o v = t) : cmdWr8 s b p o v = .next (answered t stOk []) := by
  rw [cmdWr8_eight h hat.found hs hat.start hat.above, Nat.mod_eq_of_lt hv, hw]

/-- An element of an array of registers, from where the array stands in its page. -/
theorem regAt_of_find {off size stride : Nat} (ho : o = off + i * stride) (habove : 0x40 ≤ o % 0x1000)
    (h : (b.find o).map (fun e => (e.1.off, e.1.size, e.1.stride, e.2)) = some (off, size, stride, i)) :
    ∃ r, RegAt b o r i ∧ r.size = size := by
  obtain ⟨⟨r, j⟩, hfind, hfields⟩ := Option.map_eq_some_iff.mp h
  simp only [Prod.mk.injEq] at hfields
  obtain ⟨hoff, hsize, hstride, hindex⟩ := hfields
  subst hindex
  exact ⟨r, ⟨hfind, by rw [hoff, hstride, ho], habove⟩, hsize⟩
end

/-! The places of the registers, and what each command writes there. -/

theorem regAt_migCmd : RegAt .fab 0x8098 (wo4 0x8098) 0 := ⟨rfl, rfl, by decide⟩
theorem regAt_replayWindow : RegAt .fab 0x8040 (rw4 0x8040 0x3FFF 0x64) 0 := ⟨rfl, rfl, by decide⟩
theorem regAt_rtData : RegAt .fab 0x1044 (rw4 0x1044 0xFFFFFF) 0 := ⟨rfl, rfl, by decide⟩
theorem regAt_psetData : RegAt .fab 0x1050 (rw8 0x1050 0x1FFFFFFFF) 0 := ⟨rfl, rfl, by decide⟩
theorem regAt_selfId : RegAt .fab 0x40 ⟨0x40, 4, .rwl, 0x8001FFFF, 0, 1, 4⟩ 0 := ⟨rfl, rfl, by decide⟩

section
variable {s : State} {p : Nat}

theorem cmdWr8_partEntry {k : Fin 16} {v : Nat} (h : Admits s p .fab (0x8100 + 16 * k.val) 8 true) (hv : v < 2 ^ 64) :
    cmdWr8 s .fab p (0x8100 + 16 * k.val) v = .next (answered (partWrite s k.val v) stOk []) := by
  obtain ⟨r, hat, hsize⟩ := regAt_of_find (by omega) (by omega) (find_partEntry k)
  exact cmdWr8_of_writeOne h hat hsize hv (writeOne_partEntry s p v r k.isLt)

theorem cmdWr8_weights {port : Fin 34} {v : Nat} (h : Admits s p .fab (0x100 + 8 * port.val) 8 true) (hv : v < 2 ^ 64) :
    cmdWr8 s .fab p (0x100 + 8 * port.val) v = .next (answered (weightsWrite s (0x100 + 8 * port.val) v) stOk []) := by
  obtain ⟨r, hat, hsize⟩ := regAt_of_find (by omega) (by omega) (find_weights port)
  exact cmdWr8_of_writeOne h hat hsize hv (writeOne_weights s p v r (by omega))

theorem replayWindowSet_of_range (s : State) {v : Nat} (hlo : 10 ≤ v % 2 ^ 14) (hhi : v % 2 ^ 14 ≤ 10000) :
    replayWindowSet s v = Blk.fab.wr
      { s with winHeld := if replayW s ≤ v % 2 ^ 14 then none else some (replayW s, s.now + replayW s) } 0x8040 (v % 2 ^ 14) := by
  have hfield : bits v 0 14 = v % 2 ^ 14 := by simp [bits]
  unfold replayWindowSet
  rw [hfield]
  exact if_neg (by omega)

theorem rtDataWrite_of_index (v : Nat) (h : bit (Blk.fab.rd s 0x1040) 31 = false) :
    rtDataWrite s v = { s with routes := SMap.set d0 s.routes (bits (Blk.fab.rd s 0x1040) 0 17) (v % 2 ^ 23) } :=
  if_neg (by rw [show fab = Blk.fab from rfl, h]; exact Bool.false_ne_true)

theorem psetDataWrite_of_index (v : Nat) (h : bits (Blk.fab.rd s 0x1048) 0 10 ≠ 0) :
    psetDataWrite s v = { s with psets := SMap.set d0 s.psets (bits (Blk.fab.rd s 0x1048) 0 10) (v % 2 ^ 33) } := if_neg h

/-- SELF_ID written with VALID in boot step 9 joins the fabric; the write itself changes no register of SVC. -/
theorem selfIdWrite_joins (hs : s.Canon) {v : Nat} (hv : bit v 31 = true) (hstep : bits (Blk.svc.rd s 0x40) 0 4 = 9)
    (hheld : s.held = false) : selfIdWrite s v = bootJoin (Blk.fab.wr s 0x40 (v % 2 ^ 17 + 2 ^ 31)) := by
  have hsvc : Blk.svc.rd (Blk.fab.wr s 0x40 (v % 2 ^ 17 + 2 ^ 31)) 0x40 = Blk.svc.rd s 0x40 :=
    Blk.rd_wr_other hs.regs .fab .svc _ (by decide)
  simp only [selfIdWrite, hv, if_true]
  exact if_pos ⟨trivial, (congrArg (bits · 0 4) hsvc).trans hstep, by simp [Blk.wr, wr, hheld]⟩

/-- A device that serves is out of reset. -/
theorem held_of_serving (h : serving s = true) : s.held = false := by
  simp only [serving, Bool.and_eq_true, Bool.not_eq_true'] at h
  exact h.1
end

/-! ### Migration commands (R218, Table 9.13) -/

/-- Command `k` for placement entry `i`, in a device that has a placement table. -/
structure MigOrder (s : State) (v k i : Nat) : Prop where
  entry : i = bits v 0 12
  named : i ≠ 0
  placed : placeBase s ≠ 0
  order : bits v 12 4 = k

/-- The value that a migration command writes is the order of its row. -/
theorem MigOrder.of_putBits {s : State} {v k i : Nat} (hk : k < 16) (hi : i = bits v 0 12) (hne : i ≠ 0) (hbase : placeBase s ≠ 0) :
    MigOrder s (putBits v 12 4 k) k i :=
  ⟨by rw [bits_putBits_below v k (by decide), hi], hne, hbase, (bits_putBits_same v 12 4 k).trans (Nat.mod_eq_of_lt hk)⟩

section
variable {s : State} {v i : Nat}

theorem migCmd_drain (h : MigOrder s v 1 i) (hst : entryState s i = plOwned) :
    migCmd s v = showMig { setEntryState s i plDraining with migs := migsBut s i ++ [{ entry := i }] } i plDraining false 0 := by
  obtain ⟨rfl, hne, hbase, hk⟩ := h
  simp only [migCmd, hbase, hne, hk, hst, or_self, if_false, if_true]

theorem migCmd_handover (h : MigOrder s v 2 i) (hst : entryState s i = plDraining) :
    migCmd s v = showMig { setEntryState s i plCopying with
        migs := migsBut s i ++ [{ entry := i, arrivals := arrivalsOf s i, handover := true }] } i plCopying true (arrivalsOf s i) := by
  obtain ⟨rfl, hne, hbase, hk⟩ := h
  simp only [migCmd, hbase, hne, hk, hst, or_self, if_false, if_true]

theorem migCmd_free (h : MigOrder s v 3 i) :
    migCmd s v = showMig { setEntryState s i plFree with migs := migsBut s i } i plFree false (arrivalsOf s i) := by
  obtain ⟨rfl, hne, hbase, hk⟩ := h
  simp only [migCmd, hbase, hne, hk, or_self, if_false]

theorem cmdWr_migCmd {t : State} {p k : Nat} {val : Word32} (hadm : Admits s p .fab 0x8098 4 true)
    (h : migCmd s (putBits val.toNat 12 4 k) = t) :
    cmdWr s .fab p 0x8098 (putBits val.toNat 12 4 k) = .next (answered t stOk []) :=
  cmdWr_of_writeOne hadm regAt_migCmd rfl (putBits_lt k val.isLt (by decide)) ((writeOne_migCmd s p _ _).trans h)
end

/-- Settles O21: each clause is one register's write. -/
theorem fabricRegisterWrites : Obligations.FabricRegisterWrites := by
  intro s p
  refine ⟨fun k val hadm => ?part, fun val i hi hne hbase hadm => ?mig, fun val hadm hlo hhi => ?window, fun val hadm hindex => ?route,
    fun val hadm hindex => ?pset, fun port val hadm => ?weights, fun val hc hadm hunlocked hstep => ?join⟩
  case part =>
    exact ⟨cmdWr8_partEntry hadm (putBits_lt 1 val.isLt (by decide)), cmdWr8_partEntry hadm (putBits_lt 0 val.isLt (by decide))⟩
  case mig =>
    have order : ∀ k, k < 16 → MigOrder s (putBits val.toNat 12 4 k) k i := fun k hk => .of_putBits hk hi hne hbase
    exact ⟨fun hst => cmdWr_migCmd hadm (migCmd_drain (order 1 (by decide)) hst),
      fun hst => cmdWr_migCmd hadm (migCmd_handover (order 2 (by decide)) hst),
      cmdWr_migCmd hadm (migCmd_free (order 3 (by decide)))⟩
  case window =>
    exact cmdWr_of_writeOne hadm regAt_replayWindow rfl val.isLt
      ((writeOne_replayWindow s p _ _).trans (replayWindowSet_of_range s hlo hhi))
  case route =>
    exact cmdWr_of_writeOne hadm regAt_rtData rfl val.isLt ((writeOne_rtData s p _ _).trans (rtDataWrite_of_index _ hindex))
  case pset =>
    exact cmdWr8_of_writeOne hadm regAt_psetData rfl val.isLt ((writeOne_psetData s p _ _).trans (psetDataWrite_of_index _ hindex))
  case weights => exact cmdWr8_weights hadm val.isLt
  case join =>
    have hjoin := selfIdWrite_joins hc (bit_putBits_same val.toNat 31) hstep (held_of_serving hadm.serves)
    have hlow : putBits val.toNat 31 1 1 % 2 ^ 17 = val.toNat % 2 ^ 17 := by
      simpa [bits] using bits_putBits_below val.toNat 1 (show 0 + 17 ≤ 31 by decide)
    rw [hlow] at hjoin
    exact cmdWr_of_writeOne hadm regAt_selfId rfl (putBits_lt 1 val.isLt (by decide))
      ((writeOne_selfId s p _ _ hunlocked).trans hjoin)

end Sys2Proof.Machine

/-! ### Requests at their destination (R190, R191, R198, R213) -/

namespace Sys2Proof.Machine

section
variable {s s1 : State} {r : Request} {rep : Reply}

theorem sendReply_of_foreign (h : r.src ≠ selfId s) :
    sendReply s r rep = enterRouter s (.rep rep r.part 0 (32 + (dieOfOffset s (offOf r.addr)).getD 0)) := by
  unfold sendReply
  rw [if_neg h]
  cases dieOfOffset s (offOf r.addr) <;> rfl

/-- A request of the row is served, and its reply sent. -/
theorem arrive_of_row {isRow : Bool} (hrow : isRow = true) (hserves : serving s = true) (hhere : devOf r.addr = selfId s)
    (hserve : serve (takeArrived s r) r = (rep, s1)) : arrive s r isRow = sendReply s1 r rep := by
  unfold arrive
  rw [if_pos ⟨hrow, hserves, hhere⟩, hserve]

/-- An earlier store, atomic or held flag of a flag's flow precedes it here. -/
def precededHere (s : State) (r : Request) : Prop :=
  flowWaits s r = true ∨ s.heldFlags.any (fun h => h.req.src = r.src && h.req.ctx = r.ctx && h.req.vc = r.vc) = true

/-- A flag that nothing precedes is performed as it arrives. -/
theorem execFlaggedStore_of_free (port : Fin 34) (hfree : ¬ precededHere s r) :
    execFlaggedStore port r s = .next (arrive s r (reqFlag r)) := congrArg _ (if_neg fun h => hfree h.2.1)

section
variable {port : Fin 34} (hflag : reqFlag r = true) (hpreceded : precededHere s r) (hserves : serving s = true)
  (hhere : devOf r.addr = selfId s)
include hflag hpreceded hserves hhere

theorem execFlaggedStore_holds (hchecked : checked (takeArrived s r) r = (none, s1)) :
    execFlaggedStore port r s = .next { s1 with heldFlags := s1.heldFlags ++ [⟨r, port.val⟩] } := by
  unfold execFlaggedStore
  rw [if_pos ⟨hflag, hpreceded, hserves, hhere⟩, hchecked]

theorem execFlaggedStore_answers (hchecked : checked (takeArrived s r) r = (some rep, s1)) :
    execFlaggedStore port r s = .next (sendReply s1 r rep) := by
  unfold execFlaggedStore
  rw [if_pos ⟨hflag, hpreceded, hserves, hhere⟩, hchecked]
end

theorem exec_flagDevicePerform_head {h : HeldFlag} {rest : List HeldFlag} (hheld : s.heldFlags = h :: rest)
    (hfree : flowWaits s h.req = false) (hperform : performRequest { s with heldFlags := rest } h.req = (rep, s1)) :
    exec .flagDevicePerform s = .next (sendReply s1 h.req rep) := by
  show execFlagDevicePerform s = _
  simp [execFlagDevicePerform, hheld, hfree, hperform]

theorem exec_flagAllRelease_releases {ctx : Nat} {o : OutReq}
    (hfind : s.outs.find? (fun o => o.req.ctx = ctx && o.flagAll && o.phase = .rowHeld) = some o) (hfree : mustHold s o = false) :
    exec (.flagAllRelease ctx) s = .next (settleOuts (releaseOne s o)) := by
  show execFlagAllRelease ctx s = _
  simp [execFlagAllRelease, hfind, hfree]
end

theorem reqFlag_of_op {r : Request} (h : r.op = 0x20) : reqFlag r = true := by simp [reqFlag, h, bits]

/-- Settles O43: each row names the operation of the request, which is then served and answered. -/
theorem remoteRequestsServed : Obligations.RemoteRequestsServed := by
  intro port s r rep s1 die hserves hhere hserve hsrc hdie t ht
  subst ht hdie
  have served : ∀ {isRow : Bool}, isRow = true → (.next (arrive s r isRow) : Out) =
      .next (enterRouter s1 (.rep rep r.part 0 (32 + (dieOfOffset s1 (offOf r.addr)).getD 0))) := fun hrow =>
    congrArg _ ((arrive_of_row hrow hserves hhere hserve).trans (sendReply_of_foreign hsrc))
  have atomic : ∀ k, r.op % 16 = k → decide (reqKind r = k) = true := fun k hk => decide_eq_true hk
  refine ⟨fun hop => ?load, fun hop => ?store, fun hop hflow hheld => ?flag, fun h => served (atomic 1 h), fun h => served (atomic 2 h),
    fun h => served (atomic 3 h), fun h => served (atomic 4 h), fun h => served (atomic 5 h), fun h => served (atomic 6 h),
    fun h => served (atomic 7 h), fun h => served (atomic 8 h)⟩
  case load => exact served (by simp [reqLoad, hop, bits])
  case store => exact served (by simp [reqLoad, reqFlag, reqKind, hop, bits])
  case flag =>
    have hfree : ¬ precededHere s r := by simp [precededHere, hflow, hheld]
    exact (execFlaggedStore_of_free port hfree).trans (served (reqFlag_of_op hop))

/-- Settles O44: on arrival the checks decide, later the order of the flow. -/
theorem flagsWaitForTheirFlow : Obligations.FlagsWaitForTheirFlow := fun _ =>
  ⟨fun _ _ hop hserves hhere hpreceded =>
      ⟨fun _ => execFlaggedStore_holds (reqFlag_of_op hop) hpreceded hserves hhere,
        fun _ _ => execFlaggedStore_answers (reqFlag_of_op hop) hpreceded hserves hhere⟩,
    fun _ _ _ _ => exec_flagDevicePerform_head, fun _ _ => exec_flagAllRelease_releases⟩

end Sys2Proof.Machine

/-! ### Replies to outstanding requests (R203, R307) -/

namespace Sys2Proof.Machine

/-- The state without the reply among the packets that have arrived. -/
def replyTaken (s : State) (r : Reply) : State :=
  { s with arrived := s.arrived.filter (fun k => match k with
    | .rep x _ _ _ => !(decide (x = r))
    | .req _ _ _ => true) }

/-- The bytes and the energy of a reply of `n` bytes counted for the one who issued request `o`. -/
def replyCounted (s : State) (o : OutReq) (r : Reply) (n : Nat) : State :=
  match o.waiter.seq with
  | some q => seqEnergy (remoteCount s r.ctx n false) q .link n (dataPage q (!reqLoad o.req))
  | none =>
    if h : r.ctx / 12 < 160 then
      (if 4 ≤ r.ctx % 12 then threadEnergy (remoteCount s r.ctx n false) ⟨r.ctx / 12, h⟩ .link n
      else remoteCount s r.ctx n false)
    else remoteCount s r.ctx n false

section
variable {s : State} {o : OutReq} {r : Reply} {n : Nat}

theorem replyCounted_of_seq {q : SeqId} (h : o.waiter.seq = some q) :
    replyCounted s o r n = seqEnergy (remoteCount s r.ctx n false) q .link n (dataPage q (!reqLoad o.req)) := by
  simp only [replyCounted, h]

theorem replyCounted_of_thread {t : Fin 160} (h : o.waiter.seq = none) (htile : r.ctx / 12 = t.val) (hthread : 4 ≤ r.ctx % 12) :
    replyCounted s o r n = threadEnergy (remoteCount s r.ctx n false) t .link n := by
  simp [replyCounted, h, htile, hthread]

/-- A context of no tile is not counted. -/
theorem replyCounted_of_noTile (h : o.waiter.seq = none) (hctx : 1920 ≤ r.ctx) : replyCounted s o r n = s := by
  have htile : ¬ r.ctx / 12 < 160 := by omega
  simp [replyCounted, remoteCount, h, htile]

/-- A reply to an outstanding request reaches it, once counted. -/
theorem exec_replyArrive_delivers {port : Fin 34} {t : State}
    (hfound : s.outs.find? (fun o => o.req.ctx = r.ctx && o.req.seq % 65536 = r.seq && o.copies ≠ 0) = some o)
    (hcounted : replyCounted (replyTaken s r) o r (pktSize (.rep r 0 0 port.val)) = t) (hdst : r.dst = selfId t) :
    exec (.replyArrive port r) s = .next (settleOuts (onReply t r)) := by
  show execReplyArrive port r s = _
  subst hcounted
  simp only [execReplyArrive, hfound]
  exact congrArg _ (if_pos hdst)
end

/-! ### Reissues and ends of outstanding requests (R200, R201, R202, R210, R211, R216) -/

section
variable {s : State} {id : Nat} {o : OutReq} (hfind : findOut s id = some o)
include hfind

/-- A request without a final reply for its RETRY_PERIOD is sent again: an atomic while its age is below W, another one always in class
GANG, and before its timeout in class ISOLATED. -/
theorem exec_requestReissue_sends (hsent : o.phase = .sent) (hperiod : o.retryPeriod ≤ s.now - o.lastIssue)
    (hmay : if reqAtomic o.req then s.now - o.firstIssue < replayW s
      else o.req.isolated = true → s.now - o.firstIssue < isoTimeout s o.req.part) :
    exec (.requestReissue id) s = .next (settleOuts (sendCopy s o (portOfCtx s o.req.ctx))) := by
  show execRequestReissue id s = _
  simp only [execRequestReissue, hfind]
  refine congrArg _ (if_pos ⟨hsent, hperiod, ?_⟩)
  cases hatomic : reqAtomic o.req with
  | true => simpa [hatomic] using hmay
  | false => cases hclass : o.req.isolated with
    | true => simpa [hatomic, hclass, reissueUntil] using hmay
    | false => simp

theorem exec_waitReissue_sends {due : Nat} (hphase : o.phase = .waitUntil due) (hdue : due ≤ s.now) :
    exec (.waitReissue id) s = .next (settleOuts (sendCopy s o (portOfCtx s o.req.ctx))) := by
  show execWaitReissue id s = _
  simp only [execWaitReissue, hfind, hphase, hdue, if_true]

theorem exec_filterBusyReissue_sends {due : Nat} (hphase : o.phase = .busyUntil due) (hdue : due ≤ s.now) :
    exec (.filterBusyReissue id) s = .next (settleOuts (sendCopy s o (portOfCtx s o.req.ctx))) := by
  show execFilterBusyReissue id s = _
  simp only [execFilterBusyReissue, hfind, hphase, hdue, if_true]

/-- A GANG request past its timeout is recorded and reported once, and stays outstanding. -/
theorem exec_gangLost_reports {u : State} (hclass : o.req.isolated = false) (honce : o.gangRaised = false) (hsent : o.copies ≠ 0)
    (hlate : o.gangTimeout ≤ s.now - o.firstIssue)
    (hu : u = fabRaise (Blk.fab.event (faultRecord s o.req stUnknown) 17) 0x0107 o.req) :
    exec (.gangLost id) s = .next (modOut { u with reports := u.reports ++ [.gangLost (devOf o.req.addr) o.req.part] } id
      (fun o => { o with gangRaised := true })) := by
  show execGangLost id s = _
  subst hu
  simp only [execGangLost, hfind]
  exact congrArg _ (if_pos ⟨by simp [hclass], by simp [honce], hsent, hlate⟩)

theorem exec_isoTimeout_ends (hclass : o.req.isolated = true) (hsent : o.copies ≠ 0)
    (hlate : isoTimeout s o.req.part ≤ s.now - o.firstIssue) :
    exec (.isoTimeout id) s =
      .next (settleOuts (finish s o (if o.copies ≤ o.refusedCopies then stNotApplied else stUnknown) [])) := by
  show execIsoTimeout id s = _
  simp only [execIsoTimeout, hfind]
  exact congrArg _ (if_pos ⟨hclass, hsent, hlate⟩)
end

/-- A held block of sequences whose last use is long past goes, and the time it was held is counted. -/
theorem exec_seqHoldRelease_releases {s : State} {ctx : Nat} {o : OutReq}
    (hfind : s.outs.find? (fun o => o.req.ctx = ctx && o.phase = .seqHeld) = some o) (hpast : seqRecent s ctx o.req.seq = false) :
    exec (.seqHoldRelease ctx) s = .next (settleOuts { Blk.fab.sat s 0x808C (2000 * (s.now - o.firstIssue)) with
      outs := s.outs.map (fun e => if e.req.ctx = ctx ∧ e.phase = .seqHeld ∧ e.req.seq / 32 = o.req.seq / 32
        then { e with phase := .held } else e) }) := by
  show execSeqHoldRelease ctx s = _
  simp only [execSeqHoldRelease, hfind]
  exact congrArg _ (if_neg (by simp [hpast]))

/-- Settles O48: a reply is delivered once counted for its issuer, and each other clause is one event of an outstanding request. -/
theorem outstandingRequests : Obligations.OutstandingRequests := by
  intro s
  refine ⟨fun port r o u v n hfound hdst hu hn hv => ⟨fun hseq hctx => ?noTile, fun t hseq htile hthread hself => ?thread,
    fun q hseq hself => ?seq⟩, fun id o hfind => ⟨fun hsent hperiod hatomic hage => ?atomic, fun hsent hperiod hplain hclass => ?gang,
    fun hsent hperiod hplain hclass hage => ?isolated, fun _ => exec_waitReissue_sends hfind, fun _ => exec_filterBusyReissue_sends hfind,
    fun hclass honce hsent hlate u => exec_gangLost_reports hfind hclass honce hsent hlate, exec_isoTimeout_ends hfind,
    fun _ => exec_seqHoldRelease_releases⟩⟩
  case noTile =>
    subst hu
    exact exec_replyArrive_delivers hfound (replyCounted_of_noTile hseq hctx) hdst
  case thread =>
    subst hu hn hv
    exact exec_replyArrive_delivers hfound (replyCounted_of_thread hseq htile hthread) (hdst.trans hself.symm)
  case seq =>
    subst hu hn hv
    exact exec_replyArrive_delivers hfound (replyCounted_of_seq hseq) (hdst.trans hself.symm)
  case atomic => exact exec_requestReissue_sends hfind hsent hperiod (by simpa [hatomic] using hage)
  case gang => exact exec_requestReissue_sends hfind hsent hperiod (by simp [hplain, hclass])
  case isolated => exact exec_requestReissue_sends hfind hsent hperiod (by simpa [hplain, hclass] using hage)

end Sys2Proof.Machine

/-! ### The filter's ages, the replay window and migrations (R202, R218, R220) -/

namespace Sys2Proof.Machine

section
variable {s : State}

theorem exec_replayWindowLowerDone_ends {w due : Nat} (hheld : s.winHeld = some (w, due)) (hdue : due ≤ s.now) :
    exec .replayWindowLowerDone s = .next { s with winHeld := none } := by
  show execReplayWindowLowerDone s = _
  simp only [execReplayWindowLowerDone, hheld, hdue, if_true]

theorem exec_migTransfer_sends {m : Mig} (hfind : s.migs.find? (fun m => m.handover && !m.sent && !heldIn s m.entry) = some m) :
    exec .migTransfer s = .next (sendMigration s m) := by
  show execMigTransfer s = _
  simp only [execMigTransfer, hfind]
end

/-! ### Routing (R201, R206, R235) -/

section
variable {s : State} {port : Fin 34} {sub : Nat} {rest : List Packet} (hjoined : bit (Blk.fab.rd s 0x40) 31 = true)
include hjoined

theorem exec_routePacket_reply {r : Reply} {part : Nat} (hqueue : s.toRoute = .rep r part sub port.val :: rest) :
    exec (.routePacket port) s =
      .next (passReply (freeInput { s with toRoute := rest } (.rep r part sub port.val)) r part sub port.val) := by
  show execRoutePacket port s = _
  simp [execRoutePacket, hqueue, hjoined, pktInPort]

/-- A request in turn at its input, once taken: one that is no atomic and no flag is combined or forwarded. -/
theorem exec_routePacket_plain {r : Request} {u : State} (hqueue : s.toRoute = .req r sub port.val :: rest)
    (hplain : reqAtomic r = false) (hflag : reqFlag r = false) (hu : u = freeInput { s with toRoute := rest } (.req r sub port.val)) :
    exec (.routePacket port) s = .next (
      if u.passBy.contains r then forward { u with passBy := u.passBy.erase r } (.req r sub port.val)
      else if combinable r then combine u r sub port.val else forward u (.req r sub port.val)) := by
  show execRoutePacket port s = _
  subst hu
  simp [execRoutePacket, hqueue, hjoined, pktInPort, hplain, hflag]
end

/-- An entry whose window is over, and for whose first reply no load waits, ends; what it has collected is forwarded. -/
theorem exec_combWindowClose_ends {s : State} {i : Nat} {e : CombEntry} (hentry : s.comb[i]? = some e) (hover : 2 ≤ s.now - e.openedAt)
    (halone : e.followers = []) {t : State} (ht : t = setComb s (s.comb.filter (fun x => !(decide (x = e))))) :
    exec (.combWindowClose i) s = .next (flushComb t e (portOfCtx t e.first.ctx)) := by
  show execCombWindowClose i s = _
  subst ht
  have hopen : ¬ s.now - e.openedAt < 2 := by omega
  simp [execCombWindowClose, hentry, hopen, halone]

/-! ### Sending (R209, R231, R233, R235) -/

section
variable {s : State} {port : Fin 34} {k : Packet} {y : Port}

section
variable (hdie : 32 ≤ port.val)
include hdie

theorem exec_packetSend_toDie (hpick : drr true (Blk.fab.rd s (0x100 + 8 * port.val)) 100 (getPort s port.val) = some (k, y)) :
    exec (.packetSend port) s = .next (countPacket
      { setPort s port.val (takeOut y true k) with arrived := s.arrived ++ [k] } port.val k false) := by
  show execPacketSend port s = _
  simp only [execPacketSend, hdie, if_true, hpick]

theorem exec_packetSend_idle (hpick : drr true (Blk.fab.rd s (0x100 + 8 * port.val)) 100 (getPort s port.val) = none) :
    exec (.packetSend port) s = .next (setPort s port.val (idleDeficits (getPort s port.val))) := by
  show execPacketSend port s = _
  simp only [execPacketSend, hdie, if_true, hpick]
end

section
variable (hlink : port.val < 32)
include hlink

theorem exec_packetSend_down {rest : List Packet} (hdown : portUp s port.val = false) (hqueue : (getPort s port.val).outq = k :: rest) :
    exec (.packetSend port) s = .next (forward (setPort s port.val { getPort s port.val with outq := rest }) k) := by
  show execPacketSend port s = _
  simp only [execPacketSend, Nat.not_le_of_lt hlink, if_false, hdown, Bool.not_false, if_true, hqueue]

section
variable (hup : portUp s port.val = true)
include hup

theorem exec_packetSend_dead (hdead : deadAt s (getPort s port.val) = some k) :
    exec (.packetSend port) s = .next (noRoute
      (setPort s port.val { getPort s port.val with outq := (getPort s port.val).outq.erase k }) k) := by
  show execPacketSend port s = _
  simp only [execPacketSend, Nat.not_le_of_lt hlink, if_false, hup, Bool.not_true, Bool.false_eq_true, hdead]

theorem exec_packetSend_link (hdead : deadAt s (getPort s port.val) = none) :
    exec (.packetSend port) s = .next (linkSend s port.val) := by
  show execPacketSend port s = _
  simp only [execPacketSend, Nat.not_le_of_lt hlink, if_false, hup, Bool.not_true, Bool.false_eq_true, hdead]
end
end

/-- The packet picked goes into flits while the replay buffer has room for them. -/
theorem linkSend_of_room {p : Nat} (hpick : drr false (Blk.fab.rd s (0x100 + 8 * p)) 100 (getPort s p) = some (k, y))
    (hroom : (getPort s p).txBuf.length + newFlits (getPort s p) (pktSize k) ≤ 512) :
    linkSend s p = noteBlocked (countPacket
      (setPort s p (toFlits (takeOut y false k) (encodePacket (outPacket (getPort s p) k))
        (drr false (Blk.fab.rd s (0x100 + 8 * p)) 100 (takeOut y false k)).isNone)) p k false) p := by
  unfold linkSend
  simp only [hpick]
  exact if_neg (by omega)
end

/-- A head held for credit beyond CREDIT_TIMEOUT raises its event and its error, and is marked as raised. -/
theorem exec_creditTimeout_raises {s : State} {port : Fin 34} {vc : Fin 8} {v since : Nat}
    (hfind : (getPort s port.val).blockedSince.find?
      (fun e => e.1 / 2 = vc.val && !(getPort s port.val).creditRaised.contains e.1) = some (v, since))
    (hset : Blk.fab.rd s 0x44 ≠ 0) (hlate : Blk.fab.rd s 0x44 < s.now - since) :
    exec (.creditTimeout port vc) s = .next (Blk.fab.raise (Blk.fab.event (setPort s port.val
      { getPort s port.val with creditRaised := (getPort s port.val).creditRaised ++ [v] }) 23) 0x0109 0
      (port.val + 2 ^ 8 * vc.val)) := by
  show execCreditTimeout port vc s = _
  simp only [execCreditTimeout, hfind]
  exact congrArg _ (if_neg (by omega))

/-- Settles O49: each clause is one event of the filter, of a migration or of the router. -/
theorem fabricEvents : Obligations.FabricEvents := by
  intro s
  refine ⟨fun _ => rfl, fun _ _ => exec_replayWindowLowerDone_ends, fun _ => exec_migTransfer_sends,
    fun _ _ _ _ _ hqueue hjoined => exec_routePacket_reply hjoined hqueue,
    fun port r sub rest hqueue hjoined hplain hflag u hu => ?request, fun _ _ _ => exec_packetSend_toDie, fun _ => exec_packetSend_idle,
    fun port k y hlink hup hdead hpick hroom => ?link, fun _ _ _ hlink hdown hqueue => exec_packetSend_down hlink hdown hqueue,
    fun _ _ => exec_packetSend_dead, fun _ _ hentry hover halone _ => exec_combWindowClose_ends hentry hover halone,
    fun _ _ _ _ => exec_creditTimeout_raises⟩
  case request =>
    rw [exec_routePacket_plain hjoined hqueue hplain hflag hu]
    refine ⟨fun hpass hcomb => ?_, fun hpass => ?_⟩
    · simp only [hpass, hcomb, Bool.false_eq_true, if_false]
    · simp only [hpass, if_true]
  case link => rw [exec_packetSend_link hlink hup hdead, linkSend_of_room hpick hroom]

end Sys2Proof.Machine

/-! ### Commands of the LNK page (R228, R229, R231, R244) -/

namespace Sys2Proof.Machine

/-- What lies above a replaced field stays. -/
theorem putBits_div (v lo len x : Nat) : putBits v lo len x / 2 ^ lo / 2 ^ len = v / 2 ^ lo / 2 ^ len := by
  have hlow : v % 2 ^ lo / 2 ^ lo = 0 := Nat.div_eq_of_lt (Nat.mod_lt v (Nat.two_pow_pos lo))
  have hfield : x % 2 ^ len / 2 ^ len = 0 := Nat.div_eq_of_lt (Nat.mod_lt x (Nat.two_pow_pos len))
  rw [putBits_eq, Nat.mul_add_div (Nat.two_pow_pos lo), hlow, Nat.add_zero, Nat.mul_add_div (Nat.two_pow_pos len), hfield,
    Nat.add_zero]

theorem bits_putBits_above (v x : Nat) {lo len lo' len' : Nat} (h : lo + len ≤ lo') :
    bits (putBits v lo len x) lo' len' = bits v lo' len' := by
  obtain ⟨k, rfl⟩ := Nat.exists_eq_add_of_le h
  simp only [bits, Nat.pow_add, ← Nat.div_div_eq_div_mul, putBits_div]

theorem regAt_lnkCfg (n : Fin 32) : RegAt (.lnk n) 0x40 (rw4 0x40 0xF) 0 := ⟨rfl, rfl, by decide⟩
theorem regAt_lnkCmd (n : Fin 32) : RegAt (.lnk n) 0x50 (wo4 0x50) 0 := ⟨rfl, rfl, by decide⟩
theorem regAt_lnkCredit (n : Fin 32) : RegAt (.lnk n) 0x64 (rw4 0x64 m32 0x44444444) 0 := ⟨rfl, rfl, by decide⟩

theorem writeOne_lnkCfg (s : State) (p v : Nat) (n : Fin 32) :
    writeOne s p (.lnk n) (rw4 0x40 0xF) 0x40 v = (Blk.lnk n).wr s 0x40 (v &&& 0xF) := rfl

section
variable {s : State} {n : Fin 32} {v : Nat}

theorem lnkCmd_retrain (hcmd : bits v 0 2 = 1) (hup : linkState s n = 6) : lnkCmd s n v = startRetrain s n := by
  simp only [lnkCmd, hcmd, hup, if_true]

theorem lnkCmd_spare (hcmd : bits v 0 2 = 2) (hfull : (getPort s n.val).badLanes = []) (hlane : bits v 4 4 < 8) :
    lnkCmd s n v = dropLane s n (bits v 4 4) 0 := by
  simp only [lnkCmd, hcmd, hfull, hlane, and_self, if_true]

theorem lnkCmd_retry (hcmd : bits v 0 2 = 3) (hlost : (getPort s n.val).laneLost = true) :
    lnkCmd s n v = startTraining (modPort s n.val (fun x => { x with laneLost := false, badLanes := [] })) n := by
  simp only [lnkCmd, hcmd, hlost, if_true]

theorem creditRegWrite_of_fits (h : ((List.range 8).map (fun i => bits v (4 * i) 4)).sum ≤ 64) :
    creditRegWrite s n v = (Blk.lnk n).wr s 0x64 v := if_neg (Nat.not_lt.mpr h)

/-- The value that a row of LNK.CMD writes is the command of the row. -/
theorem cmdWr_lnkCmd {t : State} {q k : Nat} {val : Word32} (hadm : Admits s q (.lnk n) 0x50 4 true)
    (h : lnkCmd s n (putBits val.toNat 0 2 k) = t) :
    cmdWr s (.lnk n) q 0x50 (putBits val.toNat 0 2 k) = .next (answered t stOk []) :=
  cmdWr_of_writeOne hadm (regAt_lnkCmd n) rfl (putBits_lt k val.isLt (by decide)) ((writeOne_lnkCmd s q _ _ n).trans h)
end

/-- Settles O22: each clause is one register's write. -/
theorem linkRegisterWrites : Obligations.LinkRegisterWrites := by
  intro s q n val
  have hcmd : ∀ k, k < 4 → bits (putBits val.toNat 0 2 k) 0 2 = k := fun k hk =>
    (bits_putBits_same val.toNat 0 2 k).trans (Nat.mod_eq_of_lt hk)
  have hlane : bits (putBits val.toNat 0 2 2) 4 4 = bits val.toNat 4 4 := bits_putBits_above val.toNat 2 (by decide)
  refine ⟨fun hadm => ⟨fun hup => ?retrain, fun hfull hlow => ?spare, fun hlost => ?retry⟩, fun hadm => ?cfg,
    fun hadm hfits => ?credit⟩
  case retrain => exact cmdWr_lnkCmd hadm (lnkCmd_retrain (hcmd 1 (by decide)) hup)
  case spare =>
    rw [← hlane] at hlow ⊢
    exact cmdWr_lnkCmd hadm (lnkCmd_spare (hcmd 2 (by decide)) hfull hlow)
  case retry => exact cmdWr_lnkCmd hadm (lnkCmd_retry (hcmd 3 (by decide)) hlost)
  case cfg => exact cmdWr_of_writeOne hadm (regAt_lnkCfg n) rfl val.isLt (writeOne_lnkCfg s q _ n)
  case credit =>
    exact cmdWr_of_writeOne hadm (regAt_lnkCredit n) rfl val.isLt
      ((writeOne_credit s q _ _ n).trans (creditRegWrite_of_fits hfits))

end Sys2Proof.Machine

/-! ### Flits received (R223, R225, R231) -/

namespace Sys2Proof.Machine

/-- A write in a link page leaves the registers of SVC. -/
theorem svc_rd_wr_lnk {s : State} (h : SMap.wf resetVal s.regs = true) (p : Fin 32) (o v : Nat) {k : Nat} (hk : k < 0x4000) :
    Blk.svc.rd ((Blk.lnk p).wr s o v) k = Blk.svc.rd s k :=
  Blk.rd_wr_other h _ _ _ (by simp only [Blk.base]; omega)

theorem portUp_fin (s : State) (p : Fin 32) : portUp s p.val = (decide (linkState s p = 6) && !(isBridge s && decide (30 ≤ p.val))) :=
  dif_pos p.isLt

/-- A port stays UP over a write in its page, but for that of STATE. -/
theorem portUp_wr_lnk {s : State} (h : SMap.wf resetVal s.regs = true) (p : Fin 32) {o : Nat} (v : Nat) (ho : 0x44 ≠ o) :
    portUp ((Blk.lnk p).wr s o v) p.val = portUp s p.val := by
  rw [portUp_fin, portUp_fin]
  unfold linkState isBridge
  rw [svc_rd_wr_lnk h p o v (by decide), Blk.rd_wr_ne h _ v ho]

section
variable {s u : State} {p : Fin 32} {f : Flit} (hc : s.Canon) (hup : portUp s p.val = true) (huncorr : f.uncorr = 0)
  (hu : u = (Blk.lnk p).add s 0x68 f.corrected)

/-- Of a flit with no uncorrectable codeword only the corrected symbols are counted. -/
theorem countCodewords_correctable (s : State) (p : Fin 32) {f : Flit} (h : f.uncorr = 0) :
    countCodewords s p f = (Blk.lnk p).add s 0x68 f.corrected := if_pos h

include hc hup hu in
theorem portUp_counted : portUp u p.val = true := by
  subst hu
  exact (portUp_wr_lnk hc.regs p _ (by decide)).trans hup

include hc hup huncorr hu

theorem exec_dataFlitReceive_badCrc (hcrc : flitCrcOk f.bytes = false) :
    exec (.dataFlitReceive p f) s = .next (modPort ((Blk.lnk p).sat u 0x74) p.val
      (fun x => { x with discarding := true, nakPending := true })) := by
  show execDataFlitReceive p f s = _
  have hregs : SMap.wf resetVal u.regs = true := by subst hu; exact Blk.wf_wr hc.regs _ _ _
  have hstays : portUp ((Blk.lnk p).sat u 0x74) p.val = true :=
    (portUp_wr_lnk hregs p _ (by decide)).trans (portUp_counted hc hup hu)
  simp only [execDataFlitReceive, hup, countCodewords_correctable s p huncorr, ← hu, hcrc, hstays, Bool.not_true, Bool.not_false,
    Bool.false_eq_true, if_false, if_true, true_or]

section
variable (hcrc : flitCrcOk f.bytes = true)
include hcrc

theorem exec_dataFlitReceive_badPair (hpair : f.pairBad = true) :
    exec (.dataFlitReceive p f) s = .next (modPort u p.val (fun x => { x with discarding := true, nakPending := true })) := by
  show execDataFlitReceive p f s = _
  simp only [execDataFlitReceive, hup, countCodewords_correctable s p huncorr, ← hu, hcrc, portUp_counted hc hup hu, hpair,
    Bool.not_true, Bool.false_eq_true, if_false, if_true, or_true]

section
variable (hpair : f.pairBad = false)
include hpair

theorem exec_dataFlitReceive_passes (hother : flitKind f.bytes ≠ flitData ∨ flitSeq f.bytes ≠ (getPort s p.val).expect) :
    exec (.dataFlitReceive p f) s = .next u := by
  show execDataFlitReceive p f s = _
  have hport : getPort u p.val = getPort s p.val := by subst hu; rfl
  simp only [execDataFlitReceive, hup, countCodewords_correctable s p huncorr, ← hu, hcrc, portUp_counted hc hup hu, hpair, hport,
    Bool.not_true, Bool.false_eq_true, or_self, if_false, if_true, if_pos hother]

theorem exec_dataFlitReceive_takes (hkind : flitKind f.bytes = flitData) (hseq : flitSeq f.bytes = (getPort s p.val).expect)
    {l : List Byte} {r : List Packet × List Byte} (hl : l = (getPort s p.val).rx ++ flitPayload f.bytes)
    (hr : r = takePackets p.val (l.length / 8 + 1) l) :
    exec (.dataFlitReceive p f) s = .next (forEach r.1
      (modPort u p.val (fun x => { x with expect := (x.expect + 1) % 4096, discarding := false, nakPending := false, rx := r.2 }))
      (fun v k => countPacket { v with toRoute := v.toRoute ++ [withPart v k] } p.val (withPart v k) true)) := by
  show execDataFlitReceive p f s = _
  have hport : getPort u p.val = getPort s p.val := by subst hu; rfl
  simp only [execDataFlitReceive, hup, countCodewords_correctable s p huncorr, ← hu, hcrc, portUp_counted hc hup hu, hpair, hport,
    hkind, hseq, ne_eq, not_true_eq_false, Bool.not_true, Bool.false_eq_true, or_self, if_false, if_true, ← hl, ← hr]

/-- A sound control flit acknowledges, adds credits, and with NAK sends the kept flits again. -/
theorem exec_controlFlitReceive_sound (hkind : flitKind f.bytes = flitControl) {c : List Byte} {kept again : List TxFlit}
    (hpayload : c = flitPayload f.bytes)
    (hkept : kept = (getPort s p.val).txBuf.filter (fun t => 512 < (ctlAck c + 4096 - t.seq) % 4096 + 1))
    (hagain : again = if ctlNak c then kept.map (fun t => { t with resent := t.resent + 1 }) else kept) :
    exec (.controlFlitReceive p f) s = .next (noteEyes (noteBlocked
      (setPort (if ctlNak c then (Blk.lnk p).sat u 0x78 else u) p.val { getPort s p.val with
        txBuf := again, credit := addCredits (getPort s p.val).credit (ctlCredits c),
        wire := (getPort s p.val).wire ++ (if ctlNak c then again.map (fun t => t.bytes) else []) }) p.val) p f.eyes) := by
  show execControlFlitReceive p f s = _
  have hport : getPort u p.val = getPort s p.val := by subst hu; rfl
  simp only [execControlFlitReceive, hup, countCodewords_correctable s p huncorr, ← hu, hcrc, portUp_counted hc hup hu, hpair, hport,
    hkind, ne_eq, not_true_eq_false, Bool.not_true, Bool.false_eq_true, or_self, if_false, ← hpayload, ← hkept, ← hagain]
end
end
end

/-- Settles O50: a flit is judged by its CRC, its codeword pair, its kind and its number, in this order. -/
theorem flitsAreTakenInOrder : Obligations.FlitsAreTakenInOrder := fun _ _ _ _ hc hup huncorr hu =>
  ⟨exec_dataFlitReceive_passes hc hup huncorr hu,
    fun hcrc hpair hkind hseq _ _ => exec_dataFlitReceive_takes hc hup huncorr hu hcrc hpair hkind hseq,
    exec_dataFlitReceive_badPair hc hup huncorr hu, exec_dataFlitReceive_badCrc hc hup huncorr hu⟩

end Sys2Proof.Machine

/-! ### Training, lanes and identification (R227–R230) -/

namespace Sys2Proof.Machine

section
variable {s : State} {p : Fin 32} {since : Nat}

theorem exec_replayStorm_retrains (hup : portUp s p.val = true) (hresent : ∃ t ∈ (getPort s p.val).txBuf, 8 ≤ t.resent) :
    exec (.replayStorm p) s = .next (startRetrain ((Blk.lnk p).event s 20) p) :=
  congrArg _ (if_pos ⟨hup, by simpa using hresent⟩)

/-- Training or a retrain that finds every lane it offered ends in time: the port is shown UP, on the lanes it has. -/
theorem exec_linkUp_inTime {reversed : Bool} {lanes : LanesFound} {x : Port} (hfrom : (getPort s p.val).trainFrom = some since)
    (hident : linkState s p = 5) (hmet : (getPort s p.val).met = true) (hheld : (getPort s p.val).laneLost = false)
    (hlanes : (getPort s p.val).badLanes.length ≤ 2) (hfound : lanes.failed = [])
    (hx : x = { getPort s p.val with
      inverted := lanes.inverted.map Fin.val, eyeTrained := lanes.eyes, eye := lanes.eyes, trainFrom := none,
      dateline := bit ((Blk.lnk p).rd s 0x40) 0,
      clearEnd := if (getPort s p.val).clearing.isSome then some (s.now + 1000000) else none })
    (htime : s.now - since ≤ if (getPort s p.val).retraining then 500 else 100000) {u : State}
    (hu : u = setPort s p.val (if x.retraining
      then { x with retraining := false, txBuf := x.txBuf.map (fun f => { f with resent := 0 }), wire := x.txBuf.map TxFlit.bytes }
      else { x with freed := allotment s p, credit := List.replicate 16 0 })) :
    exec (.linkUp p reversed lanes) s = .next ((Blk.lnk p).event
      (showLink ((Blk.lnk p).wr u 0x48 (laneMapValue (getPort u p.val) reversed)) p 6) 16) := by
  show execLinkUp p reversed lanes s = _
  have hready : ¬(linkState s p ≠ 5 ∨ (!(getPort s p.val).met) = true ∨
      (if (getPort s p.val).retraining then 500 else 100000) < s.now - since) := by
    simp [hident, hmet, Nat.not_lt.mpr htime]
  have hholds : ¬((getPort s p.val).laneLost = true ∨ 2 < (getPort s p.val).badLanes.length) := by
    simp [hheld, hlanes]
  subst hu hx
  simp only [execLinkUp, hfrom, if_neg hready, hfound, List.filter_nil, forEach, List.foldl_nil, if_neg hholds]

/-- Training, whole or of its stage, has run past its limit (R228). -/
def trainingLate (s : State) (p : Fin 32) (limit since : Nat) : Prop :=
  limit ≤ s.now - since ∨ stageLimit (linkState s p) < s.now - (getPort s p.val).stageFrom

theorem trainingLate.not_inTime {limit : Nat} (h : trainingLate s p limit since) :
    ¬(s.now - since < limit ∧ (!decide (stageLimit (linkState s p) < s.now - (getPort s p.val).stageFrom)) = true) := by
  rintro ⟨hlimit, hstage⟩
  cases h with
  | inl hwhole => omega
  | inr hstate => exact absurd hstate (by simpa using hstage)

section
variable (hfrom : (getPort s p.val).trainFrom = some since)
include hfrom

theorem exec_linkTrainTimeout_training (htrain : (getPort s p.val).retraining = false) (hlate : trainingLate s p 100000 since) :
    exec (.linkTrainTimeout p) s = .next ((Blk.lnk p).raise ((Blk.lnk p).event (goDown s p false) 21) 0x0101 0 p.val) := by
  show execLinkTrainTimeout p s = _
  simp only [execLinkTrainTimeout, hfrom, htrain, Bool.false_eq_true, if_false, if_neg hlate.not_inTime]

theorem exec_linkTrainTimeout_retrain (hretrain : (getPort s p.val).retraining = true) (hlate : trainingLate s p 500 since) :
    exec (.linkTrainTimeout p) s = .next ((Blk.lnk p).raise (goDown s p false) 0x0103 0 p.val) := by
  show execLinkTrainTimeout p s = _
  simp only [execLinkTrainTimeout, hfrom, hretrain, if_true, if_neg hlate.not_inTime]
end

theorem exec_trainRetryTimer_trains (hdown : (getPort s p.val).downSince = some since) (hlost : (getPort s p.val).laneLost = false)
    (hlate : 1000000 ≤ s.now - since) : exec (.trainRetryTimer p) s = .next (startTraining s p) := by
  show execTrainRetryTimer p s = _
  simp only [execTrainRetryTimer, hdown, hlost, Bool.false_eq_true, false_or, if_neg (Nat.not_lt.mpr hlate)]

theorem exec_laneFail_drops (lane : Fin 9) (hport : p.val < 30 ∨ isBridge s = false) :
    exec (.laneFail p lane) s = .next (dropLane s p lane.val 1) := by
  refine congrArg _ (if_neg fun ⟨hbridge, hhost⟩ => ?_)
  cases hport with
  | inl hlow => omega
  | inr hplain => exact absurd hbridge (by simp [hplain])

/-- The neighbour's identity and delay are shown; what follows reads the board's own serial and position as they stood. -/
theorem exec_linkIdent_records {peer : Word64} {delay : Nat} {u : State} (hc : s.Canon) (hident : linkState s p = 5)
    (hu : u = (Blk.lnk p).wr ((Blk.lnk p).wr (modPort s p.val (fun x => { x with met := true })) 0x58 peer.toNat) 0x60
      (min delay 0xFFFFFFFF)) :
    exec (.linkIdent p peer delay) s = .next (
      if Blk.svc.rd s 0xC0 ≠ 0 ∧ Blk.svc.rd s 0xC0 = bits peer.toNat 32 32 ∧
        !wiringOk (bits (Blk.svc.rd s 0xC4) 0 3) p.val (bits peer.toNat 24 3) (bits peer.toNat 18 5)
      then (Blk.lnk p).event u 22 else u) := by
  have hregs : SMap.wf resetVal (modPort s p.val (fun x => { x with met := true })).regs = true := hc.regs
  have hsvc : ∀ k, k < 0x4000 → Blk.svc.rd u k = Blk.svc.rd s k := fun k hk => by
    rw [hu, svc_rd_wr_lnk (Blk.wf_wr hregs _ _ _) p _ _ hk, svc_rd_wr_lnk hregs p _ _ hk]
    rfl
  show execLinkIdent p peer delay s = _
  rw [← hsvc 0xC0 (by decide), ← hsvc 0xC4 (by decide), hu]
  exact congrArg _ (if_neg (by simp [hident]))
end

/-- Settles O51: each clause is one event of a port. -/
theorem linkEvents : Obligations.LinkEvents := by
  intro s p
  refine ⟨fun f c kept again u hc hup huncorr hcrc hpair hkind hpayload hkept hagain hu => ⟨fun hack => ?ack, fun hnak => ?nak⟩,
    exec_replayStorm_retrains,
    fun since reversed lanes x hfrom hident hmet hheld hlanes hfound hx u hcase => ?up,
    fun _ hfrom => ⟨exec_linkTrainTimeout_training hfrom, exec_linkTrainTimeout_retrain hfrom⟩,
    fun _ hdown hlost hlate _ => exec_trainRetryTimer_trains hdown hlost hlate, exec_laneFail_drops,
    fun peer delay u hc hident hu => ⟨fun hother => ?other, fun hserial hsame hwiring => ?wiring⟩⟩
  case ack =>
    simp [exec_controlFlitReceive_sound hc hup huncorr hu hcrc hpair hkind hpayload hkept rfl, hack]
  case nak =>
    simp [exec_controlFlitReceive_sound hc hup huncorr hu hcrc hpair hkind hpayload hkept rfl, hnak, hagain]
  case up =>
    have hsame : x.retraining = (getPort s p.val).retraining := by rw [hx]
    rcases hcase with ⟨hretrain, htime, hu⟩ | ⟨htrain, htime, hu⟩
    · exact exec_linkUp_inTime hfrom hident hmet hheld hlanes hfound hx (by simpa [hretrain] using htime) (by simp [hu, hsame, hretrain])
    · exact exec_linkUp_inTime hfrom hident hmet hheld hlanes hfound hx (by simpa [htrain] using htime) (by simp [hu, hsame, htrain])
  case other =>
    rw [exec_linkIdent_records hc hident hu, if_neg]
    rintro ⟨hserial, hsame, -⟩
    exact hother.elim hserial (fun hne => hne hsame)
  case wiring => rw [exec_linkIdent_records hc hident hu, if_pos ⟨hserial, hsame, by simp [hwiring]⟩]

end Sys2Proof.Machine

/-! ### The host function (R237–R242) -/

namespace Sys2Proof.Machine

section
variable {s : State}

section
variable (hserves : serving s = true) (hbridge : isBridge s = true)
include hserves hbridge

theorem hostServed_of_bridge : hostServed s = true := by simp [hostServed, hserves, hbridge]

theorem exec_hostBar0Access_checked {off size : Nat} (write : Bool) (val : Word64) (hoff : off < 0x400000)
    (hdirect : hostDirect off = false) :
    exec (.hostBar0Access write off size val) s = .next (
      if write then cmdWrite (inBytes s size) (bits (Blk.hst.rd s 0x4C) 0 12) off size val.toNat
      else cmdRead (outBytes s size) (bits (Blk.hst.rd s 0x4C) 0 12) off size) := by
  have hserved : ¬((!serving s) = true ∨ (!isBridge s) = true ∨ 0x400000 ≤ off) := by
    simp [hserves, hbridge, hoff]
  show execHostBar0Access write off size val s = _
  simp only [execHostBar0Access, if_neg hserved, hdirect, Bool.false_eq_true, false_and, if_false]
  cases write <;> rfl

section
variable {off k a mode : Nat} (hwin : window s off = some (k, a, mode))
include hwin

theorem exec_hostBar2Read_loads (size tag : Nat) :
    exec (.hostBar2Read off size tag) s = .next (issue (outBytes s size) (hostIssuer s k)
      { op := 0x00, addr := a, size := size } (.hostRead k tag a size)) := by
  show execHostBar2Read off size tag s = _
  simp only [execHostBar2Read, hostServed_of_bridge hserves hbridge, hwin, Bool.not_true, Bool.false_eq_true, if_false]

theorem exec_hostBar2Write_stores (data : List Byte) (hplain : ¬(mode = 1 ∨ mode = 2)) :
    exec (.hostBar2Write off data) s = .next (issue (inBytes s data.length) (hostIssuer (inBytes s data.length) k)
      { op := 0x10, addr := a, size := data.length, data := data } (.hostWrite k)) := by
  show execHostBar2Write off data s = _
  simp only [execHostBar2Write, hostServed_of_bridge hserves hbridge, hwin, Bool.not_true, Bool.false_eq_true, if_false,
    if_neg hplain]

theorem exec_hostBar2Write_flags {data : List Byte} (hflag : mode = 1 ∨ mode = 2) (hsize : data.length = 4 ∨ data.length = 8)
    (halign : a % data.length = 0) :
    exec (.hostBar2Write off data) s = .next (issue (inBytes s data.length) (hostIssuer (inBytes s data.length) k)
      { op := 0x20, addr := a, size := data.length, data := data, flagAll := mode = 2 } (.hostWrite k)) := by
  show execHostBar2Write off data s = _
  simp only [execHostBar2Write, hostServed_of_bridge hserves hbridge, hwin, Bool.not_true, Bool.false_eq_true, if_false,
    if_pos hflag, if_pos (And.intro hsize halign)]

theorem exec_hostBar2Atomic_issues (kind : HostAtomic) (size : Nat) (val cmp : Word64) (tag : Nat) :
    exec (.hostBar2Atomic kind off size val cmp tag) s = .next (issue (inBytes s size) (hostIssuer s k)
      { op := hostOp kind size, addr := a, size := size, data := leBytes size val.toNat, cmp := cmp.toNat % 2 ^ (8 * size) }
      (.hostRead k tag a size)) := by
  show execHostBar2Atomic kind off size val cmp tag s = _
  simp only [execHostBar2Atomic, hostServed_of_bridge hserves hbridge, hwin, Bool.not_true, Bool.false_eq_true, if_false]
end

theorem exec_hostUr_counts : exec (.hostUr none) s = .next (Blk.hst.event (Blk.hst.sat s 0x64) 17) := by
  show execHostUr none s = _
  simp only [execHostUr, hostServed_of_bridge hserves hbridge, Bool.not_true, Bool.false_eq_true, if_false]
  rfl
end

theorem exec_hostReadRelease_releases {slot : Fin 64} {o : OutReq}
    (hfind : s.outs.find? (fun o => o.req.ctx = 0x7C0 + slot.val && reqLoad o.req && o.phase = .rowHeld) = some o)
    (hfree : mustHold s o = false) : exec (.hostReadRelease slot) s = .next (settleOuts (releaseOne s o)) := by
  show execHostReadRelease slot s = _
  simp only [execHostReadRelease, hfind, hfree, Bool.false_eq_true, if_false]

/-- A request of another device to the host ID is answered through the router. -/
theorem exec_deviceToHostRequest_answers {r : Request} {sub port : Nat} {rest : List Packet} {rep : Reply} {s1 : State}
    (hqueue : s.hostQ = .req r sub port :: rest) (hup : pcieUp s = true) (hhost : isHostId s (devOf r.addr) = true)
    (hperform : toHost { s with hostQ := rest } r = (rep, s1)) (hsrc : r.src ≠ selfId s) :
    exec .deviceToHostRequest s = .next { s1 with toRoute := s1.toRoute ++ [.rep rep r.part 0 30] } := by
  have hup' : pcieUp { s with hostQ := rest } = true := hup
  have hhost' : isHostId { s with hostQ := rest } (devOf r.addr) = true := hhost
  have hsrc' : r.src ≠ selfId { s with hostQ := rest } := hsrc
  show execDeviceToHostRequest s = _
  simp only [execDeviceToHostRequest, hqueue, hup', hhost', hperform, Bool.not_true, Bool.false_eq_true, if_false, if_neg hsrc']

theorem exec_deviceToHostRequest_down {k : Packet} {rest : List Packet} (hqueue : s.hostQ = k :: rest) (hdown : pcieUp s = false) :
    exec .deviceToHostRequest s = .next (forward { s with hostQ := rest } k) := by
  have hdown' : pcieUp { s with hostQ := rest } = false := hdown
  show execDeviceToHostRequest s = _
  simp only [execDeviceToHostRequest, hqueue, hdown', Bool.not_false, if_true]

theorem exec_msixHoldoffExpire_sends {v : Fin 64} (hheld : SMap.get d0 s.msixHeld v.val ≠ 0)
    (hpast : bits (Blk.hst.rd s 0x60) 0 16 ≤ s.now + 1 - SMap.get d0 s.msixAt v.val) :
    exec (.msixHoldoffExpire v) s = .next (msixSend { s with msixHeld := SMap.set d0 s.msixHeld v.val 0 } v.val) :=
  congrArg _ (if_pos ⟨hheld, hpast⟩)

theorem exec_pcieLinkChange_shows {up : Bool} {rate width : Nat} {x : PcieShown} {u : State} (hbridge : isBridge s = true)
    (hu : u = sendPending (Blk.hst.event (Blk.hst.wr { s with pcieCfg := x.cfg } 0x44
      (rate % 16 + width % 32 * 2 ^ 4 + x.ltssm % 16 * 2 ^ 12 + b2n up * 2 ^ 16)) 16)) :
    exec (.pcieLinkChange up rate width x) s = .next (if pcieUp s = up then u else Blk.fab.event u 24) := by
  subst hu
  exact congrArg _ (if_neg (by simp [hbridge]))
end

/-- Settles O52: each clause is one event of the host bridge. -/
theorem hostCommands : Obligations.HostCommands := by
  intro s
  refine ⟨fun hserves hbridge => ⟨fun off val hoff hdirect => ?bar0, fun off k a mode hwin => ?bar2,
      exec_hostUr_counts hserves hbridge⟩,
    fun _ _ => exec_hostReadRelease_releases, fun _ _ _ _ _ _ => exec_deviceToHostRequest_answers,
    fun _ _ => exec_deviceToHostRequest_down, fun _ => exec_msixHoldoffExpire_sends,
    fun _ _ _ _ _ => exec_pcieLinkChange_shows⟩
  case bar0 =>
    exact ⟨exec_hostBar0Access_checked hserves hbridge true val hoff hdirect,
      exec_hostBar0Access_checked hserves hbridge false val hoff hdirect⟩
  case bar2 =>
    exact ⟨exec_hostBar2Read_loads hserves hbridge hwin,
      fun data hmode => exec_hostBar2Write_stores hserves hbridge hwin data (by omega),
      fun _ => exec_hostBar2Write_flags hserves hbridge hwin, exec_hostBar2Atomic_issues hserves hbridge hwin⟩

end Sys2Proof.Machine

/-! ### Messages of a collective, its deadline and phase timeout (R255–R263, R269), and the held Tamper iteration (R128) -/

namespace Sys2Proof.Machine

section
variable {s : State} {d : Fin 2} {j : Fin 4} {off : Nat}

/-- The seven commands that observe a message differ only in its kind; the source is named for a piece and 0 for the rest. -/
theorem exec_colMessages {t : Nat → Nat → State} (h : ∀ kind src, colMessage d j kind off src s = t kind src) :
    (∀ src, exec (.colPieceArrive d j off src) s = .next (t 0 src)) ∧
    exec (.colReady d j off) s = .next (t 1 0) ∧ exec (.colAck d j off) s = .next (t 2 0) ∧
    exec (.colNak d j off) s = .next (t 3 0) ∧ exec (.colExclude d j off) s = .next (t 4 0) ∧
    exec (.colRetarget d j off) s = .next (t 5 0) ∧ exec (.colRack d j off) s = .next (t 6 0) :=
  ⟨fun src => congrArg _ (h 0 src), congrArg _ (h 1 0), congrArg _ (h 2 0), congrArg _ (h 3 0), congrArg _ (h 4 0),
    congrArg _ (h 5 0), congrArg _ (h 6 0)⟩

/-! A message by its sequence number: of this collective, of the next one, of another. -/

theorem colMessage_of_current {rq : List Nat} (hrec : recOf s (colBlk d j) = rq) (hne : rq ≠ [])
    (hseq : bits (readNat s off 8) 0 16 = cseqOf s d j) (kind src : Nat) :
    colMessage d j kind off src s = handleMsg d j (colRec rq) kind off src s := by
  have hnext : bits (readNat s off 8) 0 16 ≠ (cseqOf s d j + 1) % 2 ^ 16 := by omega
  obtain ⟨v, vs, rfl⟩ := List.exists_cons_of_ne_nil hne
  simp only [colMessage, if_neg hnext, if_neg (not_not_intro hseq), hrec]

theorem colMessage_of_next (hseq : bits (readNat s off 8) 0 16 = (cseqOf s d j + 1) % 2 ^ 16) (kind src : Nat) :
    colMessage d j kind off src s = modCol s d j (fun c => { c with heldMsgs := c.heldMsgs ++ [(kind, off, src)] }) :=
  if_pos hseq

theorem colMessage_of_other (hnext : bits (readNat s off 8) 0 16 ≠ (cseqOf s d j + 1) % 2 ^ 16)
    (hcurrent : bits (readNat s off 8) 0 16 ≠ cseqOf s d j) (kind src : Nat) :
    colMessage d j kind off src s = (colBlk d j).sat s 0x80 :=
  (if_neg hnext).trans (if_pos hcurrent)

theorem exec_colDeadline_pumps {rq : List Nat} (hrec : recOf s (colBlk d j) = rq) (hne : rq ≠ [])
    (hpast : pastDeadline s (colRec rq) = true) : exec (.colDeadline d j) s = .next (colPump d j (colRec rq) s) := by
  show Host.Outcome.next (deadlineStep d j s) = _
  obtain ⟨v, vs, rfl⟩ := List.exists_cons_of_ne_nil hne
  simp only [deadlineStep, hrec, if_pos hpast]

/-- Past the limit the step takes TIMEOUT and its remaining iterations idle. -/
theorem exec_colPhaseTimeout_of_late {since : Nat} (hphase : (getSeq s (colQ d j)).phase = .iter)
    (hsince : scr s (colQ d j) 104 = some since) (hlimit : (colBlk d j).rd s 0x58 ≠ 0)
    (hlate : 1024 * (colBlk d j).rd s 0x58 < (s.now - since) * seqMhz s (colQ d j)) :
    exec (.colPhaseTimeout d j) s = .next (idleRest ((colBlk d j).raise ((colBlk d j).event
      ((colBlk d j).put (noteStatus s (colQ d j) tkTimeout) 0x48 1 3 0) 23) 0x0104 (seqPart s (colQ d j)) 0) (colQ d j)
      (itersLeft (getSeq s (colQ d j)) + 1)) := by
  have hends : ¬((getSeq s (colQ d j)).phase ≠ .iter ∨ 1024 * (colBlk d j).rd s 0x58 = 0 ∨
      (s.now - since) * seqMhz s (colQ d j) ≤ 1024 * (colBlk d j).rd s 0x58) := by
    rintro (h | h | h)
    · exact h hphase
    · omega
    · omega
  show Host.Outcome.next (colPhaseTimeout d j s) = _
  simp only [colPhaseTimeout, hsince, if_neg hends]
end

theorem exec_layInflightRelease_releases {s : State} {t : Fin 160} {since : Nat} (hheld : scr s (layQ t) 9 = some since)
    (hroom : (inFlightIters s (layQ t)).length < 64) :
    exec (.layInflightRelease t) s =
      .next ((Blk.lay t).sat (delScr s (layQ t) 9) 0x68 ((s.now - since) * seqMhz s (layQ t))) := by
  show execLayInflightRelease t s = _
  simp only [execLayInflightRelease, hheld, if_pos hroom]

/-- Settles O42: the seven messages go by their sequence number in one place, and each timed event by its own condition. -/
theorem collectiveMessages : Obligations.CollectiveMessages := by
  intro s d j off
  refine ⟨fun _ hrec hne hseq => exec_colMessages (colMessage_of_current hrec hne hseq), fun held hheld hseq => ?next,
    fun hnext hcurrent t ht => ?other, fun _ => exec_colDeadline_pumps, fun _ => exec_colPhaseTimeout_of_late,
    fun _ _ => exec_layInflightRelease_releases⟩
  case next =>
    exact exec_colMessages fun kind src => (colMessage_of_next hseq kind src).trans (hheld kind src).symm
  case other =>
    exact exec_colMessages (t := fun _ _ => t) fun kind src => (colMessage_of_other hnext hcurrent kind src).trans ht.symm

end Sys2Proof.Machine

/-! ### The address map of HBM (R288) -/

namespace Sys2Proof.Machine

section
variable {a k : Nat}

/-- Bits from 8 up are the same throughout an aligned block of 256 bytes. -/
theorem bits_add_of_aligned (halign : a % 256 = 0) (hk : k < 256) {lo : Nat} (hlo : 8 ≤ lo) (len : Nat) :
    bits (a + k) lo len = bits a lo len := by
  obtain ⟨n, rfl⟩ := Nat.exists_eq_add_of_le hlo
  have hblock : (a + k) / 2 ^ 8 = a / 2 ^ 8 := by omega
  simp only [bits, Nat.pow_add, ← Nat.div_div_eq_div_mul, hblock]

theorem pcOf_add_of_aligned (halign : a % 256 = 0) (hk : k < 256) : pcOf (a + k) = pcOf a := by
  have hstack : (a + k) / 2 ^ 36 = a / 2 ^ 36 := by omega
  simp only [pcOf, hstack, bits_add_of_aligned halign hk (show 8 ≤ 8 by decide), bits_add_of_aligned halign hk (show 8 ≤ 14 by decide),
    bits_add_of_aligned halign hk (show 8 ≤ 20 by decide)]

theorem pcoffOf_add_of_aligned (halign : a % 256 = 0) (hk : k < 256) : pcoffOf (a + k) = pcoffOf a + k := by
  have hbyte : bits (a + k) 0 8 = bits a 0 8 + k := by simp only [bits]; omega
  rw [pcoffOf, pcoffOf, bits_add_of_aligned halign hk (by decide), hbyte, Nat.add_assoc]
end

/-- Settles O53: R288 takes bits of the address, and those from 8 up are the same throughout the block. -/
theorem hbmAddressMap : Obligations.HbmAddressMap := by
  intro a k _ hk halign
  refine ⟨?pc, ?pcoff, pcOf_add_of_aligned halign hk, pcoffOf_add_of_aligned halign hk⟩
  case pc => rw [pcOf, Nat.mul_comm]; rfl
  case pcoff => simp only [pcoffOf, bits]; omega

end Sys2Proof.Machine

/-! ### Writes of TGC.MODE and the commands of HBM.CMD (R297, R300, R302) -/

namespace Sys2Proof.Machine

theorem regAt_tgcMode (c : Fin 256) : RegAt (.tgc c) 0x40 (rw4 0x40 0xF) 0 := ⟨rfl, rfl, by decide⟩
theorem regAt_hbmCmd (i : Fin 32) : RegAt (.hbm i) 0x58 (wo4 0x58) 0 := ⟨rfl, rfl, by decide⟩

@[simp] theorem tgcPage_val (c : Fin 256) : tgcPage c.val = .tgc c := by
  simp only [tgcPage, Nat.mod_eq_of_lt c.isLt]

section
variable {s : State} {c : Fin 256}

theorem tgcModeWrite_denied {v : Nat} (hmode : bits v 0 2 = 1) (hallotted : stackAllotted s (c.val / 32) = true) :
    tgcModeWrite s c.val v = (Blk.tgc c).countErr ((Blk.tgc c).event s 18) := by
  simp only [tgcModeWrite, tgcPage_val, if_pos (And.intro hmode hallotted)]

theorem tgcModeWrite_off {v : Nat} (hmode : bits v 0 2 = 0) : tgcModeWrite s c.val v = (Blk.tgc c).wr s 0x40 (v % 16) := by
  have hfree : ¬(bits v 0 2 = 1 ∧ stackAllotted s (c.val / 32) = true) := by omega
  simp only [tgcModeWrite, tgcPage_val, if_neg hfree, if_pos hmode]

/-- A mode other than OFF starts at its position, with the register of PRBS31 at SEED (log entry 193). -/
theorem tgcModeWrite_starts {v : Nat} (hmode : bits v 0 2 ≠ 0) (hfree : bits v 0 2 = 1 → stackAllotted s (c.val / 32) = false) :
    tgcModeWrite s c.val v =
      { (Blk.tgc c).wr s 0x40 (v % 16) with
        tgcPos := SMap.set d0 s.tgcPos c.val (tgcStart ((Blk.tgc c).wr s 0x40 (v % 16)) c.val v),
        tgcPrbs := SMap.set d0 s.tgcPrbs c.val ((Blk.tgc c).rd ((Blk.tgc c).wr s 0x40 (v % 16)) 0x48 % 2 ^ 31) } := by
  have hgranted : ¬(bits v 0 2 = 1 ∧ stackAllotted s (c.val / 32) = true) := fun ⟨h, hallotted⟩ => by simp [hfree h] at hallotted
  simp only [tgcModeWrite, tgcPage_val, if_neg hgranted, if_neg hmode]
  rfl

theorem bits_putBits_mode (v : Nat) {k : Nat} (hk : k < 4) : bits (putBits v 0 2 k) 0 2 = k :=
  (bits_putBits_same v 0 2 k).trans (Nat.mod_eq_of_lt hk)

/-- What MODE holds after its row's write: the mode, and the pseudo-channels selected (Table 13.3). -/
theorem putBits_mode (v : Nat) {k : Nat} (hk : k < 4) : putBits v 0 2 k % 16 = k + 4 * bits v 2 2 := by
  simp only [putBits_eq, bits]
  omega

/-- The value that a row of TGC.MODE writes has the row's mode. -/
theorem cmdWr_tgcMode {t : State} {p k : Nat} {val : Word32} (hadm : Admits s p (.tgc c) 0x40 4 true)
    (h : tgcModeWrite s c.val (putBits val.toNat 0 2 k) = t) :
    cmdWr s (.tgc c) p 0x40 (putBits val.toNat 0 2 k) = .next (answered t stOk []) :=
  cmdWr_of_writeOne hadm (regAt_tgcMode c) rfl (putBits_lt k val.isLt (by decide)) ((writeOne_tgcMode s p _ _ c).trans h)

theorem cmdWr_tgcMode_starts {p k : Nat} {val : Word32} (hadm : Admits s p (.tgc c) 0x40 4 true) (hk : k < 4) (hmode : k ≠ 0)
    (hfree : k = 1 → stackAllotted s (c.val / 32) = false) :
    cmdWr s (.tgc c) p 0x40 (putBits val.toNat 0 2 k) = .next (answered
      { (Blk.tgc c).wr s 0x40 (k + 4 * bits val.toNat 2 2) with
        tgcPos := SMap.set d0 s.tgcPos c.val
          (tgcStart ((Blk.tgc c).wr s 0x40 (k + 4 * bits val.toNat 2 2)) c.val (putBits val.toNat 0 2 k)),
        tgcPrbs := SMap.set d0 s.tgcPrbs c.val
          ((Blk.tgc c).rd ((Blk.tgc c).wr s 0x40 (k + 4 * bits val.toNat 2 2)) 0x48 % 2 ^ 31) } stOk []) := by
  have hfield := bits_putBits_mode val.toNat hk
  have hstarts := tgcModeWrite_starts (s := s) (c := c) (v := putBits val.toNat 0 2 k) (by rwa [hfield]) (by rwa [hfield])
  rw [putBits_mode val.toNat hk] at hstarts
  exact cmdWr_tgcMode hadm hstarts
end

/-- A value for HBM.CMD that names command `cmd` and the pseudo-channel and pin of its fields, in a stack that is not LOST (Table 13.2). -/
structure HbmOrder (s : State) (i : Fin 32) (v cmd pc pin : Nat) : Prop where
  pc : 16 * i.val + bits v 0 4 = pc
  order : bits v 4 4 = cmd
  pin : bits v 8 6 = pin
  kept : bits ((Blk.hbm i).rd s 0x50) 0 2 ≠ 2

section
variable {s : State} {i : Fin 32} {v pc pin : Nat}

/-- The value that a row of HBM.CMD writes is the order of its row, for the fields written. -/
theorem HbmOrder.of_putBits {cmd : Nat} (hcmd : cmd < 16) (hpc : pc = 16 * i.val + bits v 0 4) (hpin : pin = bits v 8 6)
    (hkept : bits ((Blk.hbm i).rd s 0x50) 0 2 ≠ 2) : HbmOrder s i (putBits v 4 4 cmd) cmd pc pin :=
  ⟨by rw [bits_putBits_below v cmd (by decide), hpc], (bits_putBits_same v 4 4 cmd).trans (Nat.mod_eq_of_lt hcmd),
    by rw [bits_putBits_above v cmd (by decide), hpin], hkept⟩

theorem hbmCmd_laneRepair (h : HbmOrder s i v 1 pc pin) (hpin : pin < 36) (hfree : bits (pcRepair s pc) 16 2 < 2) :
    hbmCmd s i v = laneRepair s pc pin := by
  obtain ⟨rfl, horder, rfl, hkept⟩ := h
  simp only [hbmCmd, if_neg hkept, horder, if_neg (Nat.not_le.mpr hpin), if_pos hfree]

theorem hbmCmd_remapRow {n : Nat} (h : HbmOrder s i v 2 pc pin) (hfree : freeSpare s pc (rowBank ((Blk.hbm i).rd s 0x60)) = some n) :
    hbmCmd s i v = remapRow s pc (rowBank ((Blk.hbm i).rd s 0x60)) n := by
  obtain ⟨rfl, horder, rfl, hkept⟩ := h
  simp only [hbmCmd, if_neg hkept, horder, hfree]

theorem hbmCmd_markErasure (h : HbmOrder s i v 3 pc pin) (hpin : pin < 36) (hnew : (markedPins s pc).contains pin = false)
    (hfree : (markedPins s pc).length < 2) : hbmCmd s i v = markErasure s pc pin := by
  obtain ⟨rfl, horder, rfl, hkept⟩ := h
  have hmarkable : ¬(36 ≤ bits v 8 6 ∨ (markedPins s (16 * i.val + bits v 0 4)).contains (bits v 8 6) = true) := by
    simp only [hnew, Bool.false_eq_true, or_false, Nat.not_le.mpr hpin, not_false_eq_true]
  simp only [hbmCmd, if_neg hkept, horder, if_neg hmarkable, if_pos hfree]

theorem hbmCmd_retrain (h : HbmOrder s i v 4 pc pin) : hbmCmd s i v = retrain s pc (100 * s.now) 200 := by
  obtain ⟨rfl, horder, rfl, hkept⟩ := h
  simp only [hbmCmd, if_neg hkept, horder]

theorem cmdWr_hbmCmd {t : State} {p cmd : Nat} {val : Word32} (hadm : Admits s p (.hbm i) 0x58 4 true)
    (h : hbmCmd s i (putBits val.toNat 4 4 cmd) = t) :
    cmdWr s (.hbm i) p 0x58 (putBits val.toNat 4 4 cmd) = .next (answered t stOk []) :=
  cmdWr_of_writeOne hadm (regAt_hbmCmd i) rfl (putBits_lt cmd val.isLt (by decide)) ((writeOne_hbmCmd s p _ _ i).trans h)
end

/-- Settles O23: each clause is one register's write. -/
theorem memoryControllerWrites : Obligations.MemoryControllerWrites := by
  intro s p val
  refine ⟨fun c hadm => ?modes, fun i pc pin hpc hpin hadm hkept => ?commands⟩
  case modes =>
    have hoff : putBits val.toNat 0 2 0 % 16 = 4 * bits val.toNat 2 2 := (putBits_mode val.toNat (by decide)).trans (Nat.zero_add _)
    refine ⟨cmdWr_tgcMode hadm ?_, fun hfree => cmdWr_tgcMode_starts hadm (by decide) (by decide) fun _ => hfree,
      fun hallotted => cmdWr_tgcMode hadm (tgcModeWrite_denied (bits_putBits_mode _ (by decide)) hallotted),
      cmdWr_tgcMode_starts hadm (by decide) (by decide) nofun, cmdWr_tgcMode_starts hadm (by decide) (by decide) nofun⟩
    rw [tgcModeWrite_off (bits_putBits_mode _ (by decide)), hoff]
  case commands =>
    have order : ∀ k, k < 16 → HbmOrder s i (putBits val.toNat 4 4 k) k pc pin := fun k hk => .of_putBits hk hpc hpin hkept
    exact ⟨fun hlow hfree => cmdWr_hbmCmd hadm (hbmCmd_laneRepair (order 1 (by decide)) hlow hfree),
      fun _ hfree => cmdWr_hbmCmd hadm (hbmCmd_remapRow (order 2 (by decide)) hfree),
      fun hlow hnew hfree => cmdWr_hbmCmd hadm (hbmCmd_markErasure (order 3 (by decide)) hlow hnew hfree),
      cmdWr_hbmCmd hadm (hbmCmd_retrain (order 4 (by decide)))⟩

end Sys2Proof.Machine

/-! ### Issue, refresh, training, repair, patrol and test accesses of HBM (R287, R295–R300) -/

namespace Sys2Proof.Machine

section
variable {s : State} {pc : Fin 512}

section
variable {t : Nat} {arrivals : List HbmReq} {errs : List (Nat × Nat)} {s1 u : State} {r : Nat × HbmReq}
  (henter : s1 = enqueue s pc.val (arrivals.map (fun r => { r with own := false }))) (hchosen : chooseReq s1 pc.val t = some r)
  (hissue : u = issueReq (addStoredErr s1 (hbmAddr pc.val r.2.off) errs) pc.val t r)
include henter hchosen hissue

theorem exec_hbmIssue_issues : exec (.hbmIssue pc t arrivals { errs := errs }) s = .next u := by
  subst henter hissue
  show execHbmIssue pc t arrivals { errs := errs } s = _
  simp only [execHbmIssue, hchosen]

theorem exec_hbmIssue_recordsEye (drift eye : Byte) (pin : Fin 36) :
    exec (.hbmIssue pc t arrivals { errs := errs, eye := some (drift, eye, pin) }) s =
      .next (if r.2.data.isNone then recordEye u pc.val drift eye pin else u) := by
  subst henter hissue
  show execHbmIssue pc t arrivals { errs := errs, eye := some (drift, eye, pin) } s = _
  simp only [execHbmIssue, hchosen]
end

theorem exec_bulkAgeExpire_issues {t : Nat} {b : Nat × HbmReq} {rest : List (Nat × HbmReq)}
    (hhead : (bulkQ s pc.val).filter (fun e => !rowHeld s pc.val t e.2) = b :: rest) (hopen : openSlot s pc.val t = true)
    (hage : bulkAge s pc.val < t - b.2.since) :
    exec (.bulkAgeExpire pc t) s = .next (issueReq s pc.val t (firstToBurst s pc.val b)) := by
  have hissues : ¬((!openSlot s pc.val t) = true ∨ t - b.2.since ≤ bulkAge s pc.val) := by
    simp only [hopen, Bool.not_true, Bool.false_eq_true, false_or, Nat.not_le.mpr hage, not_false_eq_true]
  show execBulkAgeExpire pc t s = _
  simp only [execBulkAgeExpire, hhead, if_neg hissues]

theorem exec_hbmRefresh_refreshes {r : RefreshSlot} {k : Nat} (hk : k = 16 * r.pc.val + r.bank.val) (hmanage : r.manage = false)
    (hdue : SMap.get d0 s.refreshDue k ≤ r.t) :
    exec (.hbmRefresh r) s = .next { s with
      refreshDue := SMap.set d0 s.refreshDue k (r.t + refreshEvery s r.pc.val),
      bankActs := SMap.set d0 s.bankActs k 0, openRow := SMap.set d0 s.openRow k 0,
      hbmOnDie := SMap.set d0 s.hbmOnDie r.pc.val (SMap.get d0 s.hbmOnDie r.pc.val + r.reports) } := by
  subst hk
  show execHbmRefresh r s = _
  simp only [execHbmRefresh, hmanage, Bool.false_eq_true, if_false, if_neg (Nat.not_lt.mpr hdue), refreshBank]

theorem exec_hbmRefresh_manages {r : RefreshSlot} {k : Nat} (hk : k = 16 * r.pc.val + r.bank.val) (hmanage : r.manage = true)
    (hacts : SMap.get d0 s.bankActs k ≠ 0) :
    exec (.hbmRefresh r) s = .next { s with
      bankActs := SMap.set d0 s.bankActs k 0, openRow := SMap.set d0 s.openRow k 0,
      hbmOnDie := SMap.set d0 s.hbmOnDie r.pc.val (SMap.get d0 s.hbmOnDie r.pc.val + r.reports) } := by
  subst hk
  show execHbmRefresh r s = _
  simp only [execHbmRefresh, hmanage, if_true, if_neg hacts]

theorem exec_hbmWriteTraining_trains {t hold due : Nat} {drift eye : Byte} {pin : Fin 36}
    (hperiod : bits ((hbmPage pc.val).rd s 0x4C) 0 10 ≠ 0)
    (hdue : due = SMap.get d0 s.hbmTrained pc.val + 100000 * bits ((hbmPage pc.val).rd s 0x4C) 0 10)
    (htime : trainingFrom s pc.val due ≤ t) :
    exec (.hbmWriteTraining pc t hold drift eye pin) s = .next (recordEye
      (retrain { s with hbmTrained := SMap.set d0 s.hbmTrained pc.val (max t due) } pc.val t (min hold 200))
      pc.val drift eye pin) := by
  subst hdue
  exact congrArg _ (if_neg (by omega))

theorem exec_hbmRepair_repairs {e : Nat × HbmFail} (hfailing : s.hbmFailing.find? (fun e => e.1 = pc.val) = some e)
    (hkept : bits ((hbmPage pc.val).rd s 0x50) 0 2 ≠ 2) :
    exec (.hbmRepair pc) s = .next (repairUnit { s with hbmFailing := s.hbmFailing.erase e } pc.val e.2) := by
  show execHbmRepair pc s = _
  simp only [execHbmRepair, hfailing, if_neg hkept]

/-- A patrol read that does not end a pass: the burst is read where it is kept and the patrol moves on (R298). -/
theorem exec_hbmPatrolRead_advances {t : Nat} {errs : List (Nat × Nat)} {pos a : Nat} {s1 : State} {nx : Nat × Bool}
    (hpos : pos = SMap.get d0 s.tgcPos (pc.val / 2)) (hmode : bits ((tgcPage (pc.val / 2)).rd s 0x40) 0 2 = 3)
    (hinterval : bits ((hbmPage pc.val).rd s 0x48) 0 8 ≠ 0) (hchannel : pos % 2 = pc.val % 2) (hidle : idleSlot s pc.val t = true)
    (ha : a = hbmAddr pc.val (servedOff s pc.val (pos / 2)))
    (hread : s1 = (readBurst (burstEnergy (addStoredErr s a errs) pc.val 1) 0 a).2)
    (hnext : nx = tgcNext (bits ((tgcPage (pc.val / 2)).rd s1 0x40) 2 2) pos 0 0x3FFFFFE0) (hpass : nx.2 = false) :
    exec (.hbmPatrolRead pc { t := t, errs := errs }) s = .next ((tgcPage (pc.val / 2)).wr ((tgcPage (pc.val / 2)).add
      { s1 with tgcPos := SMap.set d0 s1.tgcPos (pc.val / 2) nx.1 } 0x60 1) 0x80 (nx.1 / 2)) := by
  subst hpos ha hread hnext
  have hpatrols : ¬(bits ((tgcPage (pc.val / 2)).rd s 0x40) 0 2 ≠ 3 ∨ bits ((hbmPage pc.val).rd s 0x48) 0 8 = 0 ∨
      SMap.get d0 s.tgcPos (pc.val / 2) % 2 ≠ pc.val % 2 ∨ (!idleSlot s pc.val t) = true) := by
    simp [hmode, hinterval, hchannel, hidle]
  show execHbmPatrolRead pc { t := t, errs := errs } s = _
  simp only [execHbmPatrolRead, if_neg hpatrols, hpass, Bool.false_eq_true, if_false]

/-- A test access of BRINGUP that only writes: the burst takes the pattern's data and the generator moves on, from SEED where a pass
ends (R297, log entry 193). -/
theorem exec_tgcTestAccess_writes {c : Fin 256} {t : Nat} {errs : List (Nat × Nat)} {pos a : Nat} {data : List Byte × Nat} {s1 : State}
    {nx : Nat × Bool} (hpos : pos = SMap.get d0 s.tgcPos c.val) (hmode : bits ((Blk.tgc c).rd s 0x40) 0 2 = 1)
    (hopen : openSlot s (2 * c.val + pos % 2) t = true) (hwrites : bits ((Blk.tgc c).rd s 0x44) 4 2 = 2)
    (ha : a = hbmAddr (2 * c.val + pos % 2) (servedOff s (2 * c.val + pos % 2) (pos / 2)))
    (hdata : data = tgcData s (.tgc c) (SMap.get d0 s.tgcPrbs c.val) (pos / 2))
    (hwrite : s1 = addStoredErr (writeBurst (burstEnergy (takeSlot s false a) (2 * c.val + pos % 2) 1) 0 a data.1).2 a errs)
    (hnext : nx = tgcNext (bits ((Blk.tgc c).rd s 0x40) 2 2) pos
      (tgcStart s1 c.val (1 + 4 * bits ((Blk.tgc c).rd s 0x40) 2 2) / 2) (bits ((Blk.tgc c).rd s1 0x58) 0 30)) :
    exec (.tgcTestAccess c { t := t, errs := errs }) s = .next { s1 with
      tgcPos := SMap.set d0 s1.tgcPos c.val nx.1,
      tgcPrbs := SMap.set d0 s1.tgcPrbs c.val (if nx.2 then (Blk.tgc c).rd s1 0x48 % 2 ^ 31 else data.2) } := by
  subst hpos ha hdata hwrite hnext
  have haccess : ¬((bits ((Blk.tgc c).rd s 0x40) 0 2 ≠ 1 ∧ bits ((Blk.tgc c).rd s 0x40) 0 2 ≠ 2) ∨
      (!openSlot s (2 * c.val + SMap.get d0 s.tgcPos c.val % 2) t) = true ∨
      (bits ((Blk.tgc c).rd s 0x40) 0 2 = 2 ∧ (!idleSlot s (2 * c.val + SMap.get d0 s.tgcPos c.val % 2) t) = true)) := by
    simp [hmode, hopen]
  have hnotRead : ¬bits ((Blk.tgc c).rd s 0x44) 4 2 = 1 := by omega
  show execTgcTestAccess c { t := t, errs := errs } s = _
  simp only [execTgcTestAccess, if_neg haccess, if_pos hmode, if_neg hnotRead, if_pos hwrites]
  rw [hmode]
end

/-- Settles O54: each clause is one event of a pseudo-channel or of its traffic generator. -/
theorem hbmCommands : Obligations.HbmCommands := by
  intro s pc
  refine ⟨fun _ _ _ _ _ _ henter hchosen hissue => ⟨exec_hbmIssue_issues henter hchosen hissue,
      exec_hbmIssue_recordsEye henter hchosen hissue⟩,
    fun _ _ _ => exec_bulkAgeExpire_issues, fun _ _ hk => ⟨exec_hbmRefresh_refreshes hk, exec_hbmRefresh_manages hk⟩,
    fun _ _ _ _ _ _ => exec_hbmWriteTraining_trains, fun _ => exec_hbmRepair_repairs,
    fun _ _ _ _ hpos hmode hinterval hchannel hidle ha _ _ =>
      exec_hbmPatrolRead_advances hpos hmode hinterval hchannel hidle ha,
    fun _ _ _ _ _ _ hpos hmode hopen hwrites ha hdata _ _ =>
      exec_tgcTestAccess_writes hpos hmode hopen hwrites ha hdata⟩

end Sys2Proof.Machine

/-! ### One step of the block: the queue and the canonical form -/

namespace Sys2Proof.Machine

/-- Every command keeps the waiting commands and the canonical form, each by the law of its meaning. -/
theorem exec_kept {pq : List Instr} {s : State} (h : s.Kept pq) (c : Instr) : OutKept pq (exec c s) := by
  cases c with
  | registerWrite => exact execRegisterWrite_kept h
  | softReset => exact execSoftReset_kept h
  | enable => exact execEnable_kept h
  | drain => exact execDrain_kept h
  | lock => exact execLock_kept h
  | segData => exact execSegData_kept h
  | tileOwner => exact execTileOwner_kept h
  | engOwner => exact execEngOwner_kept h
  | republish => exact execRepublish_kept h
  | cmdNop => exact execCmdNop_kept h
  | cmdRun => exact execCmdRun_kept h
  | creditGrant => exact execCreditGrant_kept h
  | stepWaitMet => exact execStepWaitMet_kept h
  | emitAfterQueueSpace => exact execEmitAfterQueueSpace_kept h
  | tokenArrive => exact execTokenArrive_kept h
  | tableComplete => exact execTableComplete_kept h
  | seqWaitTimeout => exact execSeqWaitTimeout_kept h
  | tccInstruction => exact execTccInstruction_kept h
  | waita => exact execWaita_kept h
  | waitaWake => exact execWaitaWake_kept h
  | waitaTimeout => exact execWaitaTimeout_kept h
  | ecall => exact execEcall_kept h
  | ebreak => exact execEbreak_kept h
  | amo => exact execAmo_kept h
  | ramo => exact execRamo_kept h
  | fstore => exact execFstore_kept h
  | rfence => exact execRfence_kept h
  | rfenceResume => exact execRfenceResume_kept h
  | seqGo => exact execSeqGo_kept h
  | thrStart => exact execThrStart_kept h
  | loaderLoad => exact execLoaderLoad_kept h
  | loaderUnload => exact execLoaderUnload_kept h
  | mxaConfig => exact execMxaConfig_kept h
  | mxaLoad => exact execMxaLoad_kept h
  | mxaPass => exact execMxaPass_kept h
  | drainVerdict => exact execDrainVerdict_kept h
  | lateTokenLeave => exact execLateTokenLeave_kept h
  | layConfig => exact execLayConfig_kept h
  | copy => exact execCopy_kept h
  | transpose => exact execTranspose_kept h
  | skewStream => exact execSkewStream_kept h
  | skewStat => exact execSkewStat_kept h
  | pack24 => exact execPack24_kept h
  | quant => exact execQuant_kept h
  | dequant => exact execDequant_kept h
  | rowquant => exact execRowquant_kept h
  | tilePack => exact execTilePack_kept h
  | tileUnpack => exact execTileUnpack_kept h
  | blocklist => exact execBlocklist_kept h
  | layInflightRelease => exact execLayInflightRelease_kept h
  | ptwAdd => exact execPtwAdd_kept h
  | ptwSub => exact execPtwSub_kept h
  | ptwMul => exact execPtwMul_kept h
  | ptwFma => exact execPtwFma_kept h
  | ptwMax => exact execPtwMax_kept h
  | ptwMin => exact execPtwMin_kept h
  | ptwFunc => exact execPtwFunc_kept h
  | rowsum => exact execRowsum_kept h
  | rowsumsq => exact execRowsumsq_kept h
  | rowmax => exact execRowmax_kept h
  | softmax => exact execSoftmax_kept h
  | bpmAllocRead => exact execBpmAllocRead_kept h
  | allocSz => exact execAllocSz_kept h
  | bpmFreeWrite => exact execBpmFreeWrite_kept h
  | poolConfigWrite => exact execPoolConfigWrite_kept h
  | bpmAllocOp => exact execBpmAllocOp_kept h
  | bpmFreeOp => exact execBpmFreeOp_kept h
  | bpmPortRequest => exact execBpmPortRequest_kept h
  | bpmWaiterServed => exact execBpmWaiterServed_kept h
  | rteConfig => exact execRteConfig_kept h
  | route => exact execRoute_kept h
  | xchConfig => exact execXchConfig_kept h
  | counts => exact execCounts_kept h
  | xchCountsReceived => exact execXchCountsReceived_kept h
  | xchGrantsReceived => exact execXchGrantsReceived_kept h
  | dispatch => exact execDispatch_kept h
  | dispatchBwd => exact execDispatchBwd_kept h
  | xchDataIterComplete => exact execXchDataIterComplete_kept h
  | returnRows => exact execReturnRows_kept h
  | returnBwd => exact execReturnBwd_kept h
  | combine => exact execCombine_kept h
  | combineBwd => exact execCombineBwd_kept h
  | xchReturnsReceived => exact execXchReturnsReceived_kept h
  | stepClear => exact execStepClear_kept h
  | xchHeaderArrive => exact execXchHeaderArrive_kept h
  | xchPhaseTimeout => exact execXchPhaseTimeout_kept h
  | xseqWrite => exact execXseqWrite_kept h
  | embConfig => exact execEmbConfig_kept h
  | prep => exact execPrep_kept h
  | sort => exact execSort_kept h
  | gather => exact execGather_kept h
  | embHotHeadersReceived => exact execEmbHotHeadersReceived_kept h
  | pool => exact execPool_kept h
  | scatter => exact execScatter_kept h
  | push => exact execPush_kept h
  | pushRepliesDone => exact execPushRepliesDone_kept h
  | embHeaderArrive => exact execEmbHeaderArrive_kept h
  | apply => exact execApply_kept h
  | embUpdateHeadersReceived => exact execEmbUpdateHeadersReceived_kept h
  | embPhaseTimeout => exact execEmbPhaseTimeout_kept h
  | refresh => exact execRefresh_kept h
  | hotHeaderArrive => exact execHotHeaderArrive_kept h
  | remoteLoad port => exact execRemoteLoad_kept (_port := port) h
  | remoteStore port => exact execRemoteStore_kept (_port := port) h
  | flaggedStore => exact execFlaggedStore_kept h
  | flagDevicePerform => exact execFlagDevicePerform_kept h
  | flagAllRelease => exact execFlagAllRelease_kept h
  | atomicAdd port => exact execAtomicAdd_kept (_port := port) h
  | atomicMin port => exact execAtomicMin_kept (_port := port) h
  | atomicMax port => exact execAtomicMax_kept (_port := port) h
  | atomicSwap port => exact execAtomicSwap_kept (_port := port) h
  | atomicCas port => exact execAtomicCas_kept (_port := port) h
  | atomicAnd port => exact execAtomicAnd_kept (_port := port) h
  | atomicOr port => exact execAtomicOr_kept (_port := port) h
  | atomicXor port => exact execAtomicXor_kept (_port := port) h
  | replyArrive => exact execReplyArrive_kept h
  | requestReissue => exact execRequestReissue_kept h
  | waitReissue => exact execWaitReissue_kept h
  | filterBusyReissue => exact execFilterBusyReissue_kept h
  | seqHoldRelease => exact execSeqHoldRelease_kept h
  | gangLost => exact execGangLost_kept h
  | isoTimeout => exact execIsoTimeout_kept h
  | combWindowClose => exact execCombWindowClose_kept h
  | filterEntryExpire => exact execFilterEntryExpire_kept h
  | partEntryValidSet => exact execPartEntryValidSet_kept h
  | partitionTeardown => exact execPartitionTeardown_kept h
  | migDrain => exact execMigDrain_kept h
  | migHandover => exact execMigHandover_kept h
  | migTransfer => exact execMigTransfer_kept h
  | migFree => exact execMigFree_kept h
  | replayWindowWrite => exact execReplayWindowWrite_kept h
  | replayWindowLowerDone => exact execReplayWindowLowerDone_kept h
  | dataFlitReceive => exact execDataFlitReceive_kept h
  | controlFlitReceive => exact execControlFlitReceive_kept h
  | replayStorm => exact execReplayStorm_kept h
  | linkUp => exact execLinkUp_kept h
  | linkTrainTimeout => exact execLinkTrainTimeout_kept h
  | trainRetryTimer => exact execTrainRetryTimer_kept h
  | laneFail => exact execLaneFail_kept h
  | linkIdent => exact execLinkIdent_kept h
  | lnkRetrain => exact execLnkRetrain_kept h
  | lnkSpare => exact execLnkSpare_kept h
  | lnkRetry => exact execLnkRetry_kept h
  | lnkCfgWrite => exact execLnkCfgWrite_kept h
  | creditWrite => exact execCreditWrite_kept h
  | routePacket => exact execRoutePacket_kept h
  | packetSend => exact execPacketSend_kept h
  | creditTimeout => exact execCreditTimeout_kept h
  | rtDataWrite => exact execRtDataWrite_kept h
  | psetDataWrite => exact execPsetDataWrite_kept h
  | weightsWrite => exact execWeightsWrite_kept h
  | hostBar0Access => exact execHostBar0Access_kept h
  | hostBar2Read => exact execHostBar2Read_kept h
  | hostBar2Write => exact execHostBar2Write_kept h
  | hostBar2Atomic => exact execHostBar2Atomic_kept h
  | hostReadRelease => exact execHostReadRelease_kept h
  | hostUr => exact execHostUr_kept h
  | deviceToHostRequest => exact execDeviceToHostRequest_kept h
  | msixHoldoffExpire => exact execMsixHoldoffExpire_kept h
  | pcieLinkChange => exact execPcieLinkChange_kept h
  | colConfig => exact execColConfig_kept h
  | contrib => exact execContrib_kept h
  | finish => exact execFinish_kept h
  | colPieceArrive => exact execColPieceArrive_kept h
  | colReady => exact execColReady_kept h
  | colAck => exact execColAck_kept h
  | colNak => exact execColNak_kept h
  | colExclude => exact execColExclude_kept h
  | colRetarget => exact execColRetarget_kept h
  | colRack => exact execColRack_kept h
  | colDeadline => exact execColDeadline_kept h
  | colPhaseTimeout => exact execColPhaseTimeout_kept h
  | staAmax => exact execStaAmax_kept h
  | optConfig => exact execOptConfig_kept h
  | update => exact execUpdate_kept h
  | cast => exact execCast_kept h
  | optCopy => exact execOptCopy_kept h
  | hbmIssue => exact execHbmIssue_kept h
  | bulkAgeExpire => exact execBulkAgeExpire_kept h
  | hbmRefresh => exact execHbmRefresh_kept h
  | hbmWriteTraining => exact execHbmWriteTraining_kept h
  | hbmPatrolRead => exact execHbmPatrolRead_kept h
  | tgcTestAccess => exact execTgcTestAccess_kept h
  | tgcModeOff => exact execTgcModeOff_kept h
  | tgcModeBringup => exact execTgcModeBringup_kept h
  | tgcModeIdleFill => exact execTgcModeIdleFill_kept h
  | tgcModePatrol => exact execTgcModePatrol_kept h
  | hbmRepair => exact execHbmRepair_kept h
  | hbmCmdLaneRepair => exact execHbmCmdLaneRepair_kept h
  | hbmCmdRemapRow => exact execHbmCmdRemapRow_kept h
  | hbmCmdMarkErasure => exact execHbmCmdMarkErasure_kept h
  | hbmCmdRetrain => exact execHbmCmdRetrain_kept h
  | kettleBin => exact execKettleBin_kept h
  | holdLimitExpire => exact execHoldLimitExpire_kept h
  | raiseDelayExpire => exact execRaiseDelayExpire_kept h
  | dtargetWrite => exact execDtargetWrite_kept h
  | freqChange => exact execFreqChange_kept h
  | voltTrimDown => exact execVoltTrimDown_kept h
  | voltTrimUp => exact execVoltTrimUp_kept h
  | gainUpdate => exact execGainUpdate_kept h
  | floorUpdate => exact execFloorUpdate_kept h
  | mark => exact execMark_kept h
  | vddAonRise => exact execVddAonRise_kept h
  | resetNAssert => exact execResetNAssert_kept h
  | pwrgdFall => exact execPwrgdFall_kept h
  | resetCmd => exact execResetCmd_kept h
  | thermtrip => exact execThermtrip_kept h
  | watchdogExpire => exact execWatchdogExpire_kept h
  | resetNRelease => exact execResetNRelease_kept h
  | bootFabricJoin => exact execBootFabricJoin_kept h
  | bootStepTimeout => exact execBootStepTimeout_kept h
  | stageGo => exact execStageGo_kept h
  | bootSlotWrite => exact execBootSlotWrite_kept h
  | openSession => exact execOpenSession_kept h
  | installOwner => exact execInstallOwner_kept h
  | transferOwner => exact execTransferOwner_kept h
  | installOperator => exact execInstallOperator_kept h
  | endLease => exact execEndLease_kept h
  | reclaim => exact execReclaim_kept h
  | sessionClose => exact execSessionClose_kept h
  | sessionTimeout => exact execSessionTimeout_kept h
  | quoteGo => exact execQuoteGo_kept h
  | wearCondemn => exact execWearCondemn_kept h
  | spareBringIn => exact execSpareBringIn_kept h
  | unitFail => exact execUnitFail_kept h
  | ccacheBankFail => exact execCcacheBankFail_kept h
  | statusRecord => exact execStatusRecord_kept h
  | sprReplace => exact execSprReplace_kept h
  | laneClear => exact execLaneClear_kept h
  | regrade => exact execRegrade_kept h
  | snap => exact execSnap_kept h
  | haltReq => exact execHaltReq_kept h
  | resume => exact execResume_kept h
  | dbgStep => exact execDbgStep_kept h
  | dbgHalted => exact execDbgHalted_kept h
  | partHalt => exact execPartHalt_kept h
  | partResume => exact execPartResume_kept h
  | regDataAccess => exact execRegDataAccess_kept h
  | tagDataWrite => exact execTagDataWrite_kept h
  | jtagExtest => exact execJtagExtest_kept h
  | jtagSamplePreload => exact execJtagSamplePreload_kept h
  | jtagIdcode => exact execJtagIdcode_kept h
  | jtagDbgacc => exact execJtagDbgacc_kept h
  | jtagBypass => exact execJtagBypass_kept h
  | tpulseEdge => exact execTpulseEdge_kept h
  | tpulseLost => exact execTpulseLost_kept h
  | i3cRead32 => exact execI3cRead32_kept h
  | i3cWrite32 => exact execI3cWrite32_kept h
  | i3cRecovery => exact execI3cRecovery_kept h
  | railFault => exact execRailFault_kept h
  | thermalThreshold => exact execThermalThreshold_kept h
  | thermalThrottle => exact execThermalThrottle_kept h
  | voltageRampEnd => exact execVoltageRampEnd_kept h
  | vinIvrRemoved => exact execVinIvrRemoved_kept h
  | cmdDone us back => exact execCmdDone_kept (scrubUs := us) (back := back) h
  | quoteDone => exact execQuoteDone_kept h
  | stageDone => exact execStageDone_kept h
/-- A step that answers leaves the rest of the queue and the canonical form; with an empty queue it answers the same state. -/
theorem step_kept {s t : State} (h : s.Canon) (hstep : step s = .next t) : t.Kept s.pending.tail := by
  unfold step at hstep
  cases hqueue : s.pending with
  | nil =>
    rw [hqueue] at hstep
    obtain rfl : s = t := by simpa using hstep
    exact ⟨hqueue, h.regs, h.mem, h.pool, h.tcc⟩
  | cons c rest =>
    rw [hqueue] at hstep
    have hrest : State.Kept rest { s with pending := rest } := ⟨rfl, h.regs, h.mem, h.pool, h.tcc⟩
    exact kept_of_next hstep (exec_kept hrest c)

/-! ### Canonical maps are told apart by their reads -/

section
variable {α : Type} [DecidableEq α] {dflt : Nat → α}

/-- A canonical map that reads as the default everywhere lists nothing. -/
theorem SMap.wfFrom_eq_nil {lo : Nat} {m : SMap α} (hm : SMap.wfFrom dflt lo m = true) (h : ∀ k, SMap.get dflt m k = dflt k) :
    m = [] := by
  cases m with
  | nil => rfl
  | cons e m =>
    obtain ⟨k, v⟩ := e
    have hv : v = dflt k := by simpa [SMap.get] using h k
    exact absurd hv (SMap.wfFrom_cons.mp hm).2.1

/-- Two canonical maps whose reads agree begin at the same key: the lower of the two keys would read as the default in the other map. -/
theorem SMap.head_le_of_get_eq {lo lo' k k' : Nat} {v v' : α} {m m' : SMap α} (hm : SMap.wfFrom dflt lo ((k, v) :: m) = true)
    (hm' : SMap.wfFrom dflt lo' ((k', v') :: m') = true)
    (h : ∀ a, SMap.get dflt ((k, v) :: m) a = SMap.get dflt ((k', v') :: m') a) : k' ≤ k := by
  by_contra hlt
  obtain ⟨_, hne, _⟩ := SMap.wfFrom_cons.mp hm
  obtain ⟨_, hne', htail'⟩ := SMap.wfFrom_cons.mp hm'
  have hfirst : SMap.wfFrom dflt k' ((k', v') :: m') = true := SMap.wfFrom_cons.mpr ⟨Nat.le_refl k', hne', htail'⟩
  have hread := h k
  rw [SMap.get_lt (by omega) hfirst] at hread
  exact hne (by simpa [SMap.get] using hread)

theorem SMap.ext_of_wfFrom {lo : Nat} {m m' : SMap α} (hm : SMap.wfFrom dflt lo m = true) (hm' : SMap.wfFrom dflt lo m' = true)
    (h : ∀ k, SMap.get dflt m k = SMap.get dflt m' k) : m = m' := by
  induction m generalizing lo m' with
  | nil => exact (SMap.wfFrom_eq_nil hm' fun k => (h k).symm).symm
  | cons e m ih =>
    obtain ⟨k, v⟩ := e
    cases m' with
    | nil => exact absurd (SMap.wfFrom_eq_nil hm h) (List.cons_ne_nil _ _)
    | cons e' m' =>
      obtain ⟨k', v'⟩ := e'
      obtain rfl : k = k' := Nat.le_antisymm (SMap.head_le_of_get_eq hm' hm fun a => (h a).symm) (SMap.head_le_of_get_eq hm hm' h)
      obtain rfl : v = v' := by simpa [SMap.get] using h k
      obtain ⟨_, _, htail⟩ := SMap.wfFrom_cons.mp hm
      obtain ⟨_, _, htail'⟩ := SMap.wfFrom_cons.mp hm'
      refine congrArg _ (ih htail htail' fun a => ?_)
      by_cases ha : a ≤ k
      · rw [SMap.get_lt (by omega) htail, SMap.get_lt (by omega) htail']
      · simpa [SMap.get, show a ≠ k by omega, show ¬a < k by omega] using h a
end

/-! ### The obligations on steps, memory and reset -/

/-- Settles O1: the queue's front is the step's command. -/
theorem stepRunsFrontCommand : Obligations.StepRunsFrontCommand := fun s c rest hqueue => by rw [step, hqueue]

/-- Settles O2: a step looks at the queue first. -/
theorem stepIdlesOnEmptyQueue : Obligations.StepIdlesOnEmptyQueue := fun s hqueue => by rw [step, hqueue]

/-- Settles O3: no command changes the queue it is given. -/
theorem stepTakesOneCommand : Obligations.StepTakesOneCommand := fun _ _ h hstep => (step_kept h hstep).pending

/-- Settles O4: every command keeps the form. -/
theorem stepKeepsCanon : Obligations.StepKeepsCanon := fun _ _ h hstep => (step_kept h hstep).canon

/-- Settles O5: each command's meaning is a next state, whatever its conditions. -/
theorem noCommandStops : Obligations.NoCommandStops := fun c s => by
  cases c with
  | _ => exact ⟨_, rfl⟩

/-- Settles O6: nothing is listed after reset, so a register reads as its table says. -/
theorem resetState : Obligations.ResetState :=
  ⟨State_reset_kept.canon, rfl, rfl, rfl, fun _ _ => rfl, by decide, by decide, by decide, by decide⟩

/-- Settles O7: a run of set keys reads as it was set, and leaves every key outside it. -/
theorem storedBytesReadBack : Obligations.StoredBytesReadBack := fun _ o bs h =>
  ⟨readBytes_writeBytes h o bs, fun _ ha => SMap.get_setMany_out h.mem ha⟩

/-- Settles O8: canonical maps with the same reads are the same list. -/
theorem equalReadsAreEqualMemories : Obligations.EqualReadsAreEqualMemories := fun _ _ hs ht =>
  ⟨SMap.ext_of_wfFrom hs.mem ht.mem, fun h => SMap.ext_of_wfFrom hs.regs ht.regs fun o => BitVec.eq_of_toNat_eq (h o)⟩

end Sys2Proof.Machine

/-! ### Writes of the management blocks (R326, R334, R336, R337, R339) -/

namespace Sys2Proof.Machine

theorem regAt_resetCmd : RegAt .svc 0x48 (wo4 0x48) 0 := ⟨rfl, rfl, by decide⟩
theorem regAt_stageGo : RegAt .svc 0xA4 (wo4 0xA4) 0 := ⟨rfl, rfl, by decide⟩
theorem regAt_bootSlot : RegAt .svc 0x90 (rw4 0x90 1) 0 := ⟨rfl, rfl, by decide⟩
theorem regAt_sessionClose : RegAt .sec 0x44 (wo4 0x44) 0 := ⟨rfl, rfl, by decide⟩
theorem regAt_quoteGo : RegAt .sec 0x188 (wo4 0x188) 0 := ⟨rfl, rfl, by decide⟩
theorem regAt_cmdGo : RegAt .sec 0x58 (wo4 0x58) 0 := ⟨rfl, rfl, by decide⟩

section
variable {s t : State} {p : Nat} {b : Blk} {o : Nat} {r : RegDesc} {i : Nat} {val : Word32}

/-- An admitted write of a 32-bit value to a four-byte register, whatever command makes it. -/
theorem cmdWrite_word (h : Admits s p b o 4 true) (hat : RegAt b o r i) (hs : r.size = 4) (hw : writeOne s p b r o val.toNat = t) :
    cmdWrite s p (b.base + o) 4 val.toNat = answered t stOk [] := by
  rw [cmdWrite_of_admits h, writeAt_four hat.found hs hat.above, ← hat.start, Nat.mod_eq_of_lt val.isLt, hw]

/-- A signed command whose block carries its OP is a write of CMD_GO. -/
theorem signedCmd_of_op {n : Nat} (h : Admits s p .sec 0x58 4 true) (hop : cmdOpIs s n = true) :
    signedCmd s p n val.toNat = .next (answered (cmdGo s) stOk []) := by
  rw [signedCmd, if_pos hop, cmdWrite_word h regAt_cmdGo rfl (writeOne_cmdGo s p _ _)]

theorem stageGo_of_idle (h : bits (Blk.svc.rd s 0xA8) 0 2 ≠ 1) : stageGo s = Blk.svc.wr s 0xA8 1 := if_neg h
theorem quoteGo_of_idle (h : bits (Blk.sec.rd s 0x18C) 0 2 ≠ 1) :
    quoteGo s = { Blk.sec.wr s 0x18C 1 with quote := some (formQuote s) } := if_neg h
theorem bootSlotWrite_of_session (v : Nat) (h : session s ≠ 0) : bootSlotWrite s v = Blk.svc.wr s 0x90 (v % 2) := if_neg h
theorem closeSession_of_session (h : session s ≠ 0) : closeSession s = Blk.sec.event (Blk.sec.wr s 0x40 0) 19 := if_neg h
end

/-- Settles O26: each clause is one register's write. -/
theorem managementWrites : Obligations.ManagementWrites := by
  intro s p val
  refine ⟨fun hadm hkey => ?reset, fun hadm hidle => ?stage, fun hadm hsession => ?slot, fun hadm hsession => ?close,
    fun hadm hidle => ?quote, fun hadm => ?signed⟩
  case reset => exact cmdWr_of_writeOne hadm regAt_resetCmd rfl val.isLt ((writeOne_resetCmd s p _ _).trans (if_pos hkey))
  case stage => exact cmdWr_of_writeOne hadm regAt_stageGo rfl val.isLt ((writeOne_stageGo s p _ _).trans (stageGo_of_idle hidle))
  case slot =>
    exact cmdWr_of_writeOne hadm regAt_bootSlot rfl val.isLt ((writeOne_bootSlot s p _ _).trans (bootSlotWrite_of_session _ hsession))
  case close =>
    exact cmdWr_of_writeOne hadm regAt_sessionClose rfl val.isLt
      ((writeOne_sessionClose s p _ _).trans (closeSession_of_session hsession))
  case quote => exact cmdWr_of_writeOne hadm regAt_quoteGo rfl val.isLt ((writeOne_quoteGo s p _ _).trans (quoteGo_of_idle hidle))
  case signed =>
    exact ⟨signedCmd_of_op hadm, signedCmd_of_op hadm, signedCmd_of_op hadm, signedCmd_of_op hadm, signedCmd_of_op hadm,
      signedCmd_of_op hadm⟩

end Sys2Proof.Machine

/-! ### Writes of the Kettle, the spare unit and the counters (R315, R321, R347, R350, R356, R357, R359) -/

namespace Sys2Proof.Machine

theorem regAt_sprCmd : RegAt .spr 0x78 (wo4 0x78) 0 := ⟨rfl, rfl, by decide⟩
theorem regAt_snapTile (t : Fin 160) : RegAt (.cntT t) 0x7FC (wo4 0x7FC) 0 := ⟨rfl, rfl, by decide⟩

section
variable {s : State} {p : Nat} {val : Word32}

/-- A target in range and not below the clock is held: DTARGET's write leaves DSTATE, so it lowers nothing. -/
theorem dtargetWrite_of_held (h : s.Canon) {n v : Nat} (hlow : 800 ≤ v) (hhigh : v ≤ 1600) (hstep : v % 25 = 0)
    (hclock : districtMhz s n ≤ v) : dtargetWrite s n v = Blk.ktl.wr s (0x180 + 4 * n) v := by
  have hrange : ¬(v < 800 ∨ 1600 < v ∨ v % 25 ≠ 0) := by omega
  have hstate : districtMhz (Blk.ktl.wr s (0x180 + 4 * n) v) n = districtMhz s n :=
    congrArg (bits · 0 12) (Blk.rd_wr_ne h.regs .ktl v (by omega))
  unfold dtargetWrite
  rw [if_neg hrange]
  exact if_neg (by rw [show ktl = Blk.ktl from rfl, hstate]; omega)

/-- The command that a value for SPR.CMD carries in its low bits is the one put there. -/
theorem bits_sprCmd (v : Nat) {k : Nat} (hk : k < 16) : bits (putBits v 0 4 k) 0 4 = k :=
  (bits_putBits_same v 0 4 k).trans (Nat.mod_eq_of_lt hk)

section
variable {v tests : Nat} {failed : List (Nat × FailedUnit)}
theorem sprCmd_replace (h : bits v 0 4 = 1) : sprCmd s v tests failed = sprReplace s := by simp only [sprCmd, h]
theorem sprCmd_laneClear (h : bits v 0 4 = 2) : sprCmd s v tests failed = sprLaneClear s v := by simp only [sprCmd, h]
theorem sprCmd_regrade (h : bits v 0 4 = 3) : sprCmd s v tests failed = sprRegrade s tests failed := by simp only [sprCmd, h]
end

theorem cmdWr_sprCmd {t : State} {k : Nat} (hadm : Admits s p .spr 0x78 4 true) (h : sprCmd s (putBits val.toNat 0 4 k) 0 [] = t) :
    cmdWr s .spr p 0x78 (putBits val.toNat 0 4 k) = .next (answered t stOk []) :=
  cmdWr_of_writeOne hadm regAt_sprCmd rfl (putBits_lt k val.isLt (by decide)) ((writeOne_sprCmd s p _ _).trans h)

/-- REPLACE of an ACTIVE unit that exists condemns it with the parts it names (log entry 195). -/
theorem sprReplace_of_active {cls u : Nat} {parts : List Nat} {t : State} (hcls : cls = bits (Blk.spr.rd s 0x68) 0 3)
    (hu : u = bits (Blk.spr.rd s 0x68) 8 24) (hexists : unitExists cls u = true) (hactive : unitState s cls u = 0)
    (hparts : replaceParts s cls u = (parts, t)) : sprReplace s = sprStatus (condemn t cls u 3 parts) 2 0 := by
  subst hcls hu
  unfold sprReplace
  simp only [show spr = Blk.spr from rfl, hexists, hactive, hparts, Bool.not_true, Bool.false_eq_true, ne_eq, not_true_eq_false,
    or_self, if_false]

/-- REGRADE, whose tests' results come with the command, is an admitted write of SPR.CMD. -/
theorem exec_regrade_of_admits (hadm : Admits s p .spr 0x78 4 true) (tests : Nat) (failed : List (Nat × FailedUnit)) :
    exec (.regrade p val tests failed) s = .next (answered (sprRegrade s tests failed) stOk []) := by
  show execRegrade p val tests failed s = _
  simp only [execRegrade, hadm.serves, regCheck_of_admits hadm, if_true, sprCmd_regrade (bits_sprCmd _ (show 3 < 16 by decide))]

/-- SNAP of any page of a tile's counters is a write of its SNAP register. -/
theorem exec_snap_tile {t : Fin 160} {o : Nat} (ho : o < 0x1000) (hadm : Admits s p (.cntT t) 0x7FC 4 true) :
    exec (.snap p ((Blk.cntT t).base + o) val) s = .next (answered (snapTile s t) stOk []) := by
  have hplace : blkAt ((Blk.cntT t).base + o) = some (.cntT t, o / 0x1000) := blkAt_base (.cntT t) (by simpa [Blk.pages] using ho)
  show execSnap p ((Blk.cntT t).base + o) val s = _
  simp only [execSnap, hplace, cmdWrite_word hadm (regAt_snapTile t) rfl (writeOne_snapTile s p _ _ t)]
end

/-- Settles O24: each clause is one register's write. -/
theorem powerAndSpareWrites : Obligations.PowerAndSpareWrites := by
  intro s p val
  refine ⟨fun n hc hadm hlow hhigh hstep hclock => ?target, fun k hadm => ?mark, fun hadm => ⟨fun hexists hactive parts t hparts => ?replace,
    fun _ => ?lane, fun tests failed _ _ => ?regrade⟩, fun t o ho hadm => ?snap⟩
  case target =>
    obtain ⟨r, hat, hsize⟩ := regAt_of_find (by omega) (by omega) (find_dtarget n)
    refine cmdWr_of_writeOne hadm hat hsize val.isLt ?_
    rw [Nat.mul_comm 4, writeOne_dtarget s p _ _ n.isLt, dtargetWrite_of_held hc hlow hhigh hstep hclock, Nat.mul_comm 4]
  case mark =>
    obtain ⟨r, hat, hsize⟩ := regAt_of_find (by omega) (by omega) (find_mark k)
    refine cmdWr_of_writeOne hadm hat hsize val.isLt ?_
    rw [Nat.mul_comm 4, writeOne_mark s p _ _ k.isLt]
  case replace => exact cmdWr_sprCmd hadm ((sprCmd_replace (bits_sprCmd _ (by decide))).trans (sprReplace_of_active rfl rfl hexists hactive hparts))
  case lane => exact cmdWr_sprCmd hadm (sprCmd_laneClear (bits_sprCmd _ (by decide)))
  case regrade => exact exec_regrade_of_admits hadm tests failed
  case snap => exact exec_snap_tile ho hadm

end Sys2Proof.Machine

/-! ### Writes of the debug pages, of a tile's starts and of XSEQ (R58, R151, R362–R364) -/

namespace Sys2Proof.Machine

theorem regAt_dbgCtrl (t : Fin 160) : RegAt (.dbgT t) 0x70 (rw4 0x70 0x770) 0 := ⟨rfl, rfl, by decide⟩
theorem regAt_partHalt : RegAt .dbgD 0x40 (wo4 0x40) 0 := ⟨rfl, rfl, by decide⟩
theorem regAt_regData (t : Fin 160) : RegAt (.dbgT t) 0x88 (rw8 0x88 m64) 0 := ⟨rfl, rfl, by decide⟩
theorem regAt_tagData (t : Fin 160) : RegAt (.dbgT t) 0x94 (rw4 0x94 0xF) 0 := ⟨rfl, rfl, by decide⟩
theorem regAt_seqGo (t : Fin 160) : RegAt (.til t) 0x40 (wo4 0x40) 0 := ⟨rfl, rfl, by decide⟩
theorem regAt_thrStart (t : Fin 160) : RegAt (.til t) 0x44 (wo4 0x44) 0 := ⟨rfl, rfl, by decide⟩

/-- A mask without the low `k` bits sees only what lies above them. -/
theorem and_eq_of_div_eq {v w m k : Nat} (hm : m % 2 ^ k = 0) (h : v / 2 ^ k = w / 2 ^ k) : v &&& m = w &&& m := by
  refine Nat.eq_of_testBit_eq fun i => ?_
  rw [Nat.testBit_and, Nat.testBit_and]
  by_cases hi : i < k
  · have hlow : m.testBit i = false := by simpa [hi] using congrArg (Nat.testBit · i) hm
    rw [hlow, Bool.and_false, Bool.and_false]
  · have hhigh := congrArg (Nat.testBit · (i - k)) h
    simp only [Nat.testBit_div_two_pow, show i - k + k = i by omega] at hhigh
    rw [hhigh]

section
variable {s : State} {p : Nat} {t : Fin 160} {v w : Nat}

/-! DBG_CTRL's low three bits are HALT_REQ, RESUME and STEP; the others are stored. -/

theorem dbgCtrlWrite_halt (hcmd : bits v 0 3 = 1) : dbgCtrlWrite s t v = haltTile ((Blk.dbgT t).wr s 0x70 (v &&& 0x770)) t := by
  have hbits : bit v 0 = true ∧ bit v 1 = false ∧ bit v 2 = false := by simp [bit, bits] at hcmd ⊢; omega
  obtain ⟨hhalt, hresume, hstep⟩ := hbits
  simp only [dbgCtrlWrite, hhalt, hresume, hstep, if_true, Bool.false_eq_true, if_false]

theorem dbgCtrlWrite_resume (hcmd : bits v 0 3 = 2) : dbgCtrlWrite s t v = resumeTile ((Blk.dbgT t).wr s 0x70 (v &&& 0x770)) t := by
  have hbits : bit v 0 = false ∧ bit v 1 = true ∧ bit v 2 = false := by simp [bit, bits] at hcmd ⊢; omega
  obtain ⟨hhalt, hresume, hstep⟩ := hbits
  simp only [dbgCtrlWrite, hhalt, hresume, hstep, if_true, Bool.false_eq_true, if_false]

theorem dbgCtrlWrite_step (hcmd : bits v 0 3 = 4) : dbgCtrlWrite s t v = stepTile ((Blk.dbgT t).wr s 0x70 (v &&& 0x770)) t := by
  have hbits : bit v 0 = false ∧ bit v 1 = false ∧ bit v 2 = true := by simp [bit, bits] at hcmd ⊢; omega
  obtain ⟨hhalt, hresume, hstep⟩ := hbits
  simp only [dbgCtrlWrite, hhalt, hresume, hstep, if_true, Bool.false_eq_true, if_false]

/-- A value for DBG_CTRL whose command bits are replaced stores the fields of the value written. -/
theorem cmdWr_dbgCtrl {act : State → Fin 160 → State} {val : Word32} (hadm : Admits s p (.dbgT t) 0x70 4 true) (hw : w < 2 ^ 32)
    (hfields : w / 2 ^ 3 = val.toNat / 2 ^ 3) (h : dbgCtrlWrite s t w = act ((Blk.dbgT t).wr s 0x70 (w &&& 0x770)) t) :
    cmdWr s (.dbgT t) p 0x70 w = .next (answered (act ((Blk.dbgT t).wr s 0x70 (val.toNat &&& 0x770)) t) stOk []) := by
  rw [and_eq_of_div_eq (by decide) hfields] at h
  exact cmdWr_of_writeOne hadm (regAt_dbgCtrl t) rfl hw ((writeOne_dbgCtrl s p _ _ t).trans h)

/-! PART_HALT's bits 16 and 17 are HALT_REQ and RESUME, its low bits the partition. -/

/-- The logical tiles of a partition. -/
def tilesOfPart (s : State) (part : Nat) : List (Fin 160) :=
  allTiles.filter (fun t => t.val < logicalTiles s && tileOwner s t.val = part)

theorem partHaltWrite_halt (hcmd : bits v 16 2 = 1) : partHaltWrite s v = forEach (tilesOfPart s (bits v 0 12)) s haltTile := by
  have hbits : bit v 16 = true ∧ bit v 17 = false := by simp [bit, bits] at hcmd ⊢; omega
  simp only [partHaltWrite, tilesOfPart, hbits, if_true, Bool.false_eq_true, if_false]

theorem partHaltWrite_resume (hcmd : bits v 16 2 = 2) : partHaltWrite s v = forEach (tilesOfPart s (bits v 0 12)) s resumeTile := by
  have hbits : bit v 16 = false ∧ bit v 17 = true := by simp [bit, bits] at hcmd ⊢; omega
  simp only [partHaltWrite, tilesOfPart, hbits, if_true, Bool.false_eq_true, if_false]

/-! REG_DATA and TAG_DATA reach a stopped thread and a halted tile. -/

theorem regDataWrite_of_stopped {n i : Nat} (hsel : regSel s t = (n, i)) (hstop : threadStopped s t n = true) (v : Nat) :
    regDataWrite s t v = modThread s t.val n (fun h => h.setReg i v) := by
  simp only [regDataWrite, hsel, hstop, if_true]

theorem regDataRead_of_stopped {n i : Nat} (hsel : regSel s t = (n, i)) (hstop : threadStopped s t n = true) :
    regDataRead s t = (((getTcc s t.val).threads.getD n {}).reg i, s) := by
  simp only [regDataRead, hsel, hstop, if_true]

theorem readOne_regData (r : RegDesc) (hr : r.acc ≠ .wo) : readOne s p (.dbgT t) r 0x88 = regDataRead s t := by
  unfold readOne
  rw [if_neg (by decide), if_neg hr]
  rfl

/-- A read of a whole eight-byte register above the header. -/
theorem readAt_eight {b : Blk} {o : Nat} {r : RegDesc} {i : Nat} (hat : RegAt b o r i) (hs : r.size = 8) :
    readAt s p b o 8 = readOne s p b r o := by
  unfold readAt
  simp only [hat.found]
  rw [if_pos ⟨trivial, hs, hat.start, hat.above⟩]

theorem tagDataWrite_of_halted (h : dbgPhase s t = 2) (v : Nat) :
    tagDataWrite s t v = { s with tags := SMap.set d0 s.tags (tagKey s t) (v % 16) } := if_pos h

theorem regAt_xseq (d j : Fin 2) : RegAt (engineBlk (xchQ d j)) 0x4C (rw4 0x4C 0xFFFF) 0 := by
  match j with
  | 0 => exact ⟨rfl, rfl, by decide⟩
  | 1 => exact ⟨rfl, rfl, by decide⟩

/-- XSEQ of an engine that is not busy is set. -/
theorem writeOne_xseq {d j : Fin 2} (h : (engineBlk (xchQ d j)).busy s = false) (v : Nat) :
    writeOne s p (engineBlk (xchQ d j)) (rw4 0x4C 0xFFFF) 0x4C v = (engineBlk (xchQ d j)).wr s 0x4C (v % 2 ^ 16) := by
  have hidle : ¬((0x4C : Nat) = 0x4C ∧ (engineBlk (xchQ d j)).busy s = true) := by simp [h]
  rw [← Nat.and_two_pow_sub_one_eq_mod]
  match j with
  | 0 => exact if_neg hidle
  | 1 => exact if_neg hidle
end

/-- Settles O25: each clause is one register's write or read. -/
theorem debugAndThreadWrites : Obligations.DebugAndThreadWrites := by
  intro s p t val
  have hval := val.isLt
  refine ⟨fun hadm => ?control, fun hadm => ?part, fun w n i hsel hstop => ⟨fun hadm => ?regWrite, fun hadm => ?regRead⟩,
    fun hadm hhalted => ?tag, fun hadm => ?seqGo, fun hadm => ?thrStart, fun d j hadm hidle => ?xseq⟩
  case control =>
    have hhalt : putBits (putBits val.toNat 1 2 0) 0 1 1 = 8 * (val.toNat / 8) + 1 := by simp only [putBits_eq]; omega
    have hresume : putBits (putBits val.toNat 0 3 0) 1 1 1 = 8 * (val.toNat / 8) + 2 := by simp only [putBits_eq]; omega
    have hstep : putBits (putBits val.toNat 0 3 0) 2 1 1 = 8 * (val.toNat / 8) + 4 := by simp only [putBits_eq]; omega
    refine ⟨cmdWr_dbgCtrl hadm ?_ ?_ (dbgCtrlWrite_halt ?_), cmdWr_dbgCtrl hadm ?_ ?_ (dbgCtrlWrite_resume ?_),
      cmdWr_dbgCtrl hadm ?_ ?_ (dbgCtrlWrite_step ?_)⟩ <;> simp only [hhalt, hresume, hstep, bits] <;> omega
  case part =>
    have hhalt : bits (putBits (putBits val.toNat 17 1 0) 16 1 1) 16 2 = 1 := by simp only [putBits_eq, bits]; omega
    have hresume : bits (putBits (putBits val.toNat 16 1 0) 17 1 1) 16 2 = 2 := by simp only [putBits_eq, bits]; omega
    have hlow : ∀ i j x y, 12 ≤ i → 12 ≤ j → bits (putBits (putBits val.toNat i 1 x) j 1 y) 0 12 = bits val.toNat 0 12 :=
      fun i j x y hi hj => by rw [bits_putBits_below _ _ (by omega), bits_putBits_below _ _ (by omega)]
    have write : ∀ {w u}, w < 2 ^ 32 → partHaltWrite s w = u → cmdWr s .dbgD p 0x40 w = .next (answered u stOk []) :=
      fun hw h => cmdWr_of_writeOne hadm regAt_partHalt rfl hw ((writeOne_partHalt s p _ _).trans h)
    have hlt : ∀ i j x y, i < 32 → j < 32 → putBits (putBits val.toNat i 1 x) j 1 y < 2 ^ 32 :=
      fun i j x y hi hj => putBits_lt y (putBits_lt x hval (by omega)) (by omega)
    exact ⟨write (hlt 17 16 0 1 (by decide) (by decide)) (by
        rw [partHaltWrite_halt hhalt, hlow 17 16 0 1 (by decide) (by decide), tilesOfPart]),
      write (hlt 16 17 0 1 (by decide) (by decide)) (by
        rw [partHaltWrite_resume hresume, hlow 16 17 0 1 (by decide) (by decide), tilesOfPart])⟩
  case regWrite =>
    show Host.Outcome.next (cmdWrite s p ((Blk.dbgT t).base + 0x88) 8 w.toNat) = _
    rw [cmdWrite_of_admits hadm, writeAt_eight (regAt_regData t).found rfl rfl (by decide), Nat.mod_eq_of_lt w.isLt, writeOne_regData,
      regDataWrite_of_stopped hsel hstop]
  case regRead =>
    show Host.Outcome.next (cmdRead s p ((Blk.dbgT t).base + 0x88) 8) = _
    rw [cmdRead_of_admits hadm, readAt_eight (regAt_regData t) rfl, readOne_regData _ (by decide), regDataRead_of_stopped hsel hstop]
  case tag =>
    exact cmdWr_of_writeOne hadm (regAt_tagData t) rfl hval ((writeOne_tagData s p _ _ t).trans (tagDataWrite_of_halted hhalted _))
  case seqGo => exact cmdWr_of_writeOne hadm (regAt_seqGo t) rfl hval (writeOne_seqGo s p _ _ t)
  case thrStart => exact cmdWr_of_writeOne hadm (regAt_thrStart t) rfl hval (writeOne_thrStart s p _ _ t)
  case xseq => exact cmdWr_of_writeOne hadm (regAt_xseq d j) rfl hval (writeOne_xseq hidle _)

end Sys2Proof.Machine

/-! ### The management bus and the JTAG port (R365, R374) -/

namespace Sys2Proof.Machine

section
variable {s : State}

/-- A transfer in I3C mode, or to the device's own static address, is answered. -/
theorem i3cAnswers_of_own {addr : Option Nat} (h : ∀ a, addr = some a → a = 0x50 + bits (Blk.svc.rd s 0xC4) 0 3) :
    i3cAnswers s addr = true := by
  cases addr with
  | none => rfl
  | some a => exact decide_eq_true (h a rfl)

theorem i3cAnswers_of_other {a : Nat} (h : a ≠ 0x50 + bits (Blk.svc.rd s 0xC4) 0 3) : i3cAnswers s (some a) = false :=
  decide_eq_false h

/-- The bus's mode has no part in whether accesses are served. -/
theorem serving_i3cMode (addr : Option Nat) : serving (i3cMode s addr) = serving s := rfl

theorem exec_i3cRead32_serves {r : I3cAccess} (hserves : serving s = true) (hown : i3cAnswers s r.addr = true) :
    exec (.i3cRead32 r) s = .next (answered (localAccess (i3cMode s r.addr) r.off 4 none).2.2
      (localAccess (i3cMode s r.addr) r.off 4 none).1 (localAccess (i3cMode s r.addr) r.off 4 none).2.1) := by
  show execI3cRead32 r s = _
  simp only [execI3cRead32, hown, serving_i3cMode, hserves, Bool.not_true, Bool.false_eq_true, true_or, if_true, if_false]

theorem exec_i3cWrite32_serves {r : I3cAccess} {val : Word32} (hserves : serving s = true) (hown : i3cAnswers s r.addr = true) :
    exec (.i3cWrite32 r val) s = .next (answered (localAccess (i3cMode s r.addr) r.off 4 (some val.toNat)).2.2
      (localAccess (i3cMode s r.addr) r.off 4 (some val.toNat)).1 []) := by
  show execI3cWrite32 r val s = _
  simp only [execI3cWrite32, hown, serving_i3cMode, hserves, Bool.not_true, Bool.false_eq_true, if_true, if_false]

theorem exec_i3cRead32_other {r : I3cAccess} (hother : i3cAnswers s r.addr = false) : exec (.i3cRead32 r) s = .next s := by
  show execI3cRead32 r s = _
  simp only [execI3cRead32, hother, Bool.not_false, if_true]

theorem exec_i3cWrite32_other {r : I3cAccess} {val : Word32} (hother : i3cAnswers s r.addr = false) :
    exec (.i3cWrite32 r val) s = .next s := by
  show execI3cWrite32 r val s = _
  simp only [execI3cWrite32, hother, Bool.not_false, if_true]

theorem exec_jtagExtest_bypasses (l : List Bool) (h : s.resetLow = false) : exec (.jtagExtest l) s = .next (jtagShift s 0 l) :=
  congrArg _ (if_neg (by simp [h]))

theorem exec_jtagExtest_drives (l : List Bool) (h : s.resetLow = true) :
    exec (.jtagExtest l) s = .next { s with
      freeCtr := s.freeCtr + 1,
      jtag := { s.jtag with ir := 0, scan := l, driven := l, out := Config.freeValue s.freeCtr % 2 ^ l.length } } :=
  congrArg _ (if_pos h)

theorem exec_jtagBypass_unlisted {code : Nat} {b : Bool} (h : [0, 1, 2, 8].contains (code % 32) = false) :
    exec (.jtagBypass code b) s = .next (jtagShift s (code % 32) [b]) :=
  congrArg _ (if_neg (by rw [h]; exact Bool.false_ne_true))

section
variable {off size : Nat} (val : Word64) {st : Nat} {bs : List Byte} {t : State} (hserves : serving s = true) (hsession : session s ≠ 0)
  (hsize : size = 4 ∨ size = 8)
include hserves hsession hsize

/-- In a session DBGACC makes the access that its data register names. -/
theorem exec_jtagDbgacc_access {write : Bool} (hacc : localAccess s off size (if write then some val.toNat else none) = (st, bs, t)) :
    exec (.jtagDbgacc write off size val) s = .next { answered t st bs with
      jtag := { t.jtag with ir := 8, out := t.jtag.dr,
                            dr := dbgaccReg write off size st (if write then val.toNat else leNat bs) } } := by
  have hwidth : (if size = 8 then 8 else 4) = size := by rcases hsize with rfl | rfl <;> rfl
  show execJtagDbgacc write off size val s = _
  simp only [execJtagDbgacc, hserves, hsession, hwidth, hacc, Bool.not_true, Bool.false_eq_true, false_and, if_false, answered]
end
end

/-- Settles O27: each clause is one transfer of the bus or one instruction of the port. -/
theorem managementPorts : Obligations.ManagementPorts := by
  intro s
  refine ⟨fun hserves r val u hown hu => ?own, fun r val a haddr hother => ?other, exec_jtagExtest_bypasses, exec_jtagExtest_drives,
    fun _ => rfl, rfl, fun _ _ => exec_jtagBypass_unlisted, fun _ _ val hserves hsession hsize _ _ _ hacc => ?write,
    fun _ _ val hserves hsession hsize _ _ _ hacc => ?read⟩
  case own =>
    subst hu
    exact ⟨exec_i3cRead32_serves hserves (i3cAnswers_of_own hown), exec_i3cWrite32_serves hserves (i3cAnswers_of_own hown)⟩
  case other =>
    have h : i3cAnswers s r.addr = false := haddr ▸ i3cAnswers_of_other hother
    exact ⟨exec_i3cRead32_other h, exec_i3cWrite32_other h⟩
  case write => exact exec_jtagDbgacc_access val hserves hsession hsize (write := true) hacc
  case read => exact exec_jtagDbgacc_access val hserves hsession hsize (write := false) hacc

end Sys2Proof.Machine

/-! ### TPULSE, rails, temperatures and halts (R363, R371, R373, R377) -/

namespace Sys2Proof.Machine

section
variable {s : State}

/-- The first edge out of reset sets the system time and locks (R373). -/
theorem exec_tpulseEdge_first {v : Nat} (hv : v = Blk.svc.rd s 0xD8) (hheld : s.held = false) (hunlocked : bit v 0 = false) :
    exec .tpulseEdge s = .next { Blk.fab.wr (Blk.svc.wr s 0xD8
      (putBits (putBits v 16 16 (min 0xFFFF (bits v 16 16 + 1))) 0 1 1)) 0x804C 0 with lastEdge := s.now } := by
  subst hv
  show execTpulseEdge s = _
  simp only [execTpulseEdge, hheld, hunlocked, Bool.false_eq_true, Bool.not_false, true_or, if_true, if_false]

theorem exec_tpulseEdge_held (hheld : s.held = true) : exec .tpulseEdge s = .next s := congrArg _ (if_pos hheld)

/-- An edge out of place is counted and sets nothing (log entry 165). -/
theorem exec_tpulseEdge_offSchedule {v : Nat} (hv : v = Blk.svc.rd s 0xD8) (hheld : s.held = false) (hlocked : bit v 0 = true)
    (hafter : 2 < Blk.fab.rd s 0x804C) (hbefore : Blk.fab.rd s 0x804C < 2 ^ 20 - 2) :
    exec .tpulseEdge s = .next (Blk.svc.wr s 0xD8 (putBits v 8 8 (min 0xFF (bits v 8 8 + 1)))) := by
  subst hv
  have hplace : ¬(tpulsePeriod - 2 ≤ Blk.fab.rd s 0x804C ∨ Blk.fab.rd s 0x804C ≤ 2) := by unfold tpulsePeriod; omega
  show execTpulseEdge s = _
  simp only [execTpulseEdge, hheld, hlocked, Bool.not_true, Bool.false_eq_true, false_or, if_false, if_neg hplace]

theorem exec_tpulseLost_alerts (hlocked : bit (Blk.svc.rd s 0xD8) 0 = true) (hlost : s.lastEdge + 2 * 2 ^ 20 + 2 < s.now) :
    exec .tpulseLost s = .next (alert s 5) := congrArg _ (if_pos ⟨hlocked, hlost⟩)

theorem exec_railFault_alerts {r : RailsShown} (hlong : r.long = true) (hout : r.stat % 16 ≠ 15) (hpwrgd : s.pwrgd = true) :
    exec (.railFault r) s = .next (alert (Blk.svc.wr s 0xD4 (r.stat % 16)) 2) := congrArg _ (if_pos ⟨hlong, hout, hpwrgd⟩)

theorem exec_railFault_shows {r : RailsShown} (h : r.long = false ∨ r.stat % 16 = 15 ∨ s.pwrgd = false) :
    exec (.railFault r) s = .next (Blk.svc.wr s 0xD4 (r.stat % 16)) := by
  refine congrArg _ (if_neg fun ⟨hlong, hout, hpwrgd⟩ => ?_)
  rcases h with h | h | h
  · exact Bool.false_ne_true (h.symm.trans hlong)
  · exact hout h
  · exact Bool.false_ne_true (h.symm.trans hpwrgd)

/-- From 97 to below 100 °C a reading neither starts nor ends the throttling. -/
theorem exec_thermalThreshold_records {sensor temp : Nat} (hdie : sensor < 21) (hcool : 97 ≤ temp) (hwarm : temp < 100) :
    exec (.thermalThreshold sensor temp) s = .next (showTj { s with temps := SMap.set d0 s.temps sensor temp }) := by
  have hquiet : ¬(SMap.get d0 s.temps sensor < 105 ∧ 105 ≤ temp) := by omega
  show execThermalThreshold sensor temp s = _
  simp only [execThermalThreshold, if_pos hdie, if_neg (Nat.not_le.mpr hwarm), if_neg (Nat.not_lt.mpr hcool), if_neg hquiet]

theorem exec_dbgHalted_halts {t : Fin 160} (hdraining : dbgPhase s t = 1) (hdrained : tileAtDrain s t = true) :
    exec (.dbgHalted t) s = .next ((Blk.dbgT t).event ((Blk.dbgT t).put s 0x74 0 2 2) 17) := congrArg _ (if_pos ⟨hdraining, hdrained⟩)
end

/-- Settles O60: each clause is one event of the package. -/
theorem packageEvents : Obligations.PackageEvents := fun _ =>
  ⟨fun _ => exec_tpulseEdge_first, exec_tpulseEdge_held, fun _ => exec_tpulseEdge_offSchedule, exec_tpulseLost_alerts,
    fun _ _ hu => hu ▸ ⟨exec_railFault_alerts, exec_railFault_shows⟩, fun _ _ => exec_thermalThreshold_records,
    fun _ => exec_dbgHalted_halts⟩

end Sys2Proof.Machine

/-! ### Device resets (R289, R326, R338) -/

namespace Sys2Proof.Machine

/-- The registers `l` of a block take the values that they have in another state. -/
def Blk.copyRegs (b : Blk) (src : State) (l : List Nat) (z : State) : State := forEach l z (fun z o => b.wr z o (b.rd src o))

section
variable {src z : State} {l : List Nat}

theorem Blk.copyRegs_cons (b : Blk) (o : Nat) : b.copyRegs src (o :: l) z = b.copyRegs src l (b.wr z o (b.rd src o)) := rfl

/-- A register that is not copied is as before, whatever block it is of. -/
theorem Blk.rd_copyRegs_other (h : SMap.wf resetVal z.regs = true) (b c : Blk) {k : Nat} (hk : ∀ o ∈ l, c.base + k ≠ b.base + o) :
    c.rd (b.copyRegs src l z) k = c.rd z k := by
  induction l generalizing z with
  | nil => rfl
  | cons o l ih =>
    rw [Blk.copyRegs_cons, ih (Blk.wf_wr h b o _) fun o' ho' => hk o' (List.mem_cons_of_mem _ ho'),
      Blk.rd_wr_other h b c _ (hk o List.mem_cons_self)]

theorem Blk.rd_copyRegs_same (h : SMap.wf resetVal z.regs = true) (b : Blk) {o : Nat} (ho : o ∈ l) :
    b.rd (b.copyRegs src l z) o = b.rd src o := by
  induction l generalizing z with
  | nil => cases ho
  | cons o' l ih =>
    rw [Blk.copyRegs_cons]
    by_cases hl : o ∈ l
    · exact ih (Blk.wf_wr h b o' _) hl
    · obtain rfl : o = o' := (List.mem_cons.mp ho).resolve_right hl
      have hother : ∀ k ∈ l, b.base + o ≠ b.base + k := fun k hk e => hl (Nat.add_left_cancel e ▸ hk)
      rw [Blk.rd_copyRegs_other (Blk.wf_wr h b o _) b b hother, Blk.rd_wr_same h, Nat.mod_eq_of_lt (b.rd_lt src o)]
end

/-- What a reset keeps of SVC: BOOT_SLOT and the VDD_AON registers. -/
def keptSvcRegs : List Nat := 0x90 :: aonRegs

section
variable (s : State)

theorem discardVolatile_flash : (discardVolatile s).flash = s.flash := by
  simp only [discardVolatile, forEach, aonRegs, List.foldl, Blk.wr, wr_flash]

/-- The registers after a reset are those after a cold start but for what SVC keeps. -/
theorem discardVolatile_regs : (discardVolatile s).regs = (Blk.svc.copyRegs s keptSvcRegs State.reset).regs := rfl

theorem rd_discardVolatile (b : Blk) (o : Nat) : b.rd (discardVolatile s) o = b.rd (Blk.svc.copyRegs s keptSvcRegs State.reset) o :=
  Blk.rd_congr (discardVolatile_regs s) b o

theorem rd_discardVolatile_kept {o : Nat} (ho : o ∈ keptSvcRegs) : Blk.svc.rd (discardVolatile s) o = Blk.svc.rd s o := by
  rw [rd_discardVolatile, Blk.rd_copyRegs_same State_reset_kept.regs .svc ho]

/-- No session is open after a reset. -/
theorem session_discardVolatile : session (discardVolatile s) = 0 := by
  have hkey : ∀ o ∈ keptSvcRegs, Blk.sec.base + 0x40 ≠ Blk.svc.base + o := by decide
  rw [session, rd_discardVolatile, Blk.rd_copyRegs_other State_reset_kept.regs .svc .sec hkey]
  decide
end

/-- A reset out of reset discards what is volatile, and RESET_CAUSE is its cause alone. -/
theorem deviceReset_of_running {s : State} (h : s.held = false) (cause : Nat) :
    deviceReset s cause = Blk.svc.wr { discardVolatile s with held := true, resetAt := some s.now } 0x44 (2 ^ cause) :=
  if_neg (by simp [h])

/-- Settles O56: a reset keeps what `discardVolatile` keeps, and RESET_CAUSE is written last. -/
theorem deviceResetKeepsAlwaysOn : Obligations.DeviceResetKeepsAlwaysOn := by
  intro s cause hc hheld hcause
  rw [deviceReset_of_running hheld]
  have hregs : SMap.wf resetVal (discardVolatile s).regs = true := (discardVolatile_kept hc.kept).regs
  have hother : ∀ (b : Blk) (k : Nat), b.base + k ≠ Blk.svc.base + 0x44 →
      b.rd (Blk.svc.wr { discardVolatile s with held := true, resetAt := some s.now } 0x44 (2 ^ cause)) k = b.rd (discardVolatile s) k :=
    fun b k hk => Blk.rd_wr_other (s := { discardVolatile s with held := true, resetAt := some s.now }) hregs .svc b _ hk
  refine ⟨rfl, rfl, discardVolatile_flash s, (discardVolatile_kept hc.kept).pending, ?cause, fun o ho => ?kept, ?session⟩
  case cause =>
    have hsmall : 2 ^ cause < 2 ^ 64 := Nat.pow_lt_pow_right (by decide) (by omega)
    exact (Blk.rd_wr_same (s := { discardVolatile s with held := true, resetAt := some s.now }) hregs .svc 0x44 _).trans
      (Nat.mod_eq_of_lt hsmall)
  case kept =>
    have hmem : o ∈ keptSvcRegs := by rcases ho with rfl | rfl | rfl <;> decide
    rw [hother .svc o (by omega), rd_discardVolatile_kept s hmem]
  case session =>
    rw [session, hother .sec 0x40 (by decide)]
    exact session_discardVolatile s

end Sys2Proof.Machine

/-! ### Causes of reset, the limits of boot steps, and RECOVERY (R326–R329, R372–R377) -/

namespace Sys2Proof.Machine

section
variable {s : State}

theorem exec_thermtrip_trips (h : thermLimit s = true) : exec .thermtrip s = .next { deviceReset s 3 with thermHeld := true } :=
  congrArg _ (if_pos h)

/-! The watchdog, whose second expiry within 24 h condemns a core (Table 16.1). -/

theorem watchdogVerdict_first (h : s.wdogAt = none) : watchdogVerdict s = s := by
  simp only [watchdogVerdict, h, Bool.false_and, Bool.false_eq_true, if_false]

/-- The working cores that serve (log entry 260). -/
def servingCores (s : State) : List Nat := (List.range 4).filter (fun n => bit (Blk.svc.rd s 0xAC) n && unitState s 5 n ≠ 1)

theorem watchdogVerdict_again {t : Nat} (h : s.wdogAt = some t) (hsoon : s.now < t + 86400000000) (hcores : servingCores s ≠ []) :
    watchdogVerdict s = condemn { s with freeCtr := s.freeCtr + 1 } 5
      ((servingCores s).getD (Config.freeValue s.freeCtr % (servingCores s).length) 0) 0 [] := by
  have hverdict : (decide (s.now < t + 86400000000) && !(servingCores s).isEmpty) = true := by simp [hsoon, hcores]
  unfold servingCores at *
  simp only [watchdogVerdict, h, show svc = Blk.svc from rfl, hverdict, if_true, fresh]

section
variable (hperiod : Blk.svc.rd s 0xB0 ≠ 0)
include hperiod

theorem exec_watchdogExpire_held (hheld : s.held = true) : exec .watchdogExpire s = .next (deviceReset s 4) :=
  congrArg _ ((if_neg hperiod).trans (if_pos hheld))

theorem exec_watchdogExpire_running (hheld : s.held = false) :
    exec .watchdogExpire s = .next (deviceReset { watchdogVerdict s with wdogAt := some s.now } 4) :=
  congrArg _ ((if_neg hperiod).trans (if_neg (by rw [hheld]; exact Bool.false_ne_true)))
end

theorem exec_resetNRelease_boots (env : BootEnv) (hheld : s.held = true) (hcool : s.thermHeld = false) :
    exec (.resetNRelease env) s = .next (bootSteps env 8 1 (sampleStraps env { s with
      held := false, resetLow := false, pwrgd := true, stepFrom := s.now,
      commonClock := env.hostMode && decide (env.boardPos = 0) && env.pcieClock })) :=
  congrArg _ (if_neg (by simp [hheld, hcool]))

/-! A step past its limit (Table 15.2). -/

section
variable {n : Nat} (hheld : s.held = false) (hstep : n = bits (Blk.svc.rd s 0x40) 0 4)
include hheld hstep

/-- What the limit of step 1 to 8 does to the state without the boot's carried events. -/
theorem exec_bootStepTimeout_eq (hlow : n ≠ 0) (hhigh : n ≤ 8) :
    exec .bootStepTimeout s = .next (
      if n = 3 then imageTimeout (s.bootEnv.getD {}) { s with bootEnv := none }
      else if n = 8 then bootSteps (s.bootEnv.getD {}) 0 9 (stepTime { s with bootEnv := none } 8 (stepLimit 8))
      else stepOverrun (stepTime { s with bootEnv := none } n (stepLimit n)) n) := by
  have hruns : ¬(s.held = true ∨ n = 0 ∨ 8 < n) := by simp [hheld]; omega
  subst hstep
  exact congrArg _ (if_neg hruns)

/-- A step whose limit ends the boot fails with the step's code. -/
theorem exec_bootStepTimeout_fails {t : State} (hn : n = 1 ∨ n = 2 ∨ n = 4 ∨ n = 5 ∨ n = 6 ∨ n = 7)
    (ht : t = stepTime { s with bootEnv := none } n (stepLimit n)) :
    exec .bootStepTimeout s = .next (bootFail (timeoutCode t n).2 n (timeoutCode t n).1) := by
  subst ht
  rw [exec_bootStepTimeout_eq hheld hstep (by omega) (by omega), if_neg (by omega), if_neg (by omega)]
  exact congrArg _ (if_neg (by omega))
end

section
variable (env : BootEnv) {t : State} (ht : t = stepTime s 3 (200000 + min (env.times.getD 2 0) 200000))
include ht

/-- The other slot has its own 200 ms too, and its image may be bad: then RECOVERY (R327, R333). -/
theorem imageTimeout_recovers (h : 200000 < env.times.getD 2 0 ∨ slotGood t (1 - bits (Blk.svc.rd t 0x90) 0 1) = false) :
    imageTimeout env s = enterRecovery t := by
  subst ht
  unfold imageTimeout
  dsimp only
  split
  · rfl
  · have hbad := h.resolve_left ‹_›
    simp only [otherImage, show svc = Blk.svc from rfl, hbad, Bool.false_eq_true, if_false]

theorem imageTimeout_runsOther (hintime : env.times.getD 2 0 ≤ 200000)
    (hgood : slotGood t (1 - bits (Blk.svc.rd t 0x90) 0 1) = true) :
    imageTimeout env s = bootSteps env 5 4 (runImage t (1 - bits (Blk.svc.rd t 0x90) 0 1) true) := by
  subst ht
  unfold imageTimeout
  simp only [if_neg (Nat.not_lt.mpr hintime), otherImage, show svc = Blk.svc from rfl, hgood, if_true]
end

/-! RECOVERY over the management bus (R329, R374). -/

/-- Bytes below the header's end are written in order and no more (R329). -/
theorem recoveryBytes_appends {data : List Byte} (hheld : s.held = false) (hstate : bits (Blk.svc.rd s 0x40) 0 4 = 13)
    (hsome : data ≠ []) (hfits : data.length ≤ 256) (hheader : (s.recov ++ data).length < 0x2000) :
    recoveryBytes data s = { writeFlash s (imageBase 0 + s.recov.length) data with
      recov := s.recov ++ data, answer := { status := 0 } } := by
  have htakes : ¬(bits (Blk.svc.rd s 0x40) 0 4 ≠ 13 ∨ s.held = true ∨ data = [] ∨ 256 < data.length) := by
    simp [hheld, hstate, hsome]; omega
  have hwhole : data.take (0x2000000 - s.recov.length) = data := List.take_of_length_le (by rw [List.length_append] at hheader; omega)
  unfold recoveryBytes
  simp only [show svc = Blk.svc from rfl, if_neg htakes, hwhole, hheader, true_or, if_true]

theorem exec_i3cRecovery_image {x : I3cTransfer} (hown : i3cAnswers s x.addr = true) (hcmd : x.cmd = 0x10) :
    exec (.i3cRecovery x) s = .next (recoveryBytes x.data (i3cMode s x.addr)) := by
  have hmine : ¬((!i3cAnswers s x.addr) = true ∨ x.cmd = 0x01 ∨ x.cmd = 0x02) := by simp [hown, hcmd]
  exact congrArg _ ((if_neg hmine).trans (if_pos hcmd))

theorem exec_i3cRecovery_unknown {x : I3cTransfer} (hown : i3cAnswers s x.addr = true) (hread : x.cmd ≠ 0x01) (hwrite : x.cmd ≠ 0x02)
    (himage : x.cmd ≠ 0x10) : exec (.i3cRecovery x) s = .next { i3cMode s x.addr with answer := { status := 3 } } := by
  have hmine : ¬((!i3cAnswers s x.addr) = true ∨ x.cmd = 0x01 ∨ x.cmd = 0x02) := by simp [hown, hread, hwrite]
  exact congrArg _ ((if_neg hmine).trans (if_neg himage))
end

/-- Settles O57: each clause is one cause of reset, one limit, or one transfer in RECOVERY. -/
theorem resetCommands : Obligations.ResetCommands := by
  intro s
  refine ⟨rfl, rfl, exec_thermtrip_trips, rfl, fun hperiod => ⟨exec_watchdogExpire_held hperiod, fun hheld hfirst => ?first,
    fun t u core hheld hlast hsoon hu hcore => ?again⟩, rfl, fun env => exec_resetNRelease_boots env,
    fun env u n hheld henv hu hstep => ⟨fun hn => ?one, fun hn => ?two, fun hn => ?four, fun t f hn ht hf => ?fresh,
      fun t hn ht => ?image, fun hn => ?links⟩,
    fun x u hown hu => ⟨fun hcmd hheld hstate hsome hfits hheader => ?bytes, fun hread hwrite himage => ?unknown⟩⟩
  case first =>
    rw [exec_watchdogExpire_running hperiod hheld, watchdogVerdict_first hfirst]
  case again =>
    obtain ⟨hcores, rfl⟩ := hcore (servingCores s) rfl
    rw [exec_watchdogExpire_running hperiod hheld, watchdogVerdict_again hlast hsoon hcores, hu]
  case one => subst hn hu; exact exec_bootStepTimeout_fails hheld hstep (by decide) rfl
  case two => subst hn hu; exact exec_bootStepTimeout_fails hheld hstep (by decide) rfl
  case four => subst hn hu; exact exec_bootStepTimeout_fails hheld hstep (by decide) rfl
  case fresh =>
    subst hf hu
    have hcode : timeoutCode t n = Machine.fresh t := by rcases hn with rfl | rfl | rfl <;> rfl
    rw [exec_bootStepTimeout_fails hheld hstep (by omega) ht, hcode]
  case image =>
    subst henv hu hn
    have heq := exec_bootStepTimeout_eq hheld hstep (by decide) (by decide)
    rw [if_pos rfl] at heq
    exact ⟨fun h => heq.trans (congrArg _ (imageTimeout_recovers _ ht h)),
      fun hintime hgood => heq.trans (congrArg _ (imageTimeout_runsOther _ ht hintime hgood))⟩
  case links =>
    subst hu hn
    rw [exec_bootStepTimeout_eq hheld hstep (by decide) (by decide)]
    rfl
  case bytes =>
    subst hu
    rw [exec_i3cRecovery_image (i3cAnswers_of_own hown) hcmd]
    exact congrArg _ (recoveryBytes_appends hheld hstate hsome hfits hheader)
  case unknown =>
    subst hu
    exact exec_i3cRecovery_unknown (i3cAnswers_of_own hown) hread hwrite himage

end Sys2Proof.Machine

/-! ### Sessions, commands in progress, quotes and staged images (R334–R339) -/

namespace Sys2Proof.Machine

section
variable {s : State}

theorem exec_sessionTimeout_closes (hopen : session s ≠ 0) (hover : s.sessionEnd ≤ s.now) :
    exec .sessionTimeout s = .next (Blk.sec.event (Blk.sec.wr s 0x40 0) 19) :=
  congrArg _ ((if_pos ⟨hopen, hover⟩).trans (closeSession_of_session hopen))

theorem exec_cmdDone_opens {signer us : Nat} {pk : List Byte} {back : ReadBack} (h : s.secCmd = some (1, signer, pk)) :
    exec (.cmdDone us back) s = .next (Blk.sec.event (Blk.sec.wr { s with secCmd := none } 0x5C 2) 16) := by
  show execCmdDone us back s = _
  simp only [execCmdDone, h, if_true, show sec = Blk.sec from rfl]

/-- How a command that changed a key ends, once its ownership record is appended in `u`: the state block in force loses its flags, and
the command is done, or rejected where it failed or the flash did. -/
def endCmd (u : State) (c : Option (Nat × StateBlk)) (failed : Bool) : State :=
  c.elim (rejectCmd u 0x0108) fun c =>
    if (writeState u { c.2 with flags := c.2.flags % 4 }).1 then
      if failed then rejectCmd (writeState u { c.2 with flags := c.2.flags % 4 }).2 0x0105
      else Blk.sec.event (Blk.sec.wr (writeState u { c.2 with flags := c.2.flags % 4 }).2 0x5C 2) 16
    else rejectCmd u 0x0108

section
variable {op signer us : Nat} {pk : List Byte} {back : ReadBack} (hcmd : s.secCmd = some (op, signer, pk))
include hcmd

/-- A command that changes a key and does not scrub. -/
theorem exec_cmdDone_keys {u : State} (hop : op ≠ 1) (hscrubs : scrubs op = false)
    (hu : u = ownershipRecord { s with secCmd := none } op signer (Blk.sec.rd s 0x60) pk false 0) :
    exec (.cmdDone us back) s = .next (endCmd u (selectedState u) false) := by
  have hrecord : ownershipRecord { s with secCmd := none } op signer (sec.rd { s with secCmd := none } 0x60) pk false 0 = u := hu.symm
  show execCmdDone us back s = _
  simp only [execCmdDone, hcmd, if_neg hop, hscrubs, Bool.false_eq_true, false_and, if_false, decide_false, hrecord]
  cases selectedState u with
  | none => rfl
  | some c =>
    simp only [endCmd, Option.elim_some, Bool.not_eq_true', Bool.false_eq_true, if_false]
    cases (writeState u { c.2 with flags := c.2.flags % 4 }).1 <;> rfl

/-- A command that scrubs, whose read-back needed no repair: it fails when a burst still does not read zero (R338). -/
theorem exec_cmdDone_scrubs {u v : State} (hscrubs : scrubs op = true) (hbad : back.bad = [])
    (hv : v = Blk.sec.wr (sweepEnergy { s with secCmd := none }) 0x78 (min us 0xFFFFFFFF))
    (hu : u = ownershipRecord { v with scrubFailed := !back.still.isEmpty } op signer (Blk.sec.rd v 0x60) pk (!back.still.isEmpty) us) :
    exec (.cmdDone us back) s = .next (endCmd u (selectedState u) (!back.still.isEmpty)) := by
  have hop : op ≠ 1 := by rintro rfl; simp [scrubs] at hscrubs
  have hfails : (back.still ≠ []) = ((!back.still.isEmpty) = true) := by simp
  have hshown : sec.wr (sweepEnergy { s with secCmd := none }) 0x78 (min us 0xFFFFFFFF) = v := hv.symm
  have hrecord : ownershipRecord { v with scrubFailed := !back.still.isEmpty } op signer
      (sec.rd { v with scrubFailed := !back.still.isEmpty } 0x60) pk (!back.still.isEmpty) us = u := hu.symm
  show execCmdDone us back s = _
  simp only [execCmdDone, hcmd, if_neg hop, hscrubs, hbad, List.foldl_nil, if_true, true_and, Bool.false_eq_true, false_or, hshown,
    hfails, Bool.decide_eq_true, hrecord]
  cases selectedState u with
  | none => rfl
  | some c =>
    simp only [endCmd, Option.elim_some, Bool.not_eq_true']
    cases (writeState u { c.2 with flags := c.2.flags % 4 }).1 <;> rfl
end

/-- A formed quote goes where QUOTE_ADDR says, when the management partition may write there (R339). -/
theorem exec_quoteDone_writes {q : List Byte} (hquote : s.quote = some q)
    (hspan : spanStatus s (Blk.sec.rd s 0x180) q.length 0 true = stOk) :
    exec .quoteDone s = .next (Blk.sec.event (Blk.sec.wr
      (writeLocal { s with quote := none } 0 (Blk.sec.rd s 0x180) q true).2 0x18C 2) 20) := by
  have hgranted : mgmtSpan { s with quote := none } (Blk.sec.rd s 0x180) q.length true = (true, { s with quote := none }) := if_pos hspan
  show execQuoteDone s = _
  simp only [execQuoteDone, hquote, show sec = Blk.sec from rfl, hgranted, if_true]

/-- Bytes of management HBM that the partition may read. -/
theorem readMgmtHbm_of_granted {o n g : Nat} (hsome : n ≠ 0) (hspan : spanStatus s o n 0 false = stOk) (hplace : placeOf o = .hbm g) :
    readMgmtHbm s o n = readLocal s 0 o n true := by
  have hgranted : mgmtSpan s o (max n 1) false = (true, s) := by
    rw [Nat.max_eq_left (by omega)]; exact if_pos hspan
  simp only [readMgmtHbm, hgranted, hplace, if_true]

/-- A staged image that HBM holds is written to the slot that is not running, if it verifies (R334). -/
theorem exec_stageDone_reads {img : List Byte} {s1 : State} (hbusy : bits (Blk.svc.rd s 0xA8) 0 2 = 1)
    (hlow : Blk.svc.rd s 0xA0 ≠ 0) (hhigh : Blk.svc.rd s 0xA0 ≤ 0x2000000)
    (hspan : spanStatus s (Blk.svc.rd s 0x98) (Blk.svc.rd s 0xA0) 0 false = stOk) (hplace : ∃ g, placeOf (Blk.svc.rd s 0x98) = .hbm g)
    (hread : readLocal s 0 (Blk.svc.rd s 0x98) (Blk.svc.rd s 0xA0) true = (some img, s1)) {other : Nat}
    (hother : other = 1 - bits (Blk.svc.rd s 0x80) 0 1) :
    exec (.stageDone true) s = .next (
      if 0x2000 + leNat ((img.drop 12).take 4) ≤ img.length ∧
          imageOk (img.take 0x2000) ((img.drop 0x2000).take (leNat ((img.drop 12).take 4))) (Blk.svc.rd s1 0x8C) = true then
        Blk.svc.event (Blk.svc.wr
          (writeFlash (eraseFlash s1 (imageBase other) (imageBase other + 0x2000000)) (imageBase other) img) 0xA8 2) 18
      else Blk.svc.raise (Blk.svc.event (Blk.svc.wr s1 0xA8 (3 + 2 ^ 16 * 0x0102)) 18) 0x0102 0 (Blk.svc.rd s 0x98)) := by
  subst hother
  obtain ⟨g, hplace⟩ := hplace
  have himage : readMgmtHbm s (Blk.svc.rd s 0x98) (Blk.svc.rd s 0xA0) = (some img, s1) :=
    (readMgmtHbm_of_granted hlow hspan hplace).trans hread
  show execStageDone true s = _
  simp only [execStageDone, show svc = Blk.svc from rfl, hbusy, ne_eq, not_true_eq_false, if_false, Nat.min_eq_left hhigh, himage,
    true_and]
end

/-- Settles O58: each clause is one event of the security processor. -/
theorem securityEvents : Obligations.SecurityEvents := by
  intro s
  refine ⟨exec_sessionTimeout_closes, fun _ _ _ _ => exec_cmdDone_opens, fun op signer pk us back u hcmd hop hscrubs hu => ?keys,
    fun op signer pk us back v u hcmd hscrubs hbad hv hu => ?scrub, fun _ => exec_quoteDone_writes,
    fun _ _ hbusy hlow hhigh hspan hplace hread _ hother => exec_stageDone_reads hbusy hlow hhigh hspan hplace hread hother⟩
  case keys =>
    rw [exec_cmdDone_keys hcmd hop hscrubs hu]
    cases selectedState u with
    | none => rfl
    | some c =>
      simp only [endCmd, Option.elim_some, Bool.false_eq_true, if_false]
      rcases writeState u { c.2 with flags := c.2.flags % 4 } with ⟨_ | _, t⟩ <;> rfl
  case scrub =>
    rw [exec_cmdDone_scrubs hcmd hscrubs hbad hv hu]
    cases selectedState u with
    | none => rfl
    | some c =>
      simp only [endCmd, Option.elim_some]
      rcases writeState u { c.2 with flags := c.2.flags % 4 } with ⟨_ | _, t⟩
      · rfl
      · by_cases hstill : back.still = []
        · simp only [hstill, List.isEmpty_nil, Bool.not_true, Bool.false_eq_true, if_true, if_false]
        · simp only [hstill, List.isEmpty_eq_false_iff.mpr hstill, Bool.not_false, if_true, if_false]

end Sys2Proof.Machine

/-! ### Wear, bringing in, failures, the status record and republishing (R38, R342–R354) -/

namespace Sys2Proof.Machine

section
variable {s : State}

/-- TRIM_LIMIT condemns a tile, whatever its wear. -/
theorem exec_wearCondemn_trimmed {u : Nat} (slackSeen : Nat) (ends parts : List Nat) (hu : u < 160) :
    exec (.wearCondemn 0 u slackSeen true ends parts) s = .next (condemn (reportSlack s u slackSeen) 0 u 0 ends) :=
  congrArg _ ((if_pos rfl).trans ((if_neg (Nat.not_le.mpr hu)).trans (if_pos (.inr (.inr rfl)))))

/-! A unit that fails, by its class and state (R345, R347, Table 16.3). -/

/-- A failure of a unit that exists and is ACTIVE or SPARE is no repetition; rows and pins of HBM fail otherwise. -/
theorem unitFail_counts {cls u st : Nat} (hexists : unitExists cls u = true) (hcls : cls ≠ 6) (hst : st < 3) :
    ¬((!unitExists cls u) = true ∨ st = 3 ∨ st = 4 ∨ cls = 6) := by
  simp only [hexists, Bool.not_true, Bool.false_eq_true, false_or]
  omega

theorem exec_unitFail_bank {u : Nat} {ends : List Nat} (hexists : unitExists 7 u = true) (hactive : unitState s 7 u = 0) :
    exec (.unitFail 7 { unit := u, ends := ends }) s = .next (loseBank (reportFailed (Blk.spr.countErr s) 7 u 0) u 1) := by
  have hcounts := unitFail_counts (st := 0) hexists (by decide) (by decide)
  show execUnitFail _ { unit := u, ends := ends } s = _
  simp only [execUnitFail, hactive, if_neg hcounts, Nat.zero_ne_one, if_false, show spr = Blk.spr from rfl]

theorem exec_unitFail_lane {u : Nat} {ends : List Nat} (hexists : unitExists 3 u = true) (hactive : unitState s 3 u = 0) :
    exec (.unitFail 3 { unit := u, ends := ends }) s = .next (condemn (Blk.spr.countErr s) 3 u 1 ends) := by
  have hcounts := unitFail_counts (st := 0) hexists (by decide) (by decide)
  show execUnitFail _ { unit := u, ends := ends } s = _
  simp only [execUnitFail, hactive, if_neg hcounts, Nat.zero_ne_one, if_false, show spr = Blk.spr from rfl]

section
variable {u : Nat} {ends : List Nat} (hu : u < 160)
include hu

theorem exec_unitFail_spareTile (hspare : unitState s 0 u = 1) :
    exec (.unitFail 0 { unit := u, ends := ends }) s = .next (settleTiles (poolFail s 0 u)) := by
  have hcounts := unitFail_counts (cls := 0) (st := 1) (decide_eq_true hu) (by decide) (by decide)
  show execUnitFail 0 { unit := u, ends := ends } s = _
  simp only [execUnitFail, hspare, if_neg hcounts, if_true]

/-- A tile in use is disabled, recorded and reported, and waits for its spare as a failed one (log entries 204, 257). -/
theorem exec_unitFail_tile {t v : State} (hactive : unitState s 0 u = 0) (ht : t = failTile (setUnit (Blk.spr.countErr s) 0 u 4) u)
    (hv : v = reportUnit (spareRecord t 0 1 u none (classFree t 0)) 0 u u) :
    exec (.unitFail 0 { unit := u, ends := ends }) s = .next
      (settleTiles (addWaiting { v with waiting := v.waiting.filter (fun w => !(w.1 = 0 && w.2.1 = u)) } 0 u 1)) := by
  have hcounts := unitFail_counts (cls := 0) (st := 0) (decide_eq_true hu) (by decide) (by decide)
  show execUnitFail 0 { unit := u, ends := ends } s = _
  simp only [execUnitFail, hactive, if_neg hcounts, Nat.zero_ne_one, if_false, show spr = Blk.spr from rfl, ← ht, ← hv]
end

theorem exec_statusRecord_waits (h : statusDue s = false) : exec .statusRecord s = .next s :=
  congrArg _ (if_pos (by rw [h]; rfl))

theorem exec_statusRecord_appends (h : statusDue s = true) :
    exec .statusRecord s = .next (appendRecord s 0x0007 (leBytes 8 (energyJ s) ++
      (List.range 20).flatMap (fun n => leBytes 4 (weightedHours s n)) ++
      (List.range 8).flatMap (fun k => leBytes 4 (SMap.get d0 s.wear (1024 + k) / 60)))) :=
  congrArg _ (if_neg (by rw [h]; exact Bool.false_ne_true))

theorem exec_republish_drained (hheld : s.held = false) (hpublished : Blk.svc.rd s 0x1040 ≠ 0) (hdrained : allDrained s = true) :
    exec .republish s = .next (republish s) :=
  congrArg _ (if_pos (by rw [hheld, hdrained, show svc = Blk.svc from rfl, decide_eq_true hpublished]; rfl))
end

/-- Settles O59: each clause is one event of the spare unit. -/
theorem spareEvents : Obligations.SpareEvents := fun _ =>
  ⟨fun _ slackSeen ends parts => exec_wearCondemn_trimmed slackSeen ends parts, fun _ _ _ => rfl, fun _ _ => exec_unitFail_bank,
    fun _ _ _ _ hu => exec_unitFail_tile hu,
    fun _ _ => exec_unitFail_spareTile, fun _ _ => exec_unitFail_lane, fun _ => rfl,
    exec_statusRecord_waits, exec_statusRecord_appends, exec_republish_drained⟩

end Sys2Proof.Machine

/-! ### What the 1 µs tick leaves alone: time but for its own step, memory and the queue (R308) -/

namespace Sys2Proof.Machine

/-- Time, memory, the open bin and the waiting commands of `t` are those of `s`. -/
structure Steady (s t : State) : Prop where
  now : t.now = s.now
  mem : t.mem = s.mem
  binE : t.binE = s.binE
  pending : t.pending = s.pending

namespace Steady

theorem refl (s : State) : Steady s s := ⟨rfl, rfl, rfl, rfl⟩

section
variable {s t : State}

theorem ite {c : Prop} [Decidable c] {u v : State} (hu : Steady s u) (hv : Steady s v) : Steady s (if c then u else v) := by
  split <;> assumption

theorem forEach {α : Type} {l : List α} {f : State → α → State} (hf : ∀ t a, Steady s t → Steady s (f t a)) (h : Steady s t) :
    Steady s (forEach l t f) := by
  induction l generalizing t with
  | nil => exact h
  | cons a l ih => exact ih (hf t a h)

/-! Registers, events and errors. -/

section
variable (h : Steady s t)
include h

theorem wr {o v : Nat} : Steady s (Machine.wr t o v) := ⟨h.now, h.mem, h.binE, h.pending⟩
theorem blkWr {b : Blk} {o v : Nat} : Steady s (b.wr t o v) := h.wr
theorem sat {b : Blk} {o k : Nat} : Steady s (b.sat t o k) := h.wr
theorem add {b : Blk} {o k : Nat} : Steady s (b.add t o k) := h.wr
theorem put {b : Blk} {o lo len x : Nat} : Steady s (b.put t o lo len x) := h.wr
theorem event {b : Blk} {i : Nat} : Steady s (b.event t i) := ite h h.wr
theorem countErr {b : Blk} : Steady s (b.countErr t) := ite h.blkWr.event h.blkWr
theorem raise {b : Blk} {code part info : Nat} : Steady s (b.raise t code part info) :=
  countErr (ite h h.blkWr.blkWr.event)
theorem alert {i : Nat} : Steady s (alert t i) := ite h (ite ⟨h.now, h.mem, h.binE, h.pending⟩ h.wr)

theorem fresh : Steady s (fresh t).2 := ⟨h.now, h.mem, h.binE, h.pending⟩
omit h in
theorem freeBytes (n : Nat) {t : State} (h : Steady s t) : Steady s (freeBytes t n).2 := by
  induction n generalizing t with
  | zero => exact h
  | succ n ih => exact ih h.fresh

/-! The Roast Log (R345, R355). -/

theorem writeFlash {o : Nat} {bs : List Byte} : Steady s (writeFlash t o bs) := ⟨h.now, h.mem, h.binE, h.pending⟩
theorem setLogNext {n : Nat} : Steady s { t with logNext := n } := ⟨h.now, h.mem, h.binE, h.pending⟩
theorem setRegBytes8 {b : Blk} {o n : Nat} {bs : List Byte} : Steady s (setRegBytes8 t b o n bs) := forEach (fun _ _ h => h.blkWr) h
theorem appendOne {type : Nat} {payload : List Byte} : Steady s (appendOne t type payload) :=
  (ite h h.sat.event.raise).writeFlash.setLogNext.add.blkWr.setRegBytes8.blkWr.blkWr.event
omit h in
theorem eraseOld {keep : Nat} (fuel : Nat) {t : State} (h : Steady s t) : Steady s (eraseOld t keep fuel) := by
  induction fuel generalizing t with
  | zero => exact h
  | succ fuel ih =>
    unfold Machine.eraseOld
    dsimp only
    split
    · exact h
    · split
      · exact h
      · exact ih ⟨h.now, h.mem, h.binE, h.pending⟩
theorem appendRecord {type : Nat} {payload : List Byte} : Steady s (appendRecord t type payload) :=
  ite h.appendOne (eraseOld 3056 (forEach (fun _ _ h => h.appendOne.event) h.appendOne)).blkWr.blkWr

/-! The pending grade and RETIRED (R350, R351). -/

theorem changePending {g : Nat} : Steady s (changePending t g) := h.appendRecord.blkWr.blkWr.event.event
theorem setPending {g : Nat} : Steady s (setPending t g) := ite h h.changePending.alert
theorem clearPending : Steady s (clearPending t) := ite h h.changePending
theorem reviewPending : Steady s (reviewPending t) := ite h (ite h.setPending (ite h.clearPending h.setPending))
theorem setRetired {b : Bool} : Steady s { t with retired := b } := ⟨h.now, h.mem, h.binE, h.pending⟩
theorem recordRetired {cause : Nat} : Steady s (recordRetired t cause) := ite h h.appendRecord.setRetired
theorem retireInService {cause : Nat} : Steady s (retireInService t cause) :=
  ite h (ite h.recordRetired h.recordRetired.setPending.put.event.alert)

/-! Units, spares and the waiting list (R346, R350, R352). -/

theorem setUnit {cls u st : Nat} : Steady s (setUnit t cls u st) := ⟨h.now, h.mem, h.binE, h.pending⟩
theorem setUnitSpare {cls u sp : Nat} : Steady s (setUnitSpare t cls u sp) := ⟨h.now, h.mem, h.binE, h.pending⟩
theorem takeFree {cls : Nat} : Steady s (takeFree t cls) := h.blkWr
theorem spareRecord {cls reason u : Nat} {sp : Option Nat} {free : Nat} : Steady s (spareRecord t cls reason u sp free) :=
  h.appendRecord
theorem setWaiting {l : List (Nat × Nat × Nat)} : Steady s { t with waiting := l } := ⟨h.now, h.mem, h.binE, h.pending⟩
theorem flagWaiting {cls u f : Nat} : Steady s (flagWaiting t cls u f) := h.setWaiting
theorem addWaiting {cls u reason : Nat} : Steady s (addWaiting t cls u reason) := ite h h.setWaiting.blkWr
theorem tileWithout {u : Nat} : Steady s (tileWithout t u) :=
  ite h.flagWaiting (ite h.event.flagWaiting.retireInService h.event.flagWaiting)
theorem settleTiles : Steady s (settleTiles t) := (forEach (fun _ _ h => h.tileWithout) h).reviewPending
theorem condemnTile {u reason : Nat} : Steady s (condemnTile t u reason) := ite h h.setUnit.addWaiting.event.settleTiles
theorem setNmErr {m : SMap Nat} : Steady s { t with nmErr := m } := ⟨h.now, h.mem, h.binE, h.pending⟩
theorem loseRow {u reason : Nat} : Steady s (loseRow t u reason) :=
  ite h.spareRecord.setNmErr.event.setUnitSpare.takeFree h.event.condemnTile

/-- A verdict on a Near Memory row (R125). -/
theorem condemnRow {u reason : Nat} {ends : List Nat} : Steady s (condemn t 1 u reason ends) := ite h h.loseRow

theorem replaceRows : Steady s (replaceRows t) := by
  refine forEach (fun t e ht => ?_) ⟨h.now, h.mem, h.binE, h.pending⟩
  have hrow := ite (c := e.2 = 1) (ht.setNmErr (m := SMap.set d0 t.nmErr e.1 3)) ht
  dsimp only
  split
  · exact hrow.condemnRow
  · exact hrow

/-! Link ports (R223, R228, R357). -/

theorem modPort {p : Nat} {f : Port → Port} : Steady s (modPort t p f) := ⟨h.now, h.mem, h.binE, h.pending⟩
theorem setPort {p : Nat} {x : Port} : Steady s (setPort t p x) := ⟨h.now, h.mem, h.binE, h.pending⟩
theorem enterStage {p : Fin 32} {st : Nat} : Steady s (enterStage t p st) := h.fresh.modPort.blkWr
theorem freeLane {p : Nat} : Steady s (freeLane t p) := ite h ⟨h.now, h.mem, h.binE, h.pending⟩
theorem setPortRec {m : SMap Nat} : Steady s { t with portRec := m } := ⟨h.now, h.mem, h.binE, h.pending⟩
theorem finishClear {p : Fin 32} : Steady s (finishClear t p) := by
  unfold Machine.finishClear
  dsimp only
  split
  · exact h
  · exact (ite h.appendRecord.setPortRec.freeLane h.appendRecord.setPortRec).modPort.blkWr.reviewPending
theorem portTick {p : Fin 32} : Steady s (portTick t p) := by
  have hsent : ∀ {n f x} {l : List Nat} {g : State → Nat → Nat}, Steady s (Machine.forEach l (Machine.setPort (Machine.freeBytes t n).2 f x)
      (fun s v => Blk.cntD.add s (g s v) 2000)) := forEach (fun _ _ h => h.add) (freeBytes _ h).setPort
  exact ite h (ite (ite hsent.finishClear hsent) (ite h.enterStage h))

/-! Wear (R344) and the bin's own counters (R308, R309, R321). -/

theorem wearMinute : Steady s (wearMinute t) :=
  forEach (fun _ _ h => ⟨h.now, h.mem, h.binE, h.pending⟩) (forEach (fun _ _ h => ⟨h.now, h.mem, h.binE, h.pending⟩) h)
theorem showDistrict {n mhz : Nat} : Steady s (showDistrict t n mhz) := h.blkWr.blkWr
theorem setHalfMv {m : SMap Nat} : Steady s { t with halfMv := m } := ⟨h.now, h.mem, h.binE, h.pending⟩
theorem moveRamps : Steady s (moveRamps t) := forEach (fun _ _ h => ite h h.setHalfMv.showDistrict) h
theorem markAdd {key v : Nat} : Steady s (markAdd t key v) := ⟨h.now, h.mem, h.binE, h.pending⟩
theorem holdTick {c : CreditReq} : Steady s (holdTick t c) := by
  have hmark : Steady s (match slotOfPart t c.part with | some k => Machine.markAdd t (96 + k) 1 | none => t) := by
    split
    · exact h.markAdd
    · exact h
  unfold Machine.holdTick
  dsimp only
  split
  · exact ite hmark.add hmark
  · exact hmark
end
end
end Steady
end Sys2Proof.Machine

/-! ### KETTLE_BIN (R308): what the tick is, over the closed bin -/

namespace Sys2Proof.Machine
namespace Steady
variable {s t : State}

section
variable (h : Steady s t)
include h

theorem setDistCycles {m : SMap Nat} : Steady s { t with distCycles := m } := ⟨h.now, h.mem, h.binE, h.pending⟩
theorem engineTick {e : Fin 2 × Fin 22} : Steady s (match (getSeq t (.die e.1 e.2)).phase with
    | .idle => t
    | .credit => t
    | _ => Blk.cntD.add t (0x200 + 8 * (22 * e.1.val + e.2.val)) 2000) := by
  split
  · exact h
  · exact h
  · exact h.add
theorem tickCounters : Steady s (tickCounters t) := by
  have hcycles : Steady s (Machine.forEach (List.range 20) t (fun s n =>
      { s with distCycles := SMap.set d0 s.distCycles n ((SMap.get d0 s.distCycles n + districtMhz s n) % 2 ^ 64) })) :=
    forEach (fun _ _ h => h.setDistCycles) h
  exact forEach (fun _ _ h => ite h.add h)
    (forEach (fun _ _ h => h.engineTick) (ite hcycles (forEach (fun _ _ h => h.holdTick) hcycles.add)))

theorem setLastLong {m : SMap Nat} : Steady s { t with lastLong := m } := ⟨h.now, h.mem, h.binE, h.pending⟩
theorem setCreditQ {l : List CreditReq} : Steady s { t with creditQ := l } := ⟨h.now, h.mem, h.binE, h.pending⟩
theorem noteLong : Steady s (noteLong t) := (forEach (fun _ _ h => h.setLastLong) h).setCreditQ

theorem setTotE {m : SMap Nat} : Steady s { t with totE := m } := ⟨h.now, h.mem, h.binE, h.pending⟩
theorem setAvg {m : SMap Nat} : Steady s { t with avg := m } := ⟨h.now, h.mem, h.binE, h.pending⟩
theorem closeScope {k : Nat} : Steady s (closeScope t k) :=
  forEach (fun _ _ h => ite h.setAvg.event.raise h.setAvg) h.setTotE
theorem showAverages : Steady s (showAverages t) :=
  forEach (fun _ _ h => h.blkWr) (forEach (fun _ _ h => h.blkWr) h.blkWr.blkWr.blkWr.blkWr)
end

end Steady

/-- The state whose averages are shown when a bin closes. -/
def shownBin (s : State) : State := showAverages (forEach (List.range 37) (noteLong (moveRamps (tickCounters s))) closeScope)

/-- Once a bin is shown it is emptied, and time and FAB.SYSTIME advance by 1 µs (R373). -/
def nextBin (u : State) : State :=
  Blk.fab.wr { u with binE := [], now := u.now + 1 } 0x804C ((Blk.fab.rd { u with binE := [], now := u.now + 1 } 0x804C + 1) % 2 ^ 20)

theorem closeBin_eq (s : State) : closeBin s = nextBin (shownBin s) := rfl
theorem nextBin_now (u : State) : (nextBin u).now = u.now + 1 := rfl
theorem nextBin_mem (u : State) : (nextBin u).mem = u.mem := rfl
theorem nextBin_binE (u : State) : (nextBin u).binE = [] := rfl
theorem nextBin_pending (u : State) : (nextBin u).pending = u.pending := rfl

theorem Steady.shownBin (s : State) : Steady s (shownBin s) :=
  (forEach (fun _ _ h => h.closeScope) (refl s).tickCounters.moveRamps.noteLong).showAverages

theorem Steady.setSpent {s t : State} (h : Steady s t) {l : List Spent} : Steady s { t with spent := l } :=
  ⟨h.now, h.mem, h.binE, h.pending⟩

/-- After the bin has closed, KETTLE_BIN moves neither time nor memory, opens no energy and puts no command. -/
theorem exec_kettleBin (s : State) : ∃ t, exec .kettleBin s = .next t ∧ Steady (closeBin s) t := by
  have hports : Steady (closeBin s) (forEach (List.finRange 32) (closeBin s) portTick) :=
    Steady.forEach (fun _ _ h => h.portTick) (Steady.refl _)
  have hwear := Steady.ite (c := (forEach (List.finRange 32) (closeBin s) portTick).now % 60000000 = 0) hports.wearMinute hports
  exact ⟨_, rfl, (Steady.ite hwear hwear.replaceRows).setSpent⟩
end Sys2Proof.Machine

/-! ### Frequency changes, holds, throttles and trims (R312 to R317, R378): the Kettle's and calibration's events by case -/

namespace Sys2Proof.Machine

theorem dv_eq (v tgt : Nat) : (if v ≤ tgt then tgt - v else v - tgt) = max v tgt - min v tgt := by
  split <;> omega

/-- No grant in a district, as FREQ_CHANGE and VOLTAGE_RAMP_END test it. -/
theorem grantIn_eq_false {s : State} {n : Fin 20} (h : ∀ g ∈ s.grants, g.queue ≠ n.val) :
    s.grants.any (fun g => g.queue = n.val) = false := by
  simpa using h

theorem grantIn_eq_true {s : State} {n : Fin 20} (h : ∃ g ∈ s.grants, g.queue = n.val) :
    s.grants.any (fun g => g.queue = n.val) = true := by
  simpa using h

section
variable {s : State} {n : Fin 20}

/-! FREQ_CHANGE (R315): given up, at once, or by a ramp. -/

theorem freqChange_dropped (hf : SMap.get d0 s.freqPend n.val ≠ 0) (hg : ∀ g ∈ s.grants, g.queue ≠ n.val)
    (hup : districtMhz s n.val < SMap.get d0 s.freqPend n.val) (hot : districtHot s n.val = true) :
    exec (.freqChange n) s = .next (dropFreq s n.val) := by
  have hready : ¬(SMap.get d0 s.freqPend n.val = 0 ∨ s.grants.any (fun g => g.queue = n.val) = true) := by
    simp [hf, grantIn_eq_false hg]
  exact congrArg Host.Outcome.next ((if_neg hready).trans (if_pos ⟨hup, hot⟩))

theorem freqChange_switched (hf : SMap.get d0 s.freqPend n.val ≠ 0) (hg : ∀ g ∈ s.grants, g.queue ≠ n.val)
    (hok : SMap.get d0 s.freqPend n.val ≤ districtMhz s n.val ∨ districtHot s n.val = false) {dv : Nat}
    (hdv : dv = max (SMap.get d0 s.halfMv n.val) (2 * bootMv s n.val (SMap.get d0 s.freqPend n.val)) -
      min (SMap.get d0 s.halfMv n.val) (2 * bootMv s n.val (SMap.get d0 s.freqPend n.val))) :
    exec (.freqChange n) s = .next (Blk.ktl.event (showDistrict { s with
      freqPend := SMap.set d0 s.freqPend n.val 0,
      ramps := SMap.set (fun _ => (0, 0, 0)) s.ramps n.val (if dv = 0 then (0, 0, 0) else
        (SMap.get d0 s.freqPend n.val, 2 * bootMv s n.val (SMap.get d0 s.freqPend n.val), s.now + (dv + 19) / 20)) }
      n.val (if dv = 0 then SMap.get d0 s.freqPend n.val else min (districtMhz s n.val) (SMap.get d0 s.freqPend n.val))) 17) := by
  have hready : ¬(SMap.get d0 s.freqPend n.val = 0 ∨ s.grants.any (fun g => g.queue = n.val) = true) := by
    simp [hf, grantIn_eq_false hg]
  have hkept : ¬(districtMhz s n.val < SMap.get d0 s.freqPend n.val ∧ districtHot s n.val = true) := by
    rintro ⟨hlt, hot⟩
    rcases hok with h | h
    · omega
    · simp [h] at hot
  rw [hdv, ← dv_eq]
  exact congrArg Host.Outcome.next ((if_neg hready).trans (if_neg hkept))

/-! VOLTAGE_RAMP_END (R315). -/

section
variable {f v at_ : Nat} (hr : SMap.get (fun _ => (0, 0, 0)) s.ramps n.val = (f, v, at_)) (hf : f ≠ 0) (hat : at_ ≤ s.now)
  {s1 : State} (hs1 : s1 = { s with
    ramps := SMap.set (fun _ => (0, 0, 0)) s.ramps n.val (0, 0, 0), halfMv := SMap.set d0 s.halfMv n.val v })
include hr hf hat hs1

theorem exec_voltageRampEnd : exec (.voltageRampEnd n) s = .next
    (if s1.grants.any (fun g => g.queue = n.val) ∧ SMap.get d0 s1.freqPend n.val = 0 then
        markFreq (showDistrict s1 n.val (districtMhz s1 n.val)) n.val f
      else if s1.grants.any (fun g => g.queue = n.val) then showDistrict s1 n.val (districtMhz s1 n.val)
      else showDistrict s1 n.val f) := by
  have hended : ¬(f = 0 ∨ s.now < at_) := by omega
  rw [hs1]
  show execVoltageRampEnd n s = _
  unfold execVoltageRampEnd
  rw [hr]
  exact congrArg Host.Outcome.next (if_neg hended)

theorem voltageRampEnd_free (hg : ∀ g ∈ s.grants, g.queue ≠ n.val) :
    exec (.voltageRampEnd n) s = .next (showDistrict s1 n.val f) := by
  have hfree : s1.grants.any (fun g => g.queue = n.val) = false := by rw [hs1]; exact grantIn_eq_false hg
  rw [exec_voltageRampEnd hr hf hat hs1, hfree]
  simp

theorem voltageRampEnd_held (hg : ∃ g ∈ s.grants, g.queue = n.val) (hp : SMap.get d0 s.freqPend n.val = 0) :
    exec (.voltageRampEnd n) s = .next (markFreq (showDistrict s1 n.val (districtMhz s1 n.val)) n.val f) := by
  have hheld : s1.grants.any (fun g => g.queue = n.val) = true := by rw [hs1]; exact grantIn_eq_true hg
  have hnone : SMap.get d0 s1.freqPend n.val = 0 := by rw [hs1]; exact hp
  rw [exec_voltageRampEnd hr hf hat hs1, if_pos ⟨hheld, hnone⟩]

theorem voltageRampEnd_pending (hg : ∃ g ∈ s.grants, g.queue = n.val) (hp : SMap.get d0 s.freqPend n.val ≠ 0) :
    exec (.voltageRampEnd n) s = .next (showDistrict s1 n.val (districtMhz s1 n.val)) := by
  have hheld : s1.grants.any (fun g => g.queue = n.val) = true := by rw [hs1]; exact grantIn_eq_true hg
  have hsome : SMap.get d0 s1.freqPend n.val ≠ 0 := by rw [hs1]; exact hp
  rw [exec_voltageRampEnd hr hf hat hs1, if_neg (fun h => hsome h.2), if_pos hheld]
end

/-! HOLD_LIMIT_EXPIRE (R312, R314, R324). -/

section
variable {q : SeqId} {c : CreditReq} {bad : List Nat} {u : State}
  (hc : s.creditQ.find? (fun c => c.inst = q.inst) = some c) (hlong : max 1 (Blk.ktl.rd s 0x50) < s.now - c.since)
  (hbad : bad = (failing s (askNow s c)).filter (fun k => !c.raised.contains k)) (hne : bad ≠ [])
  (hu : u = Blk.ktl.event
    { s with creditQ := s.creditQ.map (fun d => if d.inst = q.inst then { d with raised := d.raised ++ bad } else d) } 16)
include hc hlong hbad hne hu

theorem exec_holdLimitExpire : exec (.holdLimitExpire q) s = .next
    (if c.queue < 20 then
      if bad.any (fun k => k ≤ 20) then lowerFreq { u with lastLong := SMap.set d0 u.lastLong c.queue u.now } c.queue
      else { u with lastLong := SMap.set d0 u.lastLong c.queue u.now }
    else u) := by
  have hpast : pastHold s c = true := decide_eq_true hlong
  have hreport : ¬((!pastHold s c) = true ∨ bad = []) := by simp [hpast, hne]
  rw [hu]
  show execHoldLimitExpire q s = _
  unfold execHoldLimitExpire
  rw [hc]
  dsimp only
  rw [← hbad]
  exact congrArg Host.Outcome.next (if_neg hreport)

theorem holdLimitExpire_reported (hq : 20 ≤ c.queue) : exec (.holdLimitExpire q) s = .next u := by
  rw [exec_holdLimitExpire hc hlong hbad hne hu, if_neg (by omega)]

theorem holdLimitExpire_lowered (hq : c.queue < 20) (hk : ∃ k ∈ bad, k ≤ 20) : exec (.holdLimitExpire q) s =
    .next (lowerFreq { u with lastLong := SMap.set d0 u.lastLong c.queue u.now } c.queue) := by
  have hany : bad.any (fun k => k ≤ 20) = true := by simpa using hk
  rw [exec_holdLimitExpire hc hlong hbad hne hu, if_pos hq, if_pos hany]
end

/-! RAISE_DELAY_EXPIRE and THERMAL_THROTTLE (R314, R378). -/

theorem raiseDelayExpire_raised {top : Nat}
    (htop : top = min (bits (Blk.ktl.rd s (0x180 + 4 * n.val)) 0 12) (bits (Blk.svc.rd s 0x1064) 0 12))
    (hquiet : ∀ c ∈ s.creditQ, c.queue = n.val → pastHold s c = false) (hown : SMap.get d0 s.temps (64 + n.val) = 0)
    (hjunction : SMap.get d0 s.temps 84 = 0) (hlow : districtMhz s n.val < top) (hruns : districtMhz s n.val ≠ 0)
    (hpend : SMap.get d0 s.freqPend n.val = 0) (hdelay : Blk.ktl.rd s 0x54 ≤ s.now - SMap.get d0 s.lastLong n.val) :
    exec (.raiseDelayExpire n) s = .next (markFreq { s with lastLong := SMap.set d0 s.lastLong n.val s.now } n.val
      (min top (districtMhz s n.val + 25))) := by
  have hlong : s.creditQ.any (fun c => c.queue = n.val && pastHold s c) = false := by simpa using hquiet
  have hcool : districtHot s n.val = false := by simp [districtHot, hown, hjunction]
  have hraise : ¬(s.creditQ.any (fun c => c.queue = n.val && pastHold s c) = true ∨ districtHot s n.val = true ∨
      top ≤ districtMhz s n.val ∨ districtMhz s n.val = 0 ∨ SMap.get d0 s.freqPend n.val ≠ 0 ∨
      s.now - SMap.get d0 s.lastLong n.val < Blk.ktl.rd s 0x54) := by
    simp only [hlong, hcool, Bool.false_eq_true, false_or]
    omega
  rw [htop] at hraise ⊢
  exact congrArg Host.Outcome.next (if_neg hraise)

theorem thermalThrottle_lowered (hhot : 100 ≤ SMap.get d0 s.temps n.val ∨ 100 ≤ SMap.get d0 s.temps 20)
    (hruns : districtMhz s n.val ≠ 0) {u : State} (hu : u = lowerFreq s n.val) : exec (.thermalThrottle n) s =
      .next (if districtMhz u n.val = 800 ∧ 105 ≤ SMap.get d0 u.temps n.val then alert u 1 else u) := by
  rw [hu]
  exact congrArg Host.Outcome.next (if_pos ⟨hhot, hruns⟩)
end

/-! VOLT_TRIM_DOWN and VOLT_TRIM_UP (R316, R319). -/

section
variable {s : State} {i : Fin 164} {x k : Nat} {u : State} (hu : u = reportSlack s i.val x) (hk : k = islandKey i.val)
include hu hk

theorem voltTrimDown_trims (hslack : guardSteps u + 2 < smallestSlack u k) (hlong : 100 ≤ u.now - SMap.get d0 u.slackLow k) :
    exec (.voltTrimDown i x) s = .next (showIsland { u with
      slackLow := SMap.set d0 u.slackLow k u.now, halfMv := SMap.set d0 u.halfMv k (SMap.get d0 u.halfMv k - 5) } i.val) := by
  have htrim : ¬(smallestSlack u k ≤ guardSteps u + 2 ∨ u.now - SMap.get d0 u.slackLow k < 100) := by omega
  show execVoltTrimDown i x s = _
  unfold execVoltTrimDown
  rw [← hu, ← hk]
  exact congrArg Host.Outcome.next (if_neg htrim)

theorem exec_voltTrimUp (hslack : x < guardSteps u) : exec (.voltTrimUp i x) s = .next
    (if 1700 ≤ SMap.get d0 u.halfMv k then
      Blk.cal.raise (Blk.cal.event (Blk.cal.sat (if i.val < 160 then lowerFreq u k else u) 0x50) 17) 0x0101 0 i.val
    else if i.val < 160 then driftCheck (showIsland { u with halfMv := SMap.set d0 u.halfMv k (SMap.get d0 u.halfMv k + 5) } i.val) k
    else showIsland { u with halfMv := SMap.set d0 u.halfMv k (SMap.get d0 u.halfMv k + 5) } i.val) := by
  show execVoltTrimUp i x s = _
  unfold execVoltTrimUp
  rw [← hu, ← hk]
  exact congrArg Host.Outcome.next (if_neg (by omega))

theorem voltTrimUp_raises (hslack : x < guardSteps u) (hv : SMap.get d0 u.halfMv k < 1700) {v : State}
    (h : v = showIsland { u with halfMv := SMap.set d0 u.halfMv k (SMap.get d0 u.halfMv k + 5) } i.val) :
    exec (.voltTrimUp i x) s = .next (if i.val < 160 then driftCheck v k else v) := by
  rw [exec_voltTrimUp hu hk hslack, if_neg (by omega), h]

theorem voltTrimUp_atLimit (hslack : x < guardSteps u) (hv : 1700 ≤ SMap.get d0 u.halfMv k) :
    exec (.voltTrimUp i x) s = .next (Blk.cal.raise (Blk.cal.event
      (Blk.cal.sat (if i.val < 160 then lowerFreq u k else u) 0x50) 17) 0x0101 0 i.val) := by
  rw [exec_voltTrimUp hu hk hslack, if_pos hv]
end

/-- Settles O55: each event by its own case lemma; the gains and floors are the model's own loop, and what the tick leaves alone
is `Steady` over the closed bin. -/
theorem kettleAndCalibration : Obligations.KettleAndCalibration := by
  refine fun s => ⟨fun n => ⟨?_, ?_, ?_, ?_, ?_, ?_⟩, ?_, fun _ => rfl, fun _ => rfl, ?_⟩
  · rintro f rfl hf hg hup hot
    exact freqChange_dropped hf hg hup hot
  · rintro f rfl hf hg hok v tgt dv rfl rfl hdv
    have hswitch := freqChange_switched hf hg hok hdv
    exact ⟨fun h => by rwa [if_neg h, if_neg h] at hswitch, fun h => by rwa [if_pos h, if_pos h] at hswitch⟩
  · intro f v at_ hr hf hat s1 hs1
    exact ⟨voltageRampEnd_free hr hf hat hs1, voltageRampEnd_held hr hf hat hs1, voltageRampEnd_pending hr hf hat hs1⟩
  · intro q c bad u hc hlong hbad hne hu
    exact ⟨holdLimitExpire_reported hc hlong hbad hne hu, holdLimitExpire_lowered hc hlong hbad hne hu⟩
  · intro top htop hquiet hown hjunction hlow hruns hpend hdelay
    exact raiseDelayExpire_raised htop hquiet hown hjunction hlow hruns hpend hdelay
  · intro hhot hruns u hu
    exact thermalThrottle_lowered hhot hruns hu
  · intro i x k u hu hk
    exact ⟨voltTrimDown_trims hu hk, fun hslack hv v => voltTrimUp_raises hu hk hslack hv, voltTrimUp_atLimit hu hk⟩
  · obtain ⟨t, ht, hnow, hmem, hbinE, hpending⟩ := exec_kettleBin s
    obtain ⟨hnow', hmem', hbinE', hpending'⟩ := Steady.shownBin s
    rw [closeBin_eq] at hnow hmem hbinE hpending
    exact ⟨t, ht, by rw [hnow, nextBin_now, hnow'], by rw [hmem, nextBin_mem, hmem'], by rw [hbinE, nextBin_binE],
      by rw [hpending, nextBin_pending, hpending']⟩
end Sys2Proof.Machine
